-- ==== Sys2Proof/Word.lean ====
section
/-! DEFINITION. The words of the module (00_scope R5: bit 0 is the least significant bit) and the plain data that
several files share: exact binary numbers, four-word writes, 256-bit records. -/

namespace Sys2Proof

/-- One byte (00_scope R3). -/
abbrev Byte := BitVec 8
/-- A 32-bit register or literal. -/
abbrev W32 := BitVec 32
/-- A 64-bit register, address or table word. -/
abbrev W64 := BitVec 64

/-- A number `±(mant · 2^exp)`, exact. -/
structure Dyad where
  neg : Bool
  mant : Nat
  exp : Int
  deriving DecidableEq, Repr, Inhabited

/-- The four 64-bit words of a 32-byte write to a port (14_partitions R387, 16_faults R420). -/
structure Words4 where
  w0 : W64
  w1 : W64
  w2 : W64
  w3 : W64
  deriving DecidableEq, Repr, Inhabited

end Sys2Proof
end

