-- ==== Sys2Proof/Syntax.lean ====
section
/-! DEFINITION. The syntax of Odlis instructions (02_writing R23 to R59, 03_opcode_map R60 to R76) and of the
machine's own steps: one constructor of `Instr` for each row of spec/opcode_table.json.

An instruction row carries the fields of Tables 2 and 3 of 02_writing (`Ops`) and its modifier layout (03 R66).
A row that is a step of the machine itself (a timeout, a reply, a home's service, a pin) carries the data that
names what happened.
What rests on the model rather than on the plain words of the manual: log 24 (DESIGN CHOICE), log 32 (PRESUMED). -/

namespace Sys2Proof

/-- Instruction length, bits 1:0 of the first word (02 R23). -/
inductive Len
  | w64
  | w96
  | w128
  deriving DecidableEq, Repr

/-- Source kinds (02 R34, Table 4). -/
inductive Kind
  | vec
  | scal
  | win
  | lit
  deriving DecidableEq, Repr

/-- One source field: kind, value, empty-mode (02 R26, R34, R42). -/
structure Src where
  kind : Kind
  val : BitVec 8
  trap : Bool
  deriving DecidableEq, Repr

/-- The source field whose bits are all zero. -/
def Src.zero : Src := ⟨.vec, 0, false⟩

/-- The fields of Tables 2 and 3 of 02_writing, the opcode and the modifier bits apart (R26 to R28).
A field that a shorter format does not have is zero. -/
structure Ops where
  len : Len
  gn : Bool
  gp : BitVec 3
  dst : BitVec 8
  a : Src
  b : Src
  c : Src
  lit : W32
  wsel : BitVec 2
  wwin : BitVec 4
  woff : BitVec 12
  deriving DecidableEq, Repr

/-- ITY (03 R67). -/
inductive IntTy
  | s32
  | n32
  | s16
  | n16
  | s8
  | n8
  | s64
  | n64
  deriving DecidableEq, Repr

/-- FTY (03 R67), its two reserved codes apart. -/
inductive FloatTy
  | f32
  | f16
  | b16
  | f64
  | e4m3
  | e5m2
  deriving DecidableEq, Repr

/-- RM (03 R67). -/
inductive Rm
  | rn
  | rz
  | rd
  | ru
  deriving DecidableEq, Repr

/-- AFMT and BFMT (03 R67). -/
inductive MatTy
  | f16
  | b16
  | e4m3
  | e5m2
  | s8
  | n8
  | q4
  | f32
  deriving DecidableEq, Repr

/-- SZ (03 R67), its reserved code apart. -/
inductive Sz
  | b32
  | n8
  | n16
  | b64
  | b128
  | s8
  | s16
  deriving DecidableEq, Repr

/-- SCOPE (03 R67), its reserved code apart; the order is that of 07 R182. -/
inductive Scope
  | thread
  | group
  | team
  | cluster
  | modul
  | domain
  | system
  deriving DecidableEq, Repr

/-- ORD (03 R67). -/
inductive MemOrd
  | rlx
  | acq
  | rel
  | ar
  deriving DecidableEq, Repr

/-- CC (03 R68), its two reserved codes apart. -/
inductive Cc
  | eq
  | ne
  | lt
  | le
  | gt
  | ge
  | num
  | nan
  | ult
  | ule
  | ugt
  | uge
  | ueq
  | one
  deriving DecidableEq, Repr

/-- Layout I (03 R66, 05 R107): OPF 18:4, SCL, SAT, ITY. -/
structure ModI where
  scl : Bool
  opf : BitVec 15
  sat : Bool
  ity : IntTy
  deriving DecidableEq, Repr

/-- Layout F: SCL, OPF 18:6, SAT, RM, FTY. -/
structure ModF where
  scl : Bool
  opf : BitVec 13
  sat : Bool
  rm : Rm
  fty : FloatTy
  deriving DecidableEq, Repr

/-- Layout C of the integer compares: SCL, OPF 18:7, CC, ITY. -/
structure ModCI where
  scl : Bool
  opf : BitVec 12
  cc : Cc
  ity : IntTy
  deriving DecidableEq, Repr

/-- Layout C of the float compares: SCL, OPF 18:7, CC, FTY. -/
structure ModCF where
  scl : Bool
  opf : BitVec 12
  cc : Cc
  fty : FloatTy
  deriving DecidableEq, Repr

/-- Layout V: SCL, OPF 18:9, SAT, RM, source type, destination type. The two type fields are read as ITY or FTY
codes as the opcode and its INT bit say (05 R127). -/
structure ModV where
  scl : Bool
  opf : BitVec 10
  sat : Bool
  rm : Rm
  src : BitVec 3
  dst : BitVec 3
  deriving DecidableEq, Repr

/-- Layout S: SCL, OPF 18:4, GRADE (true is FAST), FTY. -/
structure ModS where
  scl : Bool
  opf : BitVec 15
  fast : Bool
  fty : FloatTy
  deriving DecidableEq, Repr

/-- Layout M: OPF 19:8, ORD, SCOPE, SZ. -/
structure ModM where
  opf : BitVec 12
  ord : MemOrd
  scope : Scope
  sz : Sz
  deriving DecidableEq, Repr

/-- Layout X: OPF 19:7, ACC (true is S32), BFMT, AFMT. -/
structure ModX where
  opf : BitVec 13
  acc : Bool
  bfmt : MatTy
  afmt : MatTy
  deriving DecidableEq, Repr

/-! ### Data that the machine's own steps carry -/

/-- What an access needs of a translation (13 R339, R354 ACC). -/
inductive AccKind
  | read
  | write
  | fetch
  | both
  deriving DecidableEq, Repr

/-- A waiter of a translation miss (13 R353): lanes of a group, a furrow node, a launch queue. -/
inductive Waiter
  /-- threads of a group; `inh`: it was the group's handler that missed -/
  | group (g : Nat) (lanes : W32) (inh : Bool)
  | node (core slot ix : Nat)
  | queue (q : Nat)
  deriving DecidableEq, Repr

/-- A miss as a walk presents it (13 R353, R354). -/
structure MissArg where
  die : Nat
  ctx : Nat
  va : W64
  acc : AccKind
  epa : Nat
  level : Nat
  entry : W64
  /-- for a group, the lowest lane that misses -/
  lane : Nat
  waiter : Waiter
  deriving DecidableEq, Repr

/-- What a host asks of a line through CXL.mem (07 R178). -/
inductive HostKind
  | readShared
  | readOwned
  | writeBack
  | release
  deriving DecidableEq, Repr

/-- A host's request for the 64-byte line that holds `pa`, with the bytes of a write-back as (offset, byte). -/
structure HostReq where
  /-- the CXL port that it comes by -/
  port : Nat
  pa : Nat
  kind : HostKind
  data : List (Nat × Byte)
  deriving DecidableEq, Repr

/-- A 64 KiB page in flight (16 R416, R424): bytes that are not zero as (offset, byte), poisoned atoms, VERSION. -/
structure PageImage where
  version : Nat
  bytes : List (Nat × Byte)
  poison : List Nat
  deriving DecidableEq, Repr

/-- A firmware image as bring-up's step 3 sees it (19 R470): its number among images, the hash of the public key it is signed
under, its version, and its length in bytes. -/
structure Firmware where
  id : Nat
  keyHash : BitVec 256
  version : Nat
  length : Nat
  deriving DecidableEq, Repr

def Firmware.blank : Firmware := ⟨0, 0, 0, 0⟩

/-- A master as its announcements give it (16 R412): the port on which they come, and what the best master clock algorithm of
IEEE 1588 compares, in its order; `accuracy` is the upper end of the clockAccuracy range in ns. -/
structure PtpMaster where
  port : Nat
  priority1 : Nat
  clockClass : Nat
  accuracy : Nat
  variance : Nat
  priority2 : Nat
  identity : Nat
  steps : Nat
  deriving DecidableEq, Repr

/-- A sync message (16 R412): the port it comes by, its source and domain, and whether a Follow_Up has come where it is a two-step one;
`request` is the time of the delay request that a Delay_Resp has answered. -/
structure PtpSync where
  port : Nat
  source : Nat
  domain : Nat
  twoStep : Bool
  followUp : Bool
  request : Option Nat
  deriving DecidableEq, Repr

/-- How an I3C transfer begins (19 R473): the target address on the bus and the offset that it sets. -/
structure I3cHead where
  addr : Nat
  off : Nat
  deriving DecidableEq, Repr

/-- An error of protected storage, and what it strikes (17 R430, Table 1). -/
inductive StorageError
  /-- a corrected error of the structure in this row, counted from 0 -/
  | corrected (row : Nat)
  | atom (pa : Nat)
  /-- a 32-bit word of a team's local memory -/
  | localWord (team word : Nat)
  /-- a word of the register cache: a vector register of one lane, a scalar register (of both its words) -/
  | vectorWord (group reg lane : Nat)
  | scalarWord (group reg : Nat)
  /-- a word of a core's operand buffer, an accumulator cell, a word of a write that a node holds back -/
  | operandWord (core word : Nat)
  | accWord (core cell : Nat)
  | bufferWord (slot node chunk word : Nat)
  /-- the directory entry of a 128-byte line -/
  | dirEntry (line : Nat)
  | readerCount (line : Nat)
  | accessCounter (frame : Nat)
  | aliasBits (frame : Nat)
  /-- the n-th translation that is held, the n-th entry of the fault merge tables -/
  | tlbEntry (n : Nat)
  | faultEntry (n : Nat)
  deriving DecidableEq, Repr

/-- Registers that a steward or a host writes and that have no row of their own (00 R8, 14 R382, R394, 16 R413, R475,
17 R441, R446; 19 R470). -/
inductive RegTarget
  | gleanPart (p w : Nat)
  | shardMap (shard : Nat)
  | recovery (w : Nat)
  | scaleupMode (group : Nat)
  | vfEnable (vf port : Nat)
  | hdmDecoder (port n field : Nat)
  /-- the snoop timeout of a port in nanoseconds, set through its PF (14 R383) -/
  | snoopTimeout (port : Nat)
  /-- no register: a target of CXL memory returns poison for an atom, or does not answer in time (14 R384) -/
  | targetPoison (pa : Nat)
  | targetTimeout (pa : Nat)
  /-- no register: storage of the module has an error (17 R430) -/
  | storageError (e : StorageError)
  | command (op : BitVec 8) (opf : BitVec 20) (a b : W64)
  | idOwner (byte : Nat)
  /-- no register: an atomic that module `source` of the domain makes at a home here (17 R452) -/
  | remoteAtomic (source pa op : Nat) (sz : Sz) (b cmp : W64)
  /-- no registers: what is blown into the IOD fuses and written to its flash (19 R470; log 49): a key's hash into an empty
  slot, the revocation of a slot, steps of the anti-rollback counter, an image -/
  | keySlot (n : Nat) (hash : BitVec 256)
  | keyRevoke (n : Nat)
  | antiRollback
  | flashImage (x : Firmware)
  /-- no register: firmware that the stewards load for the Gleaner or the partition controller -/
  | loadFirmware (x : Firmware)
  /-- no register: a measurement is to be signed; the status is answered -/
  | attest (measurement : BitVec 256)
  /-- no register: the key that attests, as it is made -/
  | attestKey (hash : BitVec 256)
  /-- the domain number and the mask of Ultra Ethernet ports of the time unit, as software sets them (16 R412) -/
  | ptpDomain
  | ptpPorts
  /-- no register: a master announces itself on a port -/
  | ptpAnnounce (m : PtpMaster)
  deriving DecidableEq, Repr

/-- A peer Gleaner's request to a shard held here (16 R415): a read, or a compare-and-swap of the whole entry. -/
structure ShardReq where
  key : Nat
  source : Nat
  swap : Option (BitVec 512 × BitVec 512)
  deriving DecidableEq, Repr

/-- A mailbox and its byte-counting state (08 R237, 11 R310). -/
structure Mailbox where
  recs : List W64
  armed : Bool
  tgt : W32
  bcnt : W32
  deriving DecidableEq, Repr

def Mailbox.empty : Mailbox := ⟨[], false, 0, 0⟩

/-- A fill pool's atom (11 R313). -/
structure Atom where
  src : W64
  len : Nat
  noroom : Nat
  bufa : W64
  pins : Nat
  buf : Nat
  state : Nat
  /-- when it was last pinned, for the choice of a victim -/
  used : Nat
  deriving DecidableEq, Repr

def Atom.zero : Atom := ⟨0, 0, 0, 0, 0, 0, 0, 0⟩

/-- A spilled team that is handed over (17 R449): what of it lies neither in its grid nor in its save area. -/
structure HandTeam where
  teamix : Nat
  boxes : List (Nat × Mailbox)
  msgLost : Nat
  deriving DecidableEq, Repr

/-- A spilled cluster that is handed over. -/
structure HandCluster where
  ix : Nat
  teams : List HandTeam
  deriving DecidableEq, Repr

/-- A launch that is handed over: the bytes from which its queue built it, as they were captured (10 R266 to R273), its quota
words, and how far it has come. -/
structure HandGrid where
  queue : Nat
  packet : List Byte
  kernel : List Byte
  table : List Byte
  windows : List (Nat × Byte)
  lmem : List (Nat × Byte)
  quota0 : W64
  quota : List (Nat × W64)
  started : Nat
  finished : Nat
  clusters : List HandCluster
  deriving DecidableEq, Repr

/-- What a hand-over copies to its neighbour (17 R449): memory and its poisoned atoms, context descriptors, partition records,
the words of registrations and what the registered queues (QNOTIFY, RIDX), rings (TAIL, FREE, FILLS, DRAINS) and pools hold,
FRAME words, counted lines, and the launches with their spilled clusters. -/
structure HandImage where
  mem : List (Nat × Byte)
  poison : List Nat
  desc : List (Nat × W64)
  part : List (Nat × W64)
  queues : List (Nat × W64)
  queueAt : List (Nat × W64 × W64)
  rings : List (Nat × W64)
  ringAt : List (Nat × Nat × Nat × Nat × Nat)
  pools : List (Nat × W64)
  atoms : List (Nat × List Atom)
  buffers : List (Nat × Nat)
  frames : List (Nat × W64)
  counted : List (Nat × Nat)
  grids : List HandGrid
  deriving DecidableEq, Repr

/-- One constructor per row of spec/opcode_table.json, in the table's order. -/
inductive Instr
  /-- NOP (R46). Does nothing for any thread. -/
  | nop (o : Ops) (m : BitVec 20)
  /-- MOV (R117). Copies source A to the destination bit for bit. -/
  | mov (o : Ops) (m : ModI)
  /-- SEL (R117). Writes a or b per thread according to a select predicate. -/
  | sel (o : Ops) (m : ModI)
  /-- PLOP (R118). Computes a predicate from three predicates through an 8-bit lookup table. -/
  | plop (o : Ops) (m : BitVec 20)
  /-- PPACK (R118). Packs p7 to p0 into the low bits of a vector register. -/
  | ppack (o : Ops) (m : BitVec 20)
  /-- PUNPK (R118). Sets predicates p0 to p6 selected by a mask from bits of source A. -/
  | punpk (o : Ops) (m : BitVec 20)
  /-- SPRD (R47). Reads a special register into a vector or scalar register. -/
  | sprd (o : Ops) (m : BitVec 20)
  /-- SPWR (R48). Clears ASTAT bits or writes SEED. -/
  | spwr (o : Ops) (m : BitVec 20)
  /-- IADD (R112). Integer add with wrap or saturation. -/
  | iadd (o : Ops) (m : ModI)
  /-- ISUB (R112). Integer subtract with wrap or saturation. -/
  | isub (o : Ops) (m : ModI)
  /-- IADDC (R113). Integer add with carry in and carry out through predicates. -/
  | iaddc (o : Ops) (m : ModI)
  /-- ISUBB (R113). Integer subtract with borrow through predicates. -/
  | isubb (o : Ops) (m : ModI)
  /-- IMUL (R112). Integer multiply with wrap or saturation. -/
  | imul (o : Ops) (m : ModI)
  /-- IMULH (R112). High half of the exact integer product. -/
  | imulh (o : Ops) (m : ModI)
  /-- IMAD (R112). Integer multiply-add. -/
  | imad (o : Ops) (m : ModI)
  /-- IMADW (R112). Integer multiply-add into a 64-bit result. -/
  | imadw (o : Ops) (m : ModI)
  /-- IDIV (R114). Integer divide truncating toward zero, with defined divide-by-zero results. -/
  | idiv (o : Ops) (m : ModI)
  /-- IREM (R114). Integer remainder taking the sign of the dividend. -/
  | irem (o : Ops) (m : ModI)
  /-- IMIN (R112). Integer minimum. -/
  | imin (o : Ops) (m : ModI)
  /-- IMAX (R112). Integer maximum. -/
  | imax (o : Ops) (m : ModI)
  /-- IABS (R112). Integer absolute value with wrap or saturation. -/
  | iabs (o : Ops) (m : ModI)
  /-- INEG (R112). Integer negation with wrap or saturation. -/
  | ineg (o : Ops) (m : ModI)
  /-- ISAD (R112). Absolute difference of two integers. -/
  | isad (o : Ops) (m : ModI)
  /-- IAVG (R112). Rounded-up integer average. -/
  | iavg (o : Ops) (m : ModI)
  /-- IDOT2 (R112). Two-element 16-bit integer dot product accumulated into 32 bits. -/
  | idot2 (o : Ops) (m : ModI)
  /-- IDOT4 (R112). Four-element 8-bit integer dot product accumulated into 32 bits. -/
  | idot4 (o : Ops) (m : ModI)
  /-- ICLAMP (R112). Clamps an integer between two bounds. -/
  | iclamp (o : Ops) (m : ModI)
  /-- ICMP (R115). Integer compare writing a predicate. -/
  | icmp (o : Ops) (m : ModCI)
  /-- ISET (R115). Integer compare writing all-ones or zero per element. -/
  | iset (o : Ops) (m : ModCI)
  /-- ITEST (R115). Tests a AND b for zero into a predicate. -/
  | itest (o : Ops) (m : ModCI)
  /-- LEA (R119). Adds a shifted extended 32-bit index to a 64-bit address. -/
  | lea (o : Ops) (m : ModI)
  /-- LEAX (R119). Adds a shifted 64-bit index to a 64-bit address. -/
  | leax (o : Ops) (m : ModI)
  /-- CANON (R119). Forms the canonical Sv57 address. -/
  | canon (o : Ops) (m : ModI)
  /-- PDIFF (R119). Address difference shifted right arithmetically. -/
  | pdiff (o : Ops) (m : ModI)
  /-- AND (R120). Bitwise AND. -/
  | and (o : Ops) (m : ModI)
  /-- OR (R120). Bitwise OR. -/
  | or (o : Ops) (m : ModI)
  /-- XOR (R120). Bitwise XOR. -/
  | xor (o : Ops) (m : ModI)
  /-- NOT (R120). Bitwise NOT. -/
  | not (o : Ops) (m : ModI)
  /-- ANDN (R120). a AND NOT b. -/
  | andn (o : Ops) (m : ModI)
  /-- ORN (R120). a OR NOT b. -/
  | orn (o : Ops) (m : ModI)
  /-- LOP3 (R120). Three-input bitwise lookup-table operation. -/
  | lop3 (o : Ops) (m : ModI)
  /-- SHL (R121). Shift left with wrap or saturation. -/
  | shl (o : Ops) (m : ModI)
  /-- SHR (R121). Logical shift right. -/
  | shr (o : Ops) (m : ModI)
  /-- SHRA (R121). Arithmetic shift right. -/
  | shra (o : Ops) (m : ModI)
  /-- ROTL (R120). Rotate left. -/
  | rotl (o : Ops) (m : ModI)
  /-- ROTR (R120). Rotate right. -/
  | rotr (o : Ops) (m : ModI)
  /-- FSHL (R121). Funnel shift left of a concatenated pair. -/
  | fshl (o : Ops) (m : ModI)
  /-- FSHR (R121). Funnel shift right of a concatenated pair. -/
  | fshr (o : Ops) (m : ModI)
  /-- PRMT (R122). Byte permute with optional sign replication. -/
  | prmt (o : Ops) (m : ModI)
  /-- BSWAP (R120). Reverses bytes of each element. -/
  | bswap (o : Ops) (m : ModI)
  /-- POPC (R120). Population count. -/
  | popc (o : Ops) (m : ModI)
  /-- CLZ (R120). Count leading zeros. -/
  | clz (o : Ops) (m : ModI)
  /-- CTZ (R120). Count trailing zeros. -/
  | ctz (o : Ops) (m : ModI)
  /-- BREV (R120). Bit reversal. -/
  | brev (o : Ops) (m : ModI)
  /-- BFX (R123). Bit-field extract. -/
  | bfx (o : Ops) (m : ModI)
  /-- BFI (R123). Bit-field insert. -/
  | bfi (o : Ops) (m : ModI)
  /-- BMSK (R123). Builds a bit mask of given length and shift. -/
  | bmsk (o : Ops) (m : ModI)
  /-- FADD (R124). Floating-point add rounded once. -/
  | fadd (o : Ops) (m : ModF)
  /-- FSUB (R124). Floating-point subtract rounded once. -/
  | fsub (o : Ops) (m : ModF)
  /-- FMUL (R124). Floating-point multiply rounded once. -/
  | fmul (o : Ops) (m : ModF)
  /-- FMA (R124). Fused multiply-add rounded once. -/
  | fma (o : Ops) (m : ModF)
  /-- FMS (R124). Fused multiply-subtract rounded once. -/
  | fms (o : Ops) (m : ModF)
  /-- FNMA (R124). Fused negated multiply-add rounded once. -/
  | fnma (o : Ops) (m : ModF)
  /-- FMIN (R125). Number-preferring floating-point minimum. -/
  | fmin (o : Ops) (m : ModF)
  /-- FMAX (R125). Number-preferring floating-point maximum. -/
  | fmax (o : Ops) (m : ModF)
  /-- FMINM (R125). NaN-propagating floating-point minimum. -/
  | fminm (o : Ops) (m : ModF)
  /-- FMAXM (R125). NaN-propagating floating-point maximum. -/
  | fmaxm (o : Ops) (m : ModF)
  /-- FABS (R124). Clears the sign bit. -/
  | fabs (o : Ops) (m : ModF)
  /-- FNEG (R124). Inverts the sign bit. -/
  | fneg (o : Ops) (m : ModF)
  /-- FCSGN (R124). Copies the sign of b onto a. -/
  | fcsgn (o : Ops) (m : ModF)
  /-- FCLAMP (R125). Floating-point clamp between two bounds. -/
  | fclamp (o : Ops) (m : ModF)
  /-- FDOT2 (R124). Two-element dot product plus F32 accumulator rounded once. -/
  | fdot2 (o : Ops) (m : ModF)
  /-- FSUM (R124). Exact sum of packed elements plus an F32 value rounded once. -/
  | fsum (o : Ops) (m : ModF)
  /-- FCMP (R116). Floating-point compare writing a predicate. -/
  | fcmp (o : Ops) (m : ModCF)
  /-- FSET (R116). Floating-point compare writing all-ones or zero per element. -/
  | fset (o : Ops) (m : ModCF)
  /-- FCLASS (R116). Tests the class of a float against a mask. -/
  | fclass (o : Ops) (m : ModCF)
  /-- FRNDI (R126). Rounds to an integral value in the same type. -/
  | frndi (o : Ops) (m : ModF)
  /-- FSCALE (R126). Multiplies by a power of two with one rounding. -/
  | fscale (o : Ops) (m : ModF)
  /-- FXEXP (R126). Extracts the true exponent as an integer. -/
  | fxexp (o : Ops) (m : ModF)
  /-- FXMAN (R126). Extracts the normalised mantissa. -/
  | fxman (o : Ops) (m : ModF)
  /-- CVT (R127). Float to float conversion of one element. -/
  | cvt (o : Ops) (m : ModV)
  /-- CVTFI (R129). Float to integer conversion with defined bounds. -/
  | cvtfi (o : Ops) (m : ModV)
  /-- CVTIF (R127). Integer to float conversion rounded once. -/
  | cvtif (o : Ops) (m : ModV)
  /-- PACK2 (R128). Narrows two 32-bit values into two 16-bit elements. -/
  | pack2 (o : Ops) (m : ModV)
  /-- PACK4 (R128). Narrows four 16-bit values into four 8-bit elements. -/
  | pack4 (o : Ops) (m : ModV)
  /-- UNPK (R130). Exactly widens one selected element. -/
  | unpk (o : Ops) (m : ModV)
  /-- EXTS (R131). Sign-extends from bit n-1. -/
  | exts (o : Ops) (m : ModV)
  /-- EXTZ (R131). Zero-extends from bit n-1. -/
  | extz (o : Ops) (m : ModV)
  /-- RCP (R132). Reciprocal special function. -/
  | rcp (o : Ops) (m : ModS)
  /-- RSQ (R132). Reciprocal square root special function. -/
  | rsq (o : Ops) (m : ModS)
  /-- SQRT (R132). Square root special function. -/
  | sqrt (o : Ops) (m : ModS)
  /-- FDIV (R133). Floating-point division with fixed special cases. -/
  | fdiv (o : Ops) (m : ModS)
  /-- EXP2 (R132). Base-2 exponential. -/
  | exp2 (o : Ops) (m : ModS)
  /-- LOG2 (R132). Base-2 logarithm. -/
  | log2 (o : Ops) (m : ModS)
  /-- EXP (R132). Natural exponential. -/
  | exp (o : Ops) (m : ModS)
  /-- LOG (R132). Natural logarithm. -/
  | log (o : Ops) (m : ModS)
  /-- SIN (R132). Sine in radians. -/
  | sin (o : Ops) (m : ModS)
  /-- COS (R132). Cosine in radians. -/
  | cos (o : Ops) (m : ModS)
  /-- TANH (R132). Hyperbolic tangent. -/
  | tanh (o : Ops) (m : ModS)
  /-- SIGM (R132). Logistic sigmoid. -/
  | sigm (o : Ops) (m : ModS)
  /-- ERF (R132). Error function. -/
  | erf (o : Ops) (m : ModS)
  /-- GELU (R132). GELU activation. -/
  | gelu (o : Ops) (m : ModS)
  /-- SPLUS (R132). Softplus activation. -/
  | splus (o : Ops) (m : ModS)
  /-- OBRES (R147). Reserves an operand-buffer record and returns a handle or status. -/
  | obres (o : Ops) (m : ModX)
  /-- OBFILL (R148). Copies local memory into an operand-buffer record. -/
  | obfill (o : Ops) (m : ModX)
  /-- OBDROP (R149). Frees an operand-buffer record once its claims complete. -/
  | obdrop (o : Ops) (m : ModX)
  /-- OBQRY (R150). Reads the state of an operand-buffer record. -/
  | obqry (o : Ops) (m : ModX)
  /-- IXSET (R152). Forms a per-thread row index entry. -/
  | ixset (o : Ops) (m : ModX)
  /-- IXGATH (R153). Gathers local-memory rows into a record by index vector. -/
  | ixgath (o : Ops) (m : ModX)
  /-- MMA (R155). Matrix product accumulated into an accumulator tile. -/
  | mma (o : Ops) (m : ModX)
  /-- MMAG (R156). Matrix product with A rows gathered from local memory. -/
  | mmag (o : Ops) (m : ModX)
  /-- MMAW (R157). Integer matrix product accumulated into 64 bits over a tile pair. -/
  | mmaw (o : Ops) (m : ModX)
  /-- MDIST (R158). Squared-distance matrix operation. -/
  | mdist (o : Ops) (m : ModX)
  /-- MTOPK (R163). Ranks tile columns per row into local memory, optionally merging. -/
  | mtopk (o : Ops) (m : ModX)
  /-- ACCLD (R164). Loads accumulator elements into a vector register. -/
  | accld (o : Ops) (m : ModX)
  /-- ACCST (R164). Stores a vector register into accumulator elements. -/
  | accst (o : Ops) (m : ModX)
  /-- ACCZ (R165). Zeroes a tile region. -/
  | accz (o : Ops) (m : ModX)
  /-- ACCLM_IN (R166). Copies 32-bit patterns from local memory into a tile region. -/
  | acclmIn (o : Ops) (m : ModX)
  /-- ACCLM_OUT (R166). Converts a tile region and writes it to local memory. -/
  | acclmOut (o : Ops) (m : ModX)
  /-- MLD (R151). Loads global rows into an operand-buffer record. -/
  | mld (o : Ops) (m : ModX)
  /-- MLD_SCA (R151). Loads Q4 scale bytes from global memory into a record. -/
  | mldSca (o : Ops) (m : ModX)
  /-- MLDT (R151). Loads global memory transposed into a record. -/
  | mldt (o : Ops) (m : ModX)
  /-- MST (R166). Converts a tile region and stores it to global memory. -/
  | mst (o : Ops) (m : ModX)
  /-- QNT (R169). Quantises a 32-element block to 4-bit codes and a scale byte. -/
  | qnt (o : Ops) (m : ModX)
  /-- DQNT (R170). Dequantises a 4-bit block into floating-point elements. -/
  | dqnt (o : Ops) (m : ModX)
  /-- QSCL (R168). Computes a block scale byte from amax. -/
  | qscl (o : Ops) (m : ModX)
  /-- QAMAX (R168). Computes the largest magnitude of a block. -/
  | qamax (o : Ops) (m : ModX)
  /-- ACCCVT_I2F (R167). Converts a tile region from S32 to scaled F32 in place. -/
  | acccvtI2f (o : Ops) (m : ModX)
  /-- ACCCVT_F2I (R167). Converts a tile region from scaled F32 to S32 in place. -/
  | acccvtF2i (o : Ops) (m : ModX)
  /-- LD (R214). Loads from global memory. -/
  | ld (o : Ops) (m : ModM)
  /-- ST (R214). Stores to global memory. -/
  | st (o : Ops) (m : ModM)
  /-- LDL (R214). Loads from local memory. -/
  | ldl (o : Ops) (m : ModM)
  /-- STL (R214). Stores to local memory. -/
  | stl (o : Ops) (m : ModM)
  /-- LDC (R222). Consuming load that decrements each counted line read. -/
  | ldc (o : Ops) (m : ModM)
  /-- LDW (R216). Reads a parameter window at a computed offset. -/
  | ldw (o : Ops) (m : ModM)
  /-- LDV (R217). Loads whole register lines from global memory. -/
  | ldv (o : Ops) (m : ModM)
  /-- STV (R217). Stores whole register lines to global memory. -/
  | stv (o : Ops) (m : ModM)
  /-- LDLV (R217). Loads whole register lines from local memory. -/
  | ldlv (o : Ops) (m : ModM)
  /-- STLV (R217). Stores whole register lines to local memory. -/
  | stlv (o : Ops) (m : ModM)
  /-- CFILL (R223). Fills one counted line from a vector register. -/
  | cfill (o : Ops) (m : ModM)
  /-- CFILL_RING (R227). Fills the TAIL slot of a registered counted ring. -/
  | cfillRing (o : Ops) (m : ModM)
  /-- CREL (R224). Releases the counted lines named by active lanes. -/
  | crel (o : Ops) (m : ModM)
  /-- PREF (R231). Prefetch hint into the MSC or a Gleaner fetch. -/
  | pref (o : Ops) (m : ModM)
  /-- RESID_NEAR (R232). Residency hint: fetch remote pages and bring the range into the MSC. -/
  | residNear (o : Ops) (m : ModM)
  /-- RESID_HBM (R232). Residency hint: post tier-migration notifications for LPDDR6 pages. -/
  | residHbm (o : Ops) (m : ModM)
  /-- RESID_COLD (R232). Residency hint: mark HBM pages in the MSC first to evict. -/
  | residCold (o : Ops) (m : ModM)
  /-- SEAL (R234). Seals a region of pages against writes. -/
  | seal (o : Ops) (m : ModM)
  /-- UNSEAL (R235). Restores write permission to a sealed region. -/
  | unseal (o : Ops) (m : ModM)
  /-- SEAL_COMPLETE (R202). A SEAL or UNSEAL completes once writes are globally performed or replicas dropped. -/
  | sealComplete (g : Nat)
  /-- SEAL_TIMEOUT (R235). A SEAL or UNSEAL not complete after 50 ms raises remote-unavailable. -/
  | sealTimeout (g : Nat)
  /-- ATOM (R219). Global atomic without return. -/
  | atom (o : Ops) (m : ModM)
  /-- ATOMR (R219). Global atomic returning the old value. -/
  | atomr (o : Ops) (m : ModM)
  /-- CAS (R220). Global compare-and-swap. -/
  | cas (o : Ops) (m : ModM)
  /-- ATOML (R219). Local-memory atomic returning the old value. -/
  | atoml (o : Ops) (m : ModM)
  /-- CASL (R220). Local-memory compare-and-swap. -/
  | casl (o : Ops) (m : ModM)
  /-- FENCE (R228). Core-path fence or drain at a scope. -/
  | fence (o : Ops) (m : ModM)
  /-- FENCEX (R230). Cross-path fence between two access classes. -/
  | fencex (o : Ops) (m : ModM)
  /-- FENCEX_COMPLETE (R189). A cross-path fence completes when all earlier accesses are performed, releasing held issue and node starts. -/
  | fencexComplete (n : Nat)
  /-- MSEND (R238). Sends local memory to a mailbox of a team in the cluster. -/
  | msend (o : Ops) (m : BitVec 20)
  /-- MRECV (R240). Pops the oldest arrival record of a mailbox. -/
  | mrecv (o : Ops) (m : BitVec 20)
  /-- MPROBE (R241). Returns the number of records in a mailbox. -/
  | mprobe (o : Ops) (m : BitVec 20)
  /-- FRGO (R243). Opens a furrow slot. -/
  | frgo (o : Ops) (m : BitVec 20)
  /-- FRADV (R244). Advances a furrow's TAIL. -/
  | fradv (o : Ops) (m : BitVec 20)
  /-- FRADV_CLOSE (R244). Advances TAIL and closes the furrow, freeing the slot when done. -/
  | fradvClose (o : Ops) (m : BitVec 20)
  /-- FRWAIT (R245). Holds the group until SEQ reaches a value or the furrow halts. -/
  | frwait (o : Ops) (m : BitVec 20)
  /-- FRSTAT (R246). Reads the furrow status word. -/
  | frstat (o : Ops) (m : BitVec 20)
  /-- BRA (R297). PC-relative branch. -/
  | bra (o : Ops) (m : BitVec 20)
  /-- BRX (R297). Indirect branch. -/
  | brx (o : Ops) (m : BitVec 20)
  /-- CALL (R297). PC-relative call writing a return address pair. -/
  | call (o : Ops) (m : BitVec 20)
  /-- CALLX (R297). Indirect call writing a return address pair. -/
  | callx (o : Ops) (m : BitVec 20)
  /-- RET (R297). Indirect return. -/
  | ret (o : Ops) (m : BitVec 20)
  /-- EXIT (R298). Makes active threads exited and releases team state when the last group ends. -/
  | exit (o : Ops) (m : BitVec 20)
  /-- MSET (R299). Sets MEET to a PC-relative target. -/
  | mset (o : Ops) (m : BitVec 20)
  /-- MSET_R (R299). Sets MEET to a register value. -/
  | msetR (o : Ops) (m : BitVec 20)
  /-- MRD (R299). Reads MEET into a register pair. -/
  | mrd (o : Ops) (m : BitVec 20)
  /-- MCLR (R299). Resets MEET to all ones. -/
  | mclr (o : Ops) (m : BitVec 20)
  /-- YIELD (R300). Ends the bundle's issue until the next tick and resets age. -/
  | yield (o : Ops) (m : BitVec 20)
  /-- SLEEP (R301). Blocks threads for a number of cycles. -/
  | sleep (o : Ops) (m : BitVec 20)
  /-- SLEEP_EXPIRY (R301). A sleeping thread becomes ready at the first tick after its cycle count passes. -/
  | sleepExpiry (g : Nat) (l : Nat)
  /-- SHFL (R303). Cross-lane shuffle. -/
  | shfl (o : Ops) (m : BitVec 20)
  /-- VOTE (R304). Cross-lane vote into a predicate. -/
  | vote (o : Ops) (m : BitVec 20)
  /-- BALLOT (R304). Cross-lane ballot mask. -/
  | ballot (o : Ops) (m : BitVec 20)
  /-- LSCAN (R306). Ordered cross-lane scan. -/
  | lscan (o : Ops) (m : BitVec 20)
  /-- LRED (R306). Ordered cross-lane reduction. -/
  | lred (o : Ops) (m : BitVec 20)
  /-- MATCH (R305). Mask of lanes holding an equal value. -/
  | matchL (o : Ops) (m : BitVec 20)
  /-- TBAR (R307). Arrives at a team barrier. -/
  | tbar (o : Ops) (m : BitVec 20)
  /-- CBAR (R307). Arrives at a cluster barrier. -/
  | cbar (o : Ops) (m : BitVec 20)
  /-- BCARM (R311). Arms a mailbox's byte-counting barrier with a target. -/
  | bcarm (o : Ops) (m : BitVec 20)
  /-- BCWAIT (R312). Waits for the byte count to reach its target. -/
  | bcwait (o : Ops) (m : BitVec 20)
  /-- BCWAIT_TIMEOUT (R312). A BCWAIT not satisfied in 2^26 cycles completes with TMO. -/
  | bcwaitTimeout (n : Nat)
  /-- FBWAIT (R314). Acquires a pinned expert buffer, filling it if absent. -/
  | fbwait (o : Ops) (m : BitVec 20)
  /-- FBWAIT_REL (R315). Releases one pin on an expert buffer. -/
  | fbwaitRel (o : Ops) (m : BitVec 20)
  /-- EXPERT_FILL_COMPLETE (R314). The Gleaner finishes filling an expert buffer and completes its waiters with pins. -/
  | expertFillComplete (n : Nat)
  /-- FILL_NOROOM_TIMEOUT (R314). No buffer found 1 ms after the fill request; waiters complete with status 2. -/
  | fillNoroomTimeout (n : Nat)
  /-- FILL_SOURCE_TIMEOUT (R314). Expert source unresolved after 50 ms; waiters complete with status 5. -/
  | fillSourceTimeout (n : Nat)
  /-- GANGSET (R316). Sets the GANG register. -/
  | gangset (o : Ops) (m : BitVec 20)
  /-- GANGCLR (R316). Clears the GANG register. -/
  | gangclr (o : Ops) (m : BitVec 20)
  /-- GANG_STALL_TIMEOUT (R317). A member held 2^22 cycles at the latch takes a gang-stall trap. -/
  | gangStallTimeout (g : Nat)
  /-- GANG_PARTNER_ENDED (R317). A listed group ends and held members take a gang-stall trap at the next tick. -/
  | gangPartnerEnded (g : Nat)
  /-- ACCAL (R318). Requests contiguous accumulator banks. -/
  | accal (o : Ops) (m : BitVec 20)
  /-- ACCAL_GRANT (R318). A waiting bank request is granted oldest first when banks free. -/
  | accalGrant (core : Nat)
  /-- ACCFREE (R320). Gives up accumulator banks. -/
  | accfree (o : Ops) (m : BitVec 20)
  /-- LAUNCH (R322). Fills one launch queue slot and notifies the queue. -/
  | launch (o : Ops) (m : BitVec 20)
  /-- SCALL (R323). Posts a call packet to the steward call ring. -/
  | scall (o : Ops) (m : BitVec 20)
  /-- SCALL_RING_TIMEOUT (R324). A call whose ring stays full 1 ms completes with status ...FFFE. -/
  | scallRingTimeout (n : Nat)
  /-- SCALL_REPLY_TIMEOUT (R324). A call without reply in 100 ms completes with status ...FFFF. -/
  | scallReplyTimeout (n : Nat)
  /-- STEWARD_REPLY (R387). A steward's 32-byte reply completes the matching call. -/
  | stewardReply (w : Words4)
  /-- SCWAIT (R326). Holds the group until earlier SCALLs complete. -/
  | scwait (o : Ops) (m : BitVec 20)
  /-- TRAP (R404). Raises a software trap with a code. -/
  | trapI (o : Ops) (m : BitVec 20)
  /-- TRAP_VEC (R404). Sets the handler vector HVEC. -/
  | trapVec (o : Ops) (m : BitVec 20)
  /-- TRET (R407). Ends the trap handler and resumes program state. -/
  | tret (o : Ops) (m : BitVec 20)
  /-- HPC (R405). Sets program PCs of masked lanes. -/
  | hpc (o : Ops) (m : BitVec 20)
  /-- HMEET (R405). Sets MEET of masked lanes. -/
  | hmeet (o : Ops) (m : BitVec 20)
  /-- HPARK_CLR (R405). Clears PARK of masked lanes. -/
  | hparkClr (o : Ops) (m : BitVec 20)
  /-- HPARK_SET (R405). Sets PARK of masked lanes. -/
  | hparkSet (o : Ops) (m : BitVec 20)
  /-- HPARK_EXIT (R405). Marks masked lanes to exit at TRET. -/
  | hparkExit (o : Ops) (m : BitVec 20)
  /-- HRD (R406). Reads a trap register or a lane's program state. -/
  | hrd (o : Ops) (m : BitVec 20)
  /-- TRAP_ENTRY (R400). After issued work drains, records the trap and starts the handler or ends the group. -/
  | trapEntry (g : Nat)
  /-- PTWAIT (R358). Waits for pending table writes to a line to complete. -/
  | ptwait (o : Ops) (m : BitVec 20)
  /-- TLBPRB (R359). Probes the die L2 TLB. -/
  | tlbprb (o : Ops) (m : BitVec 20)
  /-- WALK (R360). Performs a side-effect-free page walk. -/
  | walk (o : Ops) (m : BitVec 20)
  /-- ALIASQ (R361). Reads a frame's alias bits. -/
  | aliasq (o : Ops) (m : BitVec 20)
  /-- ALIASQ_CLR (R361). Reads and clears a frame's alias bits. -/
  | aliasqClr (o : Ops) (m : BitVec 20)
  /-- CTXFRZ (R391). Freezes a context with cause 0x01. -/
  | ctxfrz (o : Ops) (m : BitVec 20)
  /-- CTXRST (R375). Resets a context. -/
  | ctxrst (o : Ops) (m : BitVec 20)
  /-- CONTEXT_RESET_DONE (R375). A context reset finishes teardown, flush and field resets, and answers. -/
  | contextResetDone (c : Nat)
  /-- PARTRST (R376). Resets every live context of a partition. -/
  | partrst (o : Ops) (m : BitVec 20)
  /-- QSET (R391). Writes the quota word of resident kernels of a context. -/
  | qset (o : Ops) (m : BitVec 20)
  /-- QSET_DEF (R391). Writes a partition's default quota word. -/
  | qsetDef (o : Ops) (m : BitVec 20)
  /-- QOSSET (R367). Writes one word of a partition record. -/
  | qosset (o : Ops) (m : BitVec 20)
  /-- WSET (R392). Writes one word of a context, registration or FRAME table. -/
  | wset (o : Ops) (m : BitVec 20)
  /-- WSET_RD (R392). Reads one word of a table. -/
  | wsetRd (o : Ops) (m : BitVec 20)
  /-- EQPOP_SYS (R391). Pops a record from the system event queue. -/
  | eqpopSys (o : Ops) (m : BitVec 20)
  /-- EQPOP_MIG (R391). Pops a record from the migration queue. -/
  | eqpopMig (o : Ops) (m : BitVec 20)
  /-- PAIR (R51). Executes two pairable operations from one pre-pair state. -/
  | pair (x : Instr) (y : Instr)
  /-- ILL (R75). Always raises an illegal-instruction trap with code 2. -/
  | ill (l : Len)
  /-- FORMATION_TICK (R277). Every 4 cycles, forms bundles, evaluates meetings, cross-lane waits and barrier releases. -/
  | formationTick
  /-- MEETING_TIMEOUT (R279). 4096 cycles without sibling progress releases threads held at a meeting. -/
  | meetingTimeout (g : Nat) (a : BitVec 64)
  /-- CROSS_LANE_STALL (R280). A thread blocked 2^22 cycles at a cross-lane instruction raises a stall trap. -/
  | crossLaneStall (g : Nat) (a : BitVec 64)
  /-- QUEUE_STALL (R53). A compatibility queue pop or push blocked 2^22 cycles raises a queue-stall trap. -/
  | queueStall (g : Nat)
  /-- MESSAGE_STALL (R238). A group held on MSEND for 2^22 cycles raises a message-stall trap. -/
  | messageStall (g : Nat)
  /-- MRECV_TIMEOUT (R240). MRECV with no record for 2^26 cycles completes with TMO. -/
  | mrecvTimeout (n : Nat)
  /-- BARRIER_STALL (R309). A group held 2^26 cycles at a barrier traps all held groups. -/
  | barrierStall (g : Nat)
  /-- ISSUE_SELECT (R282). Each cycle a core issues up to four bundles chosen by age, class, pass and age. -/
  | issueSelect (core : Nat)
  /-- LONG_LATENCY_RESULT (R44). A long-latency result arrives and is written to the register or image, marking it full. -/
  | longLatencyResult (n : Nat)
  /-- REGISTER_LINE_WRITEBACK (R287). A dirty register line is written to its image using a free bank slot. -/
  | registerLineWriteback (g : Nat) (r : Nat)
  /-- QNOTIFY_WRITE (R270). A write to a queue notify register keeps the maximum and wakes the packet processor. -/
  | qnotifyWrite (q : Nat) (v : BitVec 64)
  /-- QUEUE_POLL (R271). After 1 us, the packet processor re-reads a slot found invalid. -/
  | queuePoll (q : Nat)
  /-- CLUSTER_PLACEMENT (R275). A waiting cluster is placed on the first fitting rectangle when resources allow. -/
  | clusterPlacement (k : Nat)
  /-- GRID_COMPLETE (R271). When every team has ended, completion is written to DONEA with release. -/
  | gridComplete (n : Nat)
  /-- PREEMPTION (R289). Clusters of a lower class are pre-empted to place a higher-class cluster. -/
  | preemption (k : Nat)
  /-- SPILL (R290). A pre-empted spillable team's local memory and images are written to its save area. -/
  | spill (t : Nat)
  /-- RESUME (R291). A pre-empted or spilled cluster resumes when cores can take it. -/
  | resumeC (k : Nat)
  /-- HOME_ACCESS (R181). A home serves a read or applies a write, merging partial writes under ECC. -/
  | homeAccess (n : Nat)
  /-- DIE_BEACON (R181). An empty beacon carries a die's write count to homes. -/
  | dieBeacon (d : Nat)
  /-- HOST_CXL_REQUEST (R178). A host CXL.mem request moves atoms between host states. -/
  | hostCxlRequest (r : HostReq)
  /-- SNOOP_TIMEOUT (R383). An unanswered back-invalidation is retried once, then completed as NONE with a record. -/
  | snoopTimeout (pa : Nat)
  /-- HOST_SNOOP (R350). A host snoop of a module-held table line is answered after derived translations are removed. -/
  | hostSnoop (pa : Nat)
  /-- COUNTED_FILL (R193). A counted fill at the home fills a line or refuses with a status. -/
  | countedFill (n : Nat)
  /-- RING_FILL (R227). A RING counted fill at the base die fills the TAIL slot and advances TAIL. -/
  | ringFill (n : Nat)
  /-- CONSUMING_READ (R194). A consuming read at the home decrements the count, dropping the line at zero. -/
  | consumingRead (n : Nat)
  /-- COUNTED_RELEASE (R196). A release at the home drops a counted line, posting an under-read if the count was non-zero. -/
  | countedRelease (n : Nat)
  /-- TRANSLATION_MISS (R353). A missing walk presents to the fault merge table or the fault ring. -/
  | translationMiss (m : MissArg)
  /-- MISS_REPRESENT (R353). Every 1 us a miss that could not post is presented again. -/
  | missRepresent (n : Nat)
  /-- PAGE_WALK (R338). A walk reads entries level by level, registering sharers and updating A and D. -/
  | pageWalk (die : Nat) (c : Nat) (va : BitVec 64) (k : AccKind)
  /-- TABLE_WRITE (R346). A write to a line with sharers holds the line and invalidates the sharers. -/
  | tableWrite (n : Nat)
  /-- SHARER_INVALIDATE (R348). A sharer removes derived translations, sweeps lane registers and flushes affected work. -/
  | sharerInvalidate (line : Nat) (sharer : Nat)
  /-- TABLE_WRITE_COMPLETE (R347). When all sharers acknowledge and accesses land, the write is applied and performed. -/
  | tableWriteComplete (line : Nat)
  /-- WAKE (R355). A resolver's wake retries or traps the waiters of a fault entry. -/
  | wake (die : Nat) (c : Nat) (page : Nat) (outcome : Nat) (detail : Nat)
  /-- WAITER_TIMEOUT (R418). A parked waiter 50 ms after first presentation takes remote-unavailable. -/
  | waiterTimeout (die : Nat) (c : Nat) (page : Nat) (n : Nat)
  /-- GLEANER_FAULT_RECORD (R414). The Gleaner takes a fault record and starts or joins a service. -/
  | gleanerFaultRecord (n : Nat)
  /-- FIELD_MAP_REPLY (R414). A field-map lookup answers and the service moves to lease, fetch, wait or decline. -/
  | fieldMapReply (n : Nat) (e : Option (BitVec 512))
  /-- LOOKUP_TIMEOUT (R414). A shard request unanswered after 500 us is retried or the service waits. -/
  | lookupTimeout (n : Nat)
  /-- GLEANER_WAIT_EXPIRY (R414). After 5 ms in WAITING the service returns to LOOKUP. -/
  | gleanerWaitExpiry (n : Nat)
  /-- PAGE_FETCH_REPLY (R417). A fetched page arrives and is installed, then the retry wake is sent. -/
  | pageFetchReply (n : Nat) (p : PageImage)
  /-- FETCH_TIMEOUT (R416). A holder not answering in 500 us is retried, then the next holder is tried. -/
  | fetchTimeout (n : Nat)
  /-- GLEANER_SERVICE_EXPIRED (R414). 50 ms after the first record the service ends and releases its lease. -/
  | gleanerServiceExpired (n : Nat)
  /-- STEWARD_WAKE (R420). A steward's write to the wake port ends a declined fault. -/
  | stewardWake (w : Words4)
  /-- GLEANER_EVICT (R421). Below LOWMARK the Gleaner evicts an installed page, writing back if dirty. -/
  | gleanerEvict (p : Nat)
  /-- LEASE_RENEW (R423). At EXPIRY minus RENEW the holder renews its lease when permitted. -/
  | leaseRenew (key : Nat)
  /-- LEASE_END (R423). At EXPIRY minus 10 us an unrenewed holder evicts and drops the lease. -/
  | leaseEnd (key : Nat)
  /-- LEASE_RELEASE_REQUEST (R424). A holder receiving a release request hands the page and lease to the requester. -/
  | leaseReleaseRequest (key : Nat) (source : Nat)
  /-- LEASE_PAGE_RECEIVED (R424). The requester installs a page released to it. -/
  | leasePageReceived (key : Nat) (e : BitVec 512) (p : PageImage)
  /-- LEASE_WAIT_EXPIRY (R425). At EXPIRY plus 50 us without release the requester checks the holder's heartbeats. -/
  | leaseWaitExpiry (n : Nat)
  /-- PTP_SYNC (R412). An accepted IEEE 1588 sync exchange, of offset ±`o` and mean path delay `d` in ns, corrects the timer and sets SYNCERR. -/
  | ptpSync (x : PtpSync) (o : Nat) (d : Nat)
  /-- TIME_UNSAFE (R426). SYNCERR passes 25 us; the Gleaner stops leases and clears W on leased pages. -/
  | timeUnsafe
  /-- TIME_SAFE (R412). SYNCERR stays at or below 12.5 us for one second and the module becomes time-safe. -/
  | timeSafe
  /-- HEARTBEAT_SEND (R442). Every 1 ms the module sends a heartbeat. -/
  | heartbeatSend
  /-- HEARTBEAT_RECEIVE (R442). A heartbeat from a watched module is recorded, ending a fence on a higher incarnation. -/
  | heartbeatReceive (m : Nat) (inc : Nat) (seq : Nat) (timeBad : Bool)
  /-- HEARTBEAT_LOSS (R442). 3.1 ms without a heartbeat fences the watched module. -/
  | heartbeatLoss (m : Nat)
  /-- FENCE_RECEIVE (R443). A received fence discards the module's requests and starts the harrow's shard walk. -/
  | fenceReceive (m : Nat) (inc : Nat)
  /-- HARROW_EXPIRY_WALK (R445). Every 100 ms the harrow clears owners of run-out leases. -/
  | harrowExpiryWalk
  /-- MESSAGE_DELIVERY (R239). The receiver's message engine writes a send's data, then posts a record or counts bytes. -/
  | messageDelivery (n : Nat)
  /-- MESSAGE_DROP_TIMEOUT (R239). A send waiting 2^26 cycles at a full mailbox is dropped and MSGLOST rises. -/
  | messageDropTimeout (n : Nat)
  /-- DRILL_ADMIT (R250). The drill admits the entry at CUR, checking it and rejecting malformed entries. -/
  | drillAdmit (core : Nat) (f : Nat)
  /-- COPY_NODE (R249). Starts a copy node. -/
  | copyNode (core : Nat) (f : Nat) (n : Nat)
  /-- INDIRECT_GATHER_NODE (R249). Starts an indirect gather node. -/
  | indirectGatherNode (core : Nat) (f : Nat) (n : Nat)
  /-- SCATTER_NODE (R249). Starts a scatter node. -/
  | scatterNode (core : Nat) (f : Nat) (n : Nat)
  /-- SEND_NODE (R249). Starts a send node acting as MSEND. -/
  | sendNode (core : Nat) (f : Nat) (n : Nat)
  /-- COUNTED_FILL_NODE (R249). Starts a counted fill node sending fills one at a time. -/
  | countedFillNode (core : Nat) (f : Nat) (n : Nat)
  /-- RELEASE_NODE (R249). Starts a release node. -/
  | releaseNode (core : Nat) (f : Nat) (n : Nat)
  /-- NEAR_MEMORY_TOPK_NODE (R249). Starts a near-memory top-k node at the base dies. -/
  | nearMemoryTopkNode (core : Nat) (f : Nat) (n : Nat)
  /-- MATRIX_DISPATCH_NODE (R249). Starts a matrix dispatch node in core order. -/
  | matrixDispatchNode (core : Nat) (f : Nat) (n : Nat)
  /-- LOOP_NODE (R252). Executes a loop node, re-admitting its body. -/
  | loopNode (core : Nat) (f : Nat) (n : Nat)
  /-- CONDITION_NODE (R253). Executes a condition node that may skip entries. -/
  | conditionNode (core : Nat) (f : Nat) (n : Nat)
  /-- SIGNAL_NODE (R254). Executes a signal node storing or adding a value. -/
  | signalNode (core : Nat) (f : Nat) (n : Nat)
  /-- NODE_FINISH (R255). A node finishes: STATUS written, SEQ raised, successors decremented. -/
  | nodeFinish (core : Nat) (f : Nat) (n : Nat)
  /-- WATCH_ENGINE_TRAP (R454). After an engine watchpoint strike the slot's group takes the trap at its next boundary. -/
  | watchEngineTrap (g : Nat)
  /-- CONTEXT_LOSS (R436). A context is lost: groups discarded, lines dropped, a context-lost record posted. -/
  | contextLoss (c : Nat) (reason : Nat) (core : Nat) (va : BitVec 64) (pa : Nat)
  /-- MODULE_FATAL (R438). Fatal state errors lose every context, stop heartbeats and enter FAULT. -/
  | moduleFatal
  /-- PATROL_SCRUB (R433). Daily scrub corrects atoms and reports uncorrectable data. -/
  | patrolScrub (pa : Nat) (bad : Bool)
  /-- COUNTER_HALVING (R388). Every millisecond all access counters are halved. -/
  | counterHalving
  /-- MIGRATION_RESCAN (R388). A scanner re-posts frames with PENDING set as queue space appears. -/
  | migrationRescan
  /-- LINK_PERIODIC_CHECK (R439). Every 10 ms lanes are measured and failing lanes repaired with spares. -/
  | linkPeriodicCheck (k : Nat) (lane : Nat) (failed : Bool)
  /-- FLIT_CRC_ERROR (R439). A flit failing CRC is replayed from the replay buffer. -/
  | flitCrcError (k : Nat)
  /-- SCALEUP_PORT_LOSS (R441). A lost scale-up port resends its transfers or degrades spray mode. -/
  | scaleupPortLoss (p : Nat)
  /-- SCALEUP_TRAINING (R441). Scale-up ports train, refusing to come up on a mode mismatch. -/
  | scaleupTraining (g : Nat) (far : List Bool)
  /-- CHECKPOINT_DIRTY (R448). JOB 1: dirty checkpoint of frames in scope. -/
  | checkpointDirty (hold : Bool)
  /-- CHECKPOINT_FULL (R448). JOB 2: full checkpoint of frames in scope. -/
  | checkpointFull (hold : Bool)
  /-- HAND_OVER (R449). JOB 3: hand-over of the scope to a neighbour. -/
  | handOver
  /-- JOB_ABORT (R446). JOB 4: aborts a recovery job and releases its hold. -/
  | jobAbort
  /-- HANDOVER_CONFIRM_TIMEOUT (R449). No confirmation from the neighbour in 500 ms fails the hand-over. -/
  | handoverConfirmTimeout
  /-- HANDOVER_SPILL_DEADLINE (R449). At 10 s contexts with unspilled teams are lost. -/
  | handoverSpillDeadline
  /-- HANDOVER_ACK (R449). The neighbour's acknowledgement resets the scope here and ends the job. -/
  | handoverAck
  /-- CHECKPOINT_TARGET_TIMEOUT (R448). A target failing to accept a frame for 500 ms ends the job with STATUS 3. -/
  | checkpointTargetTimeout
  /-- ROUTE_DRAIN_COMPLETE (R450). Ports idle and switches acknowledge; unlatch-permitted is raised. -/
  | routeDrainComplete
  /-- CORE_POWER_GATE (R349). A core removes its translations and deregisters before gating. -/
  | corePowerGate (core : Nat)
  /-- POWER_LIMIT_STRETCH (R468). The power manager stretches the arithmetic clock to hold power limits. -/
  | powerLimitStretch (n : Nat)
  /-- AUX_RISE (R467). AUX comes into range and the module enters STANDBY. -/
  | auxRise
  /-- AUX_LOSS (R467). AUX is absent and the module enters OFF. -/
  | auxLoss
  /-- PWR_EN_RISE (R469). PWR_EN rises and bring-up starts. -/
  | pwrEnRise
  /-- PWR_EN_FALL (R467). PWR_EN falls; MAIN is cut and the module enters STANDBY. -/
  | pwrEnFall
  /-- BRINGUP_STEP_DONE (R469). A bring-up step completes and the next begins, ending at ON. -/
  | bringupStepDone
  /-- BRINGUP_STEP_TIMEOUT (R469). A bring-up step fails or runs out of time; FAULT with BOOTSTAT. -/
  | bringupStepTimeout (code : Nat) (ch : Nat)
  /-- MRST_N (R467). Module reset input: restarts bring-up in BOOT or resets the module in ON. -/
  | mrstN
  /-- VF_FLR (R382). FLR of a virtual function resets its partition. -/
  | vfFlr (vf : Nat) (port : Nat)
  /-- CXL_LINK_RESET (R382). A conventional link reset resets partitions hosted on that port. -/
  | cxlLinkReset (port : Nat)
  /-- POHOURS_UPDATE (R473). Hourly write of hours in ON to the identity store. -/
  | pohoursUpdate
  /-- I3C_TRANSFER (R473). An I3C transfer sets an offset and reads or writes identity-store bytes. -/
  | i3cTransfer (h : I3cHead) (w : List (BitVec 8)) (n : Nat)
  /-- REGISTER_WRITE (R8). A write to a register with no row of its own, applied by access codes. -/
  | registerWrite (r : RegTarget) (v : BitVec 64)
  /-- SHARD_REQUEST (R415). A peer's Gleaner request to read or compare-and-swap a field-map entry in a shard this module's harrow holds is served. -/
  | shardRequest (r : ShardReq)
  /-- PEER_PAGE_READ (R416). A peer's fetch of a 64 KiB page that this module holds is served and the page returned. -/
  | peerPageRead (key : Nat) (source : Nat)
  /-- HANDOVER_REQUEST (R449). As the neighbour, the module answers a hand-over confirmation request and takes in the copied state. -/
  | handoverRequest (pmask : BitVec 64) (img : HandImage)
  /-- HANDOVER_CONFIRM (R449). The neighbour's confirmation or refusal arrives, and the hand-over proceeds or ends with STATUS 3. -/
  | handoverConfirm (ok : Bool)
  /-- CHECKPOINT_TARGET_ACCEPT (R448). A safe-tier target accepts a checkpoint frame, advancing DONE and ending the job with STATUS 2 after the last one. -/
  | checkpointTargetAccept
  /-- HARROW_RESTORE_NOTICE (R444). A requester told by a harrow that a fenced holder's page was restored goes on from LOOKUP. -/
  | harrowRestoreNotice (key : Nat)
  /-- DEBUGGER_HALT (R349). A debugger halts a core, which stops issue but keeps acknowledging invalidations. -/
  | debuggerHalt (core : Nat)
  /-- DEBUGGER_RESUME (R349). A debugger resumes a halted core, which starts issuing again. -/
  | debuggerResume (core : Nat)
  /-- CORE_POWER_UNGATE (R284). A power-gated core is powered again and resumes issue. -/
  | corePowerUngate (core : Nat)
  /-- PERIODIC_RETRAINING (R471). HBM4 and LPDDR6 training is repeated periodically in ON, changing only timing. -/
  | periodicRetraining
  deriving DecidableEq, Repr

end Sys2Proof
end

