-- ==== Sys2Proof/WellFormed.lean ====
section
/-! DEFINITION. Which instructions a word may decode to (02 R25 check 4, R29, R33, R34, R37 to R39, R50; 03 R66 to
R70 and each opcode's own constraints), with the code that 03 R72 gives each broken constraint. Constraints that
depend on the group (checks 5 to 7, R54, R64, R65) are the machine's.
What rests on the model rather than on the plain words of the manual: log 35 (DEDUCED), log 50 (DEDUCED). -/

namespace Sys2Proof

/-- The type a source or destination is read in. -/
inductive Ty
  | i (t : IntTy)
  | f (t : FloatTy)
  deriving DecidableEq, Repr

/-- Element width of an integer type (04 R80). -/
def IntTy.width : IntTy → Nat
  | .s32 | .n32 => 32
  | .s16 | .n16 => 16
  | .s8 | .n8 => 8
  | .s64 | .n64 => 64

/-- True for S8 to S64. -/
def IntTy.signed : IntTy → Bool
  | .s32 | .s16 | .s8 | .s64 => true
  | .n32 | .n16 | .n8 | .n64 => false

/-- The type of its signedness and shape 32, or 64: the shape that a description fixes whatever ITY holds (05 R119, R120). -/
def IntTy.at32 (t : IntTy) : IntTy := if t.signed then .s32 else .n32
def IntTy.at64 (t : IntTy) : IntTy := if t.signed then .s64 else .n64

/-- Element width of a floating-point type (04 R77). -/
def FloatTy.width : FloatTy → Nat
  | .f32 => 32
  | .f16 | .b16 => 16
  | .f64 => 64
  | .e4m3 | .e5m2 => 8

def Ty.width : Ty → Nat
  | .i t => t.width
  | .f t => t.width

/-- Elements in one operand: 32 / W, and one for 64-bit types (04 R81). -/
def Ty.elems (t : Ty) : Nat := if t.width = 64 then 1 else 32 / t.width

/-- Vector registers one operand of the type occupies (02 R39). -/
def Ty.regs (t : Ty) : Nat := if t.width = 64 then 2 else 1

/-- Element width in bits of a matrix format (06 R136). -/
def MatTy.width : MatTy → Nat
  | .f16 | .b16 => 16
  | .e4m3 | .e5m2 | .s8 | .n8 => 8
  | .q4 => 4
  | .f32 => 32

/-- How one source field may be used: the kinds allowed, the type it is read in, the registers it spans. -/
structure SrcSig where
  vec : Bool
  scal : Bool
  win : Bool
  lit : Bool
  ty : Ty
  n : Nat
  align : Nat
  sn : Nat
  deriving DecidableEq, Repr

/-- What the destination field names. -/
inductive DstSig
  | none
  | vec (n align : Nat)
  | scal (n : Nat)
  | pred
  | index
  deriving DecidableEq, Repr

/-- The operands of an instruction: Table 5 of 06, Table 1 of 08, Table 1 of 11, Table 4 of 16 and the like.
`group` marks a group-level instruction, `offset` the offset form of 08 R208, `litUse` a description that names LIT32. -/
structure Sig where
  a : Option SrcSig
  b : Option SrcSig
  c : Option SrcSig
  dst : DstSig
  group : Bool
  offset : Bool
  litUse : Bool
  deriving DecidableEq, Repr

def Sig.none : Sig := ⟨.none, .none, .none, .none, false, false, false⟩

/-- A source of any kind of one type (05 R106). -/
def SrcSig.any (t : Ty) : SrcSig := ⟨true, true, true, true, t, t.regs, t.regs, 1⟩
/-- A group-level source: no vector register (06 R140, 08 R207, 11 R295). -/
def SrcSig.grp (t : Ty) : SrcSig := ⟨false, true, true, true, t, t.regs, t.regs, 1⟩
/-- A source of the chapter-05 shapes, scalar when SCL is set (05 R107). -/
def SrcSig.elem (scl : Bool) (t : Ty) : SrcSig := if scl then SrcSig.grp t else SrcSig.any t
/-- A range of `n` vector registers from a multiple of `al`. -/
def SrcSig.range (n al : Nat) : SrcSig := ⟨true, false, false, false, .i .n32, n, al, 1⟩
/-- A branch target: even vector pair, scalar or window, no literal (11 R295). -/
def SrcSig.target : SrcSig := ⟨true, true, true, false, .i .s64, 2, 2, 1⟩

def Ty.b32 : Ty := .i .n32
def Ty.b64 : Ty := .i .s64

/-- The destination of a chapter-05 instruction (05 R106, R107). -/
def DstSig.elem (scl : Bool) (t : Ty) : DstSig := if scl then .scal 1 else .vec t.regs t.regs

/-! ### Operand tables -/

def sigE1 (scl : Bool) (t : Ty) : Sig :=
  { Sig.none with a := some (.elem scl t), dst := .elem scl t }
def sigE2 (scl : Bool) (t : Ty) : Sig := { sigE1 scl t with b := some (.elem scl t) }
def sigE3 (scl : Bool) (t : Ty) : Sig := { sigE2 scl t with c := some (.elem scl t) }
/-- Two sources and a predicate (05 R115); SCL bars the vector sources here too (05 R107). -/
def sigP2 (scl : Bool) (t u : Ty) : Sig :=
  { Sig.none with a := some (.elem scl t), b := some (.elem scl u), dst := .pred }
/-- Sources of different types. -/
def sigX2 (scl : Bool) (ta tb td : Ty) : Sig :=
  { Sig.none with a := some (.elem scl ta), b := some (.elem scl tb), dst := .elem scl td }
def sigX3 (scl : Bool) (ta tb tc td : Ty) : Sig := { sigX2 scl ta tb td with c := some (.elem scl tc) }
/-- A group-level instruction with up to three sources. -/
def sigG (a b c : Option Ty) (d : DstSig) : Sig :=
  { Sig.none with a := a.map .grp, b := b.map .grp, c := c.map .grp, dst := d, group := true }

/-- Shift counts: element of b, or N32 for 64-bit types (05 R121). -/
def IntTy.countTy (t : IntTy) : Ty := if t.width = 64 then .b32 else .i t

/-- Vector registers of a memory operand of size SZ (08 R211). -/
def Sz.regs : Sz → Nat
  | .b64 => 2
  | .b128 => 4
  | _ => 1

/-- Bytes of an access of size SZ (08 R210). -/
def Sz.bytes : Sz → Nat
  | .b32 => 4
  | .n8 | .s8 => 1
  | .n16 | .s16 => 2
  | .b64 => 8
  | .b128 => 16

def Sz.ty : Sz → Ty
  | .b64 => .b64
  | _ => .b32

def ModM.scl (m : ModM) : Bool := m.opf.getLsbD 11

/-- A global address operand (08 R208). -/
def SrcSig.gaddr (grp : Bool) : SrcSig := ⟨!grp, true, true, true, .b64, 2, 2, 1⟩
/-- A local address operand (08 R208). -/
def SrcSig.laddr (grp : Bool) : SrcSig := ⟨!grp, true, true, true, .b32, 1, 1, 1⟩

def sigLoad (m : ModM) (addr : SrcSig) (grp : Bool) : Sig :=
  { Sig.none with a := some addr, dst := if grp then .scal 1 else .vec m.sz.regs m.sz.regs, group := grp, offset := true }
def SrcSig.data (z : Sz) (grp : Bool) : SrcSig :=
  ⟨!grp, z != .b128, z != .b128, z != .b128, z.ty, z.regs, z.regs, 1⟩
def sigStore (m : ModM) (addr : SrcSig) (grp : Bool) : Sig :=
  { Sig.none with a := some addr, b := some (.data m.sz grp), group := grp, offset := true }

/-- n of LDV and its kin (08 R217). -/
def ModM.lineCount (m : ModM) : Nat := (m.opf.extractLsb' 0 3).toNat + 1
def ModM.lineRegs (m : ModM) : Nat := m.lineCount * m.sz.regs

def ModM.aop (m : ModM) : Nat := (m.opf.extractLsb' 0 4).toNat

/-- The type of an atomic's operand (08 R218, Table 3). -/
def ModM.atomTy (m : ModM) : Ty :=
  if m.aop = 9 then .f (if m.sz = .b64 then .f64 else .f32) else m.sz.ty

def ModX.rowCount (m : ModX) : Nat := (m.opf.extractLsb' 0 6).toNat + 1
def ModX.vfmt (m : ModX) : Nat := (m.opf.extractLsb' 6 2).toNat
/-- Registers that hold a 32-element block (06 R168). -/
def ModX.blockRegs (m : ModX) : Nat := if m.vfmt = 0 then 32 else 16
def ModX.expl (m : ModX) : Bool := m.opf.getLsbD 5

/-- FTY or ITY as the 3-bit type fields of layout V name them (03 R66). -/
def IntTy.ofBits (b : BitVec 3) : IntTy :=
  match b.toNat with
  | 0 => .s32 | 1 => .n32 | 2 => .s16 | 3 => .n16 | 4 => .s8 | 5 => .n8 | 6 => .s64 | _ => .n64
def FloatTy.ofBits (b : BitVec 3) : FloatTy :=
  match b.toNat with
  | 1 => .f16 | 2 => .b16 | 3 => .f64 | 4 => .e4m3 | 5 => .e5m2 | _ => .f32
def ModV.isInt (m : ModV) : Bool := m.opf.getLsbD 3
def ModV.esel (m : ModV) : Nat := (m.opf.extractLsb' 0 2).toNat

/-- Source and destination types of PACK2, PACK4 and UNPK by INT (05 R127). -/
def ModV.ty (m : ModV) (b : BitVec 3) : Ty := if m.isInt then .i (.ofBits b) else .f (.ofBits b)

/-- Source sets of a three-operand product (06 R154). -/
def sigProduct : Sig := sigG (some .b64) (some .b64) (some .b32) .none

/-- The operands of each instruction. The spec names no type for a literal source of shape 64 of LEA and LEAX (05 R119) and of
the matrix path (06 R137): the model reads LIT32 there as S64 (DEDUCED, log 50). -/
def Instr.sig : Instr → Sig
  | .nop _ _ => .none
  | .mov _ m => sigE1 m.scl (.i m.ity)
  | .sel _ m => sigE2 m.scl (.i m.ity)
  | .plop _ _ => { Sig.none with dst := .pred }
  | .ppack _ _ => { Sig.none with dst := .vec 1 1 }
  | .punpk _ _ => { Sig.none with a := some (.any .b32) }
  | .sprd _ m => { Sig.none with a := some ⟨false, false, false, true, .b64, 1, 1, 1⟩,
                                 dst := if m.getLsbD 0 then .scal 1 else .vec 1 1 }
  | .spwr _ _ => { Sig.none with a := some ⟨false, true, false, true, .b64, 1, 1, 1⟩, dst := .index, group := true }
  | .iadd _ m | .isub _ m | .iaddc _ m | .isubb _ m | .imul _ m | .imulh _ m | .idiv _ m | .irem _ m
  | .imin _ m | .imax _ m | .isad _ m | .iavg _ m => sigE2 m.scl (.i m.ity)
  | .imad _ m | .iclamp _ m => sigE3 m.scl (.i m.ity)
  | .imadw _ m =>
      let t : Ty := .i (if m.ity.signed then .s64 else .n64)
      sigX3 m.scl (.i m.ity) (.i m.ity) t t
  | .iabs _ m | .ineg _ m => sigE1 m.scl (.i m.ity)
  | .idot2 _ m | .idot4 _ m =>
      let t : Ty := .i (if m.ity.signed then .s32 else .n32)
      sigX3 m.scl (.i m.ity) (.i m.ity) t t
  | .icmp _ m | .itest _ m => sigP2 m.scl (.i m.ity) (.i m.ity)
  | .iset _ m => sigE2 m.scl (.i m.ity)
  | .lea _ m => sigX2 m.scl .b64 (.i m.ity.at32) .b64
  | .leax _ m => sigX2 m.scl .b64 (.i m.ity.at64) .b64
  | .canon _ m => sigE1 m.scl .b64
  | .pdiff _ m => sigE2 m.scl .b64
  | .and _ m | .or _ m | .xor _ m | .andn _ m | .orn _ m => sigE2 m.scl (.i m.ity)
  | .not _ m | .bswap _ m | .popc _ m | .clz _ m | .ctz _ m | .brev _ m => sigE1 m.scl (.i m.ity)
  | .lop3 _ m => sigE3 m.scl (.i m.ity)
  | .shl _ m | .shr _ m | .shra _ m | .rotl _ m | .rotr _ m => sigX2 m.scl (.i m.ity) m.ity.countTy (.i m.ity)
  | .fshl _ m | .fshr _ m => sigX3 m.scl (.i m.ity) (.i m.ity) .b32 (.i m.ity)
  | .prmt _ m => sigE3 m.scl (.i m.ity.at32)
  | .bfx _ m => sigX2 m.scl (.i m.ity) .b32 (.i m.ity)
  | .bfi _ m => sigX3 m.scl (.i m.ity) .b32 (.i m.ity) (.i m.ity)
  | .bmsk _ m => sigX2 m.scl .b32 .b32 (.i m.ity)
  | .fadd _ m | .fsub _ m | .fmul _ m | .fmin _ m | .fmax _ m | .fminm _ m | .fmaxm _ m | .fcsgn _ m =>
      sigE2 m.scl (.f m.fty)
  | .fma _ m | .fms _ m | .fnma _ m | .fclamp _ m => sigE3 m.scl (.f m.fty)
  | .fabs _ m | .fneg _ m | .frndi _ m | .fxexp _ m | .fxman _ m => sigE1 m.scl (.f m.fty)
  | .fdot2 _ m => sigX3 m.scl (.f m.fty) (.f m.fty) (.f .f32) (.f .f32)
  | .fsum _ m => sigX2 m.scl (.f m.fty) (.f .f32) (.f .f32)
  | .fscale _ m =>
      let bt : Ty := .i (match m.fty.width with | 8 => .s8 | 16 => .s16 | 32 => .s32 | _ => .s64)
      sigX2 m.scl (.f m.fty) bt (.f m.fty)
  | .fcmp _ m => sigP2 m.scl (.f m.fty) (.f m.fty)
  | .fset _ m => sigE2 m.scl (.f m.fty)
  | .fclass _ m => sigP2 m.scl (.f m.fty) .b32
  | .cvt _ m => { Sig.none with a := some (.elem m.scl (.f (.ofBits m.src))), dst := .elem m.scl (.f (.ofBits m.dst)) }
  | .cvtfi _ m => { Sig.none with a := some (.elem m.scl (.f (.ofBits m.src))), dst := .elem m.scl (.i (.ofBits m.dst)) }
  | .cvtif _ m => { Sig.none with a := some (.elem m.scl (.i (.ofBits m.src))), dst := .elem m.scl (.f (.ofBits m.dst)) }
  | .pack2 _ m | .pack4 _ m => sigX2 m.scl (m.ty m.src) (m.ty m.src) .b32
  | .unpk _ m => { Sig.none with a := some (.elem m.scl (m.ty m.src)), dst := .elem m.scl (m.ty m.dst) }
  | .exts _ m | .extz _ m => sigX2 m.scl (.i (.ofBits m.dst)) .b32 (.i (.ofBits m.dst))
  | .rcp _ m | .rsq _ m | .sqrt _ m | .exp2 _ m | .log2 _ m | .exp _ m | .log _ m | .sin _ m | .cos _ m
  | .tanh _ m | .sigm _ m | .erf _ m | .gelu _ m | .splus _ m => sigE1 m.scl (.f m.fty)
  | .fdiv _ m => sigE2 m.scl (.f m.fty)
  | .obres _ _ => sigG (some .b32) (some .b64) .none (.scal 1)
  | .obfill _ _ => sigG (some .b64) (some .b32) .none .none
  | .obdrop _ _ | .obqry _ _ => sigG (some .b64) .none .none (.scal 1)
  | .ixset _ _ => { Sig.none with a := some (.any .b32), b := some (.grp .b64), dst := .vec 1 1 }
  | .ixgath _ m => { sigG (some .b64) .none .none .none with b := some (.range (if m.rowCount > 32 then 2 else 1) 2) }
  | .mma _ _ | .mmaw _ _ | .mdist _ _ => sigProduct
  -- the partner register of the index vector is checked by the machine, which knows M (06 R153)
  | .mmag _ _ => { sigProduct with a := some (.range 1 2) }
  | .mtopk _ _ => sigG (some .b32) (some .b64) .none .none
  | .accld _ _ => { Sig.none with a := some (.any .b32), dst := .vec 1 1 }
  | .accst _ _ => { Sig.none with a := some (.any .b32), b := some (.any .b32) }
  | .accz _ _ => sigG (some .b32) .none .none .none
  | .acclmIn _ _ | .acclmOut _ _ => sigG (some .b32) (some .b32) .none .none
  | .mld _ _ | .mldSca _ _ | .mldt _ _ =>
      { sigG (some .b64) .none .none (.scal 1) with b := some ⟨false, true, false, false, .b64, 1, 1, 2⟩ }
  | .mst _ _ => sigG (some .b32) (some .b64) .none .none
  | .qnt _ m => { Sig.none with a := some (.range m.blockRegs 1), b := if m.expl then some (.any .b32) else .none,
                                dst := .vec 5 1 }
  | .dqnt _ m => { Sig.none with a := some (.range 4 1), b := some (.any .b32), dst := .vec m.blockRegs 1 }
  | .qscl _ _ => { Sig.none with a := some (.any (.f .f32)), dst := .vec 1 1 }
  | .qamax _ m => { Sig.none with a := some (.range m.blockRegs 1), dst := .vec 1 1 }
  | .acccvtI2f _ _ | .acccvtF2i _ _ => sigG (some .b32) (some .b32) .none .none
  | .ld _ m => sigLoad m (.gaddr m.scl) m.scl
  | .st _ m => sigStore m (.gaddr m.scl) m.scl
  | .ldl _ m => sigLoad m (.laddr m.scl) m.scl
  | .stl _ m => sigStore m (.laddr m.scl) m.scl
  | .ldc _ m => sigLoad m (.gaddr false) false
  | .ldw _ m => sigLoad m (.laddr false) false
  | .ldv _ m => { sigLoad m (.gaddr true) true with dst := .vec m.lineRegs m.sz.regs }
  | .stv _ m => { sigStore m (.gaddr true) true with b := some (.range m.lineRegs m.sz.regs) }
  | .ldlv _ m => { sigLoad m (.laddr true) true with dst := .vec m.lineRegs m.sz.regs }
  | .stlv _ m => { sigStore m (.laddr true) true with b := some (.range m.lineRegs m.sz.regs) }
  | .cfill _ _ | .cfillRing _ _ =>
      { Sig.none with a := some ⟨false, true, true, false, .b64, 2, 2, 1⟩, b := some (.range 1 1), dst := .scal 1,
                      group := true, litUse := true }
  | .crel _ _ | .pref _ _ => { Sig.none with a := some (.gaddr false), offset := true }
  | .residNear _ _ | .residHbm _ _ | .residCold _ _ | .seal _ _ | .unseal _ _ =>
      { sigG .none (some .b32) .none .none with a := some (.gaddr true), offset := true }
  | .atom _ m => { Sig.none with a := some (.gaddr false), b := some (.any m.atomTy), offset := true }
  | .atomr _ m => { Sig.none with a := some (.gaddr false), b := some (.any m.atomTy), offset := true,
                                  dst := .vec m.sz.regs m.sz.regs }
  | .cas _ m => { Sig.none with a := some (.gaddr false), b := some (.any m.sz.ty), c := some (.any m.sz.ty),
                                offset := true, dst := .vec m.sz.regs m.sz.regs }
  | .atoml _ m => { Sig.none with a := some (.laddr false), b := some (.any m.atomTy), offset := true,
                                  dst := .vec m.sz.regs m.sz.regs }
  | .casl _ m => { Sig.none with a := some (.laddr false), b := some (.any m.sz.ty), c := some (.any m.sz.ty),
                                 offset := true, dst := .vec m.sz.regs m.sz.regs }
  | .fence _ _ => .none
  | .fencex _ _ => { Sig.none with group := true }
  | .msend _ _ => sigG (some .b32) (some .b32) .none .none
  | .mrecv _ _ | .mprobe _ _ | .bcwait _ _ => sigG .none .none .none (.scal 1)
  | .frgo _ _ => sigG (some .b64) (some .b32) .none (.scal 1)
  | .fradv _ _ | .fradvClose _ _ => sigG (some .b64) (some .b32) .none .none
  | .frwait _ _ => sigG (some .b64) (some (.i .n64)) .none .none
  | .frstat _ _ => sigG (some .b64) .none .none (.scal 1)
  | .bra _ _ | .mset _ _ => { Sig.none with litUse := true }
  | .brx _ _ | .ret _ _ | .msetR _ _ => { Sig.none with a := some .target }
  | .call _ _ => { Sig.none with dst := .vec 2 2, litUse := true }
  | .callx _ _ => { Sig.none with a := some .target, dst := .vec 2 2 }
  | .exit _ _ | .mclr _ _ | .yield _ _ => .none
  | .mrd _ _ => { Sig.none with dst := .vec 2 2 }
  | .sleep _ _ => { Sig.none with a := some (.any .b32) }
  | .shfl _ _ => { Sig.none with a := some (.any .b32), b := some (.any .b32), c := some (.grp .b32), dst := .vec 1 1 }
  | .vote _ _ => { Sig.none with a := some (.grp .b32), dst := .pred }
  | .ballot _ _ => { Sig.none with a := some (.grp .b32), dst := .vec 1 1 }
  | .lscan _ _ | .lred _ _ | .matchL _ _ =>
      { Sig.none with a := some (.any .b32), b := some (.grp .b32), dst := .vec 1 1 }
  | .tbar _ _ | .cbar _ _ | .gangclr _ _ | .scwait _ _ => { Sig.none with group := true }
  | .bcarm _ _ | .gangset _ _ => sigG (some .b32) .none .none .none
  | .fbwait _ _ => sigG (some .b64) (some .b32) .none (.scal 2)
  | .fbwaitRel _ _ => sigG (some .b64) .none .none (.scal 2)
  | .accal _ _ => sigG (some .b32) .none .none (.scal 1)
  | .accfree _ _ => sigG (some .b32) (some .b32) .none .none
  | .launch _ _ => sigG (some .b64) (some .b32) .none (.scal 1)
  | .scall _ _ => sigG (some .b64) (some .b64) .none (.scal 2)
  | .trapI _ _ | .tret _ _ => { Sig.none with group := true }
  | .trapVec _ _ => { Sig.none with group := true, litUse := true }
  | .hpc _ _ | .hmeet _ _ => sigG (some .b32) (some .b64) .none .none
  | .hparkClr _ _ | .hparkSet _ _ | .hparkExit _ _ => sigG (some .b32) .none .none .none
  | .hrd _ m =>
      let sel := (m.extractLsb' 0 4).toNat
      sigG (if 6 ≤ sel ∧ sel ≤ 8 then some .b32 else .none) .none .none (.scal 1)
  | .ptwait _ _ => { Sig.none with a := some (.gaddr true), group := true, offset := true }
  | .tlbprb _ _ => sigG (some .b64) (some .b64) .none (.scal 1)
  | .walk _ _ => sigG (some .b64) (some .b64) .none (.scal 2)
  | .aliasq _ _ | .aliasqClr _ _ | .ctxfrz _ _ | .ctxrst _ _ | .partrst _ _ => sigG (some .b64) .none .none (.scal 1)
  | .qset _ _ | .qsetDef _ _ => sigG (some .b64) (some .b64) .none (.scal 1)
  | .qosset _ _ | .wset _ _ | .wsetRd _ _ => sigG (some .b64) (some .b64) .none (.scal 2)
  | .eqpopSys _ _ | .eqpopMig _ _ => sigG .none .none .none (.scal 4)
  | _ => .none

/-! ### Checks common to all opcodes -/

/-- Is the source a literal that takes LIT32 (02 R37)? Beside an offset, source kinds 0b11 other than A keep their
8-bit value (08 R208). -/
def Ops.usesLit32 (o : Ops) (g : Sig) (s : Src) (isA : Bool) : Bool :=
  s.kind == .lit && o.len != .w64 && (isA || !(g.offset && o.a.kind != .lit))

def codeIf (c : Bool) (n : Nat) : List Nat := if c then [n] else []

/-- Broken constraints of one source field (02 R29, R34, R37 to R39). The codes of LIT32 bits above a narrower type and of a
WSEL that names a source the opcode does not read are the model's (DEDUCED, log 35). -/
def Ops.srcCodes (o : Ops) (g : Sig) (s : Src) (q : Option SrcSig) (isA : Bool) (selNo : BitVec 2) : List Nat :=
  match q with
  | none => codeIf (s != Src.zero) 6 ++ codeIf (o.wsel == selNo) 7
  | some q =>
    codeIf (!(match s.kind with | .vec => q.vec | .scal => q.scal | .win => q.win | .lit => q.lit)) 7 ++
    codeIf (s.trap && (s.kind == .win || s.kind == .lit)) 7 ++
    codeIf (s.kind == .vec && s.val.toNat % q.align != 0) 8 ++
    codeIf (s.kind == .scal && (s.val.toNat ≥ 64 || s.val.toNat % q.sn != 0)) 8 ++
    codeIf (o.usesLit32 g s isA && s.val != 0) 6 ++
    codeIf (o.usesLit32 g s isA && (o.lit >>> (min 32 q.ty.width)) != 0) 6 ++
    codeIf (o.wsel == selNo && s.kind != .win) 7 ++
    codeIf (o.wsel == selNo && s.val.extractLsb' 4 4 != 0) 6

/-- Broken constraints of the destination field (02 R29, R33, R39). -/
def dstCodes (d : BitVec 8) : DstSig → List Nat
  | .none => codeIf (d != 0) 6
  | .vec _ al => codeIf (d.toNat % al != 0) 8
  | .scal n => codeIf (d.toNat ≥ 64 || d.toNat % n != 0) 8
  | .pred => codeIf (d.toNat ≥ 8) 8
  | .index => []

/-- Is LIT32 read by a source or named by the description (02 R29)? -/
def Ops.litRead (o : Ops) (g : Sig) : Bool :=
  g.litUse || (g.offset && o.a.kind != .lit) ||
  (g.a.isSome && o.usesLit32 g o.a true) || (g.b.isSome && o.usesLit32 g o.b false) ||
  (g.c.isSome && o.usesLit32 g o.c false)

/-- Broken constraints of the fields of Tables 2 and 3 of 02_writing. -/
def Ops.codes (o : Ops) (g : Sig) : List Nat :=
  o.srcCodes g o.a g.a true 1 ++ o.srcCodes g o.b g.b false 2 ++ o.srcCodes g o.c g.c false 3 ++
  dstCodes o.dst g.dst ++
  codeIf (!o.litRead g && o.lit != 0) 6 ++
  codeIf (o.wsel == 0 && (o.woff != 0 || o.wwin != 0)) 6 ++
  -- fields that a shorter format does not have are zero
  codeIf (o.len == .w64 && o.lit != 0) 6 ++
  codeIf (o.len != .w128 && (o.c != Src.zero || o.wsel != 0)) 6

/-! ### Modifier constraints of each opcode (codes 6 and 9) -/

def IntTy.is3264 (t : IntTy) : Bool := t.width == 32 || t.width == 64

/-- Layout I with the OPF bits of `mask` defined (05 R109). -/
def ModI.codes (m : ModI) (mask : BitVec 15) (tyOk satOk sclOk : Bool) : List Nat :=
  codeIf (m.opf &&& ~~~mask != 0) 6 ++ codeIf (!tyOk) 9 ++ codeIf (m.sat && !satOk) 9 ++ codeIf (m.scl && !sclOk) 9

def ModF.codes (m : ModF) (tyOk rmOk satOk : Bool) : List Nat :=
  codeIf (m.opf != 0) 6 ++ codeIf (!tyOk) 9 ++ codeIf (m.rm != .rn && !rmOk) 9 ++ codeIf (m.sat && !satOk) 9

def Cc.isInt : Cc → Bool
  | .eq | .ne | .lt | .le | .gt | .ge => true
  | _ => false
def Cc.isEqNe : Cc → Bool
  | .eq | .ne => true
  | _ => false

def ModCI.codes (m : ModCI) (tyOk ccOk sclOk : Bool) : List Nat :=
  codeIf (m.opf != 0) 6 ++ codeIf (!tyOk || !ccOk || (m.scl && !sclOk)) 9
def ModCF.codes (m : ModCF) (tyOk ccOk sclOk : Bool) : List Nat :=
  codeIf (m.opf != 0) 6 ++ codeIf (!tyOk || !ccOk || (m.scl && !sclOk)) 9

/-- Layout V: `typesOk` says the pair of type fields is permitted, `n` bounds ESEL, `useInt` defines OPF bit 12. -/
def ModV.codes (m : ModV) (typesOk rmOk satOk useInt useSel : Bool) (n : Nat) : List Nat :=
  let mask : BitVec 10 := (if useInt then 8 else 0) ||| 3
  codeIf (m.opf &&& ~~~mask != 0) 6 ++ codeIf (!typesOk) 9 ++ codeIf (m.rm != .rn && !rmOk) 9 ++
  codeIf (m.sat && !satOk) 9 ++ codeIf (if useSel then m.esel ≥ n else m.esel != 0) 9

def ModS.codes (m : ModS) : List Nat := codeIf (m.opf != 0) 6

def isFty (b : BitVec 3) : Bool := b.toNat < 6

/-- UNPK's widenings (05 R130, Table 9). -/
def unpkOk (m : ModV) : Bool :=
  if m.isInt then
    match IntTy.ofBits m.dst, IntTy.ofBits m.src with
    | .s32, .s8 | .s32, .s16 | .s32, .n8 | .s32, .n16 | .n32, .n8 | .n32, .n16
    | .s16, .s8 | .s16, .n8 | .n16, .n8 => true
    | _, _ => false
  else
    isFty m.src && isFty m.dst &&
    match FloatTy.ofBits m.dst, FloatTy.ofBits m.src with
    | .f32, .f16 | .f32, .b16 | .f32, .e4m3 | .f32, .e5m2
    | .f16, .e4m3 | .f16, .e5m2 | .b16, .e4m3 | .b16, .e5m2 => true
    | _, _ => false

def pack2Ok (m : ModV) : Bool :=
  if m.isInt then
    (match IntTy.ofBits m.src with | .s32 | .n32 => true | _ => false) &&
    (match IntTy.ofBits m.dst with | .s16 | .n16 => true | _ => false)
  else m.src == 0 && (m.dst == 1 || m.dst == 2)

def pack4Ok (m : ModV) : Bool :=
  if m.isInt then
    (match IntTy.ofBits m.src with | .s16 | .n16 => true | _ => false) &&
    (match IntTy.ofBits m.dst with | .s8 | .n8 => true | _ => false)
  else (m.src == 1 || m.src == 2) && (m.dst == 4 || m.dst == 5)

/-- Layout M: shared fields and OPF by mask (03 R66, R69). `rd`, `wr` say what the opcode does to memory;
`anyScope` lets SCOPE be other than THREAD with RLX; `loc` bounds SCOPE by CLUSTER. -/
def ModM.codes (m : ModM) (mask : BitVec 12) (rd wr anyScope loc : Bool) : List Nat :=
  codeIf (m.opf &&& ~~~mask != 0) 6 ++
  codeIf ((m.ord == .acq || m.ord == .ar) && !rd) 9 ++
  codeIf ((m.ord == .rel || m.ord == .ar) && !wr) 9 ++
  codeIf (m.scope != .thread && m.ord == .rlx && !anyScope) 9 ++
  codeIf (loc && (m.scope == .modul || m.scope == .domain || m.scope == .system)) 9

/-- Shared fields of layout M that the opcode does not use must be zero (03 R66). -/
def ModM.noSz (m : ModM) : List Nat := codeIf (m.sz != .b32) 6
def ModM.noOrd (m : ModM) (n : Nat) : List Nat := codeIf (m.ord != .rlx || m.scope != .thread) n

def ModX.plain (m : ModX) : List Nat := codeIf (m.acc || m.bfmt != .f16 || m.afmt != .f16) 6
def ModX.mask (m : ModX) (k : BitVec 13) : List Nat := codeIf (m.opf &&& ~~~k != 0) 6

def MatTy.isFloatMma : MatTy → Bool
  | .f16 | .b16 | .e4m3 | .e5m2 | .q4 | .f32 => true
  | _ => false
def MatTy.isIntMma : MatTy → Bool
  | .s8 | .n8 | .q4 => true
  | _ => false

/-- The product forms of 06 R154, Table 9: operation 0 MMA, 1 MMAW, 2 MDIST, 3 MMAG. -/
def productOk (op : Nat) (acc : Bool) (a b : MatTy) : Bool :=
  match op with
  | 0 => if acc then a.isIntMma && b.isIntMma else a.isFloatMma && b.isFloatMma
  | 1 => acc && a.isIntMma && b.isIntMma
  | 2 => if acc then (a == .s8 || a == .n8) && (b == .s8 || b == .n8)
         else (a == .e4m3 || a == .e5m2) && (b == .e4m3 || b == .e5m2)
  | _ => a != .q4 && (if acc then a.isIntMma && b.isIntMma else a.isFloatMma && b.isFloatMma)

def ModX.productCodes (m : ModX) (op : Nat) : List Nat :=
  m.mask 1 ++ codeIf (!productOk op m.acc m.afmt m.bfmt) 9

/-- OFMT, INT and SAT of ACCLM.OUT and MST (06 R166, Table 11). -/
def ModX.ofmtOk (m : ModX) : Bool :=
  let ofmt := (m.opf.extractLsb' 1 3).toNat
  let int := m.opf.getLsbD 4
  let sat := m.opf.getLsbD 5
  if ofmt = 0 then !sat else if ofmt ≤ 4 then !int else int

/-- Length in bytes of an instruction (02 R23). -/
def Len.bytes : Len → Nat
  | .w64 => 8
  | .w96 => 12
  | .w128 => 16

/-- PC-relative forms (11 R296): the OPF bits of `field` are the offset in the 64-bit form and zero otherwise. -/
def relCodes (o : Ops) (m field : BitVec 20) : List Nat :=
  codeIf (o.len != .w64 && m &&& field != 0) 6 ++ codeIf (o.len != .w64 && o.lit.extractLsb' 0 2 != 0) 9

def maskO (m k : BitVec 20) : List Nat := codeIf (m &&& ~~~k != 0) 6

/-- n of CFILL (08 R223). -/
def cfillCount (o : Ops) (m : ModM) : Nat :=
  if o.len = .w64 then (m.opf.extractLsb' 1 11).toNat + 1 else (o.lit.extractLsb' 0 16).toNat

/-- The code of LIT32 bits 31:16 is the model's (DEDUCED, log 35). -/
def cfillCodes (o : Ops) (m : ModM) : List Nat :=
  m.noSz ++ m.noOrd 9 ++
  codeIf (o.len != .w64 && (m.opf.extractLsb' 1 11 != 0 || o.lit.extractLsb' 16 16 != 0)) 6 ++
  codeIf (cfillCount o m == 0) 9

/-- A split row stands for words with this bit value; a word is decoded to the row its bit names. -/
def splitBit (b want : Bool) : List Nat := codeIf (b != want) 9

/-- B128 has no scalar destination or data source (08 R211). -/
def sclB128 (m : ModM) : List Nat := codeIf (m.scl && m.sz == .b128) 7

/-- OBDROP and OBQRY: a literal handle with bits 63:16 set (06 R149). -/
def handleLit (o : Ops) : List Nat :=
  codeIf (o.a.kind == .lit && (if o.len = .w64 then o.a.val.msb else o.lit.extractLsb' 16 16 != 0)) 9

/-- Does the opcode not use SZ, so that it must be zero (03 R66)? -/
def Instr.noSz : Instr → Bool
  | .cfill _ _ | .cfillRing _ _ | .crel _ _ | .pref _ _ | .residNear _ _ | .residHbm _ _ | .residCold _ _ | .seal _ _
  | .unseal _ _ | .fence _ _ | .fencex _ _ => true
  | _ => false

/-- Does the opcode not use SCOPE, its description giving no code of its own for it (03 R66)? -/
def Instr.noScope : Instr → Bool
  | .pref _ _ | .residNear _ _ | .residHbm _ _ | .residCold _ _ | .seal _ _ | .unseal _ _ => true
  | _ => false

/-- Constraints of each opcode's own description. SAT on FRNDI, which rounds to integral and not by Round, is taken as not
permitted (DEDUCED, log 35). -/
def Instr.ownCodes : Instr → List Nat
  -- every field but LEN, OPC, GP and GN is zero (02 R46), WSEL too
  | .nop o m => codeIf (m != 0) 6 ++ codeIf (o.wsel != 0) 6
  | .mov _ m => m.codes 0 true false true
  | .sel _ m => m.codes 0x7800 true false false
  | .plop _ m => maskO m 0x7FFFC
  | .ppack _ m => maskO m 0
  | .punpk _ m => maskO m 0x7F
  | .sprd o m => maskO m 1 ++ codeIf (o.a.val.toNat > 0x0D) 9 ++ codeIf (m.getLsbD 0 && o.a.val == 0) 9
  | .spwr o m => maskO m 0 ++ codeIf (o.dst != 8 && o.dst != 9) 9
  | .iadd _ m | .isub _ m | .imul _ m | .imad _ m | .ineg _ m => m.codes 0 true true true
  | .iaddc _ m | .isubb _ m =>
      m.codes 0x7F00 m.ity.is3264 false false ++
      codeIf (m.opf.getLsbD 8 && m.opf.extractLsb' 12 3 != 0) 9
  | .imulh _ m | .imin _ m | .imax _ m | .isad _ m | .iavg _ m | .iclamp _ m => m.codes 0 true false true
  | .imadw _ m => m.codes 0 (m.ity.width == 32) true true
  | .idiv _ m => m.codes 0 m.ity.is3264 true true
  | .irem _ m => m.codes 0 m.ity.is3264 false true
  | .iabs _ m => m.codes 0 m.ity.signed true true
  | .idot2 _ m => m.codes 0 (m.ity.width == 16) true true
  | .idot4 _ m => m.codes 0 (m.ity.width == 8) true true
  | .icmp _ m => m.codes m.ity.is3264 m.cc.isInt false
  | .iset _ m => m.codes true m.cc.isInt true
  | .itest _ m => m.codes m.ity.is3264 m.cc.isEqNe false
  | .lea _ m => m.codes 0x7000 (m.ity.width == 32) false true
  | .leax _ m => m.codes 0x7000 (m.ity.width == 64) false true
  | .canon _ m => m.codes 0x7000 (m.ity == .s64) false true ++ codeIf (m.opf.extractLsb' 12 3 != 0) 9
  | .pdiff _ m => m.codes 0x7000 (m.ity == .s64) false true
  | .and _ m | .or _ m | .xor _ m | .not _ m | .andn _ m | .orn _ m | .shr _ m | .shra _ m | .rotl _ m | .rotr _ m
  | .bswap _ m | .popc _ m | .clz _ m | .ctz _ m | .brev _ m => m.codes 0 true false true
  | .lop3 _ m => m.codes 0x7F80 true false true
  | .shl _ m => m.codes 0 true true true
  | .fshl _ m | .fshr _ m | .bfx _ m | .bfi _ m | .bmsk _ m => m.codes 0 m.ity.is3264 false true
  | .prmt _ m => m.codes 0 (m.ity.width == 32) false true
  | .fadd _ m | .fsub _ m | .fmul _ m | .fma _ m | .fms _ m | .fnma _ m | .fscale _ m => m.codes true true true
  | .fmin _ m | .fmax _ m | .fminm _ m | .fmaxm _ m | .fabs _ m | .fneg _ m | .fcsgn _ m | .fclamp _ m
  | .fxexp _ m | .fxman _ m => m.codes true false false
  | .fdot2 _ m => m.codes (m.fty.width == 16) true true
  | .fsum _ m => m.codes (m.fty.width ≤ 16) true true
  | .frndi _ m => m.codes true true false
  | .fcmp _ m => m.codes (m.fty == .f32 || m.fty == .f64) true false
  | .fset _ m => m.codes true true true
  | .fclass _ m => m.codes (m.fty == .f32 || m.fty == .f64) m.cc.isEqNe false
  | .cvt _ m => m.codes (isFty m.src && isFty m.dst) true true false true (Ty.f (.ofBits m.src)).elems
  | .cvtfi _ m => m.codes (isFty m.src) true false false true (Ty.f (.ofBits m.src)).elems
  | .cvtif _ m => m.codes (isFty m.dst) true true false true (Ty.i (.ofBits m.src)).elems
  | .pack2 _ m => m.codes (pack2Ok m) (!m.isInt) true true false 0
  | .pack4 _ m => m.codes (pack4Ok m) (!m.isInt) true true false 0
  | .unpk _ m => m.codes (unpkOk m) false false true true (m.ty m.src).elems
  | .exts _ m | .extz _ m =>
      m.codes ((IntTy.ofBits m.dst).is3264 && m.src == 0) false false false false 0
  | .rcp _ m | .rsq _ m | .sqrt _ m | .fdiv _ m | .exp2 _ m | .log2 _ m | .exp _ m | .log _ m | .sin _ m | .cos _ m
  | .tanh _ m | .sigm _ m | .erf _ m | .gelu _ m | .splus _ m => m.codes
  | .obres _ m => m.mask 0 ++ codeIf (m.acc || m.bfmt != .f16) 6
  | .obfill _ m => m.plain
  | .obdrop o m | .obqry o m => m.plain ++ m.mask 0 ++ handleLit o
  | .ixset _ m | .accz _ m => m.plain ++ m.mask 0
  | .ixgath _ m => m.plain ++ m.mask 0x3F
  | .mma _ m => m.productCodes 0
  | .mmag _ m => m.productCodes 3
  | .mmaw _ m => m.productCodes 1
  | .mdist _ m => m.productCodes 2
  | .mtopk _ m => m.plain ++ m.mask 0x3FF ++ codeIf (m.opf.getLsbD 8 && !m.opf.getLsbD 7) 9
  | .accld _ m | .accst _ m => m.plain ++ m.mask 1
  | .acclmIn _ m => m.plain ++ m.mask 0x3F ++ codeIf (m.opf.extractLsb' 1 5 != 0) 9 ++ splitBit (m.opf.getLsbD 0) false
  | .acclmOut _ m => m.plain ++ m.mask 0x3F ++ codeIf (!m.ofmtOk) 9 ++ splitBit (m.opf.getLsbD 0) true
  | .mld _ m => m.plain ++ m.mask 0x7F ++ splitBit (m.opf.getLsbD 6) false
  | .mldSca _ m => m.plain ++ m.mask 0x7F ++ splitBit (m.opf.getLsbD 6) true
  | .mldt _ m => m.plain ++ m.mask 0x7F ++ codeIf (m.opf.getLsbD 6) 9
  | .mst _ m => m.plain ++ m.mask 0x3E ++ codeIf (!m.ofmtOk) 9
  | .qnt _ m => m.plain ++ m.mask 0xFF ++ codeIf (m.vfmt == 3) 9 ++ codeIf (m.opf.getLsbD 4 && m.opf.extractLsb' 2 2 != 0) 9
  -- EXP is a field that Table 12 lets QNT alone use: unused here (6), and legal only on QNT (9)
  | .dqnt _ m | .qamax _ m => m.plain ++ m.mask 0xC0 ++ codeIf (m.vfmt == 3) 9 ++ codeIf m.expl 9
  | .qscl _ m => m.plain ++ m.mask 0x03 ++ codeIf m.expl 9
  | .acccvtI2f _ m => m.plain ++ m.mask 7 ++ splitBit (m.opf.getLsbD 0) false
  | .acccvtF2i _ m => m.plain ++ m.mask 7 ++ splitBit (m.opf.getLsbD 0) true
  | .ld _ m => m.codes 0x800 true false false false ++ sclB128 m
  | .st _ m => m.codes 0x800 false true false false ++ sclB128 m ++ codeIf (m.sz == .s8 || m.sz == .s16) 9
  | .ldl _ m => m.codes 0x800 true false false true ++ sclB128 m
  | .stl _ m => m.codes 0x800 false true false true ++ sclB128 m ++ codeIf (m.sz == .s8 || m.sz == .s16) 9
  | .ldc _ m => m.codes 0 true false false false
  | .ldw _ m => m.codes 0xF true true true false ++ m.noOrd 9
  | .ldv _ m => m.codes 0xF true false false false ++ codeIf (m.sz != .b32 && m.sz != .b64) 9
  | .stv _ m => m.codes 0xF false true false false ++ codeIf (m.sz != .b32 && m.sz != .b64) 9
  | .ldlv _ m => m.codes 0xF true false false true ++ codeIf (m.sz != .b32 && m.sz != .b64) 9
  | .stlv _ m => m.codes 0xF false true false true ++ codeIf (m.sz != .b32 && m.sz != .b64) 9
  | .cfill o m => cfillCodes o m ++ splitBit (m.opf.getLsbD 0) false
  | .cfillRing o m => cfillCodes o m ++ splitBit (m.opf.getLsbD 0) true
  | .crel _ m => m.codes 0 false true false false ++ m.noSz
  | .pref _ m => m.codes 0 true true true false ++ m.noSz ++ m.noOrd 6
  | .residNear _ m => m.codes 3 true true true false ++ m.noSz ++ m.noOrd 6 ++ splitBit (m.opf.extractLsb' 0 2 == 0) true
  | .residHbm _ m => m.codes 3 true true true false ++ m.noSz ++ m.noOrd 6 ++ splitBit (m.opf.extractLsb' 0 2 == 1) true
  | .residCold _ m => m.codes 3 true true true false ++ m.noSz ++ m.noOrd 6 ++ splitBit (m.opf.extractLsb' 0 2 == 2) true
  | .seal _ m | .unseal _ m => m.codes 0 true true true false ++ m.noSz ++ m.noOrd 6
  | .atom _ m | .atomr _ m =>
      m.codes 0xF true true true false ++ codeIf (m.aop ≥ 10) 9 ++ codeIf (m.sz != .b32 && m.sz != .b64) 9
  | .cas _ m => m.codes 0 true true true false ++ codeIf (m.sz != .b32 && m.sz != .b64) 9
  | .atoml _ m => m.codes 0xF true true false true ++ codeIf (m.aop ≥ 10) 9 ++ codeIf (m.sz != .b32 && m.sz != .b64) 9
  | .casl _ m => m.codes 0 true true false true ++ codeIf (m.sz != .b32 && m.sz != .b64) 9
  | .fence _ m => m.codes 0 true true true false ++ m.noSz
  | .fencex _ m =>
      m.codes 0x3F true true true false ++ m.noSz ++
      codeIf ((m.opf.extractLsb' 0 3).toNat ≥ 6 || (m.opf.extractLsb' 3 3).toNat ≥ 6) 9 ++
      codeIf (m.ord != .rlx || m.scope == .thread || m.scope == .group) 9
  | .msend _ _ => []
  | .mrecv _ m | .mprobe _ m | .bcarm _ m | .bcwait _ m => maskO m 0xF
  | .frgo _ m | .frwait _ m | .frstat _ m => maskO m 0
  | .fradv _ m => maskO m 1 ++ splitBit (m.getLsbD 0) false
  | .fradvClose _ m => maskO m 1 ++ splitBit (m.getLsbD 0) true
  | .bra o m | .call o m => relCodes o m 0xFFFFF
  | .brx _ m | .callx _ m | .ret _ m | .exit _ m | .mrd _ m | .mclr _ m | .yield _ m | .sleep _ m | .matchL _ m
  | .gangset _ m | .gangclr _ m | .accal _ m | .accfree _ m | .launch _ m | .scwait _ m => maskO m 0
  | .mset o m => relCodes o m 0xFFFFE ++ splitBit (m.getLsbD 0) false
  | .msetR _ m => maskO m 1 ++ splitBit (m.getLsbD 0) true
  | .shfl _ m => maskO m 3
  | .vote _ m => maskO m 0x3F ++ codeIf (m.extractLsb' 0 2 == 3) 9
  | .ballot _ m => maskO m 0x3C
  | .lscan _ m => maskO m 0x1F ++ codeIf (m.getLsbD 3 && (m.extractLsb' 0 3).toNat ≥ 3) 9
  | .lred _ m => maskO m 0xF ++ codeIf (m.getLsbD 3 && (m.extractLsb' 0 3).toNat ≥ 3) 9
  | .tbar _ m | .cbar _ m => maskO m 3
  | .fbwait _ m => maskO m 1 ++ splitBit (m.getLsbD 0) false
  | .fbwaitRel _ m => maskO m 1 ++ splitBit (m.getLsbD 0) true
  | .scall _ m => maskO m 0x1FFF
  | .trapI _ m => maskO m 0xFFFF1 ++ splitBit (m.getLsbD 0) false
  | .trapVec o m => relCodes o m 0xFFFFE ++ splitBit (m.getLsbD 0) true
  | .tret _ m | .hpc _ m | .hmeet _ m => maskO m 0
  | .hparkClr _ m => maskO m 3 ++ splitBit (m.extractLsb' 0 2 == 0) true
  | .hparkSet _ m => maskO m 3 ++ splitBit (m.extractLsb' 0 2 == 1) true
  | .hparkExit _ m => maskO m 3 ++ splitBit (m.extractLsb' 0 2 == 2) true
  | .hrd _ m => maskO m 0xF ++ codeIf ((m.extractLsb' 0 4).toNat ≥ 9) 9
  | .ptwait _ m | .tlbprb _ m | .walk _ m | .ctxfrz _ m | .ctxrst _ m | .partrst _ m | .qosset _ m => maskO m 0
  | .aliasq _ m | .qset _ m | .wset _ m => maskO m 1 ++ splitBit (m.getLsbD 0) false
  | .aliasqClr _ m | .qsetDef _ m | .wsetRd _ m => maskO m 1 ++ splitBit (m.getLsbD 0) true
  | .eqpopSys _ m => maskO m 3 ++ splitBit (m.extractLsb' 0 2 == 0) true
  | .eqpopMig _ m => maskO m 3 ++ splitBit (m.extractLsb' 0 2 == 1) true
  | _ => []

/-- The operand fields of an instruction that has them. -/
def Instr.ops? : Instr → Option Ops
  | .nop o _ => some o
  | .mov o _ => some o
  | .sel o _ => some o
  | .plop o _ => some o
  | .ppack o _ => some o
  | .punpk o _ => some o
  | .sprd o _ => some o
  | .spwr o _ => some o
  | .iadd o _ => some o
  | .isub o _ => some o
  | .iaddc o _ => some o
  | .isubb o _ => some o
  | .imul o _ => some o
  | .imulh o _ => some o
  | .imad o _ => some o
  | .imadw o _ => some o
  | .idiv o _ => some o
  | .irem o _ => some o
  | .imin o _ => some o
  | .imax o _ => some o
  | .iabs o _ => some o
  | .ineg o _ => some o
  | .isad o _ => some o
  | .iavg o _ => some o
  | .idot2 o _ => some o
  | .idot4 o _ => some o
  | .iclamp o _ => some o
  | .icmp o _ => some o
  | .iset o _ => some o
  | .itest o _ => some o
  | .lea o _ => some o
  | .leax o _ => some o
  | .canon o _ => some o
  | .pdiff o _ => some o
  | .and o _ => some o
  | .or o _ => some o
  | .xor o _ => some o
  | .not o _ => some o
  | .andn o _ => some o
  | .orn o _ => some o
  | .lop3 o _ => some o
  | .shl o _ => some o
  | .shr o _ => some o
  | .shra o _ => some o
  | .rotl o _ => some o
  | .rotr o _ => some o
  | .fshl o _ => some o
  | .fshr o _ => some o
  | .prmt o _ => some o
  | .bswap o _ => some o
  | .popc o _ => some o
  | .clz o _ => some o
  | .ctz o _ => some o
  | .brev o _ => some o
  | .bfx o _ => some o
  | .bfi o _ => some o
  | .bmsk o _ => some o
  | .fadd o _ => some o
  | .fsub o _ => some o
  | .fmul o _ => some o
  | .fma o _ => some o
  | .fms o _ => some o
  | .fnma o _ => some o
  | .fmin o _ => some o
  | .fmax o _ => some o
  | .fminm o _ => some o
  | .fmaxm o _ => some o
  | .fabs o _ => some o
  | .fneg o _ => some o
  | .fcsgn o _ => some o
  | .fclamp o _ => some o
  | .fdot2 o _ => some o
  | .fsum o _ => some o
  | .fcmp o _ => some o
  | .fset o _ => some o
  | .fclass o _ => some o
  | .frndi o _ => some o
  | .fscale o _ => some o
  | .fxexp o _ => some o
  | .fxman o _ => some o
  | .cvt o _ => some o
  | .cvtfi o _ => some o
  | .cvtif o _ => some o
  | .pack2 o _ => some o
  | .pack4 o _ => some o
  | .unpk o _ => some o
  | .exts o _ => some o
  | .extz o _ => some o
  | .rcp o _ => some o
  | .rsq o _ => some o
  | .sqrt o _ => some o
  | .fdiv o _ => some o
  | .exp2 o _ => some o
  | .log2 o _ => some o
  | .exp o _ => some o
  | .log o _ => some o
  | .sin o _ => some o
  | .cos o _ => some o
  | .tanh o _ => some o
  | .sigm o _ => some o
  | .erf o _ => some o
  | .gelu o _ => some o
  | .splus o _ => some o
  | .obres o _ => some o
  | .obfill o _ => some o
  | .obdrop o _ => some o
  | .obqry o _ => some o
  | .ixset o _ => some o
  | .ixgath o _ => some o
  | .mma o _ => some o
  | .mmag o _ => some o
  | .mmaw o _ => some o
  | .mdist o _ => some o
  | .mtopk o _ => some o
  | .accld o _ => some o
  | .accst o _ => some o
  | .accz o _ => some o
  | .acclmIn o _ => some o
  | .acclmOut o _ => some o
  | .mld o _ => some o
  | .mldSca o _ => some o
  | .mldt o _ => some o
  | .mst o _ => some o
  | .qnt o _ => some o
  | .dqnt o _ => some o
  | .qscl o _ => some o
  | .qamax o _ => some o
  | .acccvtI2f o _ => some o
  | .acccvtF2i o _ => some o
  | .ld o _ => some o
  | .st o _ => some o
  | .ldl o _ => some o
  | .stl o _ => some o
  | .ldc o _ => some o
  | .ldw o _ => some o
  | .ldv o _ => some o
  | .stv o _ => some o
  | .ldlv o _ => some o
  | .stlv o _ => some o
  | .cfill o _ => some o
  | .cfillRing o _ => some o
  | .crel o _ => some o
  | .pref o _ => some o
  | .residNear o _ => some o
  | .residHbm o _ => some o
  | .residCold o _ => some o
  | .seal o _ => some o
  | .unseal o _ => some o
  | .atom o _ => some o
  | .atomr o _ => some o
  | .cas o _ => some o
  | .atoml o _ => some o
  | .casl o _ => some o
  | .fence o _ => some o
  | .fencex o _ => some o
  | .msend o _ => some o
  | .mrecv o _ => some o
  | .mprobe o _ => some o
  | .frgo o _ => some o
  | .fradv o _ => some o
  | .fradvClose o _ => some o
  | .frwait o _ => some o
  | .frstat o _ => some o
  | .bra o _ => some o
  | .brx o _ => some o
  | .call o _ => some o
  | .callx o _ => some o
  | .ret o _ => some o
  | .exit o _ => some o
  | .mset o _ => some o
  | .msetR o _ => some o
  | .mrd o _ => some o
  | .mclr o _ => some o
  | .yield o _ => some o
  | .sleep o _ => some o
  | .shfl o _ => some o
  | .vote o _ => some o
  | .ballot o _ => some o
  | .lscan o _ => some o
  | .lred o _ => some o
  | .matchL o _ => some o
  | .tbar o _ => some o
  | .cbar o _ => some o
  | .bcarm o _ => some o
  | .bcwait o _ => some o
  | .fbwait o _ => some o
  | .fbwaitRel o _ => some o
  | .gangset o _ => some o
  | .gangclr o _ => some o
  | .accal o _ => some o
  | .accfree o _ => some o
  | .launch o _ => some o
  | .scall o _ => some o
  | .scwait o _ => some o
  | .trapI o _ => some o
  | .trapVec o _ => some o
  | .tret o _ => some o
  | .hpc o _ => some o
  | .hmeet o _ => some o
  | .hparkClr o _ => some o
  | .hparkSet o _ => some o
  | .hparkExit o _ => some o
  | .hrd o _ => some o
  | .ptwait o _ => some o
  | .tlbprb o _ => some o
  | .walk o _ => some o
  | .aliasq o _ => some o
  | .aliasqClr o _ => some o
  | .ctxfrz o _ => some o
  | .ctxrst o _ => some o
  | .partrst o _ => some o
  | .qset o _ => some o
  | .qsetDef o _ => some o
  | .qosset o _ => some o
  | .wset o _ => some o
  | .wsetRd o _ => some o
  | .eqpopSys o _ => some o
  | .eqpopMig o _ => some o
  | _ => none

/-- The lengths R62 permits: the three-source opcodes are 128-bit only, SPRD 64-bit only, SPWR 64- or 96-bit. -/
def Instr.lenOk : Instr → Bool
  | .imad o _ | .imadw o _ | .idot2 o _ | .idot4 o _ | .iclamp o _ | .lop3 o _ | .fshl o _ | .fshr o _ | .prmt o _ | .bfi o _ | .fma o _
  | .fms o _ | .fnma o _ | .fclamp o _ | .fdot2 o _ | .shfl o _ | .cas o _ | .casl o _ | .mma o _ | .mmag o _ | .mmaw o _ | .mdist o _ =>
    o.len == .w128
  | .sprd o _ => o.len == .w64
  | .spwr o _ => o.len != .w128
  | _ => true

/-- The classes of R61 that R50 (d) counts. -/
inductive PairClass
  | plain
  | counted
  deriving DecidableEq, Repr

/-- Pairable opcodes (03 R61, R62) with whether they are of the special-function, conversion or cross-lane class. -/
def Instr.pairClass? : Instr → Option PairClass
  | .mov _ _ | .sel _ _ | .iadd _ _ | .isub _ _ | .iaddc _ _ | .isubb _ _ | .imul _ _ | .imulh _ _
  | .imin _ _ | .imax _ _ | .iabs _ _ | .ineg _ _ | .isad _ _ | .iavg _ _ | .icmp _ _ | .iset _ _
  | .itest _ _ | .lea _ _ | .leax _ _ | .canon _ _ | .pdiff _ _ | .and _ _ | .or _ _ | .xor _ _ | .not _ _
  | .andn _ _ | .orn _ _ | .shl _ _ | .shr _ _ | .shra _ _ | .rotl _ _ | .rotr _ _ | .bswap _ _ | .popc _ _
  | .clz _ _ | .ctz _ _ | .brev _ _ | .bfx _ _ | .bmsk _ _ | .fadd _ _ | .fsub _ _ | .fmul _ _ | .fmin _ _
  | .fmax _ _ | .fminm _ _ | .fmaxm _ _ | .fabs _ _ | .fneg _ _ | .fcsgn _ _ | .fsum _ _ | .fcmp _ _
  | .fset _ _ | .fclass _ _ | .frndi _ _ | .fscale _ _ | .fxexp _ _ | .fxman _ _ => some .plain
  | .cvt _ _ | .cvtfi _ _ | .cvtif _ _ | .pack2 _ _ | .pack4 _ _ | .unpk _ _ | .exts _ _ | .extz _ _
  | .rcp _ _ | .rsq _ _ | .sqrt _ _ | .exp2 _ _ | .log2 _ _ | .exp _ _ | .log _ _ | .sin _ _ | .cos _ _
  | .tanh _ _ | .sigm _ _ | .erf _ _ | .gelu _ _ | .splus _ _ | .lscan _ _ | .lred _ _ => some .counted
  | _ => none

/-- Vector source registers of one half of a pair word, one per source field (02 R50 (b), (c)). A 64-bit pair counts in the bank
of its even register alone, which the spec leaves open (DEDUCED, log 50). -/
def Instr.vecSources (i : Instr) : List Nat :=
  match i.ops? with
  | none => []
  | some o =>
    let g := i.sig
    (if g.a.isSome && o.a.kind == .vec then [o.a.val.toNat] else []) ++
    (if g.b.isSome && o.b.kind == .vec then [o.b.val.toNat] else [])

/-- The destinations of a half: (register file, number), a 64-bit pair as both its registers; file 0 vector, 1 scalar,
2 predicate. The carry-out predicate of IADDC and ISUBB counts (05 R111). -/
def Instr.dests (i : Instr) : List (Nat × Nat) :=
  match i.ops? with
  | none => []
  | some o =>
    (match i.sig.dst with
      | .vec n _ => (List.range n).map fun k => (0, o.dst.toNat + k)
      | .scal n => (List.range n).map fun k => (1, o.dst.toNat + k)
      | .pred => [(2, o.dst.toNat)]
      | _ => []) ++
    (match i with
      | .iaddc _ m | .isubb _ m => [(2, (m.opf.extractLsb' 9 3).toNat)]
      | _ => [])

/-- The limits (a) to (e) of 02 R50. -/
def pairLimits (x y : Instr) : Bool :=
  let v := x.vecSources ++ y.vecSources
  x.pairClass?.isSome && y.pairClass?.isSome &&
  (List.range 4).all (fun k => (v.filter fun r => r % 4 == k).length ≤ 2) &&
  v.length ≤ 3 &&
  !(x.pairClass? == some .counted && y.pairClass? == some .counted) &&
  x.dests.all fun d => !y.dests.contains d

/-- Broken constraints of check 4 of an instruction that is no pair word. -/
def Instr.codes1 (i : Instr) : List Nat :=
  (match i.ops? with
    | some o => o.codes i.sig
    | none => []) ++ i.ownCodes

/-- Modifier bits 19:3 of a pairable operation are zero: every shared field above bit 2 has code 0 (02 R49, 03 R66). -/
def Instr.modLow : Instr → Bool
  | .mov _ m | .sel _ m | .iadd _ m | .isub _ m | .iaddc _ m | .isubb _ m | .imul _ m | .imulh _ m
  | .imin _ m | .imax _ m | .iabs _ m | .ineg _ m | .isad _ m | .iavg _ m
  | .lea _ m | .leax _ m | .canon _ m | .pdiff _ m | .and _ m | .or _ m | .xor _ m | .not _ m
  | .andn _ m | .orn _ m | .shl _ m | .shr _ m | .shra _ m | .rotl _ m | .rotr _ m | .bswap _ m | .popc _ m
  | .clz _ m | .ctz _ m | .brev _ m | .bfx _ m | .bmsk _ m => !m.scl && m.opf == 0 && !m.sat
  | .icmp _ m | .iset _ m | .itest _ m => !m.scl && m.opf == 0 && m.cc == .eq
  | .fadd _ m | .fsub _ m | .fmul _ m | .fmin _ m
  | .fmax _ m | .fminm _ m | .fmaxm _ m | .fabs _ m | .fneg _ m | .fcsgn _ m | .fsum _ m
  | .frndi _ m | .fscale _ m | .fxexp _ m | .fxman _ m => !m.scl && m.opf == 0 && !m.sat && m.rm == .rn
  | .fcmp _ m | .fset _ m | .fclass _ m => !m.scl && m.opf == 0 && m.cc == .eq
  | .cvt _ m | .cvtfi _ m | .cvtif _ m | .pack2 _ m | .pack4 _ m | .unpk _ m | .exts _ m | .extz _ m =>
      !m.scl && m.opf == 0 && !m.sat && m.rm == .rn && m.src == 0
  | .rcp _ m | .rsq _ m | .sqrt _ m | .exp2 _ m | .log2 _ m | .exp _ m | .log _ m | .sin _ m | .cos _ m
  | .tanh _ m | .sigm _ m | .erf _ m | .gelu _ m | .splus _ m => !m.scl && m.opf == 0 && !m.fast
  | .lscan _ m | .lred _ m => m.extractLsb' 3 17 == 0
  | _ => false

/-- An operation of a pair word is written in the 64-bit form with modifier bits 2:0 alone and register sources
(02 R49). -/
def Instr.pairForm (i : Instr) : Bool :=
  i.modLow &&
  match i.ops? with
  | none => false
  | some o =>
    o.len == .w64 && (o.a.kind == .vec || o.a.kind == .scal) && (o.b.kind == .vec || o.b.kind == .scal)

/-- All broken constraints of check 4 (03 R72 names the codes; R76 for halves that are not pairable). -/
def Instr.violations : Instr → List Nat
  | .pair x y =>
    if x.pairClass?.isNone || y.pairClass?.isNone then [10]
    else x.codes1 ++ y.codes1 ++ codeIf (!pairLimits x y) 10 ++ codeIf (!(x.pairForm && y.pairForm)) 6
  | i => i.codes1

/-- The lowest of a list of codes (03 R72). -/
def lowestCode : List Nat → Option Nat
  | [] => none
  | c :: cs =>
    match lowestCode cs with
    | none => some c
    | some d => some (min c d)

/-- An instruction that some word stands for: an encoded row whose fields break no constraint of checks 3 and 4. -/
def WellFormed (i : Instr) : Bool :=
  (match i with
    | .pair _ _ => true
    | .ill _ => true
    | j => j.ops?.isSome) && i.lenOk && i.violations.isEmpty

end Sys2Proof
end

