-- ==== Sys2Proof/Config.lean ====
section
/-! DEFINITION. The values that the manual leaves open: constants with no body, so that no proof can see what they are
(notes/assumptions/3.md).
What rests on the model rather than on the plain words of the manual: log 3 (DESIGN CHOICE). -/

namespace Sys2Proof

/-- The special functions of 05 R132 and R133 by opcode. -/
inductive SpecialFn
  | rcp
  | rsq
  | sqrt
  | fdiv
  | exp2
  | log2
  | exp
  | log
  | sin
  | cos
  | tanh
  | sigm
  | erf
  | gelu
  | splus
  deriving DecidableEq, Repr

/-- The value y of 05 R132 for an input that no rule fixes: a fixed function of the input bits, FTY and GRADE (04 R102).
For FDIV the divisor's pattern is added above bit 63. -/
opaque Config.special : SpecialFn → FloatTy → Bool → Nat → Dyad

/-- What a shadow unit computed at a mismatch: sign and key, or residue (17 R435, field SKEY). The count names the
mismatch. -/
opaque Config.shadowKey : Nat → W32

/-- Which element of a result is the lowest-numbered one that mismatched: a choice among the elements that were checked
(17 R435). -/
opaque Config.shadowElem : Nat → Nat

/-- Bits 255:8 of a snoop-timeout record, whose layout 14 R383 does not give. The count names the record. -/
opaque Config.snoopRecord : Nat → BitVec 248

/-- How many of the newest local-memory writes of one path the other path does not see yet (07 R172, R187), taken modulo one
more than their number. The count names the look. -/
opaque Config.late : Nat → Nat

/-- Does the LMS signature of firmware image number `n` verify under the key whose hash it names (19 R470)? The image's bytes
are no state of the module. -/
opaque Config.lmsVerifies : Nat → Bool

/-- The LMS signature under the attestation key of this hash, at this leaf of its tree, of a measurement (19 R470). -/
opaque Config.lmsSignature : BitVec 256 → Nat → BitVec 256 → BitVec 21344

end Sys2Proof
end

