-- ==== Sys2Proof/Decode.lean ====
section
/-! DEFINITION. The words of Tables 2, 3 and 6 of 02_writing and Table 1 of 03_opcode_map: their fields, the decoder
(checks 1, 3 and 4 of 02 R25 as far as the word alone decides them), and the encoder. Check 2 and the checks that depend
on the group (R54, R64, R65, checks 5 to 7) are the machine's.
What rests on the model rather than on the plain words of the manual: log 35 (DEDUCED). -/

namespace Sys2Proof

/-! ### Codes of 03 R67 and R68 -/

def IntTy.code : IntTy → BitVec 3
  | .s32 => 0 | .n32 => 1 | .s16 => 2 | .n16 => 3 | .s8 => 4 | .n8 => 5 | .s64 => 6 | .n64 => 7
def FloatTy.code : FloatTy → BitVec 3
  | .f32 => 0 | .f16 => 1 | .b16 => 2 | .f64 => 3 | .e4m3 => 4 | .e5m2 => 5
def Rm.code : Rm → BitVec 2
  | .rn => 0 | .rz => 1 | .rd => 2 | .ru => 3
def Rm.ofBits (b : BitVec 2) : Rm :=
  match b.toNat with | 0 => .rn | 1 => .rz | 2 => .rd | _ => .ru
def MatTy.code : MatTy → BitVec 3
  | .f16 => 0 | .b16 => 1 | .e4m3 => 2 | .e5m2 => 3 | .s8 => 4 | .n8 => 5 | .q4 => 6 | .f32 => 7
def MatTy.ofBits (b : BitVec 3) : MatTy :=
  match b.toNat with
  | 0 => .f16 | 1 => .b16 | 2 => .e4m3 | 3 => .e5m2 | 4 => .s8 | 5 => .n8 | 6 => .q4 | _ => .f32
def Sz.code : Sz → BitVec 3
  | .b32 => 0 | .n8 => 1 | .n16 => 2 | .b64 => 3 | .b128 => 4 | .s8 => 5 | .s16 => 6
/-- Code 7 is reserved; it is reported apart (`badM`). -/
def Sz.ofBits (b : BitVec 3) : Sz :=
  match b.toNat with
  | 1 => .n8 | 2 => .n16 | 3 => .b64 | 4 => .b128 | 5 => .s8 | 6 => .s16 | _ => .b32
def Scope.code : Scope → BitVec 3
  | .thread => 0 | .group => 1 | .team => 2 | .cluster => 3 | .modul => 4 | .domain => 5 | .system => 6
/-- Code 7 is reserved; it is reported apart (`badM`). -/
def Scope.ofBits (b : BitVec 3) : Scope :=
  match b.toNat with
  | 1 => .group | 2 => .team | 3 => .cluster | 4 => .modul | 5 => .domain | 6 => .system | _ => .thread
def MemOrd.code : MemOrd → BitVec 2
  | .rlx => 0 | .acq => 1 | .rel => 2 | .ar => 3
def MemOrd.ofBits (b : BitVec 2) : MemOrd :=
  match b.toNat with | 0 => .rlx | 1 => .acq | 2 => .rel | _ => .ar
def Cc.code : Cc → BitVec 4
  | .eq => 0 | .ne => 1 | .lt => 2 | .le => 3 | .gt => 4 | .ge => 5 | .num => 6 | .nan => 7
  | .ult => 8 | .ule => 9 | .ugt => 10 | .uge => 11 | .ueq => 12 | .one => 13
/-- Codes 14 and 15 are reserved; they are reported apart (`badC`). -/
def Cc.ofBits (b : BitVec 4) : Cc :=
  match b.toNat with
  | 1 => .ne | 2 => .lt | 3 => .le | 4 => .gt | 5 => .ge | 6 => .num | 7 => .nan
  | 8 => .ult | 9 => .ule | 10 => .ugt | 11 => .uge | 12 => .ueq | 13 => .one | _ => .eq
def Kind.code : Kind → BitVec 2
  | .vec => 0 | .scal => 1 | .win => 2 | .lit => 3
def Kind.ofBits (b : BitVec 2) : Kind :=
  match b.toNat with | 0 => .vec | 1 => .scal | 2 => .win | _ => .lit
def Len.code : Len → BitVec 2
  | .w64 => 0 | .w96 => 1 | .w128 => 2
/-- Length bits 0b11 name no length (R23). -/
def Len.ofBits? (b : BitVec 2) : Option Len :=
  match b.toNat with | 0 => some .w64 | 1 => some .w96 | 2 => some .w128 | _ => none

/-- One bit of a field. -/
def bit (b : Bool) : BitVec 1 := BitVec.ofBool b

/-! ### The modifier layouts of 03 R66 (bit 19 of layouts I, F, C, V and S is SCL, 05 R107) -/

def ModI.bits (m : ModI) : BitVec 20 := bit m.scl ++ m.opf ++ bit m.sat ++ m.ity.code
def ModI.ofBits (b : BitVec 20) : ModI :=
  ⟨b.getLsbD 19, b.extractLsb' 4 15, b.getLsbD 3, .ofBits (b.extractLsb' 0 3)⟩
def ModF.bits (m : ModF) : BitVec 20 := bit m.scl ++ m.opf ++ bit m.sat ++ m.rm.code ++ m.fty.code
def ModF.ofBits (b : BitVec 20) : ModF :=
  ⟨b.getLsbD 19, b.extractLsb' 6 13, b.getLsbD 5, .ofBits (b.extractLsb' 3 2), .ofBits (b.extractLsb' 0 3)⟩
def ModCI.bits (m : ModCI) : BitVec 20 := bit m.scl ++ m.opf ++ m.cc.code ++ m.ity.code
def ModCI.ofBits (b : BitVec 20) : ModCI :=
  ⟨b.getLsbD 19, b.extractLsb' 7 12, .ofBits (b.extractLsb' 3 4), .ofBits (b.extractLsb' 0 3)⟩
def ModCF.bits (m : ModCF) : BitVec 20 := bit m.scl ++ m.opf ++ m.cc.code ++ m.fty.code
def ModCF.ofBits (b : BitVec 20) : ModCF :=
  ⟨b.getLsbD 19, b.extractLsb' 7 12, .ofBits (b.extractLsb' 3 4), .ofBits (b.extractLsb' 0 3)⟩
def ModV.bits (m : ModV) : BitVec 20 := bit m.scl ++ m.opf ++ bit m.sat ++ m.rm.code ++ m.src ++ m.dst
def ModV.ofBits (b : BitVec 20) : ModV :=
  ⟨b.getLsbD 19, b.extractLsb' 9 10, b.getLsbD 8, .ofBits (b.extractLsb' 6 2), b.extractLsb' 3 3, b.extractLsb' 0 3⟩
def ModS.bits (m : ModS) : BitVec 20 := bit m.scl ++ m.opf ++ bit m.fast ++ m.fty.code
def ModS.ofBits (b : BitVec 20) : ModS :=
  ⟨b.getLsbD 19, b.extractLsb' 4 15, b.getLsbD 3, .ofBits (b.extractLsb' 0 3)⟩
def ModM.bits (m : ModM) : BitVec 20 := m.opf ++ m.ord.code ++ m.scope.code ++ m.sz.code
def ModM.ofBits (b : BitVec 20) : ModM :=
  ⟨b.extractLsb' 8 12, .ofBits (b.extractLsb' 6 2), .ofBits (b.extractLsb' 3 3), .ofBits (b.extractLsb' 0 3)⟩
def ModX.bits (m : ModX) : BitVec 20 := m.opf ++ bit m.acc ++ m.bfmt.code ++ m.afmt.code
def ModX.ofBits (b : BitVec 20) : ModX :=
  ⟨b.extractLsb' 7 13, b.getLsbD 6, .ofBits (b.extractLsb' 3 3), .ofBits (b.extractLsb' 0 3)⟩

/-- Does a field of the layout hold a reserved code (03 R67, R68)? -/
def badFty (b : BitVec 20) : Bool := (b.extractLsb' 0 3).toNat ≥ 6
def badC (b : BitVec 20) : Bool := (b.extractLsb' 3 4).toNat ≥ 14
def badM (b : BitVec 20) : Bool := (b.extractLsb' 0 3).toNat = 7 || (b.extractLsb' 3 3).toNat = 7

/-- An opcode, the operand fields and the modifier bits: what an encoded row's word holds. -/
structure Fields where
  opc : BitVec 8
  ops : Ops
  mod : BitVec 20
  deriving DecidableEq, Repr

/-- Bits 63:0 of every format (Table 2). -/
def Fields.low (f : Fields) : BitVec 64 :=
  f.mod ++ bit f.ops.b.trap ++ bit f.ops.a.trap ++ f.ops.b.val ++ f.ops.b.kind.code ++ f.ops.a.val ++
  f.ops.a.kind.code ++ f.ops.dst ++ bit f.ops.gn ++ f.ops.gp ++ f.opc ++ f.ops.len.code

/-- Bits 127:64 (R27, Table 3); zero past the instruction's length. -/
def Fields.high (f : Fields) : BitVec 64 :=
  match f.ops.len with
  | .w64 => 0
  | .w96 => f.ops.lit.setWidth 64
  | .w128 =>
    f.ops.lit ++ (0 : BitVec 3) ++ f.ops.woff ++ f.ops.wwin ++ f.ops.wsel ++ bit f.ops.c.trap ++ f.ops.c.kind.code ++
    f.ops.c.val

def Fields.word (f : Fields) : BitVec 128 := f.high ++ f.low

/-- The fields of Tables 2 and 3 of a word of length `l`. -/
def Fields.ofWord (l : Len) (w : BitVec 128) : Fields where
  opc := w.extractLsb' 2 8
  mod := w.extractLsb' 44 20
  ops :=
    { len := l
      gn := w.getLsbD 13
      gp := w.extractLsb' 10 3
      dst := w.extractLsb' 14 8
      a := ⟨.ofBits (w.extractLsb' 22 2), w.extractLsb' 24 8, w.getLsbD 42⟩
      b := ⟨.ofBits (w.extractLsb' 32 2), w.extractLsb' 34 8, w.getLsbD 43⟩
      c := match l with
        | .w128 => ⟨.ofBits (w.extractLsb' 72 2), w.extractLsb' 64 8, w.getLsbD 74⟩
        | _ => Src.zero
      lit := match l with
        | .w64 => 0
        | .w96 => w.extractLsb' 64 32
        | .w128 => w.extractLsb' 96 32
      wsel := match l with | .w128 => w.extractLsb' 75 2 | _ => 0
      wwin := match l with | .w128 => w.extractLsb' 77 4 | _ => 0
      woff := match l with | .w128 => w.extractLsb' 81 12 | _ => 0 }

/-- Reserved bits 95:93 of the 128-bit format are zero (Table 3). -/
def reservedZero (l : Len) (w : BitVec 128) : Bool :=
  match l with
  | .w128 => w.extractLsb' 93 3 == 0
  | _ => true

/-! ### Opcodes -/

def mkO (k : Ops → BitVec 20 → Instr) (o : Ops) (m : BitVec 20) : Option (Instr × List Nat) := some (k o m, [])
def mkI (k : Ops → ModI → Instr) (o : Ops) (m : BitVec 20) : Option (Instr × List Nat) := some (k o (.ofBits m), [])
def mkF (k : Ops → ModF → Instr) (o : Ops) (m : BitVec 20) : Option (Instr × List Nat) :=
  some (k o (.ofBits m), codeIf (badFty m) 9)
def mkCI (k : Ops → ModCI → Instr) (o : Ops) (m : BitVec 20) : Option (Instr × List Nat) :=
  some (k o (.ofBits m), codeIf (badC m) 9)
def mkCF (k : Ops → ModCF → Instr) (o : Ops) (m : BitVec 20) : Option (Instr × List Nat) :=
  some (k o (.ofBits m), codeIf (badC m || badFty m) 9)
def mkV (k : Ops → ModV → Instr) (o : Ops) (m : BitVec 20) : Option (Instr × List Nat) := some (k o (.ofBits m), [])
def mkS (k : Ops → ModS → Instr) (o : Ops) (m : BitVec 20) : Option (Instr × List Nat) :=
  some (k o (.ofBits m), codeIf (badFty m) 9)
/-- A reserved code is code 9; in a field that the opcode does not use it is also a field that is not zero (03 R72). -/
def mkM (k : Ops → ModM → Instr) (o : Ops) (m : BitVec 20) : Option (Instr × List Nat) :=
  let i := k o (.ofBits m)
  some (i, codeIf (badM m) 9 ++ codeIf (i.noSz && m.extractLsb' 0 3 == 7) 6 ++ codeIf (i.noScope && m.extractLsb' 3 3 == 7) 6)
def mkX (k : Ops → ModX → Instr) (o : Ops) (m : BitVec 20) : Option (Instr × List Nat) := some (k o (.ofBits m), [])

/-- Table 1 of 03_opcode_map, PAIR and ILL apart: the instruction whose fields these are, and the
codes of the shared fields that hold a reserved code. -/
def ofOpcode (c : BitVec 8) (o : Ops) (m : BitVec 20) : Option (Instr × List Nat) :=
  match c.toNat with
  | 0x00 => mkO .nop o m
  | 0x01 => mkI .mov o m
  | 0x02 => mkI .sel o m
  | 0x03 => mkO .plop o m
  | 0x04 => mkO .ppack o m
  | 0x05 => mkO .punpk o m
  | 0x0C => mkO .sprd o m
  | 0x0D => mkO .spwr o m
  | 0x10 => mkI .iadd o m
  | 0x11 => mkI .isub o m
  | 0x12 => mkI .iaddc o m
  | 0x13 => mkI .isubb o m
  | 0x14 => mkI .imul o m
  | 0x15 => mkI .imulh o m
  | 0x16 => mkI .imad o m
  | 0x17 => mkI .imadw o m
  | 0x18 => mkI .idiv o m
  | 0x19 => mkI .irem o m
  | 0x1A => mkI .imin o m
  | 0x1B => mkI .imax o m
  | 0x1C => mkI .iabs o m
  | 0x1D => mkI .ineg o m
  | 0x1E => mkI .isad o m
  | 0x1F => mkI .iavg o m
  | 0x20 => mkI .idot2 o m
  | 0x21 => mkI .idot4 o m
  | 0x22 => mkI .iclamp o m
  | 0x23 => mkCI .icmp o m
  | 0x24 => mkCI .iset o m
  | 0x25 => mkCI .itest o m
  | 0x26 => mkI .lea o m
  | 0x27 => mkI .leax o m
  | 0x28 => mkI .canon o m
  | 0x29 => mkI .pdiff o m
  | 0x30 => mkI .and o m
  | 0x31 => mkI .or o m
  | 0x32 => mkI .xor o m
  | 0x33 => mkI .not o m
  | 0x34 => mkI .andn o m
  | 0x35 => mkI .orn o m
  | 0x36 => mkI .lop3 o m
  | 0x37 => mkI .shl o m
  | 0x38 => mkI .shr o m
  | 0x39 => mkI .shra o m
  | 0x3A => mkI .rotl o m
  | 0x3B => mkI .rotr o m
  | 0x3C => mkI .fshl o m
  | 0x3D => mkI .fshr o m
  | 0x3E => mkI .prmt o m
  | 0x3F => mkI .bswap o m
  | 0x40 => mkI .popc o m
  | 0x41 => mkI .clz o m
  | 0x42 => mkI .ctz o m
  | 0x43 => mkI .brev o m
  | 0x44 => mkI .bfx o m
  | 0x45 => mkI .bfi o m
  | 0x46 => mkI .bmsk o m
  | 0x50 => mkF .fadd o m
  | 0x51 => mkF .fsub o m
  | 0x52 => mkF .fmul o m
  | 0x53 => mkF .fma o m
  | 0x54 => mkF .fms o m
  | 0x55 => mkF .fnma o m
  | 0x56 => mkF .fmin o m
  | 0x57 => mkF .fmax o m
  | 0x58 => mkF .fminm o m
  | 0x59 => mkF .fmaxm o m
  | 0x5A => mkF .fabs o m
  | 0x5B => mkF .fneg o m
  | 0x5C => mkF .fcsgn o m
  | 0x5D => mkF .fclamp o m
  | 0x5E => mkF .fdot2 o m
  | 0x5F => mkF .fsum o m
  | 0x60 => mkCF .fcmp o m
  | 0x61 => mkCF .fset o m
  | 0x62 => mkCF .fclass o m
  | 0x63 => mkF .frndi o m
  | 0x64 => mkF .fscale o m
  | 0x65 => mkF .fxexp o m
  | 0x66 => mkF .fxman o m
  | 0x68 => mkV .cvt o m
  | 0x69 => mkV .cvtfi o m
  | 0x6A => mkV .cvtif o m
  | 0x6B => mkV .pack2 o m
  | 0x6C => mkV .pack4 o m
  | 0x6D => mkV .unpk o m
  | 0x6E => mkV .exts o m
  | 0x6F => mkV .extz o m
  | 0x70 => mkS .rcp o m
  | 0x71 => mkS .rsq o m
  | 0x72 => mkS .sqrt o m
  | 0x73 => mkS .fdiv o m
  | 0x74 => mkS .exp2 o m
  | 0x75 => mkS .log2 o m
  | 0x76 => mkS .exp o m
  | 0x77 => mkS .log o m
  | 0x78 => mkS .sin o m
  | 0x79 => mkS .cos o m
  | 0x7A => mkS .tanh o m
  | 0x7B => mkS .sigm o m
  | 0x7C => mkS .erf o m
  | 0x7D => mkS .gelu o m
  | 0x7E => mkS .splus o m
  | 0x80 => mkX .obres o m
  | 0x81 => mkX .obfill o m
  | 0x82 => mkX .obdrop o m
  | 0x83 => mkX .obqry o m
  | 0x84 => mkX .ixset o m
  | 0x85 => mkX .ixgath o m
  | 0x86 => mkX .mma o m
  | 0x87 => mkX .mmag o m
  | 0x88 => mkX .mmaw o m
  | 0x89 => mkX .mdist o m
  | 0x8A => mkX .mtopk o m
  | 0x8C => mkX .accld o m
  | 0x8D => mkX .accst o m
  | 0x8E => mkX .accz o m
  | 0x8F => mkX (if m.getLsbD 7 then .acclmOut else .acclmIn) o m
  | 0x90 => mkX (if m.getLsbD 13 then .mldSca else .mld) o m
  | 0x91 => mkX .mldt o m
  | 0x92 => mkX .mst o m
  | 0x94 => mkX .qnt o m
  | 0x95 => mkX .dqnt o m
  | 0x96 => mkX .qscl o m
  | 0x97 => mkX .qamax o m
  | 0x98 => mkX (if m.getLsbD 7 then .acccvtF2i else .acccvtI2f) o m
  | 0xA0 => mkM .ld o m
  | 0xA1 => mkM .st o m
  | 0xA2 => mkM .ldl o m
  | 0xA3 => mkM .stl o m
  | 0xA4 => mkM .ldc o m
  | 0xA5 => mkM .ldw o m
  | 0xA6 => mkM .ldv o m
  | 0xA7 => mkM .stv o m
  | 0xA8 => mkM .ldlv o m
  | 0xA9 => mkM .stlv o m
  | 0xAA => mkM (if m.getLsbD 8 then .cfillRing else .cfill) o m
  | 0xAB => mkM .crel o m
  | 0xAC => mkM .pref o m
  | 0xAD => mkM (if m.extractLsb' 8 2 = 1 then .residHbm else if m.extractLsb' 8 2 = 2 then .residCold else .residNear) o m
  | 0xAE => mkM .seal o m
  | 0xAF => mkM .unseal o m
  | 0xB0 => mkM .atom o m
  | 0xB1 => mkM .atomr o m
  | 0xB2 => mkM .cas o m
  | 0xB3 => mkM .atoml o m
  | 0xB4 => mkM .casl o m
  | 0xB5 => mkM .fence o m
  | 0xB6 => mkM .fencex o m
  | 0xB8 => mkO .msend o m
  | 0xB9 => mkO .mrecv o m
  | 0xBA => mkO .mprobe o m
  | 0xBC => mkO .frgo o m
  | 0xBD => mkO (if m.getLsbD 0 then .fradvClose else .fradv) o m
  | 0xBE => mkO .frwait o m
  | 0xBF => mkO .frstat o m
  | 0xC0 => mkO .bra o m
  | 0xC1 => mkO .brx o m
  | 0xC2 => mkO .call o m
  | 0xC3 => mkO .callx o m
  | 0xC4 => mkO .ret o m
  | 0xC5 => mkO .exit o m
  | 0xC6 => mkO (if m.getLsbD 0 then .msetR else .mset) o m
  | 0xC7 => mkO .mrd o m
  | 0xC8 => mkO .mclr o m
  | 0xC9 => mkO .yield o m
  | 0xCA => mkO .sleep o m
  | 0xCC => mkO .shfl o m
  | 0xCD => mkO .vote o m
  | 0xCE => mkO .ballot o m
  | 0xCF => mkO .lscan o m
  | 0xD0 => mkO .lred o m
  | 0xD1 => mkO .matchL o m
  | 0xD2 => mkO .tbar o m
  | 0xD3 => mkO .cbar o m
  | 0xD4 => mkO .bcarm o m
  | 0xD5 => mkO .bcwait o m
  | 0xD6 => mkO (if m.getLsbD 0 then .fbwaitRel else .fbwait) o m
  | 0xD7 => mkO .gangset o m
  | 0xD8 => mkO .gangclr o m
  | 0xD9 => mkO .accal o m
  | 0xDA => mkO .accfree o m
  | 0xDB => mkO .launch o m
  | 0xDC => mkO .scall o m
  | 0xDD => mkO .scwait o m
  | 0xE0 => mkO (if m.getLsbD 0 then .trapVec else .trapI) o m
  | 0xE1 => mkO .tret o m
  | 0xE2 => mkO .hpc o m
  | 0xE3 => mkO .hmeet o m
  | 0xE4 => mkO (if m.extractLsb' 0 2 = 1 then .hparkSet else if m.extractLsb' 0 2 = 2 then .hparkExit else .hparkClr) o m
  | 0xE5 => mkO .hrd o m
  | 0xE8 => mkO .ptwait o m
  | 0xE9 => mkO .tlbprb o m
  | 0xEA => mkO .walk o m
  | 0xEB => mkO (if m.getLsbD 0 then .aliasqClr else .aliasq) o m
  | 0xEC => mkO .ctxfrz o m
  | 0xED => mkO .ctxrst o m
  | 0xEE => mkO .partrst o m
  | 0xEF => mkO (if m.getLsbD 0 then .qsetDef else .qset) o m
  | 0xF0 => mkO .qosset o m
  | 0xF1 => mkO (if m.getLsbD 0 then .wsetRd else .wset) o m
  | 0xF2 => mkO (if m.extractLsb' 0 2 = 1 then .eqpopMig else .eqpopSys) o m
  | _ => none

/-- The opcode, operands and modifier bits of an encoded row (PAIR and ILL apart). -/
def Instr.fields? : Instr → Option Fields
  | .nop o m => some ⟨0x00, o, m⟩
  | .mov o m => some ⟨0x01, o, m.bits⟩
  | .sel o m => some ⟨0x02, o, m.bits⟩
  | .plop o m => some ⟨0x03, o, m⟩
  | .ppack o m => some ⟨0x04, o, m⟩
  | .punpk o m => some ⟨0x05, o, m⟩
  | .sprd o m => some ⟨0x0C, o, m⟩
  | .spwr o m => some ⟨0x0D, o, m⟩
  | .iadd o m => some ⟨0x10, o, m.bits⟩
  | .isub o m => some ⟨0x11, o, m.bits⟩
  | .iaddc o m => some ⟨0x12, o, m.bits⟩
  | .isubb o m => some ⟨0x13, o, m.bits⟩
  | .imul o m => some ⟨0x14, o, m.bits⟩
  | .imulh o m => some ⟨0x15, o, m.bits⟩
  | .imad o m => some ⟨0x16, o, m.bits⟩
  | .imadw o m => some ⟨0x17, o, m.bits⟩
  | .idiv o m => some ⟨0x18, o, m.bits⟩
  | .irem o m => some ⟨0x19, o, m.bits⟩
  | .imin o m => some ⟨0x1A, o, m.bits⟩
  | .imax o m => some ⟨0x1B, o, m.bits⟩
  | .iabs o m => some ⟨0x1C, o, m.bits⟩
  | .ineg o m => some ⟨0x1D, o, m.bits⟩
  | .isad o m => some ⟨0x1E, o, m.bits⟩
  | .iavg o m => some ⟨0x1F, o, m.bits⟩
  | .idot2 o m => some ⟨0x20, o, m.bits⟩
  | .idot4 o m => some ⟨0x21, o, m.bits⟩
  | .iclamp o m => some ⟨0x22, o, m.bits⟩
  | .icmp o m => some ⟨0x23, o, m.bits⟩
  | .iset o m => some ⟨0x24, o, m.bits⟩
  | .itest o m => some ⟨0x25, o, m.bits⟩
  | .lea o m => some ⟨0x26, o, m.bits⟩
  | .leax o m => some ⟨0x27, o, m.bits⟩
  | .canon o m => some ⟨0x28, o, m.bits⟩
  | .pdiff o m => some ⟨0x29, o, m.bits⟩
  | .and o m => some ⟨0x30, o, m.bits⟩
  | .or o m => some ⟨0x31, o, m.bits⟩
  | .xor o m => some ⟨0x32, o, m.bits⟩
  | .not o m => some ⟨0x33, o, m.bits⟩
  | .andn o m => some ⟨0x34, o, m.bits⟩
  | .orn o m => some ⟨0x35, o, m.bits⟩
  | .lop3 o m => some ⟨0x36, o, m.bits⟩
  | .shl o m => some ⟨0x37, o, m.bits⟩
  | .shr o m => some ⟨0x38, o, m.bits⟩
  | .shra o m => some ⟨0x39, o, m.bits⟩
  | .rotl o m => some ⟨0x3A, o, m.bits⟩
  | .rotr o m => some ⟨0x3B, o, m.bits⟩
  | .fshl o m => some ⟨0x3C, o, m.bits⟩
  | .fshr o m => some ⟨0x3D, o, m.bits⟩
  | .prmt o m => some ⟨0x3E, o, m.bits⟩
  | .bswap o m => some ⟨0x3F, o, m.bits⟩
  | .popc o m => some ⟨0x40, o, m.bits⟩
  | .clz o m => some ⟨0x41, o, m.bits⟩
  | .ctz o m => some ⟨0x42, o, m.bits⟩
  | .brev o m => some ⟨0x43, o, m.bits⟩
  | .bfx o m => some ⟨0x44, o, m.bits⟩
  | .bfi o m => some ⟨0x45, o, m.bits⟩
  | .bmsk o m => some ⟨0x46, o, m.bits⟩
  | .fadd o m => some ⟨0x50, o, m.bits⟩
  | .fsub o m => some ⟨0x51, o, m.bits⟩
  | .fmul o m => some ⟨0x52, o, m.bits⟩
  | .fma o m => some ⟨0x53, o, m.bits⟩
  | .fms o m => some ⟨0x54, o, m.bits⟩
  | .fnma o m => some ⟨0x55, o, m.bits⟩
  | .fmin o m => some ⟨0x56, o, m.bits⟩
  | .fmax o m => some ⟨0x57, o, m.bits⟩
  | .fminm o m => some ⟨0x58, o, m.bits⟩
  | .fmaxm o m => some ⟨0x59, o, m.bits⟩
  | .fabs o m => some ⟨0x5A, o, m.bits⟩
  | .fneg o m => some ⟨0x5B, o, m.bits⟩
  | .fcsgn o m => some ⟨0x5C, o, m.bits⟩
  | .fclamp o m => some ⟨0x5D, o, m.bits⟩
  | .fdot2 o m => some ⟨0x5E, o, m.bits⟩
  | .fsum o m => some ⟨0x5F, o, m.bits⟩
  | .fcmp o m => some ⟨0x60, o, m.bits⟩
  | .fset o m => some ⟨0x61, o, m.bits⟩
  | .fclass o m => some ⟨0x62, o, m.bits⟩
  | .frndi o m => some ⟨0x63, o, m.bits⟩
  | .fscale o m => some ⟨0x64, o, m.bits⟩
  | .fxexp o m => some ⟨0x65, o, m.bits⟩
  | .fxman o m => some ⟨0x66, o, m.bits⟩
  | .cvt o m => some ⟨0x68, o, m.bits⟩
  | .cvtfi o m => some ⟨0x69, o, m.bits⟩
  | .cvtif o m => some ⟨0x6A, o, m.bits⟩
  | .pack2 o m => some ⟨0x6B, o, m.bits⟩
  | .pack4 o m => some ⟨0x6C, o, m.bits⟩
  | .unpk o m => some ⟨0x6D, o, m.bits⟩
  | .exts o m => some ⟨0x6E, o, m.bits⟩
  | .extz o m => some ⟨0x6F, o, m.bits⟩
  | .rcp o m => some ⟨0x70, o, m.bits⟩
  | .rsq o m => some ⟨0x71, o, m.bits⟩
  | .sqrt o m => some ⟨0x72, o, m.bits⟩
  | .fdiv o m => some ⟨0x73, o, m.bits⟩
  | .exp2 o m => some ⟨0x74, o, m.bits⟩
  | .log2 o m => some ⟨0x75, o, m.bits⟩
  | .exp o m => some ⟨0x76, o, m.bits⟩
  | .log o m => some ⟨0x77, o, m.bits⟩
  | .sin o m => some ⟨0x78, o, m.bits⟩
  | .cos o m => some ⟨0x79, o, m.bits⟩
  | .tanh o m => some ⟨0x7A, o, m.bits⟩
  | .sigm o m => some ⟨0x7B, o, m.bits⟩
  | .erf o m => some ⟨0x7C, o, m.bits⟩
  | .gelu o m => some ⟨0x7D, o, m.bits⟩
  | .splus o m => some ⟨0x7E, o, m.bits⟩
  | .obres o m => some ⟨0x80, o, m.bits⟩
  | .obfill o m => some ⟨0x81, o, m.bits⟩
  | .obdrop o m => some ⟨0x82, o, m.bits⟩
  | .obqry o m => some ⟨0x83, o, m.bits⟩
  | .ixset o m => some ⟨0x84, o, m.bits⟩
  | .ixgath o m => some ⟨0x85, o, m.bits⟩
  | .mma o m => some ⟨0x86, o, m.bits⟩
  | .mmag o m => some ⟨0x87, o, m.bits⟩
  | .mmaw o m => some ⟨0x88, o, m.bits⟩
  | .mdist o m => some ⟨0x89, o, m.bits⟩
  | .mtopk o m => some ⟨0x8A, o, m.bits⟩
  | .accld o m => some ⟨0x8C, o, m.bits⟩
  | .accst o m => some ⟨0x8D, o, m.bits⟩
  | .accz o m => some ⟨0x8E, o, m.bits⟩
  | .acclmIn o m => some ⟨0x8F, o, m.bits⟩
  | .acclmOut o m => some ⟨0x8F, o, m.bits⟩
  | .mld o m => some ⟨0x90, o, m.bits⟩
  | .mldSca o m => some ⟨0x90, o, m.bits⟩
  | .mldt o m => some ⟨0x91, o, m.bits⟩
  | .mst o m => some ⟨0x92, o, m.bits⟩
  | .qnt o m => some ⟨0x94, o, m.bits⟩
  | .dqnt o m => some ⟨0x95, o, m.bits⟩
  | .qscl o m => some ⟨0x96, o, m.bits⟩
  | .qamax o m => some ⟨0x97, o, m.bits⟩
  | .acccvtI2f o m => some ⟨0x98, o, m.bits⟩
  | .acccvtF2i o m => some ⟨0x98, o, m.bits⟩
  | .ld o m => some ⟨0xA0, o, m.bits⟩
  | .st o m => some ⟨0xA1, o, m.bits⟩
  | .ldl o m => some ⟨0xA2, o, m.bits⟩
  | .stl o m => some ⟨0xA3, o, m.bits⟩
  | .ldc o m => some ⟨0xA4, o, m.bits⟩
  | .ldw o m => some ⟨0xA5, o, m.bits⟩
  | .ldv o m => some ⟨0xA6, o, m.bits⟩
  | .stv o m => some ⟨0xA7, o, m.bits⟩
  | .ldlv o m => some ⟨0xA8, o, m.bits⟩
  | .stlv o m => some ⟨0xA9, o, m.bits⟩
  | .cfill o m => some ⟨0xAA, o, m.bits⟩
  | .cfillRing o m => some ⟨0xAA, o, m.bits⟩
  | .crel o m => some ⟨0xAB, o, m.bits⟩
  | .pref o m => some ⟨0xAC, o, m.bits⟩
  | .residNear o m => some ⟨0xAD, o, m.bits⟩
  | .residHbm o m => some ⟨0xAD, o, m.bits⟩
  | .residCold o m => some ⟨0xAD, o, m.bits⟩
  | .seal o m => some ⟨0xAE, o, m.bits⟩
  | .unseal o m => some ⟨0xAF, o, m.bits⟩
  | .atom o m => some ⟨0xB0, o, m.bits⟩
  | .atomr o m => some ⟨0xB1, o, m.bits⟩
  | .cas o m => some ⟨0xB2, o, m.bits⟩
  | .atoml o m => some ⟨0xB3, o, m.bits⟩
  | .casl o m => some ⟨0xB4, o, m.bits⟩
  | .fence o m => some ⟨0xB5, o, m.bits⟩
  | .fencex o m => some ⟨0xB6, o, m.bits⟩
  | .msend o m => some ⟨0xB8, o, m⟩
  | .mrecv o m => some ⟨0xB9, o, m⟩
  | .mprobe o m => some ⟨0xBA, o, m⟩
  | .frgo o m => some ⟨0xBC, o, m⟩
  | .fradv o m => some ⟨0xBD, o, m⟩
  | .fradvClose o m => some ⟨0xBD, o, m⟩
  | .frwait o m => some ⟨0xBE, o, m⟩
  | .frstat o m => some ⟨0xBF, o, m⟩
  | .bra o m => some ⟨0xC0, o, m⟩
  | .brx o m => some ⟨0xC1, o, m⟩
  | .call o m => some ⟨0xC2, o, m⟩
  | .callx o m => some ⟨0xC3, o, m⟩
  | .ret o m => some ⟨0xC4, o, m⟩
  | .exit o m => some ⟨0xC5, o, m⟩
  | .mset o m => some ⟨0xC6, o, m⟩
  | .msetR o m => some ⟨0xC6, o, m⟩
  | .mrd o m => some ⟨0xC7, o, m⟩
  | .mclr o m => some ⟨0xC8, o, m⟩
  | .yield o m => some ⟨0xC9, o, m⟩
  | .sleep o m => some ⟨0xCA, o, m⟩
  | .shfl o m => some ⟨0xCC, o, m⟩
  | .vote o m => some ⟨0xCD, o, m⟩
  | .ballot o m => some ⟨0xCE, o, m⟩
  | .lscan o m => some ⟨0xCF, o, m⟩
  | .lred o m => some ⟨0xD0, o, m⟩
  | .matchL o m => some ⟨0xD1, o, m⟩
  | .tbar o m => some ⟨0xD2, o, m⟩
  | .cbar o m => some ⟨0xD3, o, m⟩
  | .bcarm o m => some ⟨0xD4, o, m⟩
  | .bcwait o m => some ⟨0xD5, o, m⟩
  | .fbwait o m => some ⟨0xD6, o, m⟩
  | .fbwaitRel o m => some ⟨0xD6, o, m⟩
  | .gangset o m => some ⟨0xD7, o, m⟩
  | .gangclr o m => some ⟨0xD8, o, m⟩
  | .accal o m => some ⟨0xD9, o, m⟩
  | .accfree o m => some ⟨0xDA, o, m⟩
  | .launch o m => some ⟨0xDB, o, m⟩
  | .scall o m => some ⟨0xDC, o, m⟩
  | .scwait o m => some ⟨0xDD, o, m⟩
  | .trapI o m => some ⟨0xE0, o, m⟩
  | .trapVec o m => some ⟨0xE0, o, m⟩
  | .tret o m => some ⟨0xE1, o, m⟩
  | .hpc o m => some ⟨0xE2, o, m⟩
  | .hmeet o m => some ⟨0xE3, o, m⟩
  | .hparkClr o m => some ⟨0xE4, o, m⟩
  | .hparkSet o m => some ⟨0xE4, o, m⟩
  | .hparkExit o m => some ⟨0xE4, o, m⟩
  | .hrd o m => some ⟨0xE5, o, m⟩
  | .ptwait o m => some ⟨0xE8, o, m⟩
  | .tlbprb o m => some ⟨0xE9, o, m⟩
  | .walk o m => some ⟨0xEA, o, m⟩
  | .aliasq o m => some ⟨0xEB, o, m⟩
  | .aliasqClr o m => some ⟨0xEB, o, m⟩
  | .ctxfrz o m => some ⟨0xEC, o, m⟩
  | .ctxrst o m => some ⟨0xED, o, m⟩
  | .partrst o m => some ⟨0xEE, o, m⟩
  | .qset o m => some ⟨0xEF, o, m⟩
  | .qsetDef o m => some ⟨0xEF, o, m⟩
  | .qosset o m => some ⟨0xF0, o, m⟩
  | .wset o m => some ⟨0xF1, o, m⟩
  | .wsetRd o m => some ⟨0xF1, o, m⟩
  | .eqpopSys o m => some ⟨0xF2, o, m⟩
  | .eqpopMig o m => some ⟨0xF2, o, m⟩
  | _ => none

/-! ### Rejections -/

/-- The codes of 03 R72. -/
inductive IllegalCode
  | lengthBits
  | unassigned
  | privileged
  | handlerOnly
  | lengthNotPermitted
  | reservedOrUnused
  | sourceKind
  | registerShape
  | modifier
  | pairLimit
  | compatPort
  deriving DecidableEq, Repr

def IllegalCode.num : IllegalCode → Nat
  | .lengthBits => 1 | .unassigned => 2 | .privileged => 3 | .handlerOnly => 4 | .lengthNotPermitted => 5
  | .reservedOrUnused => 6 | .sourceKind => 7 | .registerShape => 8 | .modifier => 9 | .pairLimit => 10
  | .compatPort => 11

/-- The code that a number of `Instr.violations` names. -/
def IllegalCode.ofNum (n : Nat) : IllegalCode :=
  match n with
  | 1 => .lengthBits | 2 => .unassigned | 3 => .privileged | 4 => .handlerOnly | 5 => .lengthNotPermitted
  | 6 => .reservedOrUnused | 7 => .sourceKind | 8 => .registerShape | 9 => .modifier | 10 => .pairLimit
  | _ => .compatPort

/-- Why bytes are no instruction: too few of them, or an illegal word. The opcode goes with an illegal word because
R64 and R65 make some opcodes unassigned for some groups, which comes before check 4. -/
inductive Reject
  | short
  | illegal (opc : BitVec 8) (code : IllegalCode)
  deriving DecidableEq, Repr

/-! ### Pair words (02 R49, Table 6) -/

/-- Operation X or Y of a pair word from its fields. -/
def pairHalf (opc dst : BitVec 8) (guard : BitVec 4) (ak : Bool) (a : BitVec 8) (bk : Bool) (b : BitVec 8)
    (ae be : Bool) (pmod : BitVec 3) : Fields :=
  ⟨opc,
   { len := .w64, gn := guard.getLsbD 3, gp := guard.extractLsb' 0 3, dst := dst
     a := ⟨if ak then .scal else .vec, a, ae⟩, b := ⟨if bk then .scal else .vec, b, be⟩
     c := Src.zero, lit := 0, wsel := 0, wwin := 0, woff := 0 },
   pmod.setWidth 20⟩

def pairX (w : BitVec 128) : Fields :=
  pairHalf (w.extractLsb' 22 8) (w.extractLsb' 14 8) (w.extractLsb' 10 4) (w.getLsbD 30) (w.extractLsb' 31 8)
    (w.getLsbD 39) (w.extractLsb' 40 8) (w.getLsbD 48) (w.getLsbD 49) (w.extractLsb' 50 3)

def pairY (w : BitVec 128) : Fields :=
  pairHalf (w.extractLsb' 65 8) (w.extractLsb' 57 8) (w.extractLsb' 53 4) (w.getLsbD 73) (w.extractLsb' 74 8)
    (w.getLsbD 82) (w.extractLsb' 83 8) (w.getLsbD 91) (w.getLsbD 92) (w.extractLsb' 93 3)

/-- PMOD, BE, AE, B, BK, A, AK of one half, from the top down. -/
def halfTop (f : Fields) : BitVec 23 :=
  f.mod.extractLsb' 0 3 ++ bit f.ops.b.trap ++ bit f.ops.a.trap ++ f.ops.b.val ++ bit (f.ops.b.kind == .scal) ++
  f.ops.a.val ++ bit (f.ops.a.kind == .scal)

/-- Table 6. -/
def pairWord (x y : Fields) : BitVec 128 :=
  (0 : BitVec 32) ++ halfTop y ++ y.opc ++ y.ops.dst ++ bit y.ops.gn ++ y.ops.gp ++
  halfTop x ++ x.opc ++ x.ops.dst ++ bit x.ops.gn ++ x.ops.gp ++ (0xFE : BitVec 8) ++ Len.w96.code

/-! ### Decoding -/

/-- The halves as instructions; none where an opcode is unassigned, PAIR or ILL (R76). -/
def pairOf? (fx fy : Fields) : Option ((Instr × List Nat) × (Instr × List Nat)) :=
  match ofOpcode fx.opc fx.ops fx.mod, ofOpcode fy.opc fy.ops fy.mod with
  | some x, some y => some (x, y)
  | _, _ => none

/-- Check 4 of a word whose opcode and length are permitted: the lowest broken constraint. -/
def check4 (opc : BitVec 8) (i : Instr) (bad : List Nat) (rsv : Bool) : Except Reject Instr :=
  match lowestCode (i.violations ++ bad ++ codeIf (!rsv) 6) with
  | some n => .error (.illegal opc (.ofNum n))
  | none => .ok i

/-- Checks 3 and 4 of a word of length `l` (02 R25, 03 R71), as far as its bits decide them. -/
def decodeWord (l : Len) (w : BitVec 128) : Except Reject Instr :=
  let f := Fields.ofWord l w
  if f.opc = 0xFF then .ok (.ill l)
  else if f.opc = 0xFE then
    match l with
    | .w96 =>
      match pairOf? (pairX w) (pairY w) with
      | none => .error (.illegal f.opc .pairLimit)
      | some (x, y) =>
        if x.1.pairClass?.isNone || y.1.pairClass?.isNone then .error (.illegal f.opc .pairLimit)
        else check4 f.opc (.pair x.1 y.1) (x.2 ++ y.2) true
    | _ => .error (.illegal f.opc .lengthNotPermitted)
  else
    match ofOpcode f.opc f.ops f.mod with
    | none => .error (.illegal f.opc .unassigned)
    | some (i, bad) =>
      if i.lenOk then check4 f.opc i bad (reservedZero l w) else .error (.illegal f.opc .lengthNotPermitted)

/-- Bytes as a number, the first at the lowest place (00 R5). -/
def bytesNat : List Byte → Nat
  | [] => 0
  | b :: bs => b.toNat + 256 * bytesNat bs

/-- `n` bytes of a number, lowest first. -/
def natBytes : Nat → Nat → List Byte
  | 0, _ => []
  | n + 1, v => BitVec.ofNat 8 v :: natBytes n (v / 256)

/-- The instruction at the head of a list of bytes, with the bytes after it. -/
def decode (bs : List Byte) : Except Reject (Instr × List Byte) :=
  match bs with
  | [] => .error .short
  | b :: _ =>
    match Len.ofBits? (b.extractLsb' 0 2) with
    | none => .error (.illegal (BitVec.ofNat 8 (bytesNat (bs.take 2) / 4)) .lengthBits)
    | some l =>
      if bs.length < l.bytes then .error .short
      else
        match decodeWord l (BitVec.ofNat 128 (bytesNat (bs.take l.bytes))) with
        | .error e => .error e
        | .ok i => .ok (i, bs.drop l.bytes)

/-- The length of the word an instruction stands for. -/
def Instr.len : Instr → Len
  | .pair _ _ => .w96
  | .ill l => l
  | i => match i.ops? with
    | some o => o.len
    | none => .w64

/-- Bits 127:0 of an instruction's word; a step of the machine has none. ILL is written as R75 writes it. -/
def Instr.word : Instr → BitVec 128
  | .pair x y =>
    match x.fields?, y.fields? with
    | some fx, some fy => pairWord fx fy
    | _, _ => 0
  | .ill l => (0 : BitVec 115) ++ (7 : BitVec 3) ++ (0xFF : BitVec 8) ++ l.code
  | i => match i.fields? with
    | some f => f.word
    | none => 0

/-- The bytes of an instruction as memory holds them. -/
def encode (i : Instr) : List Byte := natBytes i.len.bytes i.word.toNat

/-- The instruction read from a word numbered as the opcode table numbers it, bits above `nbits` zero. -/
def decodeTableWord (nbits w : Nat) : Option Instr :=
  match decode (natBytes 16 (w % 2 ^ nbits)) with
  | .ok (i, _) => some i
  | .error _ => none

end Sys2Proof
end

