-- ==== Sys2Proof/Machine/Flags.lean ====
section
/-! DEFINITION. The sticky flags of ASTAT (04_numbers R85), wrapping and saturating integer results (R80), and the
rounding of floating-point results with the flags it raises (R77 to R84).
What rests on the model rather than on the plain words of the manual: log 6 (DEDUCED). -/

namespace Sys2Proof

/-! ### ASTAT bits (Table 4) -/

def fNV : W32 := 0x1#32
def fDZ : W32 := 0x2#32
def fOF : W32 := 0x4#32
def fUF : W32 := 0x8#32
def fNX : W32 := 0x10#32
def fFSAT : W32 := 0x20#32
def fISAT : W32 := 0x40#32
def fWIN : W32 := 0x80#32
def fFLUSH : W32 := 0x100#32
def fQNAN : W32 := 0x200#32
def fQINF : W32 := 0x400#32
def fQCLAMP : W32 := 0x800#32
def fDQNAN : W32 := 0x1000#32
def fRETRY : W32 := 0x2000#32

/-- A result as a bit pattern, with the flags it raises. -/
structure Res where
  bits : Nat
  flags : W32
  deriving DecidableEq, Repr

def flagIf (c : Bool) (f : W32) : W32 := if c then f else 0

/-! ### Integers (R80) -/

/-- The integer that a pattern stands for. -/
def IntTy.val (t : IntTy) (x : Nat) : Int :=
  let y := x % 2 ^ t.width
  if t.signed && decide (2 ^ (t.width - 1) ≤ y) then (y : Int) - 2 ^ t.width else y

def IntTy.min (t : IntTy) : Int := if t.signed then -(2 ^ (t.width - 1) : Nat) else 0
def IntTy.max (t : IntTy) : Int := (2 ^ (if t.signed then t.width - 1 else t.width) : Nat) - 1

/-- The pattern of an integer modulo 2^width. -/
def IntTy.wrap (t : IntTy) (x : Int) : Nat := (x % (2 ^ t.width : Nat)).toNat

def IntTy.fits (t : IntTy) (x : Int) : Bool := decide (t.min ≤ x) && decide (x ≤ t.max)

/-- SatInt. -/
def IntTy.clamp (t : IntTy) (x : Int) : Int := if x < t.min then t.min else if t.max < x then t.max else x

/-- An integer result, clamped under SAT and wrapped otherwise. -/
def IntTy.deliver (t : IntTy) (sat : Bool) (x : Int) : Res :=
  if sat then ⟨t.wrap (t.clamp x), flagIf (!t.fits x) fISAT⟩ else ⟨t.wrap x, 0⟩

/-! ### Floating-point formats (R77) -/

/-- Mantissa bits. -/
def FloatTy.mbits : FloatTy → Nat
  | .f64 => 52 | .f32 => 23 | .f16 => 10 | .b16 => 7 | .e4m3 => 3 | .e5m2 => 2
/-- Exponent bits. -/
def FloatTy.ebits : FloatTy → Nat
  | .f64 => 11 | .f32 => 8 | .f16 => 5 | .b16 => 8 | .e4m3 => 4 | .e5m2 => 5
def FloatTy.bias : FloatTy → Nat
  | .f64 => 1023 | .f32 => 127 | .f16 => 15 | .b16 => 127 | .e4m3 => 7 | .e5m2 => 15

/-- Exponent of the lowest mantissa bit of a subnormal. -/
def FloatTy.qmin (t : FloatTy) : Int := 1 - (t.bias : Int) - t.mbits

/-- Pattern of the largest finite magnitude. -/
def FloatTy.maxBits (t : FloatTy) : Nat :=
  match t with
  | .e4m3 => 0x7E
  | _ => (2 ^ t.ebits - 1) * 2 ^ t.mbits - 1

/-- Pattern of +infinity; E4M3 has none, and its canonical NaN stands there (R83). -/
def FloatTy.infBits (t : FloatTy) : Nat :=
  match t with
  | .e4m3 => 0x7F
  | _ => (2 ^ t.ebits - 1) * 2 ^ t.mbits

/-- The canonical NaN (R79). -/
def FloatTy.canon : FloatTy → Nat
  | .f64 => 0x7FF8000000000000
  | .f32 => 0x7FC00000
  | .f16 => 0x7E00
  | .b16 => 0x7FC0
  | .e4m3 => 0x7F
  | .e5m2 => 0x7E

def FloatTy.signBit (t : FloatTy) : Nat := 2 ^ (t.width - 1)

/-- What a pattern stands for, or an exact result: `fin neg mant exp sticky` is `±mant · 2^exp`, or with `sticky` a real
number strictly between that and the next multiple of `2^exp` away from zero. -/
inductive FVal
  | nan (signalling : Bool)
  | inf (neg : Bool)
  | fin (neg : Bool) (mant : Nat) (exp : Int) (sticky : Bool)
  deriving DecidableEq, Repr

def FVal.zero (neg : Bool) : FVal := .fin neg 0 0 false

def FVal.isNan : FVal → Bool
  | .nan _ => true
  | _ => false
def FVal.isSig : FVal → Bool
  | .nan s => s
  | _ => false
def FVal.isInf : FVal → Bool
  | .inf _ => true
  | _ => false
def FVal.isZero : FVal → Bool
  | .fin _ m _ st => m == 0 && !st
  | _ => false
def FVal.isNeg : FVal → Bool
  | .nan _ => false
  | .inf n => n
  | .fin n _ _ _ => n

/-- Read a pattern (R77, R78). -/
def FloatTy.read (t : FloatTy) (x : Nat) : FVal :=
  let x := x % 2 ^ t.width
  let neg := decide (t.signBit ≤ x)
  let e := x / 2 ^ t.mbits % 2 ^ t.ebits
  let m := x % 2 ^ t.mbits
  let quietBit := decide (2 ^ (t.mbits - 1) ≤ m)
  let special := match t with
    | .e4m3 => e == 15 && m == 7
    | _ => e == 2 ^ t.ebits - 1
  if special then
    match t with
    | .e4m3 => .nan false
    | .e5m2 => if m = 0 then .inf neg else .nan false
    | _ => if m = 0 then .inf neg else .nan (!quietBit)
  else if e = 0 then .fin neg m t.qmin false
  else .fin neg (2 ^ t.mbits + m) (t.qmin + (e - 1 : Nat)) false

/-- Is a pattern a subnormal number? -/
def FloatTy.isSub (t : FloatTy) (x : Nat) : Bool :=
  x / 2 ^ t.mbits % 2 ^ t.ebits == 0 && x % 2 ^ t.mbits != 0

/-- Does rounding go away from zero? `frac` compares the part cut off with one half. -/
def Rm.up (rm : Rm) (neg odd : Bool) (frac : Ordering) (inexact : Bool) : Bool :=
  match rm with
  | .rn => frac == .gt || (frac == .eq && odd)
  | .rz => false
  | .rd => neg && inexact
  | .ru => !neg && inexact

/-- Table 3 of 04_numbers: does an overflow deliver the infinity? -/
def Rm.toInf (rm : Rm) (neg : Bool) : Bool :=
  match rm with
  | .rn => true
  | .rz => false
  | .rd => neg
  | .ru => !neg

def signed (t : FloatTy) (neg : Bool) (x : Nat) : Nat := if neg then t.signBit + x else x

/-- The part of a magnitude below `2^q` against one half of `2^q`, for a shift of `d` places. -/
def fracOf (m d : Nat) (sticky : Bool) : Ordering :=
  match compare (2 * (m % 2 ^ d)) (2 ^ d) with
  | .eq => if sticky then .gt else .eq
  | o => o

/-- Round (R82) of a finite magnitude that is not zero. -/
def FloatTy.roundFin (t : FloatTy) (rm : Rm) (sat neg : Bool) (m : Nat) (e : Int) (sticky : Bool) : Res :=
  let q : Int := max (e + Nat.log2 m - t.mbits) t.qmin
  let d : Nat := (q - e).toNat
  let kept := if e ≤ q then m / 2 ^ d else m * 2 ^ (e - q).toNat
  let inexact := sticky || m % 2 ^ d != 0
  let frac := fracOf m d sticky
  let y := if rm.up neg (kept % 2 == 1) frac inexact then kept + 1 else kept
  -- y · 2^q; its pattern without an upper exponent limit
  let pat := (q - t.qmin).toNat * 2 ^ t.mbits + y
  if pat > t.maxBits then
    if sat then ⟨signed t neg t.maxBits, fNX ||| fFSAT⟩
    else if rm.toInf neg then
      match t with
      | .e4m3 => ⟨t.canon, fNX ||| fOF ||| fNV⟩
      | _ => ⟨signed t neg t.infBits, fNX ||| fOF⟩
    else ⟨signed t neg t.maxBits, fNX ||| fOF⟩
  else
    ⟨signed t neg pat, flagIf inexact fNX ||| flagIf (inexact && decide (y < 2 ^ t.mbits)) fUF⟩

/-- Round (R82). -/
def FloatTy.round (t : FloatTy) (rm : Rm) (sat : Bool) : FVal → Res
  | .nan _ => ⟨t.canon, 0⟩
  | .inf neg =>
    if sat then ⟨signed t neg t.maxBits, fFSAT⟩
    else match t with
      | .e4m3 => ⟨t.canon, fNV⟩
      | _ => ⟨signed t neg t.infBits, 0⟩
  | .fin neg m e sticky =>
    if m = 0 ∧ sticky = false then ⟨signed t neg 0, 0⟩
    else t.roundFin rm sat neg m e sticky

/-! ### Exact operations -/

/-- NV for a signalling source (R78). -/
def sigFlag (xs : List FVal) : W32 := flagIf (xs.any FVal.isSig) fNV

def FVal.neg : FVal → FVal
  | .nan s => .nan s
  | .inf n => .inf !n
  | .fin n m e st => .fin (!n) m e st
def FVal.abs : FVal → FVal
  | .nan s => .nan s
  | .inf _ => .inf false
  | .fin _ m e st => .fin false m e st

/-- The exact product; `none` is ∞ × 0. -/
def FVal.mul? : FVal → FVal → Option FVal
  | .nan _, _ | _, .nan _ => some (.nan false)
  | .inf a, .inf b => some (.inf (a != b))
  | .inf a, .fin b m _ _ => if m = 0 then none else some (.inf (a != b))
  | .fin b m _ _, .inf a => if m = 0 then none else some (.inf (a != b))
  | .fin a m e _, .fin b k f _ => some (.fin (a != b) (m * k) (e + f) false)

/-- The product as a value, with NV for ∞ × 0. -/
def FVal.mul (x y : FVal) : FVal × W32 :=
  match FVal.mul? x y with
  | some z => (z, 0)
  | none => (.nan false, fNV)

/-- A finite value as an integer multiple of `2^e`. -/
def FVal.scaled (e : Int) : FVal → Int
  | .fin n m f _ =>
    let x : Int := m * 2 ^ (f - e).toNat
    if n then -x else x
  | _ => 0

def FVal.exp : FVal → Int
  | .fin _ _ e _ => e
  | _ => 0

/-- The value of an integer multiple of `2^e`. -/
def FVal.ofScaled (e : Int) (x : Int) : FVal := .fin (decide (x < 0)) x.natAbs e false

/-- Lowest exponent of a list of values. -/
def lowExp (xs : List FVal) : Int :=
  match xs with
  | [] => 0
  | x :: r => r.foldl (fun a y => min a y.exp) x.exp

/-- The exact sum (R84, R94, R96; 05 R124: infinities of both signs set NV beside a NaN too). A zero sum is the common sign of its zeros, and otherwise +0, in RD −0. -/
def exactSum (rm : Rm) (xs : List FVal) : FVal × W32 :=
  let infs := xs.filter FVal.isInf
  if infs.any FVal.isNeg && infs.any (fun x => !x.isNeg) then (.nan false, fNV)
  else if xs.any FVal.isNan then (.nan false, 0)
  else if infs.any FVal.isNeg then (.inf true, 0)
  else if !infs.isEmpty then (.inf false, 0)
  else
    let e := lowExp xs
    let n := xs.foldl (fun a x => a + x.scaled e) 0
    if n = 0 then
      if xs.all (fun x => x.isZero && x.isNeg) then (.zero true, 0)
      else if xs.all (fun x => x.isZero && !x.isNeg) then (.zero false, 0)
      else (.zero (rm == .rd), 0)
    else (.ofScaled e n, 0)

/-- How two numbers compare; none where either is a NaN. +0 and −0 are equal. -/
def FVal.cmp : FVal → FVal → Option Ordering
  | .nan _, _ | _, .nan _ => none
  | .inf a, .inf b => some (if a = b then .eq else if a then .lt else .gt)
  | .inf a, .fin _ _ _ _ => some (if a then .lt else .gt)
  | .fin _ _ _ _, .inf b => some (if b then .gt else .lt)
  | .fin a m e s, .fin b k f t =>
    let lo := min e f
    some (compare ((FVal.fin a m e s).scaled lo) ((FVal.fin b k f t).scaled lo))

/-- The quotient of two finite numbers, the divisor not zero, to more bits than any format has. -/
def divFin (a : Bool) (m : Nat) (e : Int) (b : Bool) (k : Nat) (f : Int) : FVal :=
  let sh := 70 + Nat.log2 k
  let n := m * 2 ^ sh
  .fin (a != b) (n / k) (e - f - sh) (n % k != 0)

/-- Integer square root of a number below `2^(2·bits)`. -/
def isqrt (n : Nat) : Nat → Nat → Nat
  | 0, r => r
  | i + 1, r =>
    let c := r + 2 ^ i
    isqrt n i (if c * c ≤ n then c else r)

/-- The square root of a positive finite number. -/
def sqrtFin (m : Nat) (e : Int) : FVal :=
  let odd := e % 2 != 0
  let m2 := if odd then 2 * m else m
  let e2 := if odd then e - 1 else e
  let n := m2 * 2 ^ 140
  let r := isqrt n (Nat.log2 n / 2 + 1) 0
  .fin false r (e2 / 2 - 70) (r * r != n)

/-- An integer as an exact value. -/
def FVal.ofInt (x : Int) : FVal := .fin (decide (x < 0)) x.natAbs 0 false

end Sys2Proof
end

