-- ==== Sys2Proof/Machine/State.lean ====
section
/-! DEFINITION. The state of the module, as plain data: per-thread, per-group, per-team and per-context state
(01_machine R17 to R21), memory, the engines, the translation hardware, the Gleaner, the links and the power states,
and the model's own fields (`agenda`, `cur`, `freeCount`, `shadow`, `nextId`, `slots`). `State.reset` is the module
right after module reset (19_module_edges R469 step 9). INVENTORY.md lists every field with its rule.
What rests on the model rather than on the plain words of the manual: log 1 (DESIGN CHOICE), log 2 (DESIGN CHOICE), log 4
(DESIGN CHOICE), log 9 (DESIGN CHOICE), log 33 (DEDUCED), log 48 (DEDUCED). -/

namespace Sys2Proof.Machine

/-- A table by number: keys strictly rising. A table of values with a default lists no default value. -/
abbrev Tab (α : Type) := List (Nat × α)

/-- Bytes by address in the canonical form: addresses strictly rising, no byte that is zero. -/
abbrev Memory := List Host.Cell

/-- The form every memory keeps: addresses strictly rising and no entry equal to zero, which is what an unlisted
address reads as. -/
def Memory.wf : Memory → Bool
  | [] => true
  | [(_, v)] => v != 0
  | (a, v) :: (b, w) :: rest => decide (a < b) && v != 0 && Memory.wf ((b, w) :: rest)

/-! ### Threads and groups -/

/-- LSTAT (01 R17, 10 R264). -/
inductive LStat
  | live
  | exited
  | never
  deriving DecidableEq, Repr

/-- What takes a value in a group: a vector register of one lane, a scalar register, or one lane's place in an entry of a
compatibility queue, by its slot (02 R53). -/
inductive DReg
  | vec (r lane : Nat)
  | scal (r : Nat)
  | port (q slot lane : Nat)
  deriving DecidableEq, Repr

/-- Why a thread is blocked (10 R277). -/
inductive Block
  /-- until these registers are full (02 R42, R43) -/
  | regs (rs : List DReg)
  /-- at a cross-lane instruction or a barrier, which it names (10 R280) -/
  | cross (i : Instr)
  /-- SLEEP until a cycle (11 R301) -/
  | sleep (till : Nat)
  /-- on a pop from, or a push to, a compatibility queue (02 R53) -/
  | queue (push : Bool) (q : Nat)
  /-- until the next tick (11 R300) -/
  | tick
  /-- until accesses of the thread are performed: reads, writes (07 R186); `far`: those of memory homed elsewhere, and every
  write that its die knows of, too (07 R183) -/
  | drain (reads writes far : Bool)
  /-- on a translation miss of the handler, to which PARK does not apply (16 R402) -/
  | miss
  deriving DecidableEq, Repr

/-- One thread (01 R17), with its handler PC (16 R401) and its waits (10 R277 to R280). -/
structure Lane where
  pc : W64
  meet : W64
  p : BitVec 7
  stat : LStat
  park : Bool
  hpc : W64
  /-- HPARK.EXIT is pending (16 R405) -/
  exitMark : Bool
  /-- held at its meeting (10 R278) -/
  held : Bool
  /-- released from a meeting at its PC, which it has not left since (10 R278) -/
  passed : Bool
  block : Option Block
  /-- cycle at which the block began -/
  since : Nat
  /-- cycle since which the thread is ready without issuing (10 R282) -/
  ready : Nat
  /-- the program's block and the cycles it had lasted, while the handler runs (16 R402, R409) -/
  saved : Option (Block × Nat)
  deriving DecidableEq, Repr

/-- A lane that was never launched. -/
def Lane.off : Lane :=
  { pc := 0, meet := BitVec.allOnes 64, p := 0, stat := .never, park := false, hpc := 0, exitMark := false,
    held := false, passed := false, block := none, since := 0, ready := 0, saved := none }

/-- What a trap records (16 R400). -/
structure TrapRec where
  cause : Nat
  detail : Nat
  tlane : Nat
  pc : W64
  addr : W64
  aux : W64
  mask : W32
  deriving DecidableEq, Repr

def TrapRec.zero : TrapRec := ⟨0, 0, 0, 0, 0, 0, 0⟩

/-- A matrix product as its instruction or node names it (06 R154, 08 Table 8): OP 0 MMA, 1 MMAW, 2 MDIST, 3 MMAG;
formats, references, descriptor, and for MMAG the entries of its index vector, none for an inactive lane, and the queue whose
port gives that vector (02 R53). -/
structure Product where
  op : Nat
  acc : Bool
  af : MatTy
  bf : MatTy
  a : Nat
  b : Nat
  desc : Nat
  ents : List (Option Nat)
  port : Option Nat
  deriving DecidableEq, Repr

/-- What a held group waits for. -/
inductive HoldKind
  /-- TBAR or CBAR with this ID: the group has arrived (11 R307) -/
  | barrier (cluster : Bool) (id : Nat)
  /-- at a rendezvous latch (06 R159) -/
  | gang (p : Product)
  /-- ACCAL of n banks (11 R318) -/
  | accal (n : Nat)
  /-- MSEND at a full engine (08 R238) -/
  | msend
  /-- FRWAIT of a handle until SEQ reaches a value (08 R245) -/
  | frwait (h v : W64)
  /-- a ninth SCALL (11 R324) -/
  | scall
  /-- SCWAIT (11 R326) -/
  | scwait
  /-- until the group's core-path accesses are performed -/
  | drain
  /-- TRET, until what the handler has issued is complete (16 R407) -/
  | tret
  /-- FENCEX number n (07 R189) -/
  | fencex (n : Nat)
  /-- SEAL or UNSEAL (08 R234, R235) -/
  | seal
  /-- PTWAIT for the table writes with these numbers, and for the answer to a host's snoop of this line (13 R358) -/
  | ptwait (ns : List Nat) (snoop : Option Nat)
  /-- a command of the partition controller until the resets of these contexts end, or, from 1024 up, the wait `c − 1024` of rootPend:
  the destination and its words (14 R391) -/
  | reset (dst : Nat) (vs : List W64) (cs : List Nat)
  deriving DecidableEq, Repr

structure Hold where
  kind : HoldKind
  since : Nat
  lanes : W32
  pc : W64
  /-- address after the instruction -/
  next : W64
  /-- flags that the instruction sets as it completes (04 R86) -/
  flags : W32
  deriving DecidableEq, Repr

/-- Threads that issue together (10 R277). `fresh`: formed at the last tick and not issued since. -/
structure Bundle where
  lanes : W32
  pc : W64
  fresh : Bool
  deriving DecidableEq, Repr

/-- One group (01 R18). Registers that no entry lists read as zero; `vEmpty` and `sEmpty` list the empty ones. -/
structure Group where
  ctx : Nat
  grid : Nat
  cluster : Nat
  team : Nat
  core : Nat
  slot : Nat
  gix : Nat
  /-- NV, NS and compatibility mode of the kernel (02 R40, R52) -/
  nv : Nat
  ns : Nat
  compat : Bool
  lanes : Tab Lane
  /-- key 32·r + lane -/
  v : Tab W32
  vEmpty : Tab Bool
  sreg : Tab W64
  sEmpty : Tab Bool
  astat : W32
  seed : W64
  gang : W32
  hvec : W64
  inh : Bool
  trap : TrapRec
  /-- registers that still awaited the program's results when the handler started (16 R400) -/
  owed : List DReg
  /-- a trap taken whose entry has not been completed (16 R400) -/
  pend : Option TrapRec
  /-- wakes with a cause that wait for TRET (16 R409) -/
  deferred : List TrapRec
  /-- cycle at which the handler started, and at which pre-emption took the group off its core -/
  trapAt : Nat
  stopAt : Nat
  hold : Option Hold
  /-- since when the instruction that is tried again has waited -/
  retry : Option Nat
  /-- queue n: its entries, oldest first; an entry's key is the lane (02 R52) -/
  queues : Tab (List (Tab W32))
  /-- head slot of queue n (10 Table 6) -/
  heads : Tab Nat
  /-- lanes whose value an entry still awaits, by 8·queue + slot (02 R53) -/
  awaited : Tab W32
  /-- flags to be set when long-latency results are written (04 R86) -/
  due : List (DReg × W32)
  /-- meeting clocks by MEET value: cycle of the last restart (10 R279) -/
  meets : Tab Nat
  bundles : List Bundle
  /-- TPC of engine watchpoint traps still to be taken (17 R454) -/
  watch : List TrapRec
  /-- poisoned words of the register cache, by vector key and by scalar register (17 R430) -/
  vBad : List Nat := []
  sBad : List Nat := []
  deriving DecidableEq, Repr

/-! ### Teams, clusters, grids, queues -/

/-- A write to local memory that the accesses of another path need not see yet (07 R172, R187): the path class that made it,
its address and the bytes that stood there. -/
structure Late where
  cls : Nat
  addr : Nat
  old : List Byte
  deriving DecidableEq, Repr

structure Team where
  ctx : Nat
  grid : Nat
  cluster : Nat
  core : Nat
  teamix : Nat
  /-- bytes -/
  lmSize : Nat
  /-- KiB of team need (10 R286) -/
  need : Nat
  lm : Memory
  /-- core-path writes that no engine need see yet, and engine writes that the core path need not see yet, newest first
  (07 R172, R187) -/
  coreLate : List Late
  engineLate : List Late
  /-- poisoned 32-bit words of local memory (17 R430) -/
  bad : List Nat
  boxes : Tab Mailbox
  msgLost : Nat
  groups : List Nat
  ended : Bool
  /-- local memory and images are in the save area (10 R290) -/
  spilled : Bool
  /-- the order in which teams came to cores: at their start, and again as they resumed (10 R282) -/
  took : Nat := 0
  deriving DecidableEq, Repr

inductive Phase
  | waiting
  | resident
  | preempted
  | spilled
  | ended
  deriving DecidableEq, Repr

structure Cluster where
  grid : Nat
  ix : Nat
  phase : Phase
  die : Nat
  x0 : Nat
  y0 : Nat
  teams : List Nat
  deriving DecidableEq, Repr

/-- A launch: its packet, kernel descriptor, captured windows and image (10 R266 to R273). -/
structure Grid where
  ctx : Nat
  queue : Nat
  die : Nat
  ncl : Nat
  llm1 : Nat
  w : Nat
  h : Nat
  dieMask : Nat
  prio : Nat
  fscope : Scope
  rel : Bool
  seed : W64
  arg : W64
  save : W64
  donea : W64
  entry : W64
  lmKib : Nat
  tg : Nat
  ns : Nat
  nv : Nat
  compat : Bool
  /-- the `.lmem` image as captured -/
  image : Memory
  /-- bound size of each window; 0 unbound -/
  winSize : Tab Nat
  /-- captured bytes, key 65536·n + offset -/
  win : Memory
  /-- quota word at launch, and where QSET changed it since, by core (10 R274) -/
  quota0 : W64
  quota : Tab W64
  /-- with ACQ, the clock of the header's write, which the grid's accesses follow (10 R271) -/
  acq : List Nat
  /-- P_k by core (10 R283) -/
  pass : Tab Nat
  /-- clusters started, clusters ended -/
  started : Nat
  finished : Nat
  completed : Bool
  deriving DecidableEq, Repr

/-- A launch queue beside its registration (10 R265, R476). -/
structure QueueState where
  notify : W64
  ridx : W64
  /-- a failed slot read, or a failed RIDX store, has been recorded -/
  slotFail : Bool
  ridxFail : Bool
  /-- after a failed slot read, nothing is read before the next QNOTIFY write -/
  stopped : Bool
  /-- the slot found invalid is read again at this time (10 R271) -/
  poll : Option Nat
  /-- the packet processor waits on a translation miss (13 R353) -/
  parked : Bool
  /-- by page, cause and detail that a wake gave the queue's access to it, cause above bit 16 (13 R355) -/
  verdicts : Tab Nat
  /-- RIDX is ahead of what RIDXA holds: a store of it has failed, and none has succeeded since (R476) -/
  unstored : Bool
  /-- that store is made again: QNOTIFY has been written since -/
  owed : Bool
  /-- what has been read of the packet at RIDX: nothing, word 0, or all of it (10 R271) -/
  packet : List Byte
  /-- the clock of the write of its word 0 -/
  headClock : List Nat
  deriving DecidableEq, Repr

def QueueState.init : QueueState := ⟨0, 0, false, false, false, none, false, [], false, false, [], []⟩

/-! ### The fabric -/

/-- What a home is asked to do (07 R181, R193 to R196; 08 R219, R220, R227). -/
inductive ReqKind
  | read
  | write
  | atom (op : Nat) (float : Bool)
  | cas
  | consume
  | fill (count : Nat)
  | ringFill (count : Nat)
  | release
  /-- the mark of FENCE.REL (07 R186): later writes of the thread wait for it -/
  | fence
  deriving DecidableEq, Repr

/-- An access that has been sent and not served. `data` and `cmp` are its operands, lowest byte first; `dests` are the
registers its value goes to, one per 32-bit word (scalar: one per 64 bits); `ents` are the addresses of the page-table
entries its translation derives from (13 R343). -/
structure Req where
  kind : ReqKind
  pa : Nat
  va : W64
  size : Nat
  data : List Byte
  cmp : List Byte
  dests : List DReg
  sz : Sz
  gid : Nat
  lanes : W32
  ctx : Nat
  core : Nat
  pc : W64
  ord : MemOrd
  scope : Scope
  num : Nat
  clock : List Nat
  ents : List Nat
  /-- number of the instruction that made it, for decrements made once (07 R194) -/
  tag : Nat
  /-- poisoned atoms of `data`, counted from 0 (17 R431) -/
  bad : List Nat := []
  /-- the node that sent it: furrow slot key and entry index -/
  node : Option (Nat × Nat) := none
  /-- the other module that sent it, for an atomic from the domain (17 R452) -/
  remote : Option Nat := none
  /-- what a read has found before earlier reads of its thread are served, and the clock of the write that it found; and the
  writes, by die and number, applied there since (07 R180, R204) -/
  seen : Option (Nat × List Nat) := none
  newer : List (Nat × Nat) := []
  deriving DecidableEq, Repr

/-- The clock that a write left at the bytes it wrote (07 R181). -/
structure Stamp where
  pa : Nat
  size : Nat
  clock : List Nat
  deriving DecidableEq, Repr

/-- A long-latency result on its way (02 R41, R44); `beyond`: the value of an access beyond the core, which a freeze discards
(06 R146; 07 R199). -/
structure Result where
  gid : Nat
  writes : List (DReg × W64)
  beyond : Bool
  deriving DecidableEq, Repr

/-- What a long-latency instruction still waits for, beside memory. -/
inductive PendKind
  | mrecv (box : Nat)
  | bcwait (box : Nat)
  deriving DecidableEq, Repr

/-- MRECV or BCWAIT waiting (08 R240, 11 R312); the cycles a pre-empted group spends do not count. -/
structure Pending where
  kind : PendKind
  gid : Nat
  team : Nat
  dst : Nat
  since : Nat
  deriving DecidableEq, Repr

/-- A send issued and not delivered (08 R238, R239). -/
structure Send where
  id : Nat
  ctx : Nat
  src : Nat
  dst : Nat
  srcIx : Nat
  box : Nat
  daddr : Nat
  data : List Byte
  since : Nat
  /-- furrow slot key and entry index, for a send node -/
  node : Option (Nat × Nat)
  deriving DecidableEq, Repr

/-- A FENCEX that is not complete (07 R189). -/
structure FenceX where
  id : Nat
  gid : Nat
  team : Nat
  x : Nat
  y : Nat
  scope : Scope
  /-- instructions whose accesses came before it -/
  tags : List Nat
  /-- nodes started before it: furrow slot key and entry index -/
  nodes : List (Nat × Nat)
  /-- sends issued before it -/
  sends : List Nat
  /-- groups at a gang latch before it, and since when -/
  gangs : List (Nat × Nat)
  deriving DecidableEq, Repr

/-! ### Matrix units -/

/-- An operand-buffer record (06 R135), its start and SIZE in KiB; BLK is 32 where FMT is Q4, else 0. -/
structure ObRec where
  live : Bool
  team : Nat
  gen : Nat
  size : Nat
  start : Nat
  fmt : Nat
  kb : Nat
  soff : Nat
  count : Nat
  unc : Bool
  deriving DecidableEq, Repr

/-- A free record after module reset. -/
def ObRec.zero : ObRec := ⟨false, 0, 1, 0, 0, 0, 0, 0, 0, false⟩

/-- A request for accumulator banks (11 R318). -/
structure AccReq where
  core : Nat
  gid : Nat
  n : Nat
  dst : Nat
  deriving DecidableEq, Repr

/-! ### Furrows -/

inductive NodePhase
  | waiting
  | running
  | parked
  /-- started once and abandoned before it had sent an access, or woken from a miss: it starts again (08 R256; 13 R348) -/
  | again
  /-- it has halted its furrow (08 R256) -/
  | halted
  deriving DecidableEq, Repr

/-- A global write held in the node write buffer (08 R256), or a counted fill or release not yet sent (R249): its bytes,
those of one line at most, the table entries its translation derives from, the poisoned atoms of its source, counted from 0
(17 R431), and the clock of its die when it was buffered, which the write carries (07 R181); none for a fill or release. -/
structure Chunk where
  va : W64
  pa : Nat
  bytes : List Byte
  ents : List Nat
  bad : List Nat
  clock : List Nat
  deriving DecidableEq, Repr

/-- What an engine node writes to its entry when it finishes, beside STATUS (08 R249, R252). -/
structure NodeEnd where
  status : Nat
  w3 : Option W64
  /-- successors are decremented -/
  go : Bool
  deriving DecidableEq, Repr

/-- An admitted entry (08 R250, R251). -/
structure Node where
  ix : Nat
  /-- which of the slot's admissions it was -/
  num : Nat
  live : Nat
  phase : NodePhase
  /-- KIND of the entry -/
  kind : Nat
  /-- the entry as admitted: header, W1, W2, W3 -/
  ent : Words4
  /-- an access has been sent towards a home (07 R191) -/
  sent : Bool
  /-- lines filled, or found not counted (08 R248); for a copy, bytes read; for a gather or a near-memory top-k, rows read -/
  res : Nat
  /-- accesses not yet sent, and how the node ends -/
  buf : List Chunk
  fin : NodeEnd
  /-- what became of its successors, by offset: the admission that is the successor, or none once it has been skipped (08 R251) -/
  succAt : List (Nat × Option Nat) := []
  /-- the index list of a gather, as the engine saw it when the node started (08 R249) -/
  index : List Nat := []
  /-- lines that a consuming gather has read, with what it found there and their poison (08 R249) -/
  taken : List (Nat × List (Byte × Bool)) := []
  deriving DecidableEq, Repr

/-- A furrow slot (08 R242): state 0 running, 2 halted, 3 stalled, 4 frozen. -/
structure Furrow where
  team : Nat
  gid : Nat
  gen : Nat
  opened : Bool
  base : Nat
  len : Nat
  cw : Nat
  cur : Nat
  /-- how many entries the slot has admitted, each pass of a loop apart (08 R251) -/
  admitted : Nat
  tail : Nat
  seq : Nat
  state : Nat
  hidx : Nat
  /-- with FRADV.CLOSE: nothing at or beyond this entry is admitted (08 R244) -/
  limit : Option Nat
  /-- the team's last group has exited: nothing more is admitted (08 R258) -/
  ending : Bool
  /-- after an engine watchpoint strike, until the group's handler ends (17 R454) -/
  paused : Bool
  nodes : List Node
  /-- decrements held for entries not admitted, by entry index -/
  heldDec : Tab Nat
  deriving DecidableEq, Repr

/-! ### Translation -/

/-- A translation that a die holds (13 R343). -/
structure Tlb where
  die : Nat
  ctx : Nat
  /-- first page number of 4 KiB the leaf covers, and how many bits of page offset it has -/
  vpn : Nat
  bits : Nat
  leaf : W64
  ents : List Nat
  deriving DecidableEq, Repr

/-- Who made a table write. -/
inductive WriteBy
  | core (r : Req)
  /-- a page's leaves, by the Gleaner -/
  | service (ctx page : Nat)
  /-- a write that a context makes without a request, and the table entries its translation derives from -/
  | own (ctx : Nat) (ents : List Nat)
  /-- a hardware record of a context: 0 its error queue, 1 its fault ring, 2 its call ring (07 R200; 13 R354; 14 R387) -/
  | record (ctx ring : Nat)
  | other
  deriving DecidableEq, Repr

/-- A write that waits at its home: a table write for sharers (13 R345 to R347), any other for a host's copy, when nothing sends
it as a request (07 R178), or for the record before it (R200). -/
structure TableWrite where
  id : Nat
  line : Nat
  /-- bytes to be written, (address, byte) -/
  bytes : List (Nat × Byte)
  /-- sharers that have not acknowledged -/
  waits : List Nat
  who : WriteBy
  /-- the die that made it, its number there, and the clock that it leaves: the one that it carries and those of the sharers that
  have acknowledged (13 R347) -/
  die : Nat
  num : Nat
  clock : List Nat
  /-- atoms, by number, that it leaves poisoned (17 R431) -/
  bad : List Nat := []
  deriving DecidableEq, Repr

/-- A waiter with the miss that it presented, and when it first did. -/
structure WaiterRec where
  miss : MissArg
  since : Nat
  deriving DecidableEq, Repr

/-- An entry of a fault merge table (13 R353). -/
structure FmtEntry where
  die : Nat
  ix : Nat
  ctx : Nat
  page : Nat
  waiters : List WaiterRec
  declined : Bool
  deriving DecidableEq, Repr

/-- A waiter recorded in a fault ring, or a miss that could post nowhere (13 R353, 16 R419). -/
structure RingWaiter where
  miss : MissArg
  since : Nat
  next : Nat
  declined : Bool
  deriving DecidableEq, Repr

/-! ### The Gleaner, leases, links, recovery -/

inductive ServiceState
  | lookup
  | lease
  | fetch
  | waiting
  | install
  deriving DecidableEq, Repr

/-- A Gleaner service (16 R414). -/
structure Service where
  record : BitVec 256
  ctx : Nat
  part : Nat
  page : Nat
  key : Nat
  hint : Nat
  state : ServiceState
  /-- first record taken; start of the present state; tries in it -/
  t0 : Nat
  t : Nat
  tries : Nat
  /-- the shard holder, or the holder, asked -/
  hold : Nat
  /-- holders still to ask -/
  next : List Nat
  /-- the page's entry; in LOOKUP, the one that the shard's holder has been asked to put in the old one's place (16 R423) -/
  entry : Option (BitVec 512)
  leased : Bool
  rings : List RingWaiter
  deriving DecidableEq, Repr

/-- A lease this module holds (16 R423). `tried`: its renewal has been considered; `asked`: the entry that a renewal asks another
holder of the shard to put in the old one's place. -/
structure Lease where
  key : Nat
  part : Nat
  expiry : Nat
  tried : Bool
  asked : Option (BitVec 512)
  deriving DecidableEq, Repr

/-- Why a page leaves: eviction (16 R421), or a release to module `dest` (R424). -/
inductive Leave
  | evict
  | give (dest : Nat)
  deriving DecidableEq, Repr

/-- A page the Gleaner installed (16 R417, R421): `line` is the address of its 16 leaves; `dirty`: another installation of
the key was found dirty as it left. -/
structure Install where
  part : Nat
  ctx : Nat
  frame : Nat
  key : Nat
  hint : Nat
  line : Nat
  page : Nat
  tracked : Bool
  leaving : Option Leave
  dirty : Bool
  deriving DecidableEq, Repr

/-- A SEAL or UNSEAL that is not complete (08 R234, R235), with the physical 4 KiB pages it names. -/
structure SealOp where
  gid : Nat
  undo : Bool
  pages : List Nat
  /-- the effective address, for the trap of R235 -/
  ea : W64
  t0 : Nat
  deriving DecidableEq, Repr

/-- An expert buffer fill (11 R314). -/
structure Fill where
  pool : Nat
  atom : Nat
  t0 : Nat
  buf : Option Nat
  /-- waiters in arrival order: group, destination register, tokens -/
  waiters : List (Nat × Nat × Nat)
  deriving DecidableEq, Repr

/-- A steward call (11 R324). -/
structure Call where
  id : Nat
  gid : Nat
  ctx : Nat
  tag : Nat
  svc : Nat
  strong : Bool
  arg0 : W64
  arg1 : W64
  pc : W64
  dst : Nat
  /-- time since which it has found the ring full -/
  since : Option Nat
  /-- time of posting -/
  posted : Option Nat
  deriving DecidableEq, Repr

/-- A watched module's heartbeats (17 R442). -/
structure Watched where
  inc : Nat
  seq : Nat
  last : Nat
  timeBad : Bool
  fenced : Bool
  deriving DecidableEq, Repr

inductive JobKind
  | ckptDirty
  | ckptFull
  | handOver
  deriving DecidableEq, Repr

/-- A recovery job under way (17 R446 to R449). -/
structure Job where
  kind : JobKind
  hold : Bool
  phase : Nat
  /-- frames still to send -/
  frames : List Nat
  t0 : Nat
  last : Nat
  deriving DecidableEq, Repr

/-- A die-to-die, CXL, scale-up or Ultra Ethernet link (17 R439). -/
structure Link where
  spares : Nat
  failed : List Nat
  half : Bool
  down : Bool
  replays : Nat
  deriving DecidableEq, Repr

def Link.init : Link := ⟨2, [], false, false, 0⟩

/-- A scale-up port group (17 R441). -/
structure PortGroup where
  mode : Nat
  lost : List Nat
  up : Bool
  deriving DecidableEq, Repr

def PortGroup.init : PortGroup := ⟨0, [], false⟩

/-- The power states of 19 R467. -/
inductive Power
  | off
  | standby
  | boot
  | on
  | fault
  deriving DecidableEq, Repr

/-- Host states of an atom (07 R178). -/
inductive HostSt
  | none
  | shared
  | owned
  deriving DecidableEq, Repr

/-- The bundle whose instruction the next step runs: a choice of ISSUE_SELECT (10 R282). -/
structure Cur where
  gid : Nat
  lanes : W32
  pc : W64
  fresh : Bool
  deriving DecidableEq, Repr

/-- The keys and counters of 19 R470: key slots, the revoked ones, the anti-rollback counter, the next leaf of the attestation
key's tree, the hash of that key, and the signature of the last measurement. -/
structure Keys where
  slots : Tab (BitVec 256)
  revoked : List Nat
  rollback : Nat
  attIndex : Nat
  attKey : BitVec 256
  attSig : Option (BitVec 21344)
  deriving DecidableEq, Repr

def Keys.none : Keys := ⟨[], [], 0, 0, 0, Option.none⟩

/-- The stewards' RV64 state (01 R21): integer registers by 32·steward + number, number 0 the pc; control and status registers by
4096·steward + number; and the privilege mode of each. -/
structure Stewards where
  regs : Tab W64
  csrs : Tab W64
  mode : Tab Nat
  deriving DecidableEq, Repr

/-- What software names for the clock servo, and the masters announced on ports (16 R412). -/
structure Ptp where
  domain : Nat
  ports : Nat
  masters : List PtpMaster
  deriving DecidableEq, Repr

/-- The identity store's I3C target: the next offset, and the bytes that the last transfer read (19 R473). -/
structure I3c where
  off : Nat
  out : List Byte
  deriving DecidableEq, Repr

/-! ### The module -/

/-- The state of the module and of its environment's plans (`agenda`). -/
structure State where
  -- the model's own
  agenda : List Instr
  cur : Option Cur
  freeCount : Nat
  shadow : Nat
  nextId : Nat
  slots : Tab Nat
  -- clocks
  cycle : Nat
  gtime : Nat
  syncErr : Nat
  timeBad : Bool
  safeSince : Option Nat
  -- physical memory and what its homes keep
  mem : Memory
  poison : List Nat
  scrubSeen : List Nat
  retired : List Nat
  consumed : List (Nat × Nat)
  dirty : List Nat
  frame : Tab W64
  aliasBits : Tab (BitVec 3)
  hostSt : Tab HostSt
  recalls : Tab Nat
  counted : Tab (Nat × Nat)
  countedData : Memory
  dir : Tab (List Nat)
  tableWrites : List TableWrite
  sealed : List Nat
  -- fabric
  dieClock : Tab Nat
  homeClock : List Stamp
  fabric : List Req
  results : List Result
  pendings : List Pending
  fences : List FenceX
  sends : List Send
  -- contexts and partitions
  desc : Tab W64
  part : Tab W64
  tabQueue : Tab W64
  tabRing : Tab W64
  tabPool : Tab W64
  ring : Tab (Nat × Nat × Nat × Nat)
  pool : Tab (List Atom)
  bufOwner : Tab Nat
  sysQueue : List (BitVec 256)
  migQueue : List (BitVec 256)
  seqLost : Nat
  migOvf : Nat
  msi : List (Nat × Nat)
  resets : List Nat
  armed : Tab Nat
  /-- answers at the command port, oldest first, and those that still wait (14 R394) -/
  cmdOut : List (List W64)
  cmdWait : List (List W64 × List Nat)
  /-- contexts whose flush goes on, with the CROOT to be written at its end (14 R365); 1024 + 8·context + n: watchpoint n is to be
  armed, and its walk waits (17 R452) -/
  rootPend : Tab W64
  -- work
  queue : Tab QueueState
  grids : Tab Grid
  clusters : Tab Cluster
  teams : Tab Team
  groups : Tab Group
  -- engines
  ob : Tab ObRec
  obMem : Memory
  acc : Tab W32
  /-- poisoned words of operand buffers, by address over 4, and accumulator cells (17 R430) -/
  obBad : List Nat
  accBad : List Nat
  banks : Tab Nat
  accReqs : List AccReq
  furrows : Tab Furrow
  gated : List Nat
  halted : List Nat
  -- translation
  tlb : List Tlb
  fmt : List FmtEntry
  ringWait : List RingWaiter
  represent : List RingWaiter
  /-- lines of 64 bytes of host memory that the module holds through CXL.cache (13 R340, R344) -/
  cxlLines : Tab HostSt
  /-- host snoops of such lines not yet answered (13 R350) -/
  snoops : List Nat
  faultIn : List (BitVec 256)
  -- Gleaner and harrow
  gleanPart : Tab W64
  shardMap : Tab (BitVec 16)
  fieldMap : Tab (BitVec 512)
  services : List Service
  leases : List Lease
  installs : List Install
  freeFrames : List (Nat × Nat)
  seals : List SealOp
  fills : List Fill
  calls : List Call
  tag : Nat
  -- fellow modules
  watched : Tab Watched
  incarnation : Nat
  hbSeq : Nat
  hbLast : Nat
  hbStopped : Bool
  periods : Tab Nat
  -- recovery, links, edges
  recovery : Tab W64
  job : Option Job
  /-- a hand-over has failed after its first step: its scope, which stays held until ABORT (17 R449) -/
  kept : Option W64
  /-- PMASK as the running job found it (17 R446) -/
  jobScope : W64
  /-- unlatching is permitted; the record that follows when the routes have drained (17 R450) -/
  drained : Bool
  draining : Option (BitVec 256)
  link : Tab Link
  scaleup : Tab PortGroup
  power : Power
  bootStep : Nat
  /-- time at which the step of bring-up began (19 R469) -/
  bootSince : Nat
  /-- the level of PWR_EN, and the strap of the slot number (19 R465) -/
  pwrEn : Bool
  slotStrap : Nat
  stretch : Nat
  idStore : Memory
  i3c : I3c
  hdm : Tab W64
  /-- atoms of mirrored or striped CXL memory that one of their targets has lost (14 R384) -/
  mirrorBad : List Nat
  /-- by port and virtual function, 64·port + vf − 1: VF Enable; by port: its snoop timeout in ns (14 R382, R383) -/
  vfOn : Tab Bool
  snoopTime : Tab Nat
  /-- the port by which a host holds a line -/
  hostVia : Tab Nat
  /-- MSI-X vectors pending: function and vector (14 R385) -/
  msiPend : List (Nat × Nat)
  keys : Keys
  /-- the image in the IOD flash -/
  flash : Firmware
  stewards : Stewards
  ptp : Ptp
  /-- corrected errors by structure of 17 Table 1, in its order from 0; shadow retries by core (17 R430, R435) -/
  corrected : Tab Nat
  shadowRetries : Tab Nat
  fencedOut : List (Nat × Nat)
  deriving DecidableEq, Repr

/-- Why the model stops. -/
inductive Fault
  /-- An instruction is run while no bundle issues. Raised by every meaning of an encoded instruction when `cur` is
  none or names no group; `step` runs an instruction only for the bundle it fetched for, so no step raises it. Safe. -/
  | noBundle
  deriving DecidableEq, Repr

/-- What the model does not carry out. -/
inductive Refusal
  /-- An instruction whose meaning is not written yet. Raised by its arm of `exec` alone. Safe. -/
  | notModelled (mnemonic : String)
  deriving DecidableEq, Repr

/-- The identity store after module reset: FORMAT 1, the CRC-32 of bytes 0x008 to 0x0FF, PART, BOOTSTAT 1, FAILCH 0xFFFF (19 R473;
log 33). -/
def idStoreReset : Memory :=
  [(0, 0x01), (4, 0x17), (5, 0x5E), (6, 0x83), (7, 0x15), (8, 0x44), (9, 0x56), (10, 0x58), (11, 0x2D), (12, 0x41), (13, 0x5A), (14, 0x32), (15, 0x2D), (16, 0x4D),
   (256, 0x01), (258, 0xFF), (259, 0xFF)]

/-- The module right after module reset: power state ON, nothing resident, memory zero (19 R469, R471). -/
def State.reset : State where
  agenda := []
  cur := none
  freeCount := 0
  shadow := 0
  nextId := 1
  slots := []
  cycle := 0
  gtime := 0
  syncErr := 25001
  timeBad := true
  safeSince := none
  mem := []
  poison := []
  scrubSeen := []
  retired := []
  consumed := []
  dirty := []
  frame := []
  aliasBits := []
  hostSt := []
  recalls := []
  counted := []
  countedData := []
  dir := []
  tableWrites := []
  sealed := []
  dieClock := []
  homeClock := []
  fabric := []
  results := []
  pendings := []
  fences := []
  sends := []
  desc := []
  part := []
  tabQueue := []
  tabRing := []
  tabPool := []
  ring := []
  pool := []
  bufOwner := []
  sysQueue := []
  migQueue := []
  seqLost := 0
  migOvf := 0
  msi := []
  resets := []
  armed := []
  cmdOut := []
  cmdWait := []
  rootPend := []
  queue := []
  grids := []
  clusters := []
  teams := []
  groups := []
  ob := []
  obMem := []
  acc := []
  obBad := []
  accBad := []
  banks := []
  accReqs := []
  furrows := []
  gated := []
  halted := []
  tlb := []
  fmt := []
  ringWait := []
  represent := []
  cxlLines := []
  snoops := []
  faultIn := []
  gleanPart := []
  shardMap := []
  fieldMap := []
  services := []
  leases := []
  installs := []
  freeFrames := []
  seals := []
  fills := []
  calls := []
  tag := 0
  watched := []
  incarnation := 0
  hbSeq := 0
  hbLast := 0
  hbStopped := false
  periods := []
  recovery := []
  job := none
  kept := none
  jobScope := 0
  drained := false
  draining := none
  link := []
  scaleup := []
  power := .on
  bootStep := 9
  bootSince := 0
  pwrEn := true
  slotStrap := 0
  stretch := 0
  idStore := idStoreReset
  i3c := ⟨0, []⟩
  hdm := []
  mirrorBad := []
  vfOn := []
  snoopTime := []
  hostVia := []
  msiPend := []
  keys := Keys.none
  flash := Firmware.blank
  stewards := ⟨[], [], []⟩
  ptp := ⟨0, 0, []⟩
  corrected := []
  shadowRetries := []
  fencedOut := []

end Sys2Proof.Machine
end

