-- ==== Sys2Proof/Machine/Sparse.lean ====
section
/-! DEFINITION. Operations over tables and memories: lists of (number, value) with strictly rising numbers, in which a
table of values with a default lists no default value.
What rests on the model rather than on the plain words of the manual: log 1 (DESIGN CHOICE). -/

namespace Sys2Proof.Machine

variable {α : Type}

/-- The entry at a key. -/
def Tab.get? : Tab α → Nat → Option α
  | [], _ => none
  | (j, v) :: t, k => if j = k then some v else Tab.get? t k

/-- Is there an entry at a key? -/
def Tab.has (t : Tab α) (k : Nat) : Bool := (Tab.get? t k).isSome

/-- Put an entry in its place. -/
def Tab.set : Tab α → Nat → α → Tab α
  | [], k, v => [(k, v)]
  | (j, w) :: t, k, v =>
    if k < j then (k, v) :: (j, w) :: t
    else if k = j then (k, v) :: t
    else (j, w) :: Tab.set t k v

/-- Take an entry out. -/
def Tab.erase (t : Tab α) (k : Nat) : Tab α := t.filter fun e => e.1 != k

/-- The value at a key, `d` where none is listed. -/
def Tab.read (d : α) (t : Tab α) (k : Nat) : α := (Tab.get? t k).getD d

/-- Set the value at a key; the default takes the entry out. -/
def Tab.write [DecidableEq α] (d : α) (t : Tab α) (k : Nat) (v : α) : Tab α :=
  if v = d then Tab.erase t k else Tab.set t k v

/-- Change the entry at a key, if there is one. -/
def Tab.modify (t : Tab α) (k : Nat) (f : α → α) : Tab α :=
  t.map fun e => if e.1 = k then (e.1, f e.2) else e

/-- Keep the entries that satisfy a test. -/
def Tab.keep (t : Tab α) (f : Nat → α → Bool) : Tab α := t.filter fun e => f e.1 e.2

/-- Keys strictly rising. -/
def Tab.wf : Tab α → Bool
  | [] => true
  | [_] => true
  | (j, _) :: (k, w) :: t => decide (j < k) && Tab.wf ((k, w) :: t)

/-! ### Bytes -/

/-- One byte of a memory (log 1: an unlisted byte reads as zero). -/
def Memory.byte (m : Memory) (a : Nat) : Byte := Tab.read 0 m a

def Memory.setByte (m : Memory) (a : Nat) (b : Byte) : Memory := Tab.write 0 m a b

/-- `n` bytes from an address up. -/
def Memory.bytes (m : Memory) (a : Nat) : Nat → List Byte
  | 0 => []
  | n + 1 => Memory.byte m a :: Memory.bytes m (a + 1) n

/-- Write bytes from an address up. -/
def Memory.setBytes (m : Memory) (a : Nat) : List Byte → Memory
  | [] => m
  | b :: bs => Memory.setBytes (Memory.setByte m a b) (a + 1) bs

/-- `n` zero bytes from an address up. -/
def Memory.zero (m : Memory) (a n : Nat) : Memory := Tab.keep m fun k _ => !(decide (a ≤ k) && decide (k < a + n))

/-- Bytes as a number, lowest first (00 R5). -/
def leNat : List Byte → Nat
  | [] => 0
  | b :: bs => b.toNat + 256 * leNat bs

/-- The `n` low bytes of a number, lowest first. -/
def leBytes : Nat → Nat → List Byte
  | 0, _ => []
  | n + 1, v => BitVec.ofNat 8 v :: leBytes n (v / 256)

def Memory.num (m : Memory) (a n : Nat) : Nat := leNat (Memory.bytes m a n)

/-! ### Bit fields -/

/-- `n` bits of a number from bit `lo` up. -/
def bitsOf (v lo n : Nat) : Nat := v / 2 ^ lo % 2 ^ n

/-- A number with `n` bits from bit `lo` up replaced. -/
def setBitsOf (v lo n x : Nat) : Nat :=
  v - bitsOf v lo n * 2 ^ lo + x % 2 ^ n * 2 ^ lo

/-- A number built from fields (lowest bit, width, value). -/
def ofFields : List (Nat × Nat × Nat) → Nat
  | [] => 0
  | (lo, n, v) :: r => v % 2 ^ n * 2 ^ lo + ofFields r

/-- A 256-bit record built from fields. -/
def recordOf (fs : List (Nat × Nat × Nat)) : BitVec 256 := BitVec.ofNat 256 (ofFields fs)

/-- Does a mask hold a lane? -/
def hasLane (m : W32) (l : Nat) : Bool := m.getLsbD l

/-- The 32 lanes. -/
def allLanes : List Nat := List.range 32

/-- The lanes of a mask, ascending. -/
def lanesOf (m : W32) : List Nat := allLanes.filter (hasLane m)

/-- The mask of a list of lanes. -/
def maskOf (ls : List Nat) : W32 := BitVec.ofNat 32 (ls.foldl (fun a l => a ||| 2 ^ l) 0)

/-- A 64-bit number sign-extended from `n` bits. -/
def sext64 (n v : Nat) : W64 :=
  if v % 2 ^ n < 2 ^ (n - 1) then BitVec.ofNat 64 (v % 2 ^ n) else BitVec.ofNat 64 (v % 2 ^ n + (2 ^ 64 - 2 ^ n))

/-- Is an address canonical in Sv57: bits 63:56 all equal (01 R17)? -/
def canonical (a : W64) : Bool := sext64 57 a.toNat == a

end Sys2Proof.Machine
end

