-- ==== Sys2Proof/Machine/Ctx.lean ====
section
/-! DEFINITION. Context descriptors and partition records (14_partitions R362 to R366), frames and their owners
(R371, R372), hardware-written records (07 R200, R201; 14 R385, R389) and the freeze of a context (R373, R374).
What rests on the model rather than on the plain words of the manual: log 2 (DESIGN CHOICE), log 34 (DEDUCED), log 38 (DESIGN
CHOICE), log 46 (DESIGN CHOICE), log 49 (DEDUCED). -/

namespace Sys2Proof.Machine

/-! ### Descriptors -/

/-- Word `w` of the descriptor of context `c` (R362). -/
def State.descW (s : State) (c w : Nat) : W64 := Tab.read 0 s.desc (c * 64 + w)

def State.setDescW (s : State) (c w : Nat) (v : W64) : State :=
  { s with desc := Tab.write 0 s.desc (c * 64 + w) v }

/-- `n` bits from bit `lo` up of the 512-bit block `blk` of a descriptor; a field may cross two words. -/
def State.field (s : State) (c blk lo n : Nat) : Nat :=
  let w := blk * 8 + lo / 64
  bitsOf ((s.descW c w).toNat + (s.descW c (w + 1)).toNat * 2 ^ 64) (lo % 64) n

def State.setField (s : State) (c blk lo n v : Nat) : State :=
  let w := blk * 8 + lo / 64
  let x := setBitsOf ((s.descW c w).toNat + (s.descW c (w + 1)).toNat * 2 ^ 64) (lo % 64) n v
  let s := s.setDescW c w (BitVec.ofNat 64 (x % 2 ^ 64))
  if lo % 64 + n > 64 then s.setDescW c (w + 1) (BitVec.ofNat 64 (x / 2 ^ 64)) else s

/-- Table 2 of 14_partitions. -/
def State.live (s : State) (c : Nat) : Bool := decide (c < 1024) && s.field c 0 0 1 == 1
def State.sysAttr (s : State) (c : Nat) : Bool := s.field c 0 1 1 == 1
def State.adm (s : State) (c : Nat) : Bool := s.field c 0 2 1 == 1
def State.partOf (s : State) (c : Nat) : Nat := s.field c 0 16 6
def State.frozen (s : State) (c : Nat) : Bool := s.field c 0 37 1 == 1
def State.lost (s : State) (c : Nat) : Bool := s.field c 0 38 1 == 1
def State.rstBusy (s : State) (c : Nat) : Bool := s.field c 0 39 1 == 1

/-- CL_QUOTA and CL_HELD (07 R200). -/
def State.clQuota (s : State) (c : Nat) : Nat := s.field c 2 208 24
def State.clHeld (s : State) (c : Nat) : Nat := s.field c 2 176 24
def State.setClHeld (s : State) (c v : Nat) : State := s.setField c 2 176 24 v

/-- DHINT_CNT rises by one, saturating (08 R233). -/
def State.dropHint (s : State) (c : Nat) : State :=
  let v := s.field c 0 480 32
  if v = 2 ^ 32 - 1 then s else s.setField c 0 480 32 (v + 1)

/-- A ring length field: 4 to `hi`, everything else acts as 0 (13 R336, 14 R387, 07 R200). -/
def ringLog (v hi : Nat) : Nat := if 4 ≤ v ∧ v ≤ hi then v else 0

/-! ### Partition records -/

/-- The default kernel quota word (14 R366). -/
def defqReset : W64 := 0x0121000800400000#64

/-- Reset value of word `w` of a partition record (Table 3): DEFQ is word 3, WGT lies in word 1. -/
def partReset (w : Nat) : W64 := if w = 3 then defqReset else if w = 1 then 0x01010101#64 else 0

def State.partW (s : State) (p w : Nat) : W64 := Tab.read (partReset w) s.part (p * 4 + w)
def State.setPartW (s : State) (p w : Nat) (v : W64) : State :=
  { s with part := Tab.write (partReset w) s.part (p * 4 + w) v }

/-- `n` bits from bit `lo` up of a partition record; no field crosses two words. -/
def State.partField (s : State) (p lo n : Nat) : Nat := bitsOf (s.partW p (lo / 64)).toNat (lo % 64) n
def State.setPartField (s : State) (p lo n v : Nat) : State :=
  s.setPartW p (lo / 64) (BitVec.ofNat 64 (setBitsOf (s.partW p (lo / 64)).toNat (lo % 64) n v))

/-! ### Physical addresses (07 R174) -/

/-- The kinds of home a physical address has. -/
inductive Home
  | hbm (channel : Nat)
  | lp (controller : Nat)
  | cxl (port : Nat)
  | none
  deriving DecidableEq, Repr

/-- Base and size of HDM decoder `n` of a port, and whether it is on (registers of the model: words 0 and 1). -/
def State.hdmBase (s : State) (port n : Nat) : Nat := (Tab.read 0 s.hdm ((port * 8 + n) * 4)).toNat
def State.hdmSize (s : State) (port n : Nat) : Nat := (Tab.read 0 s.hdm ((port * 8 + n) * 4 + 1)).toNat

/-- MODE of a decoder, bits 1:0 of word 2 of the model's registers: 1 mirrored, 2 parity, else plain (14 R384). -/
def State.hdmMode (s : State) (port n : Nat) : Nat := bitsOf (Tab.read 0 s.hdm ((port * 8 + n) * 4 + 2)).toNat 0 2

/-- Does a decoder of the port claim the address (14 R381)? -/
def State.claims (s : State) (port pa : Nat) : Bool :=
  (List.range 8).any fun n => decide (s.hdmBase port n ≤ pa) && decide (pa < s.hdmBase port n + s.hdmSize port n)

/-- Table 2 of 07_memory_model. Of an address that decoders of both ports claim, port 0 is the home: the spec does not say
(DESIGN CHOICE, log 46). -/
def State.home (s : State) (pa : Nat) : Home :=
  if pa < 2 ^ 42 then .hbm ((pa / 2 ^ 12 % 1024).xor (pa / 2 ^ 32 % 1024))
  else if pa < 0x58000000000 then .lp (pa / 2 ^ 16 % 16)
  else if 0x100000000000 ≤ pa ∧ pa < 2 ^ 56 then
    if s.claims 0 pa then .cxl 0 else if s.claims 1 pa then .cxl 1 else .none
  else .none

def isHbm (pa : Nat) : Bool := decide (pa < 2 ^ 42)
def isLocal (pa : Nat) : Bool := decide (pa < 0x58000000000)

/-- The core die of an HBM4 channel (R174), and of a core (00 R2). -/
def channelDie (c : Nat) : Nat := c / 128
def coreDie (core : Nat) : Nat := core / 64

/-! ### Frames (14 R371, R372) -/

/-- The FRAME entry of a physical address's frame. -/
def State.frameW (s : State) (pa : Nat) : W64 := Tab.read 0 s.frame (pa / 65536)
def State.setFrameW (s : State) (pa : Nat) (v : W64) : State :=
  { s with frame := Tab.write 0 s.frame (pa / 65536) v }
def State.owner (s : State) (pa : Nat) : Nat := bitsOf (s.frameW pa).toNat 0 7

/-- May a context use the frame (R372)? Memory that is not HBM4 or LPDDR6 has no FRAME entry. -/
def State.mayUse (s : State) (c pa : Nat) : Bool :=
  !isLocal pa || s.adm c || s.owner pa == s.partOf c + 1 || s.owner pa == 0x7F

/-- A frame whose contents changed since its last checkpoint (17 R448). -/
def State.markDirty (s : State) (pa : Nat) : State :=
  if isLocal pa && !s.dirty.contains (pa / 65536) then { s with dirty := pa / 65536 :: s.dirty } else s

/-- A hardware write to physical memory, performed at once. -/
def State.poke (s : State) (pa : Nat) (bs : List Byte) : State :=
  ({ s with mem := Memory.setBytes s.mem pa bs }).markDirty pa

/-- A record to the system event queue; a full queue loses it. -/
def State.postSys (s : State) (r : BitVec 256) : State :=
  if s.sysQueue.length < 1024 then { s with sysQueue := s.sysQueue ++ [r] } else { s with seqLost := s.seqLost + 1 }

/-! ### Poison (17 R431 to R434) -/

def State.isCounted (s : State) (pa : Nat) : Bool := Tab.has s.counted (pa / 128)

/-- The key under which the poison of an atom is kept: a counted line's data is another copy. -/
def State.atomKey (s : State) (pa : Nat) : Nat := pa / 32 + if s.isCounted pa then 2 ^ 60 else 0

def State.retiredAt (s : State) (pa : Nat) : Bool := s.retired.contains (pa / 65536)
def State.poisonedAt (s : State) (pa : Nat) : Bool := s.poison.contains (s.atomKey pa) || s.retiredAt pa

/-- Is some atom of a range poisoned? -/
def State.poisoned (s : State) (pa n : Nat) : Bool :=
  (List.range ((pa % 32 + n + 31) / 32)).any fun i => s.poisonedAt (pa / 32 * 32 + 32 * i)

/-- KIND 0x50, the first time in a frame (R433). -/
def State.reportBad (s : State) (pa row : Nat) : State :=
  if s.scrubSeen.contains (pa / 65536) then s
  else { s with scrubSeen := pa / 65536 :: s.scrubSeen }.postSys
    (recordOf [(136, 56, pa / 32 * 32), (40, 8, row), (0, 8, 0x50)])

/-- Poisoned atoms of a range are found: the first in a frame is reported (R433). -/
def State.reportRange (s : State) (pa n : Nat) : State :=
  (List.range ((pa % 32 + n + 31) / 32)).foldl (fun s i =>
    let a := pa / 32 * 32 + 32 * i
    if s.poisonedAt a then s.reportBad a 0 else s) s

/-- Mark or clear the poison of one atom. -/
def State.setPoison (s : State) (pa : Nat) (bad : Bool) : State :=
  let k := s.atomKey pa
  if bad then (if s.poison.contains k then s else { s with poison := k :: s.poison })
  else { s with poison := s.poison.filter fun j => j != k, mirrorBad := s.mirrorBad.filter fun j => j != k }

/-- Bytes of one atom are written (R177): to the counted data, or to memory, whose frame becomes dirty. A write that
enables all 32 bytes clears poison; a merge into a poisoned atom leaves it. -/
def State.mergeAtom (s : State) (pa : Nat) (bs : List Byte) : State :=
  let s := if bs.length = 32 then s.setPoison pa false else if s.poisonedAt pa then s.reportBad pa 0 else s
  if s.isCounted pa then { s with countedData := Memory.setBytes s.countedData pa bs }
  else s.poke pa bs

/-! ### Vector clocks and held lines (07 R181; 13 R345, R346) -/

/-- The nine counts of a die. -/
def State.clockOf (s : State) (d : Nat) : List Nat := (List.range 9).map fun e => Tab.read 0 s.dieClock (9 * d + e)

/-- Entry `e` of die `d`'s vector clock as 01 R21 sizes it. -/
def State.clockEntry (s : State) (d e : Nat) : BitVec 16 := BitVec.ofNat 16 (Tab.read 0 s.dieClock (9 * d + e))

/-- A die sends one more write. -/
def State.countWrite (s : State) (d : Nat) : State :=
  { s with dieClock := Tab.write 0 s.dieClock (9 * d + d) (Tab.read 0 s.dieClock (9 * d + d) + 1) }

/-- Do two ranges meet? -/
def rangesMeet (a n b m : Nat) : Bool := decide (a < b + m) && decide (b < a + n)

/-- A clock is left at a range. -/
def State.leaveStamp (s : State) (pa n : Nat) (c : List Nat) : State :=
  if n = 0 then s
  else { s with homeClock := ⟨pa, n, c⟩ :: s.homeClock.filter fun t => !(decide (pa ≤ t.pa) && decide (t.pa + t.size ≤ pa + n)) }

/-- A write is applied at bytes that reads have looked at before their turn: they note it. -/
def State.noteOver (s : State) (pa n die num : Nat) : State :=
  { s with fabric := s.fabric.map fun r =>
      if r.seen.isSome && rangesMeet pa n r.pa r.size then { r with newer := (die, num) :: r.newer } else r }

/-- A line that the directory names sharers for. -/
def State.isTableLine (s : State) (pa : Nat) : Bool := !(Tab.read [] s.dir (pa / 128)).isEmpty

def State.lineHeld (s : State) (pa : Nat) : Bool := s.tableWrites.any fun t => t.line == pa / 128

/-- Bytes by address. -/
def placed (pa : Nat) (bs : List Byte) : List (Nat × Byte) := (List.range bs.length).map fun i => (pa + i, bs.getD i 0)

/-- Must an access to a range wait for a host copy to be recalled: a write for any, a read for a writable one (07 R178)? -/
def State.hostWaits (s : State) (write : Bool) (pa n : Nat) : Bool :=
  isLocal pa && s.hostSt.any fun h => rangesMeet pa n (32 * h.1) 32 && (write || h.2 == .owned)

/-- The recalls that an access to a range waits for are sent, if they have not been (07 R178; 14 R383). -/
def State.ask (s : State) (write : Bool) (pa n : Nat) : State :=
  { s with recalls := s.hostSt.foldl (fun t h =>
      if isLocal pa && rangesMeet pa n (32 * h.1) 32 && (write || h.2 == .owned) && !Tab.has t (h.1 / 2) then
        Tab.set t (h.1 / 2) s.gtime
      else t) s.recalls }

/-- A write of die `d` as it waits at the home: it carries clock `c`, and its number there is the clock's entry for the die. -/
def State.heldWrite (s : State) (bytes : List (Nat × Byte)) (pa : Nat) (who : WriteBy) (d : Nat) (c : List Nat) : TableWrite :=
  { id := s.nextId, line := pa / 128, bytes := bytes, waits := Tab.read [] s.dir (pa / 128), who := who, die := d,
    num := c.getD d 0, clock := c }

/-- A write of die `d` that carries clock `c` takes its place at the home: the line is held, its sharers are asked, and the host
copies of its bytes recalled. -/
def State.hold (s : State) (bytes : List (Nat × Byte)) (pa : Nat) (who : WriteBy) (d : Nat) (c : List Nat) : State :=
  { s with
    tableWrites := s.tableWrites ++ [s.heldWrite bytes pa who d c]
    nextId := s.nextId + 1 }.ask true pa bytes.length

/-- Must a write of a range wait at its home: for sharers, behind a held write, or for host copies? -/
def State.mustHold (s : State) (pa n : Nat) : Bool := s.isTableLine pa || s.lineHeld pa || s.hostWaits true pa n

/-- An atom that has just been written is poisoned: at its home, or in the write that waits there. -/
def State.markWritten (s : State) (pa : Nat) : State :=
  match (s.tableWrites.filter fun t => t.bytes.any fun b => b.1 / 32 == pa / 32).getLast? with
  | some t =>
    { s with tableWrites := s.tableWrites.map fun x => if x.id = t.id then { x with bad := pa / 32 :: x.bad } else x }
  | none => s.setPoison pa true

/-- Records of ring `k` of a context that wait to be performed. -/
def State.pendRecords (s : State) (c k : Nat) : Nat :=
  (s.tableWrites.filter fun t => match t.who with | .record x y => x == c && y == k | _ => false).length

/-- The hardware writes a whole frame, its bytes zero but for those listed by offset; lines with sharers as table writes
(13 R345), and lines of which a host has a copy after its recall (07 R178). -/
def State.writeFrame (s : State) (f : Nat) (bytes : List (Nat × Byte)) : State :=
  let a := f * 65536
  let new := bytes.foldl (fun m b => if b.1 < 65536 then Memory.setBytes m (a + b.1) [b.2] else m) (Memory.zero s.mem a 65536)
  let kept : List Nat := s.dir.filterMap fun e => if e.2.isEmpty then none else some e.1
  let held : List Nat := s.tableWrites.map fun t => t.line
  let hosts : List Nat := s.hostSt.map fun h => h.1 / 4
  let lines := ((kept ++ held ++ hosts).filter fun l => l / 512 == f).eraseDups
  let s' := (s.markDirty a).countWrite 8
  let c := s'.clockOf 8
  let s' := { s' with mem := lines.foldl (fun m l => Memory.setBytes m (128 * l) (Memory.bytes s.mem (128 * l) 128)) new }
  lines.foldl (fun s l => s.hold (placed (128 * l) (Memory.bytes new (128 * l) 128)) (128 * l) .other 8 c)
    ((s'.leaveStamp a 65536 c).noteOver a 65536 8 (c.getD 8 0))

/-! ### A recovery job's hold (17 R447) -/

/-- The recovery block (17 Table 5): word 2 is TARGETS, all ones at reset. -/
def State.recW (s : State) (w : Nat) : W64 := Tab.read (if w = 2 then BitVec.allOnes 64 else 0) s.recovery w
def State.setRecW (s : State) (w : Nat) (v : W64) : State :=
  { s with recovery := Tab.write (if w = 2 then BitVec.allOnes 64 else 0) s.recovery w v }

/-- The partitions in scope: PMASK as a running job found it (17 R446). -/
def State.scopeMask (s : State) : W64 := if s.job.isSome then s.jobScope else s.recW 3
/-- Is a context in the scope of the recovery block? -/
def State.inScope (s : State) (c : Nat) : Bool := s.scopeMask.getLsbD (s.partOf c)
/-- The context is in a scope that is held: by the running job, or by a hand-over that has failed (17 R447, R449). -/
def State.scopeHeld (s : State) (c : Nat) : Bool :=
  (s.job.any (·.hold) && s.inScope c) || s.kept.any fun m => m.getLsbD (s.partOf c)

/-! ### Interrupts and queues of the system (14 R385, R389) -/

/-- Vector IVEC of the context's virtual function is signalled; while the function is not enabled, its pending bit is set. -/
def State.signal (s : State) (c : Nat) : State :=
  let v := (s.partOf c + 1, s.field c 0 437 11)
  if s.partField (s.partOf c) 11 1 = 1 then { s with msi := s.msi ++ [v] }
  else if s.msiPend.contains v then s
  else { s with msiPend := s.msiPend ++ [v] }

/-- Interrupt lines 0 and 1 of the stewards' local controller. -/
def State.stewardLines (s : State) : Bool × Bool := (!s.sysQueue.isEmpty, !s.migQueue.isEmpty)

/-! ### Records in rings (07 R200; 13 R354; 14 R387) -/

/-- The record at the index of ring `k` of a context is performed at SYSTEM scope: the index advances, and its signal is sent
(14 R385). -/
def State.advanceRing (s : State) (c k : Nat) : State :=
  match k with
  | 0 =>
    let w := s.field c 2 384 32 + 1
    let s := s.setField c 2 384 32 w
    if (w + 2 ^ 32 - s.field c 2 352 32) % 2 ^ 32 = 1 && s.field c 0 434 1 == 1 && !s.frozen c then s.signal c else s
  | 1 =>
    let s := s.setField c 1 384 32 (s.field c 1 384 32 + 1)
    if s.field c 0 435 1 == 1 && !s.frozen c then s.signal c else s
  | _ => s.setField c 3 384 32 (s.field c 3 384 32 + 1)

/-- A record of whole atoms that die `d` (8: the IOD) writes for ring `k` of a context; one that must wait, or that another of the
ring waits before, takes its place as a write that is held. -/
def State.writeRecord (s : State) (d c k pa : Nat) (bs : List Byte) : State :=
  let s := s.countWrite d
  let x := s.clockOf d
  if s.mustHold pa bs.length || s.pendRecords c k != 0 then s.hold (placed pa bs) pa (.record c k) d x
  else
    let s := (List.range (bs.length / 32)).foldl (fun s i => s.mergeAtom (pa + 32 * i) ((bs.drop (32 * i)).take 32)) s
    ((s.leaveStamp pa bs.length x).noteOver pa bs.length d (x.getD d 0)).advanceRing c k

/-! ### Local memory and its two kinds of path (07 R172, R187) -/

/-- Local bytes are written; a word written whole loses its poison. Who sees them when is not this operation's. -/
def Team.write (t : Team) (a : Nat) (bs : List Byte) : Team :=
  { t with lm := Memory.setBytes t.lm a bs,
           bad := t.bad.filter fun w => !(decide (a ≤ 4 * w) && decide (4 * w + 4 ≤ a + bs.length)) }

/-- What a path sees of local memory while the newest writes of the other are hidden from it: newest first, undone. -/
def hideLate (m : Memory) (l : List Late) : Memory := l.foldl (fun m e => Memory.setBytes m e.addr e.old) m

def Late.meets (e : Late) (a n : Nat) : Bool := rangesMeet e.addr e.old.length a n

/-- A core-path write: the engines need not see it yet (07 R172, R187). Engine writes to its bytes are seen with it. -/
def Team.corePut (t : Team) (a : Nat) (bs : List Byte) : Team :=
  { t.write a bs with
    coreLate := ⟨0, a, Memory.bytes t.lm a bs.length⟩ :: t.coreLate
    engineLate := t.engineLate.takeWhile fun e => !e.meets a bs.length }

/-- A write on engine path `cls`: the core path need not see it yet. -/
def Team.enginePut (t : Team) (cls a : Nat) (bs : List Byte) : Team :=
  { t.write a bs with
    engineLate := ⟨cls, a, Memory.bytes t.lm a bs.length⟩ :: t.engineLate
    coreLate := t.coreLate.takeWhile fun e => !e.meets a bs.length }

/-! ### Freeze (14 R373, R374) -/

/-- The entry area's header with STATUS 10 for a node cut off by a freeze (08 R258). -/
def Team.setStatus (t : Team) (f : Furrow) (ix status cause detail : Nat) : Team :=
  let a := f.base + ix % f.len * 32
  t.enginePut 1 (a + 4) [BitVec.ofNat 8 status, BitVec.ofNat 8 detail, BitVec.ofNat 8 cause]

/-- Every node of a furrow that had started takes STATUS 10, and the furrow is frozen (08 R258). -/
def State.freezeFurrow (s : State) (k : Nat) (f : Furrow) : State :=
  let started := f.nodes.filter fun n => n.phase == .running || n.phase == .parked || n.phase == .again
  { s with
    teams := Tab.modify s.teams f.team fun t => started.foldl (fun t n => t.setStatus f n.ix 10 0 0) t
    furrows := Tab.set s.furrows k { f with state := 4, nodes := f.nodes.filter fun n => n.phase == .waiting } }

def State.ctxOfTeam (s : State) (t : Nat) : Option Nat := (Tab.get? s.teams t).map (·.ctx)

/-- Stop everything of a context (R373): issue, furrows, accesses not past their controllers; the values of accesses beyond the core
are discarded (07 Table 6), and what else has issued completes (06 R146). -/
def State.stopCtx (s : State) (c : Nat) : State :=
  let s := s.furrows.foldl
    (fun s kf => if kf.2.opened && s.ctxOfTeam kf.2.team == some c then s.freezeFurrow kf.1 kf.2 else s) s
  { s with
    groups := s.groups.map fun e => if e.2.ctx = c then (e.1, { e.2 with bundles := [] }) else e
    cur := match s.cur with
      | some u => if (Tab.get? s.groups u.gid).any (fun g => g.ctx == c) then none else some u
      | none => none
    fabric := s.fabric.filter fun r => r.ctx != c
    results := s.results.filter fun r => !(r.beyond && (Tab.get? s.groups r.gid).any fun g => g.ctx == c)
    sends := s.sends.filter fun x => x.ctx != c }

/-- FROZEN and FRZ_CAUSE (Table 5); cause 0x10 also sets LOST. -/
def State.setFrozen (s : State) (c cause : Nat) : State :=
  let s := (s.setField c 0 37 1 1).setField c 0 40 8 cause
  if cause = 0x10 then s.setField c 0 38 1 1 else s

/-- Can the hardware write the context's structure at `pa` (R372)? -/
def State.structOk (s : State) (c pa : Nat) : Bool := s.mayUse c pa && s.home pa != .none

/-- Append a record to the error queue of a context whose frame check has passed (07 R200, 14 R385). -/
def State.eqAppend (s : State) (c : Nat) (r : BitVec 256) : State :=
  let lg := ringLog (s.field c 2 416 5) 16
  let widx := s.field c 2 384 32 + s.pendRecords c 0
  let ridx := s.field c 2 352 32
  if lg = 0 ∨ (widx + 2 ^ 32 - ridx) % 2 ^ 32 = 2 ^ lg then
    let o := s.field c 2 320 32
    let s := if o = 2 ^ 32 - 1 then s else s.setField c 2 320 32 (o + 1)
    s.setField c 2 258 1 1
  else
    let base := s.field c 2 448 64 / 2 ^ (5 + lg) * 2 ^ (5 + lg)
    s.writeRecord 8 c 0 (base + 32 * (widx % 2 ^ lg)) (leBytes 32 r.toNat)

/-- Where the next error-queue record goes, if the queue can take one. -/
def State.eqSlot (s : State) (c : Nat) : Option Nat :=
  let lg := ringLog (s.field c 2 416 5) 16
  if lg = 0 then none
  else some (s.field c 2 448 64 / 2 ^ (5 + lg) * 2 ^ (5 + lg) + 32 * ((s.field c 2 384 32 + s.pendRecords c 0) % 2 ^ lg))

/-- A freeze record (Table 6). -/
def freezeRecord (c cause src core : Nat) (va : W64) (pa : Nat) (pc : W64) : BitVec 256 :=
  recordOf [(192, 64, va.toNat), (136, 56, pa / 65536 * 65536), (64, 64, pc.toNat), (40, 8, src), (30, 10, c),
    (20, 10, core), (8, 8, cause), (0, 8, 3)]

/-- Freeze a context (R373). A frozen context keeps its cause and posts nothing (R374). `toEq`: the error queue did not
cause the freeze itself. -/
def State.freeze (s : State) (c cause src core : Nat) (va : W64) (pa : Nat) (pc : W64) (toEq : Bool) : State :=
  if s.frozen c then s
  else
    let s := (s.stopCtx c).setFrozen c cause
    if cause = 0 then s
    else
      let r := freezeRecord c cause src core va pa pc
      let ok := match s.eqSlot c with | some a => s.structOk c a | none => true
      let s := if toEq && ok then s.eqAppend c r else s
      let s := s.postSys r
      if s.field c 0 436 1 == 1 then s.signal c else s

/-- Post a record to a context's error queue (07 R200). A queue in a frame the context may not use freezes the context
with cause 0x04, and the write is not made (14 R372). -/
def State.postEq (s : State) (c : Nat) (r : BitVec 256) : State :=
  match s.eqSlot c with
  | some a => if s.structOk c a then s.eqAppend c r else s.freeze c 4 3 0x3FF 0 a 0 false
  | none => s.eqAppend c r

/-- An over-read or under-read record (07 R201), with its sticky bit. -/
def State.postRead (s : State) (c kind src core count : Nat) (va : W64) (pa : Nat) (pc : W64) : State :=
  let s := s.setField c 2 (if kind = 1 then 256 else 257) 1 1
  s.postEq c (recordOf [(192, 64, va.toNat), (136, 56, pa / 128 * 128), (64, 64, pc.toNat), (48, 16, count),
    (40, 8, src), (30, 10, c), (20, 10, core), (0, 8, kind)])

end Sys2Proof.Machine
end

