-- ==== Sys2Proof/Machine/Ops.lean ====
section
/-! DEFINITION. Named operations over groups, lanes and registers; ends of threads, groups and teams (11 R298);
taking a trap and returning from one (16 R397 to R409); how a bundle goes on after an instruction (10 R277 to R279).
What rests on the model rather than on the plain words of the manual: log 11 (DEDUCED), log 41 (DEDUCED), log 48 (DEDUCED).
-/

namespace Sys2Proof.Machine

/-- The outcome of a step of this machine. -/
abbrev Out := Host.Outcome State Fault Refusal

/-! ### Groups and lanes -/

def State.group? (s : State) (gid : Nat) : Option Group := Tab.get? s.groups gid
def State.setGroup (s : State) (gid : Nat) (g : Group) : State := { s with groups := Tab.set s.groups gid g }
def State.modGroup (s : State) (gid : Nat) (f : Group → Group) : State :=
  { s with groups := Tab.modify s.groups gid f }

def Group.lane (g : Group) (l : Nat) : Lane := Tab.read Lane.off g.lanes l
def Group.setLane (g : Group) (l : Nat) (x : Lane) : Group := { g with lanes := Tab.write Lane.off g.lanes l x }
def Group.modLane (g : Group) (l : Nat) (f : Lane → Lane) : Group := g.setLane l (f (g.lane l))
def Group.modLanes (g : Group) (ls : List Nat) (f : Lane → Lane) : Group := ls.foldl (fun g l => g.modLane l f) g

def Lane.isLive (x : Lane) : Bool := x.stat == .live
def Group.live (g : Group) (l : Nat) : Bool := (g.lane l).isLive
def Group.liveLanes (g : Group) : List Nat := allLanes.filter g.live
def Group.liveMask (g : Group) : W32 := maskOf g.liveLanes
/-- A group ends when none of its lanes is live (10 R264). -/
def Group.ended (g : Group) : Bool := g.liveLanes.isEmpty

/-- The PC a lane runs at: the handler's while the handler runs (16 R402). -/
def Group.epc (g : Group) (l : Nat) : W64 := if g.inh then (g.lane l).hpc else (g.lane l).pc

/-- The program PC becomes `a`: the thread may arrive at its meeting (10 R278). -/
def Lane.moveTo (x : Lane) (a : W64) : Lane :=
  { x with pc := a, passed := x.passed && a == x.pc, held := a == x.meet && !(x.passed && a == x.pc) }

/-- The PC a lane runs at becomes `a`. -/
def Group.go (g : Group) (a : W64) (l : Nat) : Group :=
  g.modLane l fun x => if g.inh then { x with hpc := a } else x.moveTo a

/-- Predicate p7 reads true (01 R17). -/
def Lane.pred (x : Lane) (i : Nat) : Bool := if i = 7 then true else x.p.getLsbD i
def Lane.setPred (x : Lane) (i : Nat) (v : Bool) : Lane :=
  if i ≥ 7 then x
  else { x with p := if v then x.p ||| BitVec.ofNat 7 (2 ^ i) else x.p &&& ~~~(BitVec.ofNat 7 (2 ^ i)) }

/-! ### Registers -/

def Group.vr (g : Group) (r l : Nat) : W32 := Tab.read 0 g.v (32 * r + l)
/-- A register written whole loses its poison (17 R431). -/
def Group.setVr (g : Group) (r l : Nat) (x : W32) : Group :=
  { g with v := Tab.write 0 g.v (32 * r + l) x, vBad := g.vBad.filter fun k => k != 32 * r + l }
def Group.sr (g : Group) (r : Nat) : W64 := Tab.read 0 g.sreg r
def Group.setSr (g : Group) (r : Nat) (x : W64) : Group :=
  { g with sreg := Tab.write 0 g.sreg r x, sBad := g.sBad.filter fun k => k != r }

/-- `n` 32-bit registers from `r` up as one number, the lowest register lowest. -/
def Group.vrs (g : Group) (r l : Nat) : Nat → Nat
  | 0 => 0
  | n + 1 => (g.vr r l).toNat + 2 ^ 32 * g.vrs (r + 1) l n

/-- Write `n` registers from `r` up. -/
def Group.setVrs (g : Group) (r l : Nat) : Nat → Nat → Group
  | 0, _ => g
  | n + 1, x => (g.setVr r l (BitVec.ofNat 32 x)).setVrs (r + 1) l n (x / 2 ^ 32)

/-- Full/empty bits (02 R41). -/
def Group.isEmpty (g : Group) : DReg → Bool
  | .vec r l => Tab.read false g.vEmpty (32 * r + l)
  | .scal r => Tab.read false g.sEmpty r
  | .port q slot l => (Tab.read 0 g.awaited (8 * q + slot)).getLsbD l
def Group.setEmpty (g : Group) (d : DReg) (e : Bool) : Group :=
  match d with
  | .vec r l => { g with vEmpty := Tab.write false g.vEmpty (32 * r + l) e, owed := g.owed.erase d }
  | .scal r => { g with sEmpty := Tab.write false g.sEmpty r e, owed := g.owed.erase d }
  | .port q slot l =>
    let m := Tab.read 0 g.awaited (8 * q + slot)
    { g with awaited := Tab.write 0 g.awaited (8 * q + slot) (if e then m ||| maskOf [l] else m &&& ~~~maskOf [l]),
             owed := g.owed.erase d }
def Group.markEmpty (g : Group) (ds : List DReg) : Group := ds.foldl (fun g d => g.setEmpty d true) g

/-- What is still to be delivered to. -/
def Group.empties (g : Group) : List DReg :=
  ((g.vEmpty.filter (·.2)).map fun e => DReg.vec (e.1 / 32) (e.1 % 32)) ++
  ((g.sEmpty.filter (·.2)).map fun e => DReg.scal e.1) ++
  g.awaited.flatMap fun e => (lanesOf e.2).map fun l => DReg.port (e.1 / 8) (e.1 % 8) l

/-- Sticky flags of ASTAT are set (04 R85). -/
def Group.flag (g : Group) (f : W32) : Group := { g with astat := g.astat ||| f }

def Group.queue (g : Group) (q : Nat) : List (Tab W32) := Tab.read [] g.queues q

/-- A lane's value in the queue entry of a slot. -/
def Group.setSlot (g : Group) (q slot l : Nat) (x : W32) : Group :=
  let i := (slot + 8 - Tab.read 0 g.heads q) % 8
  { g with queues := Tab.write [] g.queues q ((g.queue q).modify i fun e => Tab.write 0 e l x) }

/-- A value is written where it goes. -/
def Group.putReg (g : Group) (w : DReg × W64) : Group :=
  match w.1 with
  | .vec r l => g.setVr r l (w.2.setWidth 32)
  | .scal r => g.setSr r w.2
  | .port q slot l => g.setSlot q slot l (w.2.setWidth 32)

/-- Does what takes a value still take it: is its lane live, or any lane of the group? -/
def Group.takes (g : Group) : DReg → Bool
  | .vec _ l | .port _ _ l => g.live l
  | .scal _ => !g.ended

/-- A long-latency result reaches its register, which becomes full, and the flags of its instruction are set (04 R86); a lane that is
no longer live discards it (02 R44, 11 R298). -/
def Group.deliver (g : Group) (w : DReg × W64) : Group :=
  let f := (g.due.filter fun d => d.1 == w.1).foldl (fun f d => f ||| d.2) 0
  let g := { g with due := g.due.filter fun d => d.1 != w.1 }
  (if g.takes w.1 then (g.putReg w).flag f else g).setEmpty w.1 false

/-! ### Who may issue -/

/-- A group issues when its context is neither frozen nor held and its cluster is on its cores (10 R277; 17 R447). -/
def State.onCore (s : State) (g : Group) : Bool :=
  !s.frozen g.ctx && !s.scopeHeld g.ctx && (Tab.get? s.clusters g.cluster).any (fun c => c.phase == .resident)

/-- A thread that may issue, its group's own state given (10 R277; 16 R402: PARK and MEET do not apply in a handler). -/
def Group.ready (g : Group) (l : Nat) : Bool :=
  let x := g.lane l
  x.isLive && x.block.isNone && g.hold.isNone && g.pend.isNone && (g.inh || (!x.park && !x.held))

/-! ### Ends (10 R264, 11 R298) -/

/-- Every group of the team but those that have ended. -/
def State.teamGroups (s : State) (t : Nat) : List (Nat × Group) :=
  s.groups.filter fun e => e.2.team == t

def State.openGroups (s : State) (t : Nat) : List (Nat × Group) :=
  (s.teamGroups t).filter fun e => !e.2.ended

/-- A furrow slot becomes free; its generation rises, never to 0 (08 R243). -/
def Furrow.free (f : Furrow) : Furrow :=
  { f with opened := false, gen := if f.gen ≥ 4095 then 1 else f.gen + 1, nodes := [], heldDec := [] }

/-- Has a furrow a node that has started and not ended? -/
def Furrow.busy (f : Furrow) : Bool := f.nodes.any fun n => n.phase == .running || n.phase == .parked || n.phase == .again

/-- A furrow of an ended team admits nothing more, and is freed when no node of it runs (08 R258). -/
def Furrow.endSlot (f : Furrow) : Furrow := if f.busy then { f with ending := true } else f.free

/-- A record becomes free; its generation advances (06 R144). -/
def ObRec.free (r : ObRec) : ObRec := { r with live := false, gen := if r.gen ≥ 2047 then 1 else r.gen + 1 }

/-- Records that a team of a set owns become free. -/
def State.freeRecords (s : State) (own : Nat → Bool) : Tab ObRec :=
  s.ob.map fun e => if e.2.live && own e.2.team then (e.1, e.2.free) else e

/-- The state of a team whose last group ended is released (11 R298). -/
def State.endTeam (s : State) (t : Nat) : State :=
  let s :=
    { s with
      banks := Tab.keep s.banks fun _ o => o != t
      ob := s.freeRecords (· == t)
      accReqs := s.accReqs.filter fun r => (s.group? r.gid).any fun g => g.team != t
      furrows := s.furrows.map fun e => if e.2.opened && e.2.team == t then (e.1, e.2.endSlot) else e
      pendings := s.pendings.filter fun p => p.team != t
      teams := Tab.modify s.teams t fun x => { x with ended := true, boxes := [] } }
  match Tab.get? s.teams t with
  | none => s
  | some x =>
    let whole := (Tab.get? s.clusters x.cluster).any fun c =>
      c.teams.all fun u => (Tab.get? s.teams u).any (·.ended)
    if whole then
      { s with
        clusters := Tab.modify s.clusters x.cluster fun c => { c with phase := .ended }
        grids := Tab.modify s.grids x.grid fun g => { g with finished := g.finished + 1 } }
    else s

/-- A group's furrows start nodes again (17 R454). -/
def State.resumeFurrows (s : State) (gid : Nat) : State :=
  { s with furrows := s.furrows.map fun (f : Nat × Furrow) => if f.2.gid = gid then (f.1, { f.2 with paused := false }) else f }

/-- A group that has no live lane ends; with the last group of its team the team ends. -/
def State.groupOver (s : State) (gid : Nat) : State :=
  match s.group? gid with
  | none => s
  | some g =>
    if g.ended then
      let s := s.modGroup gid fun g =>
        { g with bundles := [], hold := none, retry := none, pend := none, inh := false, deferred := [] }
      let s := { s with
        accReqs := s.accReqs.filter fun r => r.gid != gid }.resumeFurrows gid
      if (s.openGroups g.team).isEmpty then s.endTeam g.team else s
    else s

/-- Live lanes of a list become exited (10 R264). -/
def Group.exit (g : Group) (ls : List Nat) : Group :=
  g.modLanes (ls.filter g.live) fun x =>
    { x with stat := .exited, park := false, block := none, held := false, exitMark := false, saved := none }

/-! ### Taking a trap (16 R400, R408) -/

/-- Nothing the group has issued is still on its way (16 R400). -/
def State.groupDrained (s : State) (gid : Nat) : Bool :=
  (s.fabric.all fun r => r.gid != gid) && (s.results.all fun r => r.gid != gid) &&
  (s.tableWrites.all fun t => match t.who with | .core r => r.gid != gid | _ => true)

/-- The unhandled-trap record (16 Table 6). -/
def unhandledRecord (g : Group) (r : TrapRec) : BitVec 256 :=
  recordOf [(192, 64, r.addr.toNat), (128, 64, r.pc.toNat), (96, 32, r.mask.toNat), (80, 16, r.detail),
    (72, 8, r.cause), (64, 8, if g.inh then g.trap.cause else 0), (48, 1, if g.inh then 1 else 0), (40, 5, g.gix),
    (30, 10, g.ctx), (20, 10, g.core), (0, 8, 4)]

/-- A trap with no handler, or within one: it is recorded, the group ends and one record is posted (R400, R408). -/
def State.unhandled (s : State) (gid : Nat) (g : Group) (r : TrapRec) : State :=
  let s := s.setGroup gid ({ g with trap := r, pend := none }.exit allLanes)
  (s.groupOver gid).postEq g.ctx (unhandledRecord g r)

/-- The handler starts in every live lane; program PC, MEET, PARK, registers, predicates, ASTAT and SEED keep their
values (R400, R402). -/
def Group.enter (g : Group) (cycle : Nat) (r : TrapRec) : Group :=
  let g := { g with inh := true, trap := r, pend := none, trapAt := cycle, owed := g.empties }
  g.modLanes g.liveLanes fun x =>
    { x with hpc := g.hvec, saved := x.block.map fun b => (b, cycle - x.since), block := none, ready := cycle }

/-- The pending trap of a drained group is entered. -/
def State.enterTrap (s : State) (gid : Nat) : State :=
  match s.group? gid with
  | none => s
  | some g =>
    match g.pend with
    | none => s
    | some r =>
      if g.hvec = 0 ∨ g.inh then s.unhandled gid g r
      else s.setGroup gid (g.enter s.cycle r)

/-- Enter the pending trap if the group is drained and its context not frozen (R400, R409). -/
def State.settle (s : State) (gid : Nat) : State :=
  match s.group? gid with
  | none => s
  | some g =>
    -- a spilled group's image lies in its save area: the entry waits until it resumes
    let away := (Tab.get? s.teams g.team).any (·.spilled)
    if s.groupDrained gid && !s.frozen g.ctx && !away then s.enterTrap gid else s

/-- TAKING A TRAP: issue stops in the group, the trap is recorded, and the handler starts, or the group ends, when
what the group has issued has completed (R399, R400). A trap after the first is as if never issued. The instruction that
held the group counts as not issued: its arrival or request is withdrawn and its wait begins afresh (18 R460). -/
def State.raise (s : State) (gid : Nat) (r : TrapRec) : State :=
  match s.group? gid with
  | none => s
  | some g =>
    if g.pend.isSome then s
    else
      let s := s.setGroup gid { g with pend := some r, bundles := [], hold := none, retry := none }
      let s := { s with
        cur := match s.cur with | some u => if u.gid = gid then none else some u | none => none
        accReqs := s.accReqs.filter fun q => q.gid != gid }
      s.settle gid

/-! ### Returning from a trap (16 R407) -/

/-- TRET waits for what the handler has issued: what other bundles of the handler have not issued is abandoned. -/
def Group.returning (g : Group) : Bool := g.hold.any fun h => h.kind == .tret

/-- The clocks of the group's program waits go on from where they stood (R402, R409). -/
def Group.shift (g : Group) (d : Nat) : Group :=
  { g with meets := g.meets.map fun e => (e.1, e.2 + d), retry := g.retry.map (· + d),
           hold := g.hold.map fun h => { h with since := h.since + d } }

/-- The clocks of the meetings that lanes have not reached start again (R279); while a handler runs they stand, so that they start
when it ends. -/
def Group.restart (g : Group) (cycle : Nat) (ls : List Nat) : Group :=
  let t := if g.inh then g.trapAt else cycle
  ls.foldl (fun g l =>
    let x := g.lane l
    if x.pc == x.meet then g else { g with meets := Tab.set g.meets x.meet.toNat t }) g

/-- Is a wait one of the instruction at the thread's PC, so that it ends when the PC is edited? -/
def Block.atPc : Block → Bool
  | .regs _ | .cross _ | .queue _ _ | .miss => true
  | _ => false

/-- Each live lane resumes at its program PC (R407 steps 3 and 4). -/
def Group.leave (g : Group) (cycle : Nat) : Group :=
  let marked := allLanes.filter fun l => g.live l && (g.lane l).exitMark
  let g := ((g.restart cycle marked).exit marked).shift (cycle - g.trapAt)
  let g := { g with inh := false, bundles := [], owed := [] }
  g.modLanes g.liveLanes fun x =>
    { x with
      block := x.saved.map (·.1)
      since := match x.saved with | some b => cycle - b.2 | none => x.since
      saved := none, ready := cycle, held := x.held && x.pc == x.meet }

/-- The trap of a wake that was deferred while the handler ran (R407 step 5): its lanes lose PARK, and with them those of the records
of cause 0 behind it, which are waiters of the same wake. -/
def State.takeDeferred (s : State) (gid : Nat) : State :=
  match s.group? gid with
  | none => s
  | some g =>
    match g.deferred with
    | [] => s
    | r :: rest =>
      let more := rest.takeWhile fun x => x.cause == 0
      let g := { g with deferred := rest.dropWhile fun x => x.cause == 0 }
      let g := g.modLanes ((r :: more).flatMap fun x => lanesOf x.mask) fun x => { x with park := false }
      (s.setGroup gid g).raise gid r

/-- Strikes of engines pending for a group are taken as one trap: TDETAIL is its lowest watchpoint, TLANE its lowest live lane, and
TAUX is of the earliest strike (17 R454; 18 R461). -/
def State.takeWatch (s : State) (gid : Nat) : State :=
  match s.group? gid with
  | none => s
  | some g =>
    match g.watch with
    | [] => s
    | w :: ws =>
      if g.inh || g.pend.isSome || g.ended then s
      else
        let t := ws.foldl (fun t x => if x.detail < t.detail then x else t) w
        let l := g.liveLanes.headD 0
        (s.setGroup gid { g with watch := [] }).raise gid
          { t with tlane := l, pc := (g.lane l).pc, mask := g.liveMask, aux := w.aux }

/-- RETURNING FROM A TRAP. What was deferred is taken at once: wakes first, then strikes of engines (log 41). With no strike pending
any more, the group's furrows go on (17 R454). -/
def State.leaveTrap (s : State) (gid : Nat) : State :=
  match s.group? gid with
  | none => s
  | some g =>
    let s := { s.setGroup gid (g.leave s.cycle) with cur := none }
    let s := if g.watch.isEmpty then s.resumeFurrows gid else s
    ((s.groupOver gid).takeDeferred gid).takeWatch gid

/-! ### Quotas (10 R274, R283) -/

/-- The quota word that governs a kernel on a core. -/
def Grid.quotaAt (k : Grid) (core : Nat) : W64 := Tab.read k.quota0 k.quota core

def Grid.quotaField (k : Grid) (core lo n : Nat) : Nat := bitsOf (k.quotaAt core).toNat lo n

/-- Issuing a bundle of a kernel adds floor(65520 / WEIGHT) to its pass (R283). -/
def State.charge (s : State) (g : Group) : State :=
  { s with grids := Tab.modify s.grids g.grid fun k =>
      let p := Tab.read 0 k.pass g.core + 65520 / max 1 (k.quotaField g.core 56 8)
      { k with pass := Tab.write 0 k.pass g.core p } }

/-! ### After an instruction (10 R277 to R279) -/

/-- Sibling progress: a thread that issues with MEET other than its PC restarts that meeting's clock (R279). -/
def Group.progress (g : Group) (cycle : Nat) (ls : List Nat) : Group := if g.inh then g else g.restart cycle ls

/-- The bundle that goes on: the remaining threads that share the next PC of the lowest-numbered one (R277). -/
def Group.rest (g : Group) (ls : List Nat) : List Bundle :=
  match ls.filter g.ready with
  | [] => []
  | l :: more =>
    let a := g.epc l
    [⟨maskOf (l :: more.filter fun k => g.epc k == a), a, false⟩]

/-- A held group goes on past its instruction. -/
def Group.release (g : Group) (cycle : Nat) : Group :=
  match g.hold with
  | none => g
  | some h =>
    let ls := (lanesOf h.lanes).filter g.live
    let g := ls.foldl (fun g l => g.go h.next l) (g.progress cycle ls)
    { g.flag h.flags with hold := none, retry := none }

/-- The instruction of a held group completes. -/
def State.releaseGroup (s : State) (gid : Nat) : State :=
  match s.group? gid with
  | none => s
  | some g => (s.setGroup gid (g.release s.cycle)).charge g

/-- A held group tries its instruction again. -/
def Group.again (g : Group) : Group :=
  match g.hold with
  | none => g
  | some h => { g with hold := none, retry := if g.inh then g.retry else some h.since }

/-- A wait of a held group ends in a trap at its instruction (16 R398 item 4), at an effective address for a memory cause. -/
def State.stallAt (s : State) (gid cause detail : Nat) (addr aux : W64) : State :=
  match s.group? gid with
  | none => s
  | some g =>
    match g.hold with
    | none => s
    | some h =>
      (s.setGroup gid { g with hold := none, retry := none }).raise gid
        ⟨cause, detail, (lanesOf h.lanes).headD 0, h.pc, addr, aux, h.lanes⟩

def State.stall (s : State) (gid cause detail : Nat) (aux : W64) : State := s.stallAt gid cause detail 0 aux

/-- The bundle of `cur` has issued: its threads' ages restart and what remains of it may issue again. -/
def State.retire (s : State) (u : Cur) : State :=
  let s := s.modGroup u.gid fun g =>
    let ls := lanesOf u.lanes
    let g := g.modLanes ls fun x => { x with ready := s.cycle }
    { g with bundles := g.bundles ++ g.rest ls }
  { s with cur := none }

end Sys2Proof.Machine
end

