-- ==== Sys2Proof/Machine/Home.lean ====
section
/-! DEFINITION. What a home keeps beside the bytes: registered control atoms (08 R225; 10 R270; 11 R313), counted lines
(07 R192 to R198), rings (08 R226), poison and retired frames (17 R431 to R434), access counters (14 R388); reads and
writes at a home (07 R177); and the loss of a context (17 R436).
What rests on the model rather than on the plain words of the manual: log 16 (DEDUCED), log 31 (DEDUCED), log 34 (DEDUCED).
-/

namespace Sys2Proof.Machine

/-! ### Registered rings (14 Table 10, TAB 2) -/

def State.ringAtom (s : State) (k : Nat) : Nat := (Tab.read 0 s.tabRing (4 * k)).toNat / 32
def State.ringFirst (s : State) (k : Nat) : Nat := (Tab.read 0 s.tabRing (4 * k + 1)).toNat / 128
def State.ringLines (s : State) (k : Nat) : Nat := bitsOf (Tab.read 0 s.tabRing (4 * k + 2)).toNat 0 9 + 1
def State.ringCtx (s : State) (k : Nat) : Nat := bitsOf (Tab.read 0 s.tabRing (4 * k + 2)).toNat 16 10

/-- The ring whose slots hold a line. -/
def State.ringOfLine (s : State) (line : Nat) : Option Nat :=
  (s.ring.find? fun e => decide (s.ringFirst e.1 ≤ line) && decide (line < s.ringFirst e.1 + s.ringLines e.1)).map (·.1)
/-- The ring whose control atom this is. -/
def State.ringOfAtom (s : State) (atom : Nat) : Option Nat := (s.ring.find? fun e => s.ringAtom e.1 == atom).map (·.1)

/-- TAIL, FREE, FILLS, DRAINS of a ring change. -/
def State.modRing (s : State) (k : Nat) (f : Nat × Nat × Nat × Nat → Nat × Nat × Nat × Nat) : State :=
  { s with ring := Tab.modify s.ring k f }

/-- A slot leaves the counted state (08 R226); `drain`: gone fallow or released. -/
def State.ringDrop (s : State) (line : Nat) (drain : Bool) : State :=
  match s.ringOfLine line with
  | none => s
  | some k => s.modRing k fun v => (v.1, v.2.1 + 1, v.2.2.1, if drain then (v.2.2.2 + 1) % 2 ^ 32 else v.2.2.2)

/-- 08 Table 4. -/
def State.ringAtomValue (s : State) (k : Nat) : Nat :=
  let v := Tab.read (0, 0, 0, 0) s.ring k
  ofFields [(96, 32, v.2.2.2), (64, 32, v.2.2.1), (32, 10, s.ringLines k), (16, 10, v.2.1), (0, 9, v.1)]

/-! ### Queues and pools (14 Table 10) -/

def State.queueW (s : State) (q w : Nat) : W64 := Tab.read 0 s.tabQueue (8 * q + w)
def State.queueCtx (s : State) (q : Nat) : Nat := bitsOf (s.queueW q 1).toNat 0 10
/-- A registered queue whose notify atom this is. -/
def State.queueOfAtom (s : State) (atom : Nat) : Option Nat :=
  (s.queue.find? fun e => (s.queueW e.1 4).toNat / 32 == atom).map (·.1)

def State.poolW (s : State) (p w : Nat) : W64 := Tab.read 0 s.tabPool (4 * p + w)
def State.poolCtx (s : State) (p : Nat) : Nat := bitsOf (s.poolW p 0).toNat 32 10
def State.poolBuffers (s : State) (p : Nat) : Nat := bitsOf (s.poolW p 0).toNat 0 8 + 1
/-- The pool and index of a fill-barrier atom. -/
def State.poolOfAtom (s : State) (atom : Nat) : Option (Nat × Nat) :=
  s.pool.findSome? fun e =>
    let base := (s.poolW e.1 3).toNat / 32
    if base ≤ atom ∧ atom < base + e.2.length then some (e.1, atom - base) else none

def State.atomOf (s : State) (p i : Nat) : Atom := (Tab.read [] s.pool p).getD i Atom.zero
/-- 11 Table 5. -/
def atomWord (a : Atom) : Nat :=
  ofFields [(192, 64, a.src.toNat), (160, 32, a.len), (128, 32, a.noroom), (64, 64, a.bufa.toNat), (48, 16, a.pins),
    (40, 8, a.buf), (0, 2, a.state)]

/-- What a registered control atom reads as. -/
def State.special? (s : State) (atom : Nat) : Option Nat :=
  match s.ringOfAtom atom with
  | some k => some (s.ringAtomValue k)
  | none =>
    match s.queueOfAtom atom with
    | some q => some (Tab.read QueueState.init s.queue q).notify.toNat
    | none => (s.poolOfAtom atom).map fun p => atomWord (s.atomOf p.1 p.2)

/-- R270: QNOTIFY keeps the maximum, and every write wakes the packet processor. -/
def State.notify (s : State) (q : Nat) (v : W64) : State :=
  { s with queue := Tab.modify s.queue q fun x =>
      { x with notify := if x.notify.toNat < v.toNat then v else x.notify, poll := none, stopped := false, owed := x.unstored } }

/-! ### Counted lines -/

/-- A line leaves the counted state without write-back; its owner's CL_HELD falls (R194, R196). -/
def State.dropLine (s : State) (line : Nat) (drain : Bool) : State :=
  match Tab.get? s.counted line with
  | none => s
  | some e =>
    let s := { s with
      counted := Tab.erase s.counted line
      countedData := Memory.zero s.countedData (128 * line) 128
      poison := s.poison.filter fun k => !(decide (k / 4 = line + 2 ^ 58)) }
    (s.setClHeld e.1 (s.clHeld e.1 - 1)).ringDrop line drain

/-! ### CXL memory of several targets (14 R384) -/

/-- Does a decoder in this mode claim the address (14 R384)? -/
def State.hasMode (s : State) (pa mode : Nat) : Bool :=
  match s.home pa with
  | .cxl p => (List.range 8).any fun n =>
      s.hdmMode p n == mode && decide (s.hdmBase p n ≤ pa) && decide (pa < s.hdmBase p n + s.hdmSize p n)
  | _ => false

def State.isMirrored (s : State) (pa : Nat) : Bool := s.hasMode pa 1

/-- The atoms of the stripe of an atom in parity mode, by number: four targets hold 256-byte units in turn, and the fifth their XOR
(DESIGN CHOICE, log 34: 14 R384 gives no unit). -/
def stripeOf (atom : Nat) : List Nat := (List.range 4).map fun i => atom / 32 * 32 + 8 * i + atom % 8

/-- A target has lost an atom of parity memory: the other four give it, unless they have lost another of the stripe; then each that
is lost is poisoned. -/
def State.stripeLoss (s : State) (pa : Nat) : State :=
  let k := s.atomKey pa
  let s := if s.mirrorBad.contains k then s else { s with mirrorBad := k :: s.mirrorBad }
  let gone := (stripeOf (pa / 32)).filter s.mirrorBad.contains
  if gone.length < 2 then s else gone.foldl (fun s a => s.setPoison (32 * a) true) s

/-- A target of CXL memory returns poison for an atom: where the other target of mirrored memory, or the other four of a stripe,
still serve it, a read is none the worse (14 R384). -/
def State.targetPoison (s : State) (pa : Nat) : State :=
  let k := s.atomKey pa
  if isLocal pa then s
  else if s.hasMode pa 2 then s.stripeLoss pa
  else if s.isMirrored pa && !s.mirrorBad.contains k then { s with mirrorBad := k :: s.mirrorBad }
  else s.setPoison pa true

/-- A target of mirrored or parity memory does not answer: the read is served as for its poison (14 R384). Of plain memory nothing is
said but that the access goes on waiting. -/
def State.targetTimeout (s : State) (pa : Nat) : State :=
  if s.isMirrored pa || s.hasMode pa 2 then s.targetPoison pa else s

/-- Retire a frame (R434). -/
def State.retireFrame (s : State) (f : Nat) : State :=
  if s.retired.contains f then s
  else { s with retired := f :: s.retired }.postSys (recordOf [(136, 56, f * 65536), (0, 8, 0x51)])

/-! ### Access counters (14 R388) -/

/-- The record of a tier migration (R389). -/
def migRecord (src ctx part tier count frame : Nat) : BitVec 256 :=
  recordOf [(136, 56, frame * 65536), (64, 12, count), (58, 6, part), (56, 2, tier), (40, 8, src), (30, 10, ctx), (0, 8, 0x30)]

/-- A record of a frame's migration is posted: QUEUED, and none is owed any more. -/
def State.postMigration (s : State) (src ctx f : Nat) : State :=
  let pa := f * 65536
  let w := (s.frameW pa).toNat
  { s.setFrameW pa (BitVec.ofNat 64 (setBitsOf w 26 2 1)) with
    migQueue := s.migQueue ++ [migRecord src ctx (bitsOf w 0 7 - 1) (if isHbm pa then 0 else 1) (bitsOf w 28 12) f] }

/-- A frame's migration is notified with QUEUED clear: a record and QUEUED, or, with the queue full, PENDING (R388). -/
def State.migrate (s : State) (src ctx f : Nat) : State :=
  let pa := f * 65536
  let w := (s.frameW pa).toNat
  let o := bitsOf w 0 7
  if o = 0 ∨ o > 64 ∨ bitsOf w 26 1 = 1 then s
  else if s.migQueue.length < 4096 then s.postMigration src ctx f
  else { s.setFrameW pa (BitVec.ofNat 64 (setBitsOf w 27 1 1)) with migOvf := s.migOvf + 1 }

/-- One module access to one 128-byte line raises COUNT and may owe a notification. -/
def State.countLine (s : State) (pa : Nat) : State :=
  if !isLocal pa then s
  else
    let w := (s.frameW pa).toNat
    let n := min 4095 (bitsOf w 28 12 + 1)
    let s := s.setFrameW pa (BitVec.ofNat 64 (setBitsOf w 28 12 n))
    let o := bitsOf w 0 7
    if o = 0 ∨ o > 64 then s
    else
      let thr := s.partField (o - 1) (if isHbm pa then 24 else 16) 8
      if thr ≠ 0 ∧ n ≥ 16 * thr then s.migrate 0 0 (pa / 65536) else s

/-- Every line that an access of `n` bytes touches. -/
def State.countAccess (s : State) (pa n : Nat) : State :=
  (List.range ((pa % 128 + n + 127) / 128)).foldl (fun s i => s.countLine (pa / 128 * 128 + 128 * i)) s

/-! ### Watchpoints (17 R451 to R453) -/

/-- Bytes of watchpoint `n` that a write strikes, as a mask over its granule. -/
def State.struck (s : State) (c n : Nat) (va : W64) (size : Nat) : Nat :=
  let w := (s.descW c (32 + 2 * n)).toNat
  let a := (sext64 57 (s.descW c (33 + 2 * n)).toNat).toNat
  ofFields ((List.range 16).map fun i =>
    (i, 1, if w / 2 ^ (48 + i) % 2 = 1 ∧ va.toNat ≤ a + i ∧ a + i < va.toNat + size then 1 else 0))

def orAll (l : List Nat) : Nat := l.foldl (· ||| ·) 0

/-- A write seen by the comparators: lane, virtual and physical address, size. -/
structure Write where
  lane : Nat
  va : W64
  pa : Nat
  size : Nat

/-- Watchpoints struck by the writes of one instruction or node: number, struck bytes, first write that struck. -/
def State.strikes (s : State) (c bit : Nat) (ws : List Write) : List (Nat × Nat × Write) :=
  (List.range 8).filterMap fun n =>
    if bitsOf (s.descW c (32 + 2 * n)).toNat bit 1 = 0 then none
    else
      let hit := ws.filter fun w => s.struck c n w.va w.size != 0
      match hit with
      | [] => none
      | w :: _ => some (n, orAll (hit.map fun w => s.struck c n w.va w.size), w)

/-- 17 Table 7. -/
def State.watchRecord (s : State) (c src core : Nat) (who : W64) (k : Nat × Nat × Write) : BitVec 256 :=
  let a := sext64 57 (s.descW c (33 + 2 * k.1)).toNat
  recordOf [(192, 64, a.toNat), (136, 56, (k.2.2.pa + a.toNat + 2 ^ 64 - k.2.2.va.toNat) % 2 ^ 64 / 16 * 16),
    (64, 64, who.toNat), (48, 16, k.2.1), (40, 8, src), (30, 10, c), (20, 10, core), (16, 4, k.1), (0, 8, 5)]

/-- Post the record of a strike and raise HITS. -/
def State.strike (s : State) (c src core : Nat) (who : W64) (k : Nat × Nat × Write) : State :=
  let w := (s.descW c (32 + 2 * k.1)).toNat
  let r := s.watchRecord c src core who k
  (s.setDescW c (32 + 2 * k.1) (BitVec.ofNat 64 (setBitsOf w 40 8 (min 255 (bitsOf w 40 8 + 1))))).postEq c r

/-! ### Reading and writing at a home -/

/-- One byte as the home gives it. -/
def State.homeByte (s : State) (pa : Nat) : Byte :=
  match s.special? (pa / 32) with
  | some v => BitVec.ofNat 8 (v / 2 ^ (8 * (pa % 32)))
  | none => if s.isCounted pa then Memory.byte s.countedData pa else Memory.byte s.mem pa

def State.homeRead (s : State) (pa : Nat) : Nat → List Byte
  | 0 => []
  | n + 1 => s.homeByte pa :: s.homeRead (pa + 1) n

/-- A write of at most one atom, by a context or an engine, as the home applies it: a registered control atom discards
it, but for the 8-byte store to a notify atom; a retired frame discards it (R434). -/
def State.homeWrite (s : State) (pa : Nat) (bs : List Byte) : State :=
  match s.queueOfAtom (pa / 32) with
  | some q => if pa % 32 = 0 ∧ bs.length = 8 then s.notify q (BitVec.ofNat 64 (leNat bs)) else s
  | none => if (s.special? (pa / 32)).isSome || s.retiredAt pa then s else s.mergeAtom pa bs

/-- A write of any length, atom by atom. -/
def State.homeWrites (s : State) (pa : Nat) (bs : List Byte) : Nat → State
  | 0 => s
  | fuel + 1 =>
    match bs with
    | [] => s
    | _ =>
      let n := 32 - pa % 32
      (s.homeWrite pa (bs.take n)).homeWrites (pa + n) (bs.drop n) fuel

/-- Bytes that no context writes, by address: those of a host or of the hardware; a retired frame takes them, a registered control
atom does not. An atom of which all bytes are written loses its poison (17 R431). -/
def State.plainWrite (s : State) (bs : List (Nat × Byte)) : State :=
  ((bs.map fun b => b.1 / 32).eraseDups).foldl (fun s a =>
    let here := bs.filter fun b => b.1 / 32 == a
    if (s.special? a).isSome then s
    else
      let whole := (List.range 32).all fun i => here.any fun b => b.1 == 32 * a + i
      here.foldl (fun s b => s.mergeAtom b.1 [b.2]) (if whole then s.setPoison (32 * a) false else s)) s

/-- Work is placed: unlatching is permitted no more, and a drain of routes that goes on ends with its job's record (17 R446, R450). -/
def State.endDrain (s : State) : State :=
  let s' := { s with drained := false, draining := none }
  match s.draining with
  | some r => s'.postSys r
  | none => s'

/-- The identity store's BOOTSTAT and FAILCH (19 Table 5), as the stewards write them. -/
def State.bootStat (s : State) (v ch : Nat) : State :=
  { s with idStore := Memory.setBytes (Memory.setBytes s.idStore 256 (leBytes 1 v)) 258 (leBytes 2 ch) }

/-! ### Losing a context (17 R436) -/

/-- Furrow slots of the teams that satisfy a test are closed without a write. -/
def State.closeFurrows (s : State) (t : Nat → Bool) : State :=
  { s with furrows := s.furrows.map fun e => if e.2.opened && t e.2.team then (e.1, e.2.free) else e }

/-- Everything that runs for a context goes: groups, teams, clusters, grids, what they hold and what they wait for
(R436; 14 R375). -/
def State.discard (s : State) (c : Nat) : State :=
  let team := fun t => (Tab.get? s.teams t).any fun x => x.ctx == c
  let group := fun g => (s.group? g).any fun x => x.ctx == c
  let grid := fun k => (Tab.get? s.grids k).any fun x => x.ctx == c
  let s' := s.closeFurrows team
  { s' with
    cur := match s.cur with | some u => if group u.gid then none else some u | none => none
    banks := Tab.keep s.banks fun _ t => !team t
    ob := s.freeRecords team
    accReqs := s.accReqs.filter fun r => !group r.gid
    pendings := s.pendings.filter fun p => !group p.gid
    sends := s.sends.filter fun x => x.ctx != c
    fences := s.fences.filter fun f => !team f.team
    results := s.results.filter fun r => !group r.gid
    fabric := s.fabric.filter fun r => r.ctx != c
    fmt := s.fmt.filter fun e => e.ctx != c
    ringWait := s.ringWait.filter fun w => w.miss.ctx != c
    represent := s.represent.filter fun w => w.miss.ctx != c
    calls := s.calls.filter fun x => x.ctx != c
    fills := s.fills.map fun f => { f with waiters := f.waiters.filter fun w => !group w.1 }
    clusters := Tab.keep s.clusters fun _ x => !grid x.grid
    grids := Tab.keep s.grids fun _ x => x.ctx != c
    teams := Tab.keep s.teams fun _ x => x.ctx != c
    groups := Tab.keep s.groups fun _ x => x.ctx != c }

/-- Lines that a context owns. -/
def State.linesOf (s : State) (c : Nat) : List Nat := (s.counted.filter fun e => e.2.1 == c).map (·.1)

/-- 17 Table 4. -/
def lossRecord (c reason core groups lines : Nat) (va : W64) (pa : Nat) : BitVec 256 :=
  recordOf [(192, 64, va.toNat), (136, 56, pa / 32 * 32), (96, 32, lines), (64, 32, groups), (40, 8, reason),
    (30, 10, c), (20, 10, core), (0, 8, 6)]

/-- Retire the frames whose poison the context consumed. -/
def State.retireConsumed (s : State) (c : Nat) : State :=
  let fs := (s.consumed.filter fun e => e.2 == c).map (·.1)
  fs.foldl State.retireFrame { s with consumed := s.consumed.filter fun e => e.2 != c }

/-- The frame whose poison was consumed is remembered until the loss retires it. -/
def State.consume (s : State) (c reason pa : Nat) : State :=
  if (reason = 1 ∨ reason = 3) ∧ isLocal pa then { s with consumed := (pa / 65536, c) :: s.consumed } else s

/-- Context `c` is lost. -/
def State.lose (s : State) (c reason core : Nat) (va : W64) (pa : Nat) : State :=
  let s := s.consume c reason pa
  if s.lost c then s.retireConsumed c
  else
    -- the signal of a context already frozen has been sent, but by a reset's freeze (14 R385)
    let was := s.frozen c && s.field c 0 40 8 != 0
    let ngroups := (s.groups.filter fun e => e.2.ctx == c && !e.2.ended).length
    let lines := s.linesOf c
    let s := s.setField c 0 38 1 1
    let s := if s.frozen c then s else (s.stopCtx c).setFrozen c 0x10
    let s := (lines.foldl (fun s l => s.dropLine l false) (s.discard c)).retireConsumed c
    let r := lossRecord c reason core ngroups lines.length va pa
    let ok := match s.eqSlot c with | some a => s.structOk c a | none => true
    let s := (if ok then s.eqAppend c r else s).postSys r
    if s.field c 0 436 1 == 1 && !was then s.signal c else s

end Sys2Proof.Machine
end

