-- ==== Sys2Proof/Machine/Operands.lean ====
section
/-! DEFINITION. Operands (02 R31 to R43, 08 R208), the checks that depend on the group (02 R25 checks 3 and 5 to 7,
02 R54, 03 R64, R65), full/empty blocking (02 R42, R43), the compatibility queues (02 R52, R53), and `issue`: the one
operation through which an instruction of a bundle begins.
What rests on the model rather than on the plain words of the manual: log 3 (DESIGN CHOICE), log 9 (DESIGN CHOICE), log 39
(DEDUCED), log 48 (DEDUCED), log 50 (DEDUCED). -/

namespace Sys2Proof

/-! ### Fields as operands -/

/-- Window number and byte offset of a window source. -/
def Ops.window (o : Ops) (s : Src) (selNo : BitVec 2) : Nat × Nat :=
  if o.wsel == selNo then (o.wwin.toNat, o.woff.toNat * 16 + (s.val.extractLsb' 0 4).toNat * 4)
  else ((s.val.extractLsb' 4 4).toNat, (s.val.extractLsb' 0 4).toNat * 4)

/-- The vector registers (file 0) and scalar registers (file 1) that a source names. -/
def Src.names (s : Src) (q : SrcSig) : List (Nat × Nat) :=
  match s.kind with
  | .vec => (List.range q.n).map fun k => (0, s.val.toNat + k)
  | .scal => (List.range q.sn).map fun k => (1, s.val.toNat + k)
  | _ => []

/-- The sources that an instruction reads, with their numbers (0 A, 1 B, 2 C). -/
def Ops.sources (o : Ops) (g : Sig) : List (Nat × Src × SrcSig) :=
  (match g.a with | some q => [(0, o.a, q)] | none => []) ++
  (match g.b with | some q => [(1, o.b, q)] | none => []) ++
  (match g.c with | some q => [(2, o.c, q)] | none => [])

end Sys2Proof

namespace Sys2Proof.Machine

/-! ### Literals (02 R36, R37) -/

/-- An element pattern in every element position of the operand. -/
def splat (w x : Nat) : Nat :=
  if w = 8 then x % 2 ^ 8 * 0x01010101 else if w = 16 then x % 2 ^ 16 * 0x00010001 else x

/-- F32 pattern widened exactly to F64; NaN patterns keep sign and mantissa. -/
def widenF32 (x : Nat) : Nat :=
  match FloatTy.f32.read x with
  | .nan _ => x / 2 ^ 31 % 2 * 2 ^ 63 + 0x7FF0000000000000 + x % 2 ^ 23 * 2 ^ 29
  | v => (FloatTy.f64.round .rn false v).bits

/-- The 8-bit value of a kind 0b11 source (R36). -/
def literal8 (t : Ty) (v : BitVec 8) : Nat :=
  match t with
  | .i t => splat t.width (t.wrap v.toInt)
  | .f t => splat t.width (t.round .rn false (.ofInt v.toInt)).bits

/-- LIT32 as a source reads it (R37). -/
def literal32 (t : Ty) (x : W32) : Nat :=
  match t with
  | .i .s64 => (x.signExtend 64).toNat
  | .i .n64 => x.toNat
  | .f .f64 => widenF32 x.toNat
  | t => splat t.width x.toNat

/-! ### Windows (02 R38) -/

/-- Bound size of a window; 0 where it is unbound. -/
def State.winSize (s : State) (g : Group) (n : Nat) : Nat :=
  match Tab.get? s.grids g.grid with
  | some k => Tab.read 0 k.winSize n
  | none => 0

/-- `n` bytes of a window; bytes at or past the bound size read as zero. -/
def State.winRead (s : State) (g : Group) (w off n : Nat) : Nat :=
  match Tab.get? s.grids g.grid with
  | some k =>
    leNat ((List.range n).map fun i =>
      if off + i < Tab.read 0 k.winSize w then Memory.byte k.win (65536 * w + off + i) else 0)
  | none => 0

/-! ### Registers named -/

/-- Is a vector register a queue port (02 R52)? -/
def Group.isPort (g : Group) (r : Nat) : Bool := g.compat && decide (248 ≤ r) && decide (r ≤ 255)

def dstNames (d : BitVec 8) : DstSig → List (Nat × Nat)
  | .vec n _ => (List.range n).map fun k => (0, d.toNat + k)
  | .scal n => (List.range n).map fun k => (1, d.toNat + k)
  | _ => []

/-- A register beyond the kernel's counts (02 R40): the first one named, in the order A, B, C, destination. -/
def Group.beyond (g : Group) (o : Ops) (sg : Sig) : Option Nat :=
  let names := (o.sources sg).flatMap (fun e => e.2.1.names e.2.2) ++ dstNames o.dst sg.dst
  (names.find? fun n => if n.1 = 0 then decide (g.nv ≤ n.2) && !g.isPort n.2 else decide (g.ns ≤ n.2)).map (·.2)

/-- Port misuse (02 R54): one port twice among the sources, or a port as half of a 64-bit pair. A port inside any other
range of registers (B128, LDV and its kin, QNT) is taken as misuse too, which R54 does not name (DEDUCED, log 48). -/
def Group.portMisuse (g : Group) (o : Ops) (sg : Sig) : Bool :=
  let srcs := (o.sources sg).map fun e => (e.2.1.names e.2.2).filter fun n => n.1 == 0 && g.isPort n.2
  let ports := srcs.flatten
  let dst := (dstNames o.dst sg.dst).filter fun n => n.1 == 0
  (ports.any fun p => decide (1 < (ports.filter fun q => q == p).length)) ||
  ((o.sources sg).any fun e =>
    let n := e.2.1.names e.2.2
    decide (1 < n.length) && n.any fun r => r.1 == 0 && g.isPort r.2) ||
  (decide (1 < dst.length) && dst.any fun r => g.isPort r.2)

/-! ### Full and empty (02 R42, R43) -/

/-- Registers of a source that are empty for a lane. A port is empty while its queue holds no entry. -/
def Group.emptyOf (g : Group) (s : Src) (q : SrcSig) (l : Nat) : List DReg :=
  (s.names q).filterMap fun n =>
    if n.1 = 0 then
      if g.isPort n.2 then none
      else if g.isEmpty (.vec n.2 l) then some (.vec n.2 l) else none
    else if g.isEmpty (.scal n.2) then some (.scal n.2) else none

/-- Can the oldest entry of a queue be popped: is there one, and has all that it awaits arrived (02 R53)? -/
def Group.canPop (g : Group) (q : Nat) : Bool :=
  !(g.queue q).isEmpty && Tab.read 0 g.awaited (8 * q + Tab.read 0 g.heads q) == 0

/-- The queue port of a source that names one and finds it empty. -/
def Group.emptyPort (g : Group) (s : Src) (q : SrcSig) : Option Nat :=
  (s.names q).findSome? fun n =>
    if n.1 = 0 && g.isPort n.2 && !g.canPop (n.2 - 248) then some (n.2 - 248) else none

def Group.emptyDst (g : Group) (d : BitVec 8) (sg : DstSig) (l : Nat) : List DReg :=
  (dstNames d sg).filterMap fun n =>
    if n.1 = 0 then
      if g.isPort n.2 then none
      else if g.isEmpty (.vec n.2 l) then some (.vec n.2 l) else none
    else if g.isEmpty (.scal n.2) then some (.scal n.2) else none

/-- The ports that the sources pop, in the order A, B, C. -/
def Group.popped (g : Group) (o : Ops) (sg : Sig) : List Nat :=
  (o.sources sg).flatMap fun e =>
    (e.2.1.names e.2.2).filterMap fun n => if n.1 = 0 && g.isPort n.2 then some (n.2 - 248) else none

/-- The port that the destination pushes, if it names one. -/
def Group.pushed (g : Group) (o : Ops) (sg : Sig) : Option Nat :=
  match sg.dst with
  | .vec 1 _ => if g.isPort o.dst.toNat then some (o.dst.toNat - 248) else none
  | _ => none

def Group.pop (g : Group) (q : Nat) : Group :=
  { g with queues := Tab.write [] g.queues q ((g.queue q).drop 1),
           heads := Tab.write 0 g.heads q ((Tab.read 0 g.heads q + 1) % 8) }

def Group.push (g : Group) (q : Nat) (e : Tab W32) : Group :=
  { g with queues := Tab.write [] g.queues q (g.queue q ++ [e]) }

/-- Where a long-latency result named for a register goes: a port's is a lane of the entry that the instruction pushes, which takes the
queue's next slot as it issues (02 R53). -/
def Group.into (g : Group) : DReg → DReg
  | .vec r l => if g.isPort r then .port (r - 248) ((Tab.read 0 g.heads (r - 248) + (g.queue (r - 248)).length) % 8) l else .vec r l
  | d => d

/-- The destinations of a long-latency instruction become empty, a port's entry is pushed, and the instruction's flags wait for its
results (04 R86). -/
def Group.await (g : Group) (ds : List DReg) (fl : W32) : Group :=
  let ds := ds.map g.into
  let g := match ds with | .port q _ _ :: _ => g.push q [] | _ => g
  { g.markEmpty ds with due := if fl = 0 then g.due else ds.map (·, fl) ++ g.due }

/-- Would a push find the queue full, its own pops done (02 R53)? -/
def Group.pushFull (g : Group) (o : Ops) (sg : Sig) : Option Nat :=
  match g.pushed o sg with
  | none => none
  | some q =>
    let left := (g.queue q).length - ((g.popped o sg).filter fun p => p == q).length
    if left ≥ 8 then some q else none

/-! ### Values -/

/-- What source `i` gives lane `l`. -/
def State.value (s : State) (g : Group) (o : Ops) (sg : Sig) (i : Nat) (x : Src) (q : SrcSig) (l : Nat) : Nat :=
  let wide := q.ty.width = 64
  match x.kind with
  | .vec =>
    if g.isPort x.val.toNat then (Tab.read 0 ((g.queue (x.val.toNat - 248)).headD []) l).toNat
    else g.vrs x.val.toNat l q.n
  | .scal =>
    let v := (g.sr x.val.toNat).toNat
    if q.sn = 2 then v + 2 ^ 64 * (g.sr (x.val.toNat + 1)).toNat else if wide then v else v % 2 ^ 32
  | .win =>
    let w := o.window x (BitVec.ofNat 2 (i + 1))
    s.winRead g w.1 w.2 (if wide then 8 else 4)
  | .lit => if o.usesLit32 sg x (i == 0) then literal32 q.ty o.lit else literal8 q.ty x.val

/-- Does a window source read at or past the bound size (02 R38)? -/
def State.overruns (s : State) (g : Group) (o : Ops) (i : Nat) (x : Src) (q : SrcSig) : Bool :=
  x.kind == .win &&
    (let w := o.window x (BitVec.ofNat 2 (i + 1))
     decide (s.winSize g w.1 < w.2 + (if q.ty.width = 64 then 8 else 4)))

/-! ### Issue -/

/-- What an instruction sees of its bundle. `s` is the state before it; `g` is the group as the instruction leaves it
so far (pops made, blocked lanes marked); a trap starts again from `s`. -/
structure Env where
  s : State
  u : Cur
  g : Group
  /-- lanes that execute, and those of them whose guard is true -/
  lanes : List Nat
  act : List Nat
  /-- address after the instruction -/
  next : W64
  /-- WIN_OVR, where a window is read past its bound (02 R38): set as the instruction completes, or with its results -/
  winOver : W32
  a : Nat → Nat
  b : Nat → Nat
  c : Nat → Nat

/-- The guard of a thread (02 R31). -/
def Group.guard (g : Group) (o : Ops) (l : Nat) : Bool := (g.lane l).pred o.gp.toNat != o.gn

/-- The bundle's first active lane: a group-level instruction reads its sources there. -/
def Env.first (e : Env) : Nat := e.act.headD 0

/-- The lanes of the bundle, those that have left it blocked apart (02 R42): TMASK of its traps (16 R400). -/
def Env.bundle (e : Env) : W32 := maskOf e.lanes

/-- A trap "at" the instruction: no effect in any thread (16 R397). -/
def Env.trapAux (e : Env) (cause detail lane : Nat) (addr aux : W64) : Out :=
  .next (e.s.raise e.u.gid ⟨cause, detail, lane, e.u.pc, addr, aux, e.bundle⟩)
def Env.trap (e : Env) (cause detail lane : Nat) : Out := e.trapAux cause detail lane 0 0

/-- The state in which the bundle has gone on: the group replaced, each lane of it at its address, one issue charged
to its kernel (10 R277 to R283). -/
def Env.after (e : Env) (s : State) (g : Group) (dest : Nat → W64) : State :=
  let g := e.lanes.foldl (fun g l => g.go (dest l) l)
    { (g.progress s.cycle e.lanes).flag e.winOver with retry := if g.inh then g.retry else none }
  ((s.setGroup e.u.gid g).charge g).retire e.u

/-- Replace the group in a state and let the bundle go on, each lane at its address. -/
def Env.finishAt (e : Env) (s : State) (g : Group) (dest : Nat → W64) : Out := .next (e.after s g dest)

/-- The lanes go on at the next address. -/
def Env.finish (e : Env) (s : State) (g : Group) : Out := e.finishAt s g fun _ => e.next

/-- The instruction completes with this group; nothing else of the state changes. -/
def Env.commit (e : Env) (g : Group) : Out := e.finish e.s g

/-- The group is held at the instruction (11 R307 and the like): it is tried again when the hold ends. -/
def Env.holdFor (e : Env) (s : State) (k : HoldKind) : Out :=
  let since := if e.g.inh then s.cycle else e.g.retry.getD s.cycle
  .next ({ s with cur := none }.modGroup e.u.gid fun g =>
    { g with hold := some ⟨k, since, maskOf e.lanes, e.u.pc, e.next, e.winOver⟩, bundles := [] })

/-- A group-level instruction: it does nothing where no lane of the bundle is active (02 R32). -/
def Env.once (e : Env) (k : Unit → Out) : Out := if e.act.isEmpty then e.commit e.g else k ()

/-- Write one scalar register and go on. -/
def Env.setScalar (e : Env) (s : State) (r : Nat) (v : W64) : Out := e.finish s (e.g.setSr r v)

/-- The instruction completes and a trap follows it (16 R397 "after"). -/
def Env.finishTrap (e : Env) (s : State) (g : Group) (r : TrapRec) : Out :=
  match e.finish s g with
  | .next s => .next (s.raise e.u.gid r)
  | x => x

/-- The lanes stay at the instruction, blocked, as if it had not issued. -/
def Env.blockAt (e : Env) (s : State) (b : Block) : Out :=
  .next ((s.modGroup e.u.gid fun g =>
    g.modLanes e.lanes fun x => { x with block := some b, since := s.cycle }).retire e.u)

/-- Lanes leave the bundle blocked at the instruction. -/
def Group.blockLanes (g : Group) (cycle : Nat) (bs : List (Nat × Block)) : Group :=
  bs.foldl (fun g b => g.modLane b.1 fun x => { x with block := some b.2, since := cycle }) g

/-- An illegal-instruction trap (03 R72). -/
def State.illegal (s : State) (u : Cur) (code : IllegalCode) : Out :=
  .next (s.raise u.gid ⟨1, code.num, (lanesOf u.lanes).headD 0, u.pc, 0, 0, u.lanes⟩)

/-- One operation of an instruction: its fields and its operands, a window that it reads beside its sources, its operands with every
register that they span, as checks 3 and 5 see them (06 R140), and the source whose words it only carries to memory, if one is. -/
structure Part where
  o : Ops
  sg : Sig
  win : Option Nat := none
  reg : Sig := sg
  data : Option Nat := none

/-- Check 5 of the parts in order. -/
def Group.firstBeyond (g : Group) (ps : List Part) : Option Nat := ps.findSome? fun p => g.beyond p.o p.reg

/-- Check 6: an unbound window in a source of a part with an active lane; the window and that lane. Where several are unbound it is
the window read beside the sources, then the first of A, B, C: the spec does not order them (DEDUCED, log 50). -/
def State.unbound (s : State) (g : Group) (ls : List Nat) (p : Part) : Option (Nat × Nat) :=
  match ls.filter (g.guard p.o) with
  | [] => none
  | l :: _ =>
    (match p.win with
      | some w => if s.winSize g w = 0 then some (w, l) else none
      | none => none) <|>
    (p.o.sources p.sg).findSome? fun e =>
      if e.2.1.kind == .win then
        let w := (p.o.window e.2.1 (BitVec.ofNat 2 (e.1 + 1))).1
        if s.winSize g w = 0 then some (w, l) else none
      else none

/-- Check 7: an empty source in trap mode; the source and the lowest lane. Where several are empty it is the first of A, B, C, and
that source's lowest lane: the spec does not order them (DEDUCED, log 50). -/
def Group.emptyTrap (g : Group) (ls : List Nat) (p : Part) : Option (Nat × Nat) :=
  (p.o.sources p.sg).findSome? fun e =>
    if e.2.1.trap then
      ((ls.filter (g.guard p.o)).find? fun l =>
        !(g.emptyOf e.2.1 e.2.2 l).isEmpty || (g.emptyPort e.2.1 e.2.2).isSome).map fun l => (e.1, l)
    else none

/-- Why a lane cannot execute a part yet (02 R42, R43, R53). -/
def Group.blockOf (g : Group) (l : Nat) (p : Part) : Option Block :=
  if g.guard p.o l then
    let srcs := (p.o.sources p.sg).flatMap fun e => g.emptyOf e.2.1 e.2.2 l
    match srcs ++ g.emptyDst p.o.dst p.sg.dst l with
    | r :: rs => some (.regs (r :: rs))
    | [] =>
      match (p.o.sources p.sg).findSome? fun e => g.emptyPort e.2.1 e.2.2 with
      | some q => some (.queue false q)
      | none => (g.pushFull p.o p.sg).map fun q => .queue true q
  else none

/-- Is one of the opcodes privileged, or for handlers alone (03 R64, R65)? -/
inductive Rights
  | all
  | system
  | handler
  deriving DecidableEq, Repr

/-- Check 3 as far as it depends on the group. -/
def State.rightsCode (s : State) (g : Group) : Rights → Option IllegalCode
  | .all => none
  | .system => if s.sysAttr g.ctx then none else some .privileged
  | .handler => if g.inh then none else some .handlerOnly

/-- The first of checks 3, 5, 6 and 7 that the instruction fails, in their order: cause, detail, lane (02 R25). -/
def State.stopOf (s : State) (u : Cur) (g : Group) (r : Rights) (ps : List Part) : Option (Nat × Nat × Nat) :=
  let ls := lanesOf u.lanes
  match s.rightsCode g r with
  | some c => some (1, c.num, ls.headD 0)
  | none =>
    if ps.any (fun p => g.portMisuse p.o p.reg) then some (1, IllegalCode.compatPort.num, ls.headD 0)
    else
      match g.firstBeyond ps with
      | some n => some (4, n, ls.headD 0)
      | none =>
        match ps.findSome? (s.unbound g ls) with
        | some w => some (5, w.1, w.2)
        | none => (ps.findSome? (g.emptyTrap ls)).map fun t => (6, t.1, t.2)

/-- The lanes that cannot execute yet, each with why (02 R42, R43, R53). -/
def Group.blockedBy (g : Group) (ls : List Nat) (ps : List Part) : List (Nat × Block) :=
  ls.filterMap fun l => (ps.findSome? (g.blockOf l)).map fun b => (l, b)

/-- What source `i` of a part gives lane `l`; 0 where the part has no such source. -/
def State.operand (s : State) (g : Group) (p : Part) (i l : Nat) : Nat :=
  match (p.o.sources p.sg).find? fun e => e.1 == i with
  | some e => s.value g p.o p.sg e.1 e.2.1 e.2.2 l
  | none => 0

/-- What an instruction of length `len` and parts `ps` sees: lanes that are blocked have left the bundle, and the
ports its sources name are popped. Blocked lanes pop, and push, another entry when they execute later (DEDUCED, log 50). -/
def State.issueEnv (s : State) (len : Len) (ps : List Part) (u : Cur) (g : Group) : Env :=
  let bs := g.blockedBy (lanesOf u.lanes) ps
  let run := (lanesOf u.lanes).filter fun l => !(bs.any fun b => b.1 == l)
  let p0 := (ps.headD { o := ⟨len, false, 0, 0, .zero, .zero, .zero, 0, 0, 0, 0⟩, sg := .none })
  let pops := ps.flatMap fun p => if (run.filter (g.guard p.o)).isEmpty then [] else g.popped p.o p.sg
  let past := ps.any fun p => !(run.filter (g.guard p.o)).isEmpty &&
    (p.o.sources p.sg).any fun e => s.overruns g p.o e.1 e.2.1 e.2.2
  { s := s, u := u, g := pops.foldl Group.pop (g.blockLanes s.cycle bs), winOver := flagIf past fWIN
    lanes := run, act := run.filter (g.guard p0.o), next := u.pc + BitVec.ofNat 64 len.bytes
    a := s.operand g p0 0, b := s.operand g p0 1, c := s.operand g p0 2 }

/-- Is one of these registers of a lane poisoned (17 R430)? -/
def Group.badRegs (g : Group) (l : Nat) (ns : List (Nat × Nat)) : Bool :=
  ns.any fun n => if n.1 = 0 then !g.isPort n.2 && g.vBad.contains (32 * n.2 + l) else g.sBad.contains n.2

/-- Would the instruction consume poison of the register cache in one of these lanes (17 R432)? Words that it only carries to memory
take their poison along (R431). -/
def Group.readsBad (g : Group) (ps : List Part) (ls : List Nat) : Bool :=
  ps.any fun p => (p.o.sources p.reg).any fun e =>
    p.data != some e.1 && (ls.filter (g.guard p.o)).any fun l => g.badRegs l (e.2.1.names e.2.2)

/-- Begin an instruction of the bundle that issues: checks 3 to 7 of 02 R25 in their order, then blocking, then pops.
Lanes that are blocked leave the bundle; `k` runs for the others. One that consumes poison loses the context (17 R432). -/
def issue (r : Rights) (len : Len) (ps : List Part) (s : State) (k : Env → Out) : Out :=
  match s.cur with
  | none => .fault .noBundle
  | some u =>
    match s.group? u.gid with
    | none => .fault .noBundle
    | some g =>
      match s.stopOf u g r ps with
      | some t => .next (s.raise u.gid ⟨t.1, t.2.1, t.2.2, u.pc, 0, 0, u.lanes⟩)
      | none =>
        let e := s.issueEnv len ps u g
        if e.lanes.isEmpty then
          .next ((s.setGroup u.gid (g.blockLanes s.cycle (g.blockedBy (lanesOf u.lanes) ps))).retire u)
        else if g.readsBad ps e.lanes then .next { s.lose g.ctx 2 g.core 0 0 with cur := none }
        else k e

/-- Begin an instruction with one operation. -/
def issue1 (r : Rights) (o : Ops) (sg : Sig) (s : State) (k : Env → Out) : Out := issue r o.len [{ o := o, sg := sg }] s k

/-! ### Destinations -/

/-- A 32-bit value in a scalar register (05 R108). -/
def scalarOf (t : Ty) (x : Nat) : W64 :=
  if t.width = 64 then BitVec.ofNat 64 x
  else match t with
    | .i .s32 => sext64 32 x
    | _ => BitVec.ofNat 64 (x % 2 ^ 32)

/-- Write `n` vector registers of a lane. -/
def Group.putVec (g : Group) (o : Ops) (n l x : Nat) : Group := g.setVrs o.dst.toNat l n x

/-- Write a vector destination of the active lanes, or push the port it names: inactive lanes' slots hold zero
(02 R53). -/
def Group.putVecs (g : Group) (o : Ops) (n : Nat) (act : List Nat) (f : Nat → Nat) : Group :=
  if g.isPort o.dst.toNat then
    if act.isEmpty then g
    else g.push (o.dst.toNat - 248) (act.foldl (fun t l => Tab.write 0 t l (BitVec.ofNat 32 (f l))) [])
  else act.foldl (fun g l => g.putVec o n l (f l)) g

/-! ### Instructions that compute (chapter 05 and its like) -/

/-- What an operation gives one lane: a value, flags, and predicates written beside the destination. -/
structure LaneOut where
  val : Nat
  flags : W32 := 0
  preds : List (Nat × Bool) := []

/-- An operation that computes in each lane from its sources and the lane's predicates: fields, operands, the type of
its result, the shadow unit's class (17 R435) for a floating-point result, and the function. -/
structure Alu where
  o : Ops
  sg : Sig
  rty : Ty
  unit? : Option Nat
  f : Lane → Nat → Nat → Nat → LaneOut

/-- The results of the active lanes; a scalar operation computes once (05 R107, 02 R32). -/
def Alu.outs (x : Alu) (e : Env) : List (Nat × LaneOut) :=
  let ls := match x.sg.dst with | .scal _ => e.act.take 1 | _ => e.act
  ls.map fun l => (l, x.f (e.g.lane l) (e.a l) (e.b l) (e.c l))

/-- Write the results and set the flags (04 R86). -/
def Alu.write (x : Alu) (act : List Nat) (outs : List (Nat × LaneOut)) (g : Group) : Group :=
  let valOf := fun l => match outs.find? fun r => r.1 == l with | some r => r.2.val | none => 0
  let g := match x.sg.dst with
    | .vec n _ => g.putVecs x.o n act valOf
    | .scal _ => match outs with
      | r :: _ => g.setSr x.o.dst.toNat (scalarOf x.rty r.2.val)
      | [] => g
    | .pred => outs.foldl (fun (g : Group) r => g.modLane r.1 fun y => y.setPred x.o.dst.toNat (r.2.val != 0)) g
    | _ => g
  let g := outs.foldl (fun (g : Group) r => r.2.preds.foldl (fun (g : Group) p => g.modLane r.1 fun y => y.setPred p.1 p.2) g) g
  g.flag (outs.foldl (fun f r => f ||| r.2.flags) 0)

/-! ### Shadow units (04 R103, R104; 17 R435) -/

/-- Sign and key of a result (R103): exponent field and top min(m, 8) mantissa bits. -/
def keyOf (t : FloatTy) (x : Nat) : Nat :=
  let k := min t.mbits 8
  x / t.signBit % 2 * 2 ^ 31 + x % t.signBit / 2 ^ (t.mbits - k)

/-- Table 3 of 17_integrity. -/
def shadowRecord (result skey rkey elem unit : Nat) (pc : W64) (src ctx core : Nat) : BitVec 256 :=
  recordOf [(224, 32, result), (192, 32, skey), (160, 32, rkey), (136, 12, elem), (128, 8, unit), (64, 64, pc.toNat),
    (40, 8, src), (30, 10, ctx), (20, 10, core), (0, 8, 7)]

/-- What a shadow unit looks at: a result and its format, or an accumulator update and the residue (acc + Sg) mod 255 that it had
before saturation (R103). -/
inductive Shadowed
  | float (t : FloatTy) (x : Nat)
  | residue (r : Nat)
  deriving DecidableEq, Repr

/-- RKEY: sign and key of a result, or a residue. -/
def Shadowed.key : Shadowed → Nat
  | .float t x => keyOf t x
  | .residue r => r

/-- The pass rule of R103 for a result and its shadow, the shadow given by its sign (bit 31) and key (bits 18:0). -/
def shadowPasses (t : FloatTy) (x sh : Nat) : Bool :=
  let key := sh % 2 ^ 19
  let neg := decide (2 ^ 31 ≤ sh)
  let top := t.infBits / 2 ^ (t.mbits - min t.mbits 8)
  let isNan := if t = .e4m3 then key == top else decide (top < key)
  let isInf := t != .e4m3 && key == top
  let k := keyOf t x % 2 ^ 19
  match t.read x with
  | .nan _ => isNan
  | .inf n => isInf && n == neg
  | .fin n _ _ _ => !isNan && !isInf && n == neg && decide (max k key - min k key ≤ if 8 ≤ t.mbits then 2 else 0)

/-- The same for what each unit checks: a residue must be equal. -/
def Shadowed.passes : Shadowed → Nat → Bool
  | .float t x, sh => shadowPasses t x sh
  | .residue r, sh => r == sh

/-- The shadow's key or residue at mismatch `n`: a free value in its field, among those that do not pass. -/
def Shadowed.shadow (c : Shadowed) (n : Nat) : Nat :=
  let k := (Config.shadowKey n).toNat
  let choices :=
    match c with
    | .residue _ => [k % 255, 0, 1]
    | .float _ _ => [k / 2 ^ 31 * 2 ^ 31 + k % 2 ^ 19, (c.key + 2 ^ 31) % 2 ^ 32, 0]
  (choices.find? fun x => !c.passes x).getD 0

/-- A second mismatch: one record to each queue, and the shadow trap (17 R435). -/
def Env.shadowTrap (e : Env) (t : FloatTy) (lane v elem unit : Nat) : Out :=
  let n := e.s.freeCount
  let c := Shadowed.float t v
  let r := shadowRecord (v % 2 ^ 32) (c.shadow n) c.key elem unit e.u.pc 0 e.g.ctx e.g.core
  let s := { e.s with freeCount := n + 1, shadow := 0 }
  let s := (s.postEq e.g.ctx r).postSys r
  .next (s.raise e.u.gid ⟨0x15, 0, lane, e.u.pc, 0, r.setWidth 64, e.bundle⟩)

/-- A retry of a core has passed: its counter rises (17 R435). -/
def State.retryPassed (s : State) (core : Nat) : State :=
  { s with shadow := 0, shadowRetries := Tab.write 0 s.shadowRetries core (Tab.read 0 s.shadowRetries core + 1) }

/-- A checked instruction completes: with one mismatch before, the retry has passed (R104). -/
def Env.passShadow (e : Env) (s : State) (g : Group) : Out :=
  if s.shadow = 0 then e.finish s g
  else e.finish (s.retryPassed e.g.core) (g.flag fRETRY)

/-- The lane and element that the record of a second mismatch names. -/
def Env.badElem (e : Env) (outs : List (Nat × LaneOut)) (elems : Nat) : Nat × Nat :=
  let n := Config.shadowElem e.s.freeCount
  ((outs.map (·.1)).getD (n % outs.length) 0, n / outs.length % elems)

/-- A vector instruction whose result the shadow unit checks. -/
def Alu.checked (x : Alu) (e : Env) (outs : List (Nat × LaneOut)) (unit : Nat) (g : Group) : Out :=
  match outs with
  | [] => e.commit g
  | _ =>
    if e.s.shadow ≤ 1 then e.passShadow e.s g
    else
      let t := match x.rty with | .f t => t | .i _ => .f32
      let p := e.badElem outs (x.rty.elems)
      let v := match outs.find? fun r => r.1 == p.1 with | some r => r.2.val | none => 0
      let v := v / 2 ^ (p.2 * t.width) % 2 ^ t.width
      e.shadowTrap t p.1 v (p.1 + 32 * p.2) unit

/-- Run a computing operation. -/
def runAlu (x : Alu) (s : State) : Out :=
  issue1 .all x.o x.sg s fun e =>
    let outs := x.outs e
    let g := x.write e.act outs e.g
    match x.unit? with
    | none => e.commit g
    | some unit => x.checked e outs unit g

end Sys2Proof.Machine
end

