-- ==== Sys2Proof/Machine/Plain.lean ====
section
/-! DEFINITION. Moves, predicates and special registers: NOP, SPRD, SPWR (02_writing R46 to R48), MOV, SEL, PLOP,
PPACK, PUNPK (05 R117, R118). -/

namespace Sys2Proof.Machine

/-! ### Elements (04 R81, 05 R106) -/

/-- Element `i` of width `w`. -/
def elemOf (w x i : Nat) : Nat := x / 2 ^ (w * i) % 2 ^ w

/-- Results of elements 0, 1, … side by side; flags together. -/
def packRes (w : Nat) : List Res → LaneOut
  | [] => { val := 0 }
  | r :: rs =>
    let t := packRes w rs
    { val := r.bits % 2 ^ w + 2 ^ w * t.val, flags := r.flags ||| t.flags }

/-- An element-wise operation: `f i` is the result of element `i`. -/
def perElem (t : Ty) (f : Nat → Res) : LaneOut := packRes t.width ((List.range t.elems).map f)

def exact (x : Nat) : Res := ⟨x, 0⟩

/-- An operation without a floating-point result. -/
def aluOf (i : Instr) (o : Ops) (rty : Ty) (f : Lane → Nat → Nat → Nat → LaneOut) : Alu :=
  { o := o, sg := i.sig, rty := rty, unit? := none, f := f }

/-! ### NOP, MOV, SEL, PLOP, PPACK, PUNPK -/

/-- R46. -/
def execNop (o : Ops) (m : BitVec 20) (s : State) : Out := issue1 .all o (Instr.nop o m).sig s fun e => e.commit e.g

/-- R117: bit for bit. -/
def aluMov (o : Ops) (m : ModI) : Alu := aluOf (.mov o m) o (.i m.ity) fun _ a _ _ => { val := a }
def execMov (o : Ops) (m : ModI) (s : State) : Out := runAlu (aluMov o m) s

/-- R117: SP is OPF bits 18:16, SN bit 15 (bits 14:12 and 11 of the 15-bit OPF field, which begins at bit 4). -/
def aluSel (o : Ops) (m : ModI) : Alu :=
  aluOf (.sel o m) o (.i m.ity) fun x a b _ =>
    { val := if x.pred (m.opf.extractLsb' 12 3).toNat != m.opf.getLsbD 11 then a else b }
def execSel (o : Ops) (m : ModI) (s : State) : Out := runAlu (aluSel o m) s

/-- R118: LUT is OPF bits 9:2. -/
def aluPlop (o : Ops) (m : BitVec 20) : Alu :=
  aluOf (.plop o m) o .b32 fun x _ _ _ =>
    let bitOf := fun lo => (x.pred (m.extractLsb' lo 3).toNat).toNat
    let i := 4 * bitOf 16 + 2 * bitOf 13 + bitOf 10
    { val := ((m.extractLsb' 2 8).getLsbD i).toNat }
def execPlop (o : Ops) (m : BitVec 20) (s : State) : Out := runAlu (aluPlop o m) s

/-- R118: bit 7 is always 1. -/
def aluPpack (o : Ops) (m : BitVec 20) : Alu :=
  aluOf (.ppack o m) o .b32 fun x _ _ _ => { val := x.p.toNat + 128 }
def execPpack (o : Ops) (m : BitVec 20) (s : State) : Out := runAlu (aluPpack o m) s

/-- R118: the predicates that the mask selects. -/
def aluPunpk (o : Ops) (m : BitVec 20) : Alu :=
  aluOf (.punpk o m) o .b32 fun _ a _ _ =>
    { val := 0, preds := ((List.range 7).filter fun i => m.getLsbD i).map fun i => (i, a / 2 ^ i % 2 == 1) }
def execPunpk (o : Ops) (m : BitVec 20) (s : State) : Out := runAlu (aluPunpk o m) s

/-! ### Special registers (R45, R47, R48) -/

/-- QLEVEL (02 Table 5): entries held in queue n at bits 4n+3:4n. -/
def Group.qlevel (g : Group) : Nat :=
  if g.compat then ofFields ((List.range 8).map fun q => (4 * q, 4, (g.queue q).length)) else 0

/-- Cluster index, team index and team size of a group. -/
def State.clusterIx (s : State) (g : Group) : Nat := ((Tab.get? s.clusters g.cluster).map (·.ix)).getD 0
def State.teamIx (s : State) (g : Group) : Nat := ((Tab.get? s.teams g.team).map (·.teamix)).getD 0
def State.teamSize (s : State) (g : Group) : Nat := ((Tab.get? s.teams g.team).map (·.groups.length)).getD 0

/-- Special register `i` as lane `l` reads it (02 Table 5). -/
def State.special (s : State) (g : Group) (i l : Nat) : Nat :=
  match i with
  | 0x00 => l
  | 0x01 => g.gix
  | 0x02 => s.teamIx g
  | 0x03 => s.clusterIx g
  | 0x04 => g.core
  | 0x05 => g.ctx
  | 0x06 => g.liveMask.toNat
  | 0x07 => s.teamSize g
  | 0x08 => g.astat.toNat
  | 0x09 => g.seed.toNat
  | 0x0A => s.cycle
  | 0x0B => s.gtime
  | 0x0C => g.compat.toNat
  | _ => g.qlevel

/-- R47: the index is source A's value field, unsigned. -/
def execSprd (o : Ops) (m : BitVec 20) (s : State) : Out :=
  issue1 .all o { (Instr.sprd o m).sig with a := none } s fun e =>
    let i := o.a.val.toNat
    if m.getLsbD 0 then
      e.commit (if e.act.isEmpty then e.g else e.g.setSr o.dst.toNat (BitVec.ofNat 64 (e.s.special e.g i 0)))
    else e.commit (e.g.putVecs o 1 e.act fun l => e.s.special e.g i l % 2 ^ 32)

/-- R48: DST holds the index; ASTAT bits are cleared by ones, SEED is replaced. -/
def execSpwr (o : Ops) (m : BitVec 20) (s : State) : Out :=
  issue1 .all o (Instr.spwr o m).sig s fun e =>
    let v := BitVec.ofNat 64 (e.a e.first)
    e.commit
      (if e.act.isEmpty then e.g
       else if o.dst = 8 then { e.g with astat := e.g.astat &&& ~~~(v.setWidth 32) }
       else { e.g with seed := v })

end Sys2Proof.Machine
end

