-- ==== Sys2Proof/Machine/Int.lean ====
section
/-! DEFINITION. Integer arithmetic, compares and address arithmetic (05_scalar_vector R112 to R115, R119). -/

namespace Sys2Proof.Machine

/-! ### Shapes -/

/-- Element-wise over the integers that two sources hold in a type. -/
def intBin (t : IntTy) (f : Int → Int → Res) (a b : Nat) : LaneOut :=
  perElem (.i t) fun i => f (t.val (elemOf t.width a i)) (t.val (elemOf t.width b i))
def intUn (t : IntTy) (f : Int → Res) (a : Nat) : LaneOut :=
  perElem (.i t) fun i => f (t.val (elemOf t.width a i))
def intTri (t : IntTy) (f : Int → Int → Int → Res) (a b c : Nat) : LaneOut :=
  perElem (.i t) fun i =>
    f (t.val (elemOf t.width a i)) (t.val (elemOf t.width b i)) (t.val (elemOf t.width c i))

/-- S or N type of a width that goes with a type's signedness. -/
def IntTy.wide32 (t : IntTy) : IntTy := if t.signed then .s32 else .n32
def IntTy.wide64 (t : IntTy) : IntTy := if t.signed then .s64 else .n64

def exactInt (t : IntTy) (x : Int) : Res := exact (t.wrap x)

/-! ### Arithmetic (Table 1) -/

def aluIadd (o : Ops) (m : ModI) : Alu :=
  aluOf (.iadd o m) o (.i m.ity) fun _ a b _ => intBin m.ity (fun x y => m.ity.deliver m.sat (x + y)) a b
def execIadd (o : Ops) (m : ModI) (s : State) : Out := runAlu (aluIadd o m) s

def aluIsub (o : Ops) (m : ModI) : Alu :=
  aluOf (.isub o m) o (.i m.ity) fun _ a b _ => intBin m.ity (fun x y => m.ity.deliver m.sat (x - y)) a b
def execIsub (o : Ops) (m : ModI) (s : State) : Out := runAlu (aluIsub o m) s

/-- Carry-in of R113: CI is OPF bits 18:16, CO 15:13, CZ 12. -/
def ModI.carryIn (m : ModI) (x : Lane) : Nat :=
  if m.opf.getLsbD 8 then 0 else (x.pred (m.opf.extractLsb' 12 3).toNat).toNat
def ModI.carryOut (m : ModI) : Nat := (m.opf.extractLsb' 9 3).toNat

def aluIaddc (o : Ops) (m : ModI) : Alu :=
  aluOf (.iaddc o m) o (.i m.ity) fun x a b _ =>
    let w := m.ity.width
    let r := a % 2 ^ w + b % 2 ^ w + ModI.carryIn m x
    { val := r % 2 ^ w, preds := [(ModI.carryOut m, r / 2 ^ w % 2 == 1)] }
def execIaddc (o : Ops) (m : ModI) (s : State) : Out := runAlu (aluIaddc o m) s

def aluIsubb (o : Ops) (m : ModI) : Alu :=
  aluOf (.isubb o m) o (.i m.ity) fun x a b _ =>
    let w := m.ity.width
    let ua := a % 2 ^ w
    let t := b % 2 ^ w + ModI.carryIn m x
    { val := (ua + 2 ^ (w + 1) - t) % 2 ^ w, preds := [(ModI.carryOut m, decide (ua < t))] }
def execIsubb (o : Ops) (m : ModI) (s : State) : Out := runAlu (aluIsubb o m) s

def aluImul (o : Ops) (m : ModI) : Alu :=
  aluOf (.imul o m) o (.i m.ity) fun _ a b _ => intBin m.ity (fun x y => m.ity.deliver m.sat (x * y)) a b
def execImul (o : Ops) (m : ModI) (s : State) : Out := runAlu (aluImul o m) s

/-- Bits 2W−1:W of the exact product. -/
def aluImulh (o : Ops) (m : ModI) : Alu :=
  aluOf (.imulh o m) o (.i m.ity) fun _ a b _ =>
    intBin m.ity (fun x y => exactInt m.ity ((x * y) / 2 ^ m.ity.width)) a b
def execImulh (o : Ops) (m : ModI) (s : State) : Out := runAlu (aluImulh o m) s

def aluImad (o : Ops) (m : ModI) : Alu :=
  aluOf (.imad o m) o (.i m.ity) fun _ a b c =>
    intTri m.ity (fun x y z => m.ity.deliver m.sat (x * y + z)) a b c
def execImad (o : Ops) (m : ModI) (s : State) : Out := runAlu (aluImad o m) s

def aluImadw (o : Ops) (m : ModI) : Alu :=
  let t := IntTy.wide64 m.ity
  aluOf (.imadw o m) o (.i t) fun _ a b c =>
    packRes 64 [t.deliver m.sat (m.ity.val a * m.ity.val b + t.val c)]
def execImadw (o : Ops) (m : ModI) (s : State) : Out := runAlu (aluImadw o m) s

/-- Division by zero: DZ for a non-zero dividend, NV for zero (R114). -/
def divFlags (x : Int) : W32 := if x = 0 then fNV else fDZ

def aluIdiv (o : Ops) (m : ModI) : Alu :=
  aluOf (.idiv o m) o (.i m.ity) fun _ a b _ =>
    intBin m.ity (fun x y =>
      if y = 0 then ⟨2 ^ m.ity.width - 1, divFlags x⟩ else m.ity.deliver m.sat (x.tdiv y)) a b
def execIdiv (o : Ops) (m : ModI) (s : State) : Out := runAlu (aluIdiv o m) s

def aluIrem (o : Ops) (m : ModI) : Alu :=
  aluOf (.irem o m) o (.i m.ity) fun _ a b _ =>
    intBin m.ity (fun x y => if y = 0 then ⟨m.ity.wrap x, divFlags x⟩ else exactInt m.ity (x.tmod y)) a b
def execIrem (o : Ops) (m : ModI) (s : State) : Out := runAlu (aluIrem o m) s

def aluImin (o : Ops) (m : ModI) : Alu :=
  aluOf (.imin o m) o (.i m.ity) fun _ a b _ => intBin m.ity (fun x y => exactInt m.ity (min x y)) a b
def execImin (o : Ops) (m : ModI) (s : State) : Out := runAlu (aluImin o m) s

def aluImax (o : Ops) (m : ModI) : Alu :=
  aluOf (.imax o m) o (.i m.ity) fun _ a b _ => intBin m.ity (fun x y => exactInt m.ity (max x y)) a b
def execImax (o : Ops) (m : ModI) (s : State) : Out := runAlu (aluImax o m) s

def aluIabs (o : Ops) (m : ModI) : Alu :=
  aluOf (.iabs o m) o (.i m.ity) fun _ a _ _ => intUn m.ity (fun x => m.ity.deliver m.sat (x.natAbs : Int)) a
def execIabs (o : Ops) (m : ModI) (s : State) : Out := runAlu (aluIabs o m) s

def aluIneg (o : Ops) (m : ModI) : Alu :=
  aluOf (.ineg o m) o (.i m.ity) fun _ a _ _ => intUn m.ity (fun x => m.ity.deliver m.sat (-x)) a
def execIneg (o : Ops) (m : ModI) (s : State) : Out := runAlu (aluIneg o m) s

def aluIsad (o : Ops) (m : ModI) : Alu :=
  aluOf (.isad o m) o (.i m.ity) fun _ a b _ => intBin m.ity (fun x y => exact (x - y).natAbs) a b
def execIsad (o : Ops) (m : ModI) (s : State) : Out := runAlu (aluIsad o m) s

def aluIavg (o : Ops) (m : ModI) : Alu :=
  aluOf (.iavg o m) o (.i m.ity) fun _ a b _ => intBin m.ity (fun x y => exactInt m.ity ((x + y + 1) / 2)) a b
def execIavg (o : Ops) (m : ModI) (s : State) : Out := runAlu (aluIavg o m) s

/-- c plus the products of the first `n` elements. -/
def dotInt (t : IntTy) (n : Nat) (a b : Nat) (c : Int) : Int :=
  (List.range n).foldl (fun acc i => acc + t.val (elemOf t.width a i) * t.val (elemOf t.width b i)) c

def aluIdot2 (o : Ops) (m : ModI) : Alu :=
  let t := IntTy.wide32 m.ity
  aluOf (.idot2 o m) o (.i t) fun _ a b c => packRes 32 [t.deliver m.sat (dotInt m.ity 2 a b (t.val c))]
def execIdot2 (o : Ops) (m : ModI) (s : State) : Out := runAlu (aluIdot2 o m) s

def aluIdot4 (o : Ops) (m : ModI) : Alu :=
  let t := IntTy.wide32 m.ity
  aluOf (.idot4 o m) o (.i t) fun _ a b c => packRes 32 [t.deliver m.sat (dotInt m.ity 4 a b (t.val c))]
def execIdot4 (o : Ops) (m : ModI) (s : State) : Out := runAlu (aluIdot4 o m) s

def aluIclamp (o : Ops) (m : ModI) : Alu :=
  aluOf (.iclamp o m) o (.i m.ity) fun _ a b c =>
    intTri m.ity (fun x y z => exactInt m.ity (min (max x y) z)) a b c
def execIclamp (o : Ops) (m : ModI) (s : State) : Out := runAlu (aluIclamp o m) s

/-! ### Compares (R68, R115) -/

/-- A condition over an order; none is unordered. -/
def Cc.holds (cc : Cc) (r : Option Ordering) : Bool :=
  match cc with
  | .eq => r == some .eq
  | .ne => r != some .eq
  | .lt => r == some .lt
  | .le => r == some .lt || r == some .eq
  | .gt => r == some .gt
  | .ge => r == some .gt || r == some .eq
  | .num => r.isSome
  | .nan => r.isNone
  | .ult => r.isNone || r == some .lt
  | .ule => r.isNone || r == some .lt || r == some .eq
  | .ugt => r.isNone || r == some .gt
  | .uge => r.isNone || r == some .gt || r == some .eq
  | .ueq => r.isNone || r == some .eq
  | .one => r == some .lt || r == some .gt

def intCond (cc : Cc) (x y : Int) : Bool := Cc.holds cc (some (compare x y))

def aluIcmp (o : Ops) (m : ModCI) : Alu :=
  aluOf (.icmp o m) o .b32 fun _ a b _ => { val := (intCond m.cc (m.ity.val a) (m.ity.val b)).toNat }
def execIcmp (o : Ops) (m : ModCI) (s : State) : Out := runAlu (aluIcmp o m) s

def allOnes (w : Nat) (c : Bool) : Res := exact (if c then 2 ^ w - 1 else 0)

def aluIset (o : Ops) (m : ModCI) : Alu :=
  aluOf (.iset o m) o (.i m.ity) fun _ a b _ =>
    intBin m.ity (fun x y => allOnes m.ity.width (intCond m.cc x y)) a b
def execIset (o : Ops) (m : ModCI) (s : State) : Out := runAlu (aluIset o m) s

def aluItest (o : Ops) (m : ModCI) : Alu :=
  aluOf (.itest o m) o .b32 fun _ a b _ =>
    let z := (a &&& b) % 2 ^ m.ity.width == 0
    { val := (if m.cc == .eq then z else !z).toNat }
def execItest (o : Ops) (m : ModCI) (s : State) : Out := runAlu (aluItest o m) s

/-! ### Addresses (R119): SH is OPF bits 18:16 -/

def ModI.sh (m : ModI) : Nat := (m.opf.extractLsb' 12 3).toNat

def aluLea (o : Ops) (m : ModI) : Alu :=
  aluOf (.lea o m) o .b64 fun _ a b _ =>
    { val := IntTy.wrap .n64 ((a : Int) + m.ity.val b * 2 ^ ModI.sh m) }
def execLea (o : Ops) (m : ModI) (s : State) : Out := runAlu (aluLea o m) s

def aluLeax (o : Ops) (m : ModI) : Alu :=
  aluOf (.leax o m) o .b64 fun _ a b _ => { val := (a + b * 2 ^ ModI.sh m) % 2 ^ 64 }
def execLeax (o : Ops) (m : ModI) (s : State) : Out := runAlu (aluLeax o m) s

def aluCanon (o : Ops) (m : ModI) : Alu :=
  aluOf (.canon o m) o .b64 fun _ a _ _ => { val := (sext64 57 a).toNat }
def execCanon (o : Ops) (m : ModI) (s : State) : Out := runAlu (aluCanon o m) s

/-- The wrapped S64 difference, shifted right arithmetically. -/
def aluPdiff (o : Ops) (m : ModI) : Alu :=
  aluOf (.pdiff o m) o .b64 fun _ a b _ =>
    let d := IntTy.val .s64 (IntTy.wrap .s64 ((a : Int) - b))
    { val := IntTy.wrap .s64 (d / 2 ^ ModI.sh m) }
def execPdiff (o : Ops) (m : ModI) (s : State) : Out := runAlu (aluPdiff o m) s

end Sys2Proof.Machine
end

