-- ==== Sys2Proof/Machine/Float.lean ====
section
/-! DEFINITION. Floating-point arithmetic and compares (05_scalar_vector R115, R116, R124 to R126; 04 R94).
What rests on the model rather than on the plain words of the manual: log 6 (DEDUCED). -/

namespace Sys2Proof.Machine

/-- An operation whose floating-point results the shadow unit checks; `unit` is the class of 17 R435. -/
def aluFloat (unit : Nat) (i : Instr) (o : Ops) (t : FloatTy) (f : Lane → Nat → Nat → Nat → LaneOut) : Alu :=
  { o := o, sg := i.sig, rty := .f t, unit? := some unit, f := f }

/-! ### Shapes -/

def fUn (t : FloatTy) (f : Nat → Res) (a : Nat) : LaneOut := perElem (.f t) fun i => f (elemOf t.width a i)
def fBin (t : FloatTy) (f : Nat → Nat → Res) (a b : Nat) : LaneOut :=
  perElem (.f t) fun i => f (elemOf t.width a i) (elemOf t.width b i)
def fTri (t : FloatTy) (f : Nat → Nat → Nat → Res) (a b c : Nat) : LaneOut :=
  perElem (.f t) fun i => f (elemOf t.width a i) (elemOf t.width b i) (elemOf t.width c i)

def Res.orFlags (r : Res) (f : W32) : Res := ⟨r.bits, r.flags ||| f⟩

/-- Deliver an exact value with the flags gathered so far. -/
def roundWith (t : FloatTy) (rm : Rm) (sat : Bool) (v : FVal × W32) (extra : W32) : Res :=
  Res.orFlags (t.round rm sat v.1) (v.2 ||| extra)

/-! ### Sums and products -/

/-- a + b. -/
def fAdd (t : FloatTy) (rm : Rm) (sat : Bool) (a b : FVal) : Res :=
  roundWith t rm sat (exactSum rm [a, b]) (sigFlag [a, b])

/-- a × b. -/
def fMul (t : FloatTy) (rm : Rm) (sat : Bool) (a b : FVal) : Res :=
  roundWith t rm sat (a.mul b) (sigFlag [a, b])

/-- ±(a × b) ± c exactly, rounded once. -/
def fMad (t : FloatTy) (rm : Rm) (sat negP negC : Bool) (a b c : FVal) : Res :=
  let p := a.mul b
  let x := if negP then p.1.neg else p.1
  let y := if negC then c.neg else c
  roundWith t rm sat (exactSum rm [x, y]) (p.2 ||| sigFlag [a, b, c])

def aluFadd (o : Ops) (m : ModF) : Alu :=
  aluFloat 0 (.fadd o m) o m.fty fun _ a b _ =>
    fBin m.fty (fun x y => fAdd m.fty m.rm m.sat (m.fty.read x) (m.fty.read y)) a b
def execFadd (o : Ops) (m : ModF) (s : State) : Out := runAlu (aluFadd o m) s

def aluFsub (o : Ops) (m : ModF) : Alu :=
  aluFloat 0 (.fsub o m) o m.fty fun _ a b _ =>
    fBin m.fty (fun x y => fAdd m.fty m.rm m.sat (m.fty.read x) (m.fty.read y).neg) a b
def execFsub (o : Ops) (m : ModF) (s : State) : Out := runAlu (aluFsub o m) s

def aluFmul (o : Ops) (m : ModF) : Alu :=
  aluFloat 0 (.fmul o m) o m.fty fun _ a b _ =>
    fBin m.fty (fun x y => fMul m.fty m.rm m.sat (m.fty.read x) (m.fty.read y)) a b
def execFmul (o : Ops) (m : ModF) (s : State) : Out := runAlu (aluFmul o m) s

def fusedElem (m : ModF) (negP negC : Bool) (x y z : Nat) : Res :=
  fMad m.fty m.rm m.sat negP negC (m.fty.read x) (m.fty.read y) (m.fty.read z)

def aluFma (o : Ops) (m : ModF) : Alu :=
  aluFloat 0 (.fma o m) o m.fty fun _ a b c => fTri m.fty (fusedElem m false false) a b c
def execFma (o : Ops) (m : ModF) (s : State) : Out := runAlu (aluFma o m) s
def aluFms (o : Ops) (m : ModF) : Alu :=
  aluFloat 0 (.fms o m) o m.fty fun _ a b c => fTri m.fty (fusedElem m false true) a b c
def execFms (o : Ops) (m : ModF) (s : State) : Out := runAlu (aluFms o m) s
def aluFnma (o : Ops) (m : ModF) : Alu :=
  aluFloat 0 (.fnma o m) o m.fty fun _ a b c => fTri m.fty (fusedElem m true false) a b c
def execFnma (o : Ops) (m : ModF) (s : State) : Out := runAlu (aluFnma o m) s

/-- a0·b0 + a1·b1 + c into F32. -/
def aluFdot2 (o : Ops) (m : ModF) : Alu :=
  aluFloat 0 (.fdot2 o m) o .f32 fun _ a b c =>
    let w := m.fty.width
    let at_ := fun x i => m.fty.read (elemOf w x i)
    let p := (at_ a 0).mul (at_ b 0)
    let q := (at_ a 1).mul (at_ b 1)
    let z := FloatTy.f32.read c
    packRes 32 [roundWith .f32 m.rm m.sat (exactSum m.rm [p.1, q.1, z])
      (p.2 ||| q.2 ||| sigFlag [at_ a 0, at_ a 1, at_ b 0, at_ b 1, z])]
def execFdot2 (o : Ops) (m : ModF) (s : State) : Out := runAlu (aluFdot2 o m) s

/-- The exact sum of all elements of a, plus b, into F32. -/
def aluFsum (o : Ops) (m : ModF) : Alu :=
  aluFloat 0 (.fsum o m) o .f32 fun _ a b _ =>
    let xs := (List.range (Ty.f m.fty).elems).map fun i => m.fty.read (elemOf m.fty.width a i)
    let all := xs ++ [FloatTy.f32.read b]
    packRes 32 [roundWith .f32 m.rm m.sat (exactSum m.rm all) (sigFlag all)]
def execFsum (o : Ops) (m : ModF) (s : State) : Out := runAlu (aluFsum o m) s

/-! ### Minimum, maximum, clamp (R125) -/

/-- Order of two patterns that are no NaNs, −0 below +0. -/
def fLess (t : FloatTy) (x y : Nat) : Bool :=
  match (t.read x).cmp (t.read y) with
  | some .lt => true
  | some .eq => (t.read x).isZero && (t.read x).isNeg && !(t.read y).isNeg
  | _ => false

/-- The smaller (larger under `mx`) of two patterns that are no NaNs. -/
def fPick (t : FloatTy) (mx : Bool) (x y : Nat) : Nat :=
  if mx then (if fLess t x y then y else x) else (if fLess t y x then y else x)

/-- FMIN and FMAX: number-preferring. -/
def fMinMax (t : FloatTy) (mx : Bool) (x y : Nat) : Res :=
  let fl := sigFlag [t.read x, t.read y]
  match (t.read x).isNan, (t.read y).isNan with
  | true, true => ⟨t.canon, fl⟩
  | true, false => ⟨y, fl⟩
  | false, true => ⟨x, fl⟩
  | false, false => ⟨fPick t mx x y, fl⟩

/-- FMINM and FMAXM: NaN-propagating. -/
def fMinMaxM (t : FloatTy) (mx : Bool) (x y : Nat) : Res :=
  let fl := sigFlag [t.read x, t.read y]
  if (t.read x).isNan || (t.read y).isNan then ⟨t.canon, fl⟩ else ⟨fPick t mx x y, fl⟩

def aluFmin (o : Ops) (m : ModF) : Alu :=
  aluFloat 0 (.fmin o m) o m.fty fun _ a b _ => fBin m.fty (fMinMax m.fty false) a b
def execFmin (o : Ops) (m : ModF) (s : State) : Out := runAlu (aluFmin o m) s
def aluFmax (o : Ops) (m : ModF) : Alu :=
  aluFloat 0 (.fmax o m) o m.fty fun _ a b _ => fBin m.fty (fMinMax m.fty true) a b
def execFmax (o : Ops) (m : ModF) (s : State) : Out := runAlu (aluFmax o m) s
def aluFminm (o : Ops) (m : ModF) : Alu :=
  aluFloat 0 (.fminm o m) o m.fty fun _ a b _ => fBin m.fty (fMinMaxM m.fty false) a b
def execFminm (o : Ops) (m : ModF) (s : State) : Out := runAlu (aluFminm o m) s
def aluFmaxm (o : Ops) (m : ModF) : Alu :=
  aluFloat 0 (.fmaxm o m) o m.fty fun _ a b _ => fBin m.fty (fMinMaxM m.fty true) a b
def execFmaxm (o : Ops) (m : ModF) (s : State) : Out := runAlu (aluFmaxm o m) s

def fClamp (t : FloatTy) (x lo hi : Nat) : Res :=
  let fl := sigFlag [t.read x, t.read lo, t.read hi]
  if (t.read x).isNan then ⟨t.canon, fl⟩
  else
    let y := if (t.read lo).isNan then x else fPick t true x lo
    ⟨if (t.read hi).isNan then y else fPick t false y hi, fl⟩

def aluFclamp (o : Ops) (m : ModF) : Alu :=
  aluFloat 0 (.fclamp o m) o m.fty fun _ a b c => fTri m.fty (fClamp m.fty) a b c
def execFclamp (o : Ops) (m : ModF) (s : State) : Out := runAlu (aluFclamp o m) s

/-! ### Signs (R124): patterns are copied, NaNs too -/

def aluFabs (o : Ops) (m : ModF) : Alu :=
  aluFloat 0 (.fabs o m) o m.fty fun _ a _ _ => fUn m.fty (fun x => exact (x % m.fty.signBit)) a
def execFabs (o : Ops) (m : ModF) (s : State) : Out := runAlu (aluFabs o m) s
def aluFneg (o : Ops) (m : ModF) : Alu :=
  aluFloat 0 (.fneg o m) o m.fty fun _ a _ _ => fUn m.fty (fun x => exact ((x + m.fty.signBit) % 2 ^ m.fty.width)) a
def execFneg (o : Ops) (m : ModF) (s : State) : Out := runAlu (aluFneg o m) s
def aluFcsgn (o : Ops) (m : ModF) : Alu :=
  aluFloat 0 (.fcsgn o m) o m.fty fun _ a b _ =>
    fBin m.fty (fun x y => exact (x % m.fty.signBit + y / m.fty.signBit * m.fty.signBit)) a b
def execFcsgn (o : Ops) (m : ModF) (s : State) : Out := runAlu (aluFcsgn o m) s

/-! ### Compares and classes (R115, R116) -/

/-- NV for a signalling NaN, and for any NaN under LT, LE, GT, GE. -/
def fCmpFlags (cc : Cc) (a b : FVal) : W32 :=
  sigFlag [a, b] |||
    flagIf ((a.isNan || b.isNan) && (cc == .lt || cc == .le || cc == .gt || cc == .ge)) fNV

def aluFcmp (o : Ops) (m : ModCF) : Alu :=
  aluOf (.fcmp o m) o .b32 fun _ a b _ =>
    let x := m.fty.read a
    let y := m.fty.read b
    { val := (Cc.holds m.cc (x.cmp y)).toNat, flags := fCmpFlags m.cc x y }
def execFcmp (o : Ops) (m : ModCF) (s : State) : Out := runAlu (aluFcmp o m) s

def aluFset (o : Ops) (m : ModCF) : Alu :=
  aluOf (.fset o m) o (.f m.fty) fun _ a b _ =>
    fBin m.fty (fun p q =>
      let x := m.fty.read p
      let y := m.fty.read q
      ⟨(allOnes m.fty.width (Cc.holds m.cc (x.cmp y))).bits, fCmpFlags m.cc x y⟩) a b
def execFset (o : Ops) (m : ModCF) (s : State) : Out := runAlu (aluFset o m) s

/-- The class bit of a pattern (Table 3). -/
def fClass (t : FloatTy) (x : Nat) : Nat :=
  match t.read x with
  | .nan true => 8
  | .nan false => 9
  | .inf n => if n then 0 else 7
  | .fin n m _ _ =>
    if m = 0 then (if n then 3 else 4)
    else if t.isSub x then (if n then 2 else 5)
    else if n then 1 else 6

def aluFclass (o : Ops) (m : ModCF) : Alu :=
  aluOf (.fclass o m) o .b32 fun _ a b _ =>
    let hit := b % 2 ^ 10 / 2 ^ fClass m.fty a % 2 == 1
    { val := (if m.cc == .eq then !hit else hit).toNat }
def execFclass (o : Ops) (m : ModCF) (s : State) : Out := runAlu (aluFclass o m) s

/-! ### Integral values, scaling, exponent and mantissa (R126) -/

/-- The integer that rounding selects, and whether it differs from the value. -/
def toIntegral (rm : Rm) (neg : Bool) (m : Nat) (e : Int) : Nat × Bool :=
  if 0 ≤ e then (m * 2 ^ e.toNat, false)
  else
    let d := (-e).toNat
    let inexact := m % 2 ^ d != 0
    (m / 2 ^ d + (rm.up neg (m / 2 ^ d % 2 == 1) (fracOf m d false) inexact).toNat, inexact)

def fRndi (t : FloatTy) (rm : Rm) (x : Nat) : Res :=
  match t.read x with
  | .nan sg => ⟨t.canon, flagIf sg fNV⟩
  | .inf _ => exact x
  | .fin neg m e _ =>
    let r := toIntegral rm neg m e
    ⟨(t.round rm false (.fin neg r.1 0 false)).bits, flagIf r.2 fNX⟩

def aluFrndi (o : Ops) (m : ModF) : Alu :=
  aluFloat 0 (.frndi o m) o m.fty fun _ a _ _ => fUn m.fty (fRndi m.fty m.rm) a
def execFrndi (o : Ops) (m : ModF) (s : State) : Out := runAlu (aluFrndi o m) s

/-- Signed integer type as wide as a float type. -/
def intOf (t : FloatTy) : IntTy :=
  match t.width with | 8 => .s8 | 16 => .s16 | 32 => .s32 | _ => .s64

/-- a × 2^b; zeros and infinities are unchanged, with SAT too (R126); exponents past any format's range act as the range's end. -/
def fScale (t : FloatTy) (rm : Rm) (sat : Bool) (x y : Nat) : Res :=
  match t.read x with
  | .nan sg => ⟨t.canon, flagIf sg fNV⟩
  | .inf _ => exact x
  | .fin n m e st =>
    if m = 0 then exact x
    else
      let k := (intOf t).val y
      let k := max (-8192) (min 8192 k)
      t.round rm sat (.fin n m (e + k) st)

def aluFscale (o : Ops) (m : ModF) : Alu :=
  aluFloat 0 (.fscale o m) o m.fty fun _ a b _ => fBin m.fty (fScale m.fty m.rm m.sat) a b
def execFscale (o : Ops) (m : ModF) (s : State) : Out := runAlu (aluFscale o m) s

def fXexp (t : FloatTy) (x : Nat) : Res :=
  let it := intOf t
  match t.read x with
  | .nan _ => ⟨it.wrap it.max, fNV⟩
  | .inf _ => exact (it.wrap it.max)
  | .fin _ m e _ => if m = 0 then ⟨it.wrap it.min, fDZ⟩ else exact (it.wrap (e + Nat.log2 m))

/-- FXEXP delivers integers, which no shadow unit checks. -/
def aluFxexp (o : Ops) (m : ModF) : Alu :=
  aluOf (.fxexp o m) o (.i (intOf m.fty)) fun _ a _ _ => fUn m.fty (fXexp m.fty) a
def execFxexp (o : Ops) (m : ModF) (s : State) : Out := runAlu (aluFxexp o m) s

def fXman (t : FloatTy) (x : Nat) : Res :=
  match t.read x with
  | .nan sg => ⟨t.canon, flagIf sg fNV⟩
  | .inf _ => exact x
  | .fin n m _ _ => if m = 0 then exact x else exact (t.round .rn false (.fin n m (-(Nat.log2 m : Int)) false)).bits

def aluFxman (o : Ops) (m : ModF) : Alu :=
  aluFloat 0 (.fxman o m) o m.fty fun _ a _ _ => fUn m.fty (fXman m.fty) a
def execFxman (o : Ops) (m : ModF) (s : State) : Out := runAlu (aluFxman o m) s

end Sys2Proof.Machine
end

