-- ==== Sys2Proof/Machine/Conv.lean ====
section
/-! DEFINITION. Conversions (05_scalar_vector R127 to R131). -/

namespace Sys2Proof.Machine

/-- Float to float: one rounding; NV for a signalling NaN (R128). -/
def cvtFF (d : FloatTy) (rm : Rm) (sat : Bool) (v : FVal) : Res := Res.orFlags (d.round rm sat v) (sigFlag [v])

/-- Types of the two fields of layout V. -/
def ModV.fsrc (m : ModV) : FloatTy := .ofBits m.src
def ModV.fdst (m : ModV) : FloatTy := .ofBits m.dst
def ModV.isrc (m : ModV) : IntTy := .ofBits m.src
def ModV.idst (m : ModV) : IntTy := .ofBits m.dst

/-- Element 0 holds the result; every other bit of the register or pair is zero. -/
def elem0 (w : Nat) (r : Res) : LaneOut := packRes w [r]

def aluCvt (o : Ops) (m : ModV) : Alu :=
  aluFloat 1 (.cvt o m) o (ModV.fdst m) fun _ a _ _ =>
    let t := ModV.fsrc m
    elem0 (ModV.fdst m).width (cvtFF (ModV.fdst m) m.rm m.sat (t.read (elemOf t.width a m.esel)))
def execCvt (o : Ops) (m : ModV) (s : State) : Out := runAlu (aluCvt o m) s

/-- R129. -/
def cvtFI (d : IntTy) (rm : Rm) (v : FVal) : Res :=
  match v with
  | .nan _ => ⟨0, fNV⟩
  | .inf n => ⟨d.wrap (if n then d.min else d.max), fNV⟩
  | .fin n m e _ =>
    let r := toIntegral rm n m e
    let x : Int := if n then -(r.1 : Int) else r.1
    if d.fits x then ⟨d.wrap x, flagIf r.2 fNX⟩ else ⟨d.wrap (d.clamp x), fNV⟩

def aluCvtfi (o : Ops) (m : ModV) : Alu :=
  aluOf (.cvtfi o m) o (.i (ModV.idst m)) fun _ a _ _ =>
    let t := ModV.fsrc m
    elem0 (ModV.idst m).width (cvtFI (ModV.idst m) m.rm (t.read (elemOf t.width a m.esel)))
def execCvtfi (o : Ops) (m : ModV) (s : State) : Out := runAlu (aluCvtfi o m) s

def aluCvtif (o : Ops) (m : ModV) : Alu :=
  aluFloat 1 (.cvtif o m) o (ModV.fdst m) fun _ a _ _ =>
    let t := ModV.isrc m
    elem0 (ModV.fdst m).width ((ModV.fdst m).round m.rm m.sat (.ofInt (t.val (elemOf t.width a m.esel))))
def execCvtif (o : Ops) (m : ModV) (s : State) : Out := runAlu (aluCvtif o m) s

/-- One narrowing of PACK2 or PACK4 (R128). -/
def narrow (m : ModV) (x : Nat) : Res :=
  if m.isInt then (ModV.idst m).deliver m.sat ((ModV.isrc m).val x)
  else cvtFF (ModV.fdst m) m.rm m.sat ((ModV.fsrc m).read x)

/-- A pack's results are floats where INT is clear, and then checked. -/
def aluPack (i : Instr) (o : Ops) (m : ModV) (f : Lane → Nat → Nat → Nat → LaneOut) : Alu :=
  { o := o, sg := i.sig, rty := if m.isInt then .b32 else .f (ModV.fdst m),
    unit? := if m.isInt then none else some 1, f := f }

def aluPack2 (o : Ops) (m : ModV) : Alu :=
  aluPack (.pack2 o m) o m fun _ a b _ => packRes 16 [narrow m a, narrow m b]
def execPack2 (o : Ops) (m : ModV) (s : State) : Out := runAlu (aluPack2 o m) s

def aluPack4 (o : Ops) (m : ModV) : Alu :=
  aluPack (.pack4 o m) o m fun _ a b _ =>
    packRes 8 [narrow m (elemOf 16 a 0), narrow m (elemOf 16 a 1), narrow m (elemOf 16 b 0), narrow m (elemOf 16 b 1)]
def execPack4 (o : Ops) (m : ModV) (s : State) : Out := runAlu (aluPack4 o m) s

/-- The exact widening of one element (R130). -/
def aluUnpk (o : Ops) (m : ModV) : Alu :=
  { o := o, sg := (Instr.unpk o m).sig, rty := m.ty m.dst, unit? := if m.isInt then none else some 1,
    f := fun _ a _ _ =>
      if m.isInt then
        let t := ModV.isrc m
        elem0 (ModV.idst m).width (exactInt (ModV.idst m) (t.val (elemOf t.width a m.esel)))
      else
        let t := ModV.fsrc m
        elem0 (ModV.fdst m).width (cvtFF (ModV.fdst m) .rn false (t.read (elemOf t.width a m.esel))) }
def execUnpk (o : Ops) (m : ModV) (s : State) : Out := runAlu (aluUnpk o m) s

/-- The low n bits of a, extended (R131). -/
def extend (sign : Bool) (w a b : Nat) : Nat :=
  let n := b % 128
  if n = 0 then 0
  else if n ≥ w then a % 2 ^ w
  else
    let x := a % 2 ^ n
    if sign && decide (2 ^ (n - 1) ≤ x) then x + (2 ^ w - 2 ^ n) else x

def aluExts (o : Ops) (m : ModV) : Alu :=
  aluOf (.exts o m) o (.i (ModV.idst m)) fun _ a b _ => { val := extend true (ModV.idst m).width a b }
def execExts (o : Ops) (m : ModV) (s : State) : Out := runAlu (aluExts o m) s
def aluExtz (o : Ops) (m : ModV) : Alu :=
  aluOf (.extz o m) o (.i (ModV.idst m)) fun _ a b _ => { val := extend false (ModV.idst m).width a b }
def execExtz (o : Ops) (m : ModV) (s : State) : Out := runAlu (aluExtz o m) s

end Sys2Proof.Machine
end

