-- ==== Sys2Proof/Machine/Control.lean ====
section
/-! DEFINITION. Branches, calls and exit (11 R296 to R298), meeting registers (R299), YIELD and SLEEP (R300, R301), and
the cross-lane instructions (R302 to R306).
What rests on the model rather than on the plain words of the manual: log 7 (DEDUCED). -/

namespace Sys2Proof.Machine

/-! ### Targets (R296, R297) -/

/-- The offset that BRA, CALL and MSET name. -/
def relOffset (o : Ops) (field : Nat) (bits : Nat) : W64 :=
  if o.len == .w64 then sext64 (bits + 2) (field * 4) else o.lit.signExtend 64

/-- Detail of the branch-target fault, if the target is bad. -/
def badTarget (a : W64) : Option Nat :=
  if !canonical a then some 1 else if a.toNat % 4 ≠ 0 then some 2 else none

/-- Active threads go to their targets, the others on; one bad target stops them all. -/
def Env.branch (e : Env) (dest : Nat → W64) (g : Group) : Out :=
  match e.act.findSome? fun l => (badTarget (dest l)).map fun d => (d, l) with
  | some (d, l) => e.trap 0x16 d l
  | none => e.finishAt e.s g fun l => if e.act.contains l then dest l else e.next

/-- The return address in the destination pair. -/
def Env.link (e : Env) (o : Ops) : Group := e.act.foldl (fun g l => g.setVrs o.dst.toNat l 2 e.next.toNat) e.g

def execBra (o : Ops) (m : BitVec 20) (s : State) : Out :=
  issue1 .all o (Instr.bra o m).sig s fun e => e.branch (fun _ => e.u.pc + relOffset o m.toNat 20) e.g

def execBrx (o : Ops) (m : BitVec 20) (s : State) : Out :=
  issue1 .all o (Instr.brx o m).sig s fun e => e.branch (fun l => BitVec.ofNat 64 (e.a l)) e.g

def execCall (o : Ops) (m : BitVec 20) (s : State) : Out :=
  issue1 .all o (Instr.call o m).sig s fun e => e.branch (fun _ => e.u.pc + relOffset o m.toNat 20) (e.link o)

def execCallx (o : Ops) (m : BitVec 20) (s : State) : Out :=
  issue1 .all o (Instr.callx o m).sig s fun e => e.branch (fun l => BitVec.ofNat 64 (e.a l)) (e.link o)

/-- RET has the effect of BRX. -/
def execRet (o : Ops) (m : BitVec 20) (s : State) : Out :=
  issue1 .all o (Instr.ret o m).sig s fun e => e.branch (fun l => BitVec.ofNat 64 (e.a l)) e.g

/-- EXIT (R298). -/
def execExit (o : Ops) (m : BitVec 20) (s : State) : Out :=
  issue1 .all o (Instr.exit o m).sig s fun e =>
    let g := (e.g.restart s.cycle e.act).exit e.act
    match ({ e with lanes := e.lanes.filter fun l => !e.act.contains l }).finish e.s g with
    | .next s => .next (s.groupOver e.u.gid)
    | x => x

/-! ### Meeting registers (R299) -/

/-- MEET changes; it is evaluated at the next tick (10 R281). -/
def Env.setMeet (e : Env) (v : Nat → W64) : Out :=
  e.commit (e.act.foldl (fun g l => g.modLane l fun x => { x with meet := v l }) (e.g.restart e.s.cycle e.act))

def execMset (o : Ops) (m : BitVec 20) (s : State) : Out :=
  issue1 .all o (Instr.mset o m).sig s fun e => e.setMeet fun _ => e.u.pc + relOffset o (m.toNat / 2) 19

def execMsetR (o : Ops) (m : BitVec 20) (s : State) : Out :=
  issue1 .all o (Instr.msetR o m).sig s fun e => e.setMeet fun l => BitVec.ofNat 64 (e.a l)

def execMclr (o : Ops) (m : BitVec 20) (s : State) : Out :=
  issue1 .all o (Instr.mclr o m).sig s fun e => e.setMeet fun _ => BitVec.allOnes 64

def execMrd (o : Ops) (m : BitVec 20) (s : State) : Out :=
  issue1 .all o (Instr.mrd o m).sig s fun e =>
    e.commit (e.act.foldl (fun g l => g.setVrs o.dst.toNat l 2 (e.g.lane l).meet.toNat) e.g)

/-! ### Pausing (R300, R301) -/

/-- R300: the bundle issues no more until the next tick. -/
def execYield (o : Ops) (m : BitVec 20) (s : State) : Out :=
  issue1 .all o (Instr.yield o m).sig s fun e =>
    if e.act.isEmpty then e.commit e.g
    else e.commit (e.g.modLanes e.lanes fun x => { x with block := some .tick, since := s.cycle })

/-- R301: where a thread's n is 0 it acts as YIELD, which ends the bundle's issue. -/
def execSleep (o : Ops) (m : BitVec 20) (s : State) : Out :=
  issue1 .all o (Instr.sleep o m).sig s fun e =>
    let n := fun l => if e.act.contains l then e.a l % 2 ^ 32 else 0
    let ls := if e.act.any fun l => n l == 0 then e.lanes else e.act
    e.commit (ls.foldl (fun g l =>
      g.modLane l fun x => { x with block := some (if n l = 0 then .tick else .sleep (s.cycle + n l)), since := s.cycle }) e.g)

/-- SLEEP_EXPIRY: the thread is ready once its cycles have passed. -/
def execSleepExpiry (gid l : Nat) (s : State) : Out :=
  match s.group? gid with
  | none => .next s
  | some g =>
    match (g.lane l).block with
    | some (.sleep t) =>
      if s.onCore g && decide (t ≤ s.cycle) then .next (s.setGroup gid (g.modLane l fun x => { x with block := none, ready := s.cycle }))
      else .next s
    | _ => .next s

/-! ### The set rule (R302) -/

/-- The lanes wait at the instruction as arrived lanes; a wait that has begun keeps its clock. -/
def Env.waitCross (e : Env) (i : Instr) : Out :=
  .next ((e.s.modGroup e.u.gid fun g =>
    g.modLanes e.lanes fun x =>
      if x.block = some (.cross i) then x else { x with block := some (.cross i), since := e.s.cycle }).retire e.u)

/-- The source by which an instruction of the set rule names its lanes, 0 A to 2 C. -/
def maskSource : Instr → Option Nat
  | .shfl _ _ => some 2
  | .vote _ _ | .ballot _ _ => some 0
  | .lscan _ _ | .lred _ _ | .matchL _ _ => some 1
  | _ => none

/-- Has every lane of a mask arrived: in the bundle, exited or never launched? -/
def Env.arrived (e : Env) (mask : W32) : Bool :=
  (lanesOf mask).all fun l => e.lanes.contains l || !(e.g.live l)

/-- The lanes' waits end as the instruction executes. -/
def Env.awake (e : Env) : Env := { e with g := e.g.modLanes e.lanes fun x => { x with block := none } }

/-- Run `k` when the set rule allows; it executes only for a bundle formed at this tick. -/
def Env.cross (e : Env) (i : Instr) (mask : W32) (k : Env → Out) : Out :=
  if e.u.fresh && (e.act.isEmpty || e.arrived mask) then k e.awake else e.waitCross i

/-- Lanes that contribute under a mask: in it, in the bundle, guard true. -/
def Env.contrib (e : Env) (mask : W32) : List Nat := e.act.filter fun l => hasLane mask l

/-- A vector result of each active lane. -/
def Env.putLanes (e : Env) (o : Ops) (f : Nat → Nat) : Out := e.commit (e.g.putVecs o 1 e.act f)

/-- SHFL (R303). -/
def execShfl (o : Ops) (m : BitVec 20) (s : State) : Out :=
  issue1 .all o (Instr.shfl o m).sig s fun e =>
    let mask := BitVec.ofNat 32 (e.c e.first)
    e.cross (.shfl o m) mask fun e =>
      let js := e.contrib mask
      e.putLanes o fun l =>
        let v := e.b l % 2 ^ 32
        let j : Int := match (m.extractLsb' 0 2).toNat with
          | 0 => (v % 32 : Nat)
          | 1 => (l : Int) - (v : Nat)
          | 2 => ((l + v : Nat) : Int)
          | _ => ((l ^^^ (v % 32) : Nat) : Int)
        if 0 ≤ j ∧ js.contains j.toNat then e.a j.toNat % 2 ^ 32 else 0

/-- c_j of VOTE and BALLOT (R304), for contributing lanes. -/
def Env.voteOf (e : Env) (m : BitVec 20) (j : Nat) : Bool :=
  (e.g.lane j).pred (m.extractLsb' 2 3).toNat != m.getLsbD 5

/-- VOTE (R304, Table 2). -/
def execVote (o : Ops) (m : BitVec 20) (s : State) : Out :=
  issue1 .all o (Instr.vote o m).sig s fun e =>
    let mask := BitVec.ofNat 32 (e.a e.first)
    e.cross (.vote o m) mask fun e =>
      let js := e.contrib mask
      let cs := (lanesOf mask).map fun j => js.contains j && e.voteOf m j
      let r := match (m.extractLsb' 0 2).toNat with
        | 0 => cs.any id
        | 1 => cs.all id
        | _ => cs.all id || cs.all not
      e.commit (e.act.foldl (fun g l => g.modLane l fun x => x.setPred o.dst.toNat r) e.g)

/-- BALLOT (R304). -/
def execBallot (o : Ops) (m : BitVec 20) (s : State) : Out :=
  issue1 .all o (Instr.ballot o m).sig s fun e =>
    let mask := BitVec.ofNat 32 (e.a e.first)
    e.cross (.ballot o m) mask fun e =>
      let r := (maskOf ((e.contrib mask).filter fun j => e.voteOf m j)).toNat
      e.putLanes o fun _ => r

/-- MATCH (R305). -/
def execMatchL (o : Ops) (m : BitVec 20) (s : State) : Out :=
  issue1 .all o (Instr.matchL o m).sig s fun e =>
    let mask := BitVec.ofNat 32 (e.b e.first)
    e.cross (.matchL o m) mask fun e =>
      let js := e.contrib mask
      e.putLanes o fun l => (maskOf (js.filter fun j => e.a j % 2 ^ 32 == e.a l % 2 ^ 32)).toNat

/-! ### Scans and reductions (R306) -/

/-- Table 3: one step. -/
def scanOp (fp : Bool) (op x y : Nat) : Res :=
  let sx := IntTy.s32.val x
  let sy := IntTy.s32.val y
  if fp then
    match op with
    | 0 => fAdd .f32 .rn false (FloatTy.f32.read x) (FloatTy.f32.read y)
    | 1 => fMinMax .f32 false x y
    | _ => fMinMax .f32 true x y
  else
    match op with
    | 0 => exact ((x + y) % 2 ^ 32)
    | 1 => exact (if sy < sx then y else x)
    | 2 => exact (if sx < sy then y else x)
    | 3 => exact (if y < x then y else x)
    | 4 => exact (if x < y then y else x)
    | 5 => exact (x &&& y)
    | 6 => exact (x ||| y)
    | _ => exact (x ^^^ y)

/-- Table 3: the result over no lanes. -/
def scanEmpty (fp : Bool) (op : Nat) : Nat :=
  if fp then (if op = 0 then 0 else 0x7FC00000)
  else match op with
    | 1 => 0x7FFFFFFF
    | 2 => 0x80000000
    | 3 | 5 => 0xFFFFFFFF
    | _ => 0

/-- Fold the values of the lanes in ascending order; a NaN in the first becomes the canonical NaN. -/
def scanFold (fp : Bool) (op : Nat) : List Nat → LaneOut
  | [] => { val := scanEmpty fp op }
  | x :: xs =>
    let v := FloatTy.f32.read x
    let r0 : Res := if fp && v.isNan then ⟨0x7FC00000, flagIf v.isSig fNV⟩ else exact x
    let r := xs.foldl (fun (r : Res) y => let t := scanOp fp op r.bits y; ⟨t.bits, r.flags ||| t.flags⟩) r0
    { val := r.bits, flags := r.flags }

/-- What LSCAN or LRED gives lane `l`: `js` the contributing lanes, `x` their values. -/
def scanLane (red : Bool) (m : BitVec 20) (js : List Nat) (x : Nat → Nat) (l : Nat) : LaneOut :=
  let excl := m.getLsbD 4
  scanFold (m.getLsbD 3) (m.extractLsb' 0 3).toNat
    ((js.filter fun j => red || if excl then decide (j < l) else decide (j ≤ l)).map fun j => x j % 2 ^ 32)

/-- Results of the active lanes. -/
def scanOuts (red : Bool) (m : BitVec 20) (act : List Nat) (mask : W32) (x : Nat → Nat) : List (Nat × LaneOut) :=
  act.map fun l => (l, scanLane red m (act.filter fun j => hasLane mask j) x l)

def Env.scan (e : Env) (i : Instr) (o : Ops) (red : Bool) (m : BitVec 20) : Out :=
  let mask := BitVec.ofNat 32 (e.b e.first)
  e.cross i mask fun e =>
    let x := aluOf i o .b32 fun _ _ _ _ => { val := 0 }
    e.commit (x.write e.act (scanOuts red m e.act mask e.a) e.g)

def execLscan (o : Ops) (m : BitVec 20) (s : State) : Out :=
  issue1 .all o (Instr.lscan o m).sig s fun e => e.scan (.lscan o m) o false m

def execLred (o : Ops) (m : BitVec 20) (s : State) : Out :=
  issue1 .all o (Instr.lred o m).sig s fun e => e.scan (.lred o m) o true m

end Sys2Proof.Machine
end

