-- ==== Sys2Proof/Machine/Clock.lean ====
section
/-! DEFINITION. Vector clocks (07 R181, R183, R190): the writes that each die has counted, the clocks that writes leave at
the bytes they wrote, and the writes on their way that an access must wait for. The model counts without bound; the
16-bit entries of 01 R21 are the low bits of its counts, which R181 keeps unambiguous.
What rests on the model rather than on the plain words of the manual: log 34 (DEDUCED), log 40 (DEDUCED), log 44 (DEDUCED).
-/

namespace Sys2Proof.Machine

/-! ### What a die counts -/

/-- Kinds that a die's clock counts as writes. -/
def ReqKind.writes : ReqKind → Bool
  | .read | .consume | .fence => false
  | _ => true

/-- Kinds that return what a home holds. -/
def ReqKind.reads : ReqKind → Bool
  | .read | .consume | .atom _ _ | .cas => true
  | _ => false

/-- A scope that reaches beyond the module (07 Table 3). -/
def farScope : Scope → Bool
  | .domain | .system => true
  | _ => false

/-- Two clocks merged, entry by entry. -/
def joinClock (a b : List Nat) : List Nat := (List.range 9).map fun e => max (a.getD e 0) (b.getD e 0)

/-- A die merges a clock into its own. -/
def State.learn (s : State) (d : Nat) (c : List Nat) : State :=
  { s with dieClock := (List.range 9).foldl (fun t e =>
      Tab.write 0 t (9 * d + e) (max (Tab.read 0 t (9 * d + e)) (c.getD e 0))) s.dieClock }

/-- The die whose clock an access carries: 8 the IOD, by which other modules' accesses come. -/
def Req.die (r : Req) : Nat := if r.remote.isSome then 8 else coreDie r.core

/-! ### What a write leaves at its bytes -/

/-- A range without another. -/
def cutRange (a n b m : Nat) : List (Nat × Nat) :=
  if rangesMeet a n b m then
    (if a < b then [(a, b - a)] else []) ++ (if b + m < a + n then [(b + m, a + n - (b + m))] else [])
  else [(a, n)]

/-- The clocks of the last writes of ranges, merged; the newest stamp stands first. -/
def readStamps : List Stamp → List (Nat × Nat) → List Nat
  | [], _ => []
  | t :: ts, rs =>
    if rs.any fun r => rangesMeet t.pa t.size r.1 r.2 then
      joinClock t.clock (readStamps ts (rs.flatMap fun r => cutRange r.1 r.2 t.pa t.size))
    else readStamps ts rs

/-- A registered control atom has one clock, of all the events that it tells of (12 R333). -/
def State.stampRange (s : State) (pa n : Nat) : Nat × Nat :=
  if (s.special? (pa / 32)).isSome then (pa / 32 * 32, 32) else (pa, n)

/-- The clock that a read of a range returns. -/
def State.clockAt (s : State) (pa n : Nat) : List Nat := readStamps s.homeClock [s.stampRange pa n]

/-- A clock is left at a range; a control atom gathers those of all its events. -/
def State.stampAt (s : State) (pa n : Nat) (c : List Nat) : State :=
  let r := s.stampRange pa n
  let c := if (s.special? (pa / 32)).isSome then joinClock c (s.clockAt pa n) else c
  s.leaveStamp r.1 (if n = 0 then 0 else r.2) c

/-- Write number `num` of die `d`, with clock `c`, has been applied at a range: memory homed elsewhere keeps no clock (07 R183). -/
def State.land (s : State) (pa n d num : Nat) (c : List Nat) : State :=
  if isLocal pa then (s.stampAt pa n c).noteOver pa n d num else s

/-- A write that die `d` makes at a home at once, without a request: it is counted, and its clock left. -/
def State.markWrite (s : State) (d pa n : Nat) : State :=
  let s := s.countWrite d
  s.land pa n d ((s.clockOf d).getD d 0) (s.clockOf d)

/-- The ring of a slot tells of an event at the slot (12 R333). -/
def State.stampRing (s : State) (line : Nat) (c : List Nat) : State :=
  match s.ringOfLine line with
  | some k => s.stampAt (32 * s.ringAtom k) 32 c
  | none => s

/-! ### Writes on their way -/

/-- Entries of the line that a table write changes, by address. -/
def TableWrite.entries (t : TableWrite) : List Nat := t.bytes.map fun b => b.1 / 8 * 8

/-- Does a held translation derive from an entry that the write changes? -/
def TableWrite.hits (t : TableWrite) (ents : List Nat) : Bool := ents.any fun e => t.entries.contains e

/-- Requests that wait at homes as table writes, those apart that wait for an access translated through `ents`: the home
serves that access ahead of them (13 R346). -/
def State.heldReqs (s : State) (ents : List Nat) : List Req :=
  s.tableWrites.filterMap fun t => match t.who with | .core r => if t.hits ents then none else some r | _ => none

/-- Is the write numbered at or before a clock's entry for its die? -/
def Req.within (w : Req) (c : List Nat) : Bool := w.kind.writes && isLocal w.pa && decide (w.num ≤ c.getD w.die 0)

/-- Do the home of `pa` and that of `w` order them? A write to a table line is awaited at every home (13 Table 6). -/
def State.meetsAt (s : State) (w : Req) (pa : Nat) : Bool :=
  isLocal pa && (s.home w.pa == s.home pa || s.isTableLine w.pa || s.lineHeld w.pa)

/-- Does a clock tell of a write made without a request that is held as a table write, those apart that wait for an access
translated through `ents`? Every home awaits it (13 Table 6). -/
def State.heldTells (s : State) (c : List Nat) (ents : List Nat) : Bool :=
  s.tableWrites.any fun t =>
    (match t.who with | .core _ => false | _ => true) && !t.hits ents && decide (t.num ≤ c.getD t.die 0)

/-- Must an access to `pa` that carries the clock of die `d` wait for writes on their way? -/
def State.clockWaits (s : State) (d pa : Nat) : Bool :=
  isLocal pa && s.heldTells (s.clockOf d) [] || (s.heldReqs [] ++ s.fabric).any fun w => w.within (s.clockOf d) && s.meetsAt w pa

/-- Is some write that a clock tells of still on its way to a home of the module? -/
def State.tellsOf (s : State) (c : List Nat) : Bool := s.heldTells c [] || (s.heldReqs [] ++ s.fabric).any fun w => w.within c

/-- Is a write to a table entry on its way to its home? No translation derives from the entry until it has taken its place there
(log 44). -/
def State.entryWrites (s : State) (ents : List Nat) : Bool :=
  s.fabric.any fun r => r.kind.writes && ents.any fun e => rangesMeet r.pa r.size e 8

end Sys2Proof.Machine
end

