-- ==== Sys2Proof/Machine/Translate.lean ====
section
/-! DEFINITION. Translation (13_translation): page walks (R336 to R341), the translations that dies hold (R343, R344),
the alias detector (R356), the uses of frames a walk makes (14 R372), and misses (R353, R354).
What rests on the model rather than on the plain words of the manual: log 43 (DESIGN CHOICE), log 44 (DEDUCED). -/

namespace Sys2Proof.Machine

/-! ### Page-table entries (R337, R338) -/

def entryV (e : Nat) : Bool := bitsOf e 0 1 == 1
def entryLeaf (e : Nat) : Bool := bitsOf e 1 1 == 1 || bitsOf e 3 1 == 1
/-- V clear and RSW 0b10: remote-marked (R341). -/
def entryRemote (e : Nat) : Bool := !entryV e && bitsOf e 8 2 == 2

/-- Malformed entries of R338. -/
def malformed (e lvl : Nat) : Bool :=
  let leaf := entryLeaf e
  let ppn := bitsOf e 10 44
  bitsOf e 54 9 != 0 ||
  (bitsOf e 63 1 == 1 && !(lvl == 0 && leaf && ppn % 16 == 8)) ||
  (bitsOf e 2 1 == 1 && bitsOf e 1 1 == 0) ||
  (if leaf then decide (3 ≤ lvl) || (lvl == 1 && ppn % 2 ^ 9 != 0) || (lvl == 2 && ppn % 2 ^ 18 != 0)
   else lvl == 0 || bitsOf e 4 1 == 1 || bitsOf e 6 1 == 1 || bitsOf e 7 1 == 1)

/-- Bits of page offset of a leaf. -/
def leafBits (e lvl : Nat) : Nat := if lvl = 0 then (if bitsOf e 63 1 = 1 then 16 else 12) else 12 + 9 * lvl

/-- The physical address that a leaf with `n` bits of offset gives a virtual address. -/
def leafPa (e n va : Nat) : Nat := bitsOf e 10 44 * 4096 / 2 ^ n * 2 ^ n + va % 2 ^ n

/-! ### Walks -/

/-- What a walk ends in. -/
inductive WalkEnd
  | leaf (lvl e epa : Nat)
  /-- V = 0: remote-marked or invalid -/
  | miss (lvl e epa : Nat)
  | prot (detail : Nat)
  /-- a table line in a frame the context may not use -/
  | foreign (epa : Nat)
  | poison (epa : Nat)
  /-- the read of an entry must wait -/
  | held (epa : Nat)
  deriving DecidableEq, Repr

/-- A walk: its end, and the entries read, the last one first: level, address, value. -/
structure WalkOut where
  fin : WalkEnd
  reads : List (Nat × Nat × Nat)
  deriving DecidableEq, Repr

/-- Must a read of an entry by die `d` wait: behind a table write (R346), for the answer to a host's snoop (R350), for
writes that the die's clock tells of (07 R181) or that are on their way to it, or for a host's writable copy (07 R178)? -/
def State.readWaits (s : State) (d pa : Nat) : Bool :=
  s.lineHeld pa || s.snoops.contains (pa / 64) || s.clockWaits (min d 8) pa || s.entryWrites [pa] || s.hostWaits false pa 8

/-- Why a table entry cannot be read by die `d`; `use` applies the frame check of 14 R372. -/
def State.entryBar (s : State) (d c epa : Nat) (host use : Bool) : Option WalkEnd :=
  if s.readWaits d epa then some (.held epa)
  else
    match host, s.home epa with
    | false, .hbm _ =>
      if use && !s.mayUse c epa then some (.foreign epa)
      else if s.isCounted epa then some (.prot 6)
      else if s.poisonedAt epa then some (.poison epa)
      else none
    | false, _ => some (.prot 4)
    | true, .cxl _ => if s.poisonedAt epa then some (.poison epa) else none
    | true, _ => some (.prot 5)

/-- The walk from level `lvl` with the table at `a`. -/
def State.walkFrom (s : State) (d c va : Nat) (host use : Bool) : Nat → Nat → List (Nat × Nat × Nat) → WalkOut
  | lvl, a, reads =>
    let epa := (a + bitsOf va (12 + 9 * lvl) 9 * 8) % 2 ^ 56
    match s.entryBar d c epa host use with
    | some w => ⟨w, reads⟩
    | none =>
      let e := leNat (s.homeRead epa 8)
      let reads := (lvl, epa, e) :: reads
      if !entryV e then ⟨.miss lvl e epa, reads⟩
      else if malformed e lvl then ⟨.prot 3, reads⟩
      else if entryLeaf e then ⟨.leaf lvl e epa, reads⟩
      else
        match lvl with
        | 0 => ⟨.prot 3, reads⟩
        | l + 1 => s.walkFrom d c va host use l (bitsOf e 10 44 * 4096) reads

def State.croot (s : State) (c : Nat) : Nat := (s.descW c 8).toNat
/-- CROOT.MODE is Sv57 (Table 2). -/
def State.sv57 (s : State) (c : Nat) : Bool := bitsOf (s.croot c) 60 4 == 10

/-- R338, by die `d`; R339 detail 7 where MODE is not 0xA. -/
def State.walk (s : State) (d c : Nat) (va : W64) (use : Bool) : WalkOut :=
  if s.sv57 c then
    s.walkFrom d c va.toNat (bitsOf (s.croot c) 59 1 == 1) use 4 (bitsOf (s.croot c) 0 44 * 4096) []
  else ⟨.prot 7, []⟩

/-! ### Effects of a walk that caches -/

/-- The directory names a sharer for a line (R344): dies 0 to 7, 8 the Gleaner, 9 the stewards. -/
def State.register (s : State) (sharer : Nat) (epa : Nat) : State :=
  let l := Tab.read [] s.dir (epa / 128)
  if l.contains sharer then s else { s with dir := Tab.write [] s.dir (epa / 128) (l ++ [sharer]) }

/-- The clock of an entry that a walk has read goes to the walker's die: the IOD for the Gleaner and the stewards. -/
def State.learnEntry (s : State) (d epa : Nat) : State := s.learn (min d 8) (s.clockAt epa 8)

/-- ReadAndRegister (R344): the walker's sharer is named, the clock of the entry goes to its die (R351), and a host-table line is
held SHARED through CXL.cache. -/
def State.readEntry (s : State) (sharer epa : Nat) : State :=
  let s := (s.register sharer epa).learnEntry sharer epa
  if isLocal epa ∨ Tab.has s.cxlLines (epa / 64) then s else { s with cxlLines := Tab.set s.cxlLines (epa / 64) .shared }

/-- Store a page-table entry's A or D bit (R340): no table write. No host has a copy of the entry, and a host-table line is held
OWNED for it. -/
def State.setEntry (s : State) (epa e : Nat) : State :=
  let s := if isLocal epa then s else { s with cxlLines := Tab.set s.cxlLines (epa / 64) .owned }
  s.poke epa (leBytes 8 e)

/-- The alias detector at one frame (R356). -/
def State.alias1 (s : State) (c : Nat) (va : W64) (untrk : Bool) (f : Nat) : State :=
  if !isLocal (f * 65536) then s
  else
    let b := (Tab.read 0 s.aliasBits f) ||| (if untrk then 2 else 1)
    if b = 3 then
      { s with aliasBits := Tab.write 0 s.aliasBits f 7 }.postSys
        (recordOf [(192, 64, va.toNat), (136, 56, f * 65536), (30, 10, c), (8, 1, if untrk then 1 else 0), (0, 8, 0x20)])
    else { s with aliasBits := Tab.write 0 s.aliasBits f b }

/-- Frames that a leaf covers. -/
def leafFrames (e n : Nat) : List Nat :=
  let f := leafPa e n 0 / 65536
  (List.range (2 ^ (n - 16))).map fun i => f + i

/-- A die holds a translation. Table 5 gives the L2 TLB 8192 entries and no order of replacement: that the oldest goes is
the model's choice (DESIGN CHOICE, log 43). -/
def State.addTlb (s : State) (t : Tlb) : State :=
  let l := t :: s.tlb
  if (l.filter fun x => x.die == t.die).length ≤ 8192 then { s with tlb := l }
  else
    match (l.filter fun x => x.die == t.die).getLast? with
    | some old => { s with tlb := l.erase old }
    | none => { s with tlb := l }

/-- A leaf is cached: A is set, the alias detector sees it. -/
def State.cacheLeaf (s : State) (die c : Nat) (va : W64) (lvl e epa : Nat) (ents : List Nat) : State × Tlb :=
  let n := leafBits e lvl
  let e' := setBitsOf e 6 1 1
  let s := if e' = e then s else s.setEntry epa e'
  let s := (leafFrames e n).foldl (fun s f => s.alias1 c va (bitsOf e 8 1 == 1) f) s
  let t : Tlb := ⟨die, c, va.toNat % 2 ^ 57 / 2 ^ n, n, BitVec.ofNat 64 e', ents⟩
  (s.addTlb t, t)

/-- The translation that a die holds for an address. -/
def State.lookup (s : State) (die c : Nat) (va : W64) : Option Tlb :=
  s.tlb.find? fun t => t.die == die && t.ctx == c && va.toNat % 2 ^ 57 / 2 ^ t.bits == t.vpn

/-! ### Translating an access -/

/-- What a translation answers. -/
inductive Tr
  | ok (pa leaf : Nat) (ents : List Nat)
  | miss (lvl e epa : Nat)
  | prot (detail : Nat)
  /-- wait for a held table line -/
  | wait
  /-- the context has been frozen or lost -/
  | stop
  deriving DecidableEq, Repr

/-- R339. -/
def leafAllows (e : Nat) : AccKind → Bool
  | .read => bitsOf e 1 1 == 1
  | .write => bitsOf e 2 1 == 1
  | .fetch => bitsOf e 3 1 == 1
  | .both => bitsOf e 1 1 == 1 && bitsOf e 2 1 == 1

/-- Who translates, for records: SRC of a freeze record, core, PC. `busy`: the thread has reads on their way, which a walk of its
comes after in po (R351). -/
structure Asker where
  die : Nat
  ctx : Nat
  src : Nat
  core : Nat
  pc : W64
  busy : Bool
  deriving DecidableEq, Repr

/-- The answer of a held translation. -/
def Tlb.answer (t : Tlb) (va : W64) (k : AccKind) : Tr :=
  let e := t.leaf.toNat
  if bitsOf e 4 1 = 0 then .prot 2
  else if leafAllows e k then .ok (leafPa e t.bits va.toNat) e t.ents
  else .prot 1

/-- Translate one address (R338 to R340, 14 R372). A translation from an entry that a write is on its way to, or held at, is used
no more (log 44); while the flush for a new CROOT goes on nothing is translated (14 R365); and a walk waits for the thread's
earlier reads (R351), as the setting of A does for a host's copy of the entry (07 R178). -/
def State.translate (s : State) (q : Asker) (va : W64) (k : AccKind) : State × Tr :=
  if Tab.has s.rootPend q.ctx then (s, .wait) else
  match s.lookup q.die q.ctx va with
  | some t => if (s.tableWrites.any fun w => w.hits t.ents) || s.entryWrites t.ents then (s, .wait) else (s, t.answer va k)
  | none =>
    if q.busy then (s, .wait) else
    let w := s.walk q.die q.ctx va true
    let s := w.reads.foldl (fun s r => s.readEntry q.die r.2.1) s
    match w.fin with
    | .leaf lvl e epa =>
      let n := leafBits e lvl
      match (leafFrames e n).find? fun f => !s.mayUse q.ctx (f * 65536) with
      | some f => (s.freeze q.ctx 2 q.src q.core va (f * 65536) q.pc true, .stop)
      | none =>
        if bitsOf e 6 1 = 0 && s.hostWaits true epa 8 then (s.ask true epa 8, .wait)
        else
          let r := s.cacheLeaf q.die q.ctx va lvl e epa (w.reads.map fun x => x.2.1)
          (r.1, r.2.answer va k)
    | .miss lvl e epa => (s, .miss lvl e epa)
    | .prot d => (s, .prot d)
    | .foreign epa => (s.freeze q.ctx 3 q.src q.core va epa q.pc true, .stop)
    | .poison epa => ((s.reportBad epa 0).lose q.ctx 3 q.core va epa, .stop)
    | .held epa => (s.ask false epa 8, .wait)

/-- A write sets D before it uses a translation cached with D = 0; none where it must wait and walk again (R340). -/
def State.setDirtyBit (s : State) (q : Asker) (va : W64) : Option State :=
  match s.lookup q.die q.ctx va with
  | none => none
  | some t =>
    if bitsOf t.leaf.toNat 7 1 = 1 then some s
    else
      let epa := t.ents.headD 0
      if s.lineHeld epa || s.hostWaits true epa 8 then none
      else if leNat (s.homeRead epa 8) = t.leaf.toNat then
        let e := setBitsOf t.leaf.toNat 7 1 1
        some { s.setEntry epa e with tlb := s.tlb.map fun x => if x = t then { t with leaf := BitVec.ofNat 64 e } else x }
      else none

/-- D cannot be set for an access: the recall that it waits for is sent, or the entry has changed and the translation is dropped,
so that the access walks again (R340). -/
def State.dropTlb (s : State) (q : Asker) (va : W64) : State :=
  match s.lookup q.die q.ctx va with
  | none => s
  | some t =>
    let epa := t.ents.headD 0
    if bitsOf t.leaf.toNat 7 1 = 1 || s.lineHeld epa then s
    else if s.hostWaits true epa 8 then s.ask true epa 8
    else if leNat (s.homeRead epa 8) = t.leaf.toNat then s
    else { s with tlb := s.tlb.erase t }

/-! ### Misses (R353, R354) -/

/-- Page number, 64 KiB pages, of an address. -/
def pageOf (va : W64) : Nat := va.toNat % 2 ^ 57 / 65536

def AccKind.code : AccKind → Nat
  | .read => 0
  | .write => 1
  | .fetch => 2
  | .both => 3

/-- HINT of an entry (R341, Table 10). -/
def hintOf (e : Nat) : Nat := bitsOf e 10 54 * 128 + bitsOf e 1 7

/-- WKIND, CORE, SLOT and NIDX of a waiter. -/
def State.waiterFields (s : State) : Waiter → Nat × Nat × Nat × Nat
  | .group g _ _ => match s.group? g with | some x => (0, x.core, x.slot, 0) | none => (0, 0, 0, 0)
  | .node core slot ix =>
    let len := match Tab.get? s.furrows (16 * core + slot) with | some f => f.len | none => 1
    (1, core, slot, ix % len)
  | .queue q => (2, 0, 0, q)

/-- Table 10. -/
def State.faultRecord (s : State) (m : MissArg) (ring : Bool) (ix : Nat) : BitVec 256 :=
  let w := s.waiterFields m.waiter
  let e := m.entry.toNat
  let remote := entryRemote e
  recordOf [(192, 64, m.va.toNat), (136, 56, m.epa), (128, 3, m.level), (67, 61, if remote then hintOf e else 0),
    (66, 1, if ring then 1 else 0), (64, 2, AccKind.code m.acc), (54, 10, m.ctx), (45, 9, ix), (42, 3, m.die),
    (32, 10, w.2.1), (30, 2, w.1), (24, 6, w.2.2.1), (12, 12, w.2.2.2), (0, 8, if remote then 0x10 else 0x11)]

/-- FR_LOG2, FR_WIDX, FR_RIDX of a context. -/
def State.frLog (s : State) (c : Nat) : Nat := ringLog (s.field c 1 416 5) 16
def State.frWidx (s : State) (c : Nat) : Nat := s.field c 1 384 32
def State.frRidx (s : State) (c : Nat) : Nat := s.field c 1 352 32
/-- The index of the next record: those written, and those that wait to be performed. -/
def State.frNext (s : State) (c : Nat) : Nat := s.frWidx c + s.pendRecords c 1
def State.frSlot (s : State) (c i : Nat) : Nat :=
  let lg := s.frLog c
  s.field c 1 448 64 / 2 ^ (5 + lg) * 2 ^ (5 + lg) + 32 * (i % 2 ^ lg)
def State.frSpace (s : State) (c : Nat) : Bool :=
  s.frLog c != 0 && decide ((s.frNext c + 2 ^ 32 - s.frRidx c) % 2 ^ 32 < 2 ^ s.frLog c)

/-- The lowest free entry of a die's fault merge table. -/
def State.freeFmt (s : State) (die : Nat) : Option Nat :=
  (List.range 512).find? fun i => !s.fmt.any fun e => e.die == die && e.ix == i

/-- Present a miss (R353). `since`: when its waiter first presented it. -/
def State.present (s : State) (m : MissArg) (since : Nat) : State :=
  let page := pageOf m.va
  let w : WaiterRec := ⟨m, since⟩
  let at? := s.fmt.find? fun e => e.die == m.die && e.ctx == m.ctx && e.page == page
  let ring : State :=
    if s.frSpace m.ctx then
      let a := s.frSlot m.ctx (s.frNext m.ctx)
      if s.structOk m.ctx a then
        { s.writeRecord 8 m.ctx 1 a (leBytes 32 (s.faultRecord m true 0).toNat) with ringWait := s.ringWait ++ [⟨m, since, 0, false⟩] }
      else s.freeze m.ctx 4 3 0x3FF 0 a 0 true
    else
      let n := s.field m.ctx 1 320 32
      let s := if n = 2 ^ 32 - 1 then s else s.setField m.ctx 1 320 32 (n + 1)
      { s with represent := s.represent ++ [⟨m, since, s.gtime + 1000, false⟩] }
  match at? with
  | some e =>
    if e.waiters.length < 64 then
      { s with fmt := s.fmt.map fun x => if x = e then { e with waiters := e.waiters ++ [w] } else x }
    else ring
  | none =>
    match s.freeFmt m.die with
    | some ix =>
      { s with fmt := s.fmt ++ [⟨m.die, ix, m.ctx, page, [w], false⟩],
               faultIn := s.faultIn ++ [s.faultRecord m false ix] }
    | none => ring

end Sys2Proof.Machine
end

