-- ==== Sys2Proof/Machine/Fabric.lean ====
section
/-! DEFINITION. Accesses on their way to their homes: the clocks they carry and the order in which a home serves
(07 R180 to R187, R204), what each kind of access does there (07 R192 to R198; 08 R219, R220, R227), table writes
(13 R345, R346), and the arrival of long-latency results (02 R44).
What rests on the model rather than on the plain words of the manual: log 13 (DEDUCED), log 40 (DEDUCED), log 45 (DEDUCED).
-/

namespace Sys2Proof.Machine

/-! ### Sending (07 R181) -/

/-- Send an access: a write takes the next number of its die, and every access carries the die's clock, a write that a node has
held back the one of the moment at which it was held. -/
def State.sendReq (s : State) (r : Req) : State :=
  let s := if r.kind.writes then s.countWrite r.die else s
  { s with fabric := s.fabric ++ [{ r with
      num := Tab.read 0 s.dieClock (9 * r.die + r.die), clock := if r.clock.isEmpty then s.clockOf r.die else r.clock }] }

/-- Does a die lead so far that it sends no further write (07 R181)? -/
def State.mayWrite (s : State) (d n : Nat) : Bool :=
  decide ((s.fabric.filter fun r => r.kind.writes && r.die == d).length + n < 2 ^ 15)

/-! ### When a home may serve an access -/

/-- Do two accesses have a thread in common? -/
def Req.sameThread (a b : Req) : Bool := a.gid == b.gid && (a.lanes &&& b.lanes) != 0

def Req.overlaps (a b : Req) : Bool := rangesMeet a.pa a.size b.pa b.size

def isAcq : MemOrd → Bool
  | .acq | .ar => true
  | _ => false
def isRel : MemOrd → Bool
  | .rel | .ar => true
  | _ => false

/-- Does what an access orders at its scope cover an access to `pa`: memory homed elsewhere from DOMAIN up (07 R182, R183)? -/
def Req.spans (o : Req) (pa : Nat) : Bool := farScope o.scope || isLocal pa

/-- Where a request acts: its address, and for a fill with RING the slot it takes (08 R227). -/
def State.targets (s : State) (r : Req) : List (Nat × Nat) :=
  match r.kind with
  | .ringFill _ =>
    match s.ringOfAtom (r.pa / 32) with
    | some k => [(r.pa, r.size), (128 * (s.ringFirst k + (Tab.read (0, 0, 0, 0) s.ring k).1), 128)]
    | none => [(r.pa, r.size)]
  | _ => [(r.pa, r.size)]

/-- Must access `r` wait for write `w` by the clocks? -/
def State.clockBlocks (s : State) (w r : Req) : Bool :=
  w != r && w.within r.clock && (s.targets r).any fun t => s.meetsAt w t.1

/-- Must `r` wait for `w`, sent before it by a thread of `r` (07 R180, R185, R186)? A read is performed, at every scope, once its value
is fixed (R184). -/
def earlierBlocks (w r : Req) : Bool :=
  w.sameThread r &&
  (w.overlaps r ||
   (isAcq w.ord && w.spans w.pa && w.spans r.pa) || (isRel r.ord && (w.kind.reads || (r.spans w.pa && r.spans r.pa))) ||
   (r.kind == .fence && (w.kind.reads || r.spans w.pa)) || (w.kind == .fence && r.kind.writes && w.spans r.pa) ||
   (w.kind.reads && isLocal w.pa && isLocal r.pa))

/-- A plain read of another place orders a later plain read only through what it learns: the later one may look at its home
first (07 Table 9, IRIW), and looks again where that shows too little (log 45). -/
def softBlocks (w r : Req) : Bool := w.kind == .read && r.kind == .read && !w.overlaps r && !isAcq w.ord

/-- Atomics and releases of one instruction on one location go lane by lane (08 R219), and the writes of one node to one
location in its own element order (07 R187). -/
def laneBlocks (w r : Req) : Bool :=
  w.overlaps r && ((w.tag == r.tag && w.kind != .read && w.kind != .write && w.kind != .consume) || (w.node.isSome && w.node == r.node))

/-- Host copies that must be recalled first (07 R178). -/
def State.hostBlocks (s : State) (r : Req) : Bool :=
  (s.targets r).any fun t => s.hostWaits (r.kind != .read && r.kind != .consume) t.1 (max 1 t.2)

/-- A held table line serves only what was sent before the held write took its place, and accesses that the write waits for
(13 R346). -/
def State.lineBlocks (s : State) (r : Req) : Bool :=
  (s.targets r).any fun x => s.tableWrites.any fun t => t.line == x.1 / 128 && decide (t.id < r.tag) && !t.hits r.ents

/-- A release or a fence whose scope reaches beyond the module waits for every write of the module that its clock tells of,
so that what it orders at the far home needs no clock there (07 R183, R185). -/
def State.farBlocks (s : State) (r : Req) : Bool :=
  farScope r.scope && (isRel r.ord || r.kind == .fence) &&
  (s.heldTells r.clock [] || (s.heldReqs [] ++ s.fabric).any fun w => w != r && w.within r.clock)

/-- Requests that a home serves together: writes of one instruction to the same bytes, adjacent in co in lane order (08 R215), and
consuming reads of one instruction of one line (07 R194). -/
def State.mates (s : State) (r : Req) : List Req :=
  match r.kind with
  | .write => s.fabric.filter fun x => x.tag == r.tag && x.kind == .write && x.pa == r.pa
  | .consume => s.fabric.filter fun x => x.tag == r.tag && x.kind == .consume && x.pa / 128 == r.pa / 128
  | _ => [r]

/-- Requests without those that are served together with `r`. -/
def State.others (s : State) (r : Req) (l : List Req) : List Req :=
  let ms := s.mates r
  l.filter fun w => !ms.contains w

/-- May the home look at request `i`, reads of other places apart that its threads sent before it? -/
def State.ready (s : State) (i : Nat) : Bool :=
  match s.fabric[i]? with
  | none => false
  | some r =>
    let held := s.heldReqs r.ents
    !((held ++ s.others r (s.fabric.take i)).any fun w => (earlierBlocks w r && !softBlocks w r) || laneBlocks w r) && !s.farBlocks r &&
    (r.kind == .fence ||
      (!(s.heldTells r.clock r.ents && isLocal r.pa) && !((held ++ s.others r s.fabric).any fun w => s.clockBlocks w r) &&
        !s.hostBlocks r && !s.lineBlocks r))

/-- Has the turn of request `i` come? -/
def State.turn (s : State) (i : Nat) : Bool :=
  s.ready i && match s.fabric[i]? with
    | none => false
    | some r => !((s.others r (s.fabric.take i)).any fun w => earlierBlocks w r)

/-- May the home serve request `i`, and with it its mates, whose turns have come too? -/
def State.servable (s : State) (i : Nat) : Bool :=
  s.turn i && match s.fabric[i]? with
    | none => false
    | some r => (List.range s.fabric.length).all fun j => s.turn j || (s.fabric[j]?).all fun x => !(s.mates r).contains x

/-! ### Values -/

/-- A loaded value of 32 bits or fewer (08 R211). -/
def extendSz (z : Sz) (x : Nat) : Nat :=
  match z with
  | .s8 => (sext64 8 x).toNat % 2 ^ 32
  | .s16 => (sext64 16 x).toNat % 2 ^ 32
  | .n8 => x % 2 ^ 8
  | .n16 => x % 2 ^ 16
  | _ => x

/-- The value for a scalar destination: bits 63:32 copy bit 31 for S8 and S16. -/
def scalarSz (z : Sz) (x : Nat) : W64 :=
  match z with
  | .s8 => sext64 8 x
  | .s16 => sext64 16 x
  | _ => BitVec.ofNat 64 (extendSz z x)

/-- Which register gets which part of a value; the lowest part goes to the first register. -/
def writesOf (z : Sz) (x : Nat) : List DReg → List (DReg × W64)
  | [] => []
  | .scal r :: ds => (.scal r, scalarSz z x) :: writesOf z (x / 2 ^ 64) ds
  | d :: ds => (d, BitVec.ofNat 64 (extendSz z x % 2 ^ 32)) :: writesOf z (x / 2 ^ 32) ds

/-- New value of an atomic (08 Table 3). -/
def atomNew (op n : Nat) (old b : Nat) : Nat :=
  let w := 8 * n
  let sg := fun x => (x : Int) - (if x < 2 ^ (w - 1) then 0 else (2 ^ w : Nat))
  match op with
  | 0 => (old + b) % 2 ^ w
  | 1 => if sg b < sg old then b else old
  | 2 => if sg old < sg b then b else old
  | 3 => if b < old then b else old
  | 4 => if old < b then b else old
  | 5 => old &&& b
  | 6 => old ||| b
  | 7 => old ^^^ b
  | 8 => b
  | _ =>
    let t : FloatTy := if n = 8 then .f64 else .f32
    (fAdd t .rn false (t.read old) (t.read b)).bits

/-- A result sets out for its registers. -/
def State.reply (s : State) (r : Req) (x : Nat) : State :=
  match r.dests with
  | [] => s
  | ds => { s with results := s.results ++ [⟨r.gid, writesOf r.sz x ds, true⟩] }

/-! ### Counted fills (07 R193) -/

/-- MSC slice and set of a line: 8192 sets in each channel's slice (log 13). -/
def mscSet (line : Nat) : Nat × Nat :=
  let pa := line * 128
  ((pa / 2 ^ 12 % 1024).xor (pa / 2 ^ 32 % 1024), (pa / 2 ^ 22 * 32 + pa % 4096 / 128) % 8192)

/-- Table 5, in the order 7, 4, 3, 1, 2; `ring`: the slot is taken under RING. -/
def State.fillStatus (s : State) (c line : Nat) (ring : Bool) : Nat :=
  let p := s.partOf c
  let held := (s.counted.filter fun e => s.partOf e.2.1 == p).length
  if !ring && (List.range 4).any (fun i => (s.special? (4 * line + i)).isSome) then 7
  else if !isHbm (line * 128) then 4
  else if s.isCounted (line * 128) then 3
  else if s.clHeld c + 1 > s.clQuota c ∨ (held + 1) * 128 > s.partField p 32 12 * 2 ^ 24 then 1
  else if (s.counted.filter fun e => mscSet e.1 == mscSet line).length ≥ 12 then 2
  else 0

/-- The line takes the data; `bad` lists its poisoned atoms, counted from 0. -/
def State.fillLine (s : State) (c line count : Nat) (data : List Byte) (bad : List Nat) : State :=
  let s := { s with
    counted := Tab.set s.counted line (c, count)
    countedData := Memory.setBytes (Memory.zero s.countedData (128 * line) 128) (128 * line) data
    poison := bad.map (fun i => 4 * line + i + 2 ^ 60) ++ s.poison }
  let s := s.setClHeld c (s.clHeld c + 1)
  match s.ringOfLine line with
  | none => s
  | some k => s.modRing k fun v => (v.1, v.2.1 - 1, (v.2.2.1 + 1) % 2 ^ 32, v.2.2.2)

/-- A counted fill: the status. One into a retired frame is a write that is discarded (17 R434). -/
def State.countedFill (s : State) (c line count : Nat) (data : List Byte) (bad : List Nat) (ring : Bool) : State × Nat :=
  let st := s.fillStatus c line ring
  if st = 0 ∧ s.retiredAt (128 * line) = false then (s.fillLine c line count data bad, 0) else (s, st)

/-- A counted fill with RING (08 R227). -/
def State.ringFill (s : State) (c pa count : Nat) (data : List Byte) (bad : List Nat) : State × Nat :=
  match s.ringOfAtom (pa / 32) with
  | none => (s, 6)
  | some k =>
    let v := Tab.read (0, 0, 0, 0) s.ring k
    if v.2.1 = 0 then (s, 5)
    else
      let r := s.countedFill c (s.ringFirst k + v.1) count data bad true
      if r.2 = 0 ∧ s.retiredAt (128 * (s.ringFirst k + v.1)) = false then
        (r.1.modRing k fun x => ((v.1 + 1) % s.ringLines k, x.2), v.1 * 2 ^ 16)
      else r

/-- A release (07 R196) by `c`: 0, or 1 where the line is not counted by it. -/
def State.releaseLine (s : State) (c line src core : Nat) (va pc : W64) : State × Nat :=
  match Tab.get? s.counted line with
  | some (o, n) =>
    if o = c then
      let s := s.dropLine line true
      (if n = 0 then s else s.postRead o 2 src core n va (128 * line) pc, 0)
    else (s, 1)
  | none => (s, 1)

/-- One decrement of a counted line; at zero it goes fallow (07 R194). -/
def State.decLine (s : State) (line : Nat) : State :=
  match Tab.get? s.counted line with
  | none => s
  | some (o, n) => if n ≤ 1 then s.dropLine line true else { s with counted := Tab.set s.counted line (o, n - 1) }

/-! ### Serving -/

/-- A status returns to the node that sent the fill or release (08 R248, R249): a refused fill ends the node's fills. -/
def Node.reply (n : Node) (status : Nat) : Node :=
  if n.kind = 4 then
    if status = 0 then { n with res := n.res + 1, fin := { n.fin with w3 := some (BitVec.ofNat 64 (n.res + 1)) } }
    else { n with buf := [], fin := { n.fin with status := 9, w3 := some (BitVec.ofNat 64 (n.res + 256 * status)) } }
  else
    let x := n.res + status
    { n with res := x, fin := { n.fin with w3 := some (BitVec.ofNat 64 x) } }

def Furrow.modNode (f : Furrow) (ix : Nat) (g : Node → Node) : Furrow :=
  { f with nodes := f.nodes.map fun n => if n.ix = ix then g n else n }

def State.modNode (s : State) (k ix : Nat) (g : Node → Node) : State :=
  { s with furrows := Tab.modify s.furrows k fun f => f.modNode ix g }

def State.nodeReply (s : State) (r : Req) (status : Nat) : State :=
  match r.node with
  | some (k, ix) => s.modNode k ix fun n => n.reply status
  | none => s

/-- Consumption of poison by a core access (17 R432): the context is lost. Poison that another module's atomic finds
goes back to that module. -/
def State.loseReq (s : State) (r : Req) : State :=
  if r.remote.isSome then s.reportBad r.pa 0 else (s.reportBad r.pa 0).lose r.ctx 1 r.core r.va r.pa

/-! ### Strikes of engine writes (17 R452, R454) -/

/-- Path class of a node kind (07 Table 4); none for a kind on no path. -/
def nodeClass : Nat → Option Nat
  | 0 | 2 | 4 | 5 | 9 | 10 => some 1
  | 1 => some 2
  | 3 => some 3
  | 6 => some 5
  | 7 => some 4
  | _ => none

/-- WHO of an engine strike (17 Table 7). -/
def Furrow.who (f : Furrow) (k : Nat) (n : Node) : W64 :=
  BitVec.ofNat 64 (ofFields [(16, 3, (nodeClass n.kind).getD 0), (12, 4, k % 16), (0, 12, n.ix % f.len)])

/-- Strikes of engine writes: a record for each watchpoint, and a trap to come for the group (R454). -/
def State.engineStrike (s : State) (c core gid : Nat) (who : W64) (ws : List Write) : State :=
  match s.strikes c 1 ws with
  | [] => s
  | k :: ks =>
    let r := s.watchRecord c 1 core who k
    let a := sext64 57 (s.descW c (33 + 2 * k.1)).toNat
    let s := (k :: ks).foldl (fun s x => s.strike c 1 core who x) s
    -- the furrow that wrote pauses, if the group has not ended
    let live := (s.group? gid).any fun g => !g.ended
    let s := if live then { s with furrows := Tab.modify s.furrows (16 * core + bitsOf who.toNat 12 4) fun f =>
        if who ≠ 0 ∧ f.gid = gid then { f with paused := true } else f } else s
    s.modGroup gid fun g =>
      if g.ended then g else { g with watch := g.watch ++ [⟨0x1E, k.1, 0, 0, a, r.setWidth 64, 0⟩] }

/-- A fill of a node has been accepted: its line is matched with the watchpoints (17 R452; 18 R457). -/
def State.strikeFill (s : State) (r : Req) : State :=
  match r.node with
  | none => s
  | some (k, ix) =>
    match Tab.get? s.furrows k with
    | none => s
    | some f =>
      match f.nodes.find? fun n => n.ix == ix with
      | some n => s.engineStrike r.ctx r.core f.gid (f.who k n) [⟨0, r.va, r.pa, 128⟩]
      | none => s

/-! ### Remote atomics (17 R452, R455) -/

/-- The armed comparator `n` of context `c` at a home: the physical address of its granule. -/
def State.comparator (s : State) (c n : Nat) : Option Nat :=
  let w := (s.descW c (32 + 2 * n)).toNat
  if bitsOf w 7 1 = 1 ∧ bitsOf w 2 1 = 1 then Tab.get? s.armed (8 * c + n) else none

/-- Does the atomic strike the comparator? It is seen at the virtual address that the granule's gives it. -/
def State.remoteStrike (s : State) (r : Req) (src : Nat) (k : Nat) : State :=
  let c := k / 8
  let n := k % 8
  match s.comparator c n with
  | none => s
  | some g =>
    let a := sext64 57 (s.descW c (33 + 2 * n)).toNat
    let va := a + BitVec.ofNat 64 r.pa - BitVec.ofNat 64 g
    if r.pa < g + 16 ∧ g < r.pa + r.size ∧ s.struck c n va r.size ≠ 0 then
      s.strike c 2 0x3FF (BitVec.ofNat 64 (src % 2 ^ 16)) (n, s.struck c n va r.size, ⟨0, va, r.pa, r.size⟩)
    else s

def State.remoteStrikes (s : State) (r : Req) : State :=
  match r.remote with
  | some src => s.armed.foldl (fun s e => s.remoteStrike r src e.1) s
  | none => s

/-- Accesses from other modules do not count (14 R388). -/
def State.countFor (s : State) (r : Req) : State := if r.remote.isSome then s else s.countAccess r.pa r.size

/-- A served access returns the clock of the write that it found: its die merges it, and so do the accesses that its
threads have sent since (07 R180, R181). -/
def State.gain (s : State) (r : Req) (c : List Nat) : State :=
  let s := s.learn r.die c
  { s with fabric := s.fabric.map fun x =>
      if r.tag < x.tag && x.sameThread r then { x with clock := joinClock x.clock c } else x }

/-- What a read takes with it: what it saw before its turn, unless a write that it has come to know of has been applied there
since; else what the home holds now. -/
def State.looked (s : State) (r : Req) : Nat × List Nat :=
  match r.seen with
  | some v => if r.newer.any fun w => decide (w.2 ≤ r.clock.getD w.1 0) then (leNat (s.homeRead r.pa r.size), s.clockAt r.pa r.size) else v
  | none => (leNat (s.homeRead r.pa r.size), s.clockAt r.pa r.size)

/-- Poison that comes with written data (17 R431). -/
def State.taint (s : State) (pa : Nat) (bad : List Nat) : State :=
  bad.foldl (fun s i => s.setPoison (pa / 32 * 32 + 32 * i) true) s

/-- What an access does at its home, all its waits over. -/
def State.applyReq (s : State) (r : Req) : State :=
  match r.kind with
  | .fence => s
  | .read | .consume =>
    if s.poisoned r.pa r.size then s.loseReq r
    else
      let v := s.looked r
      ((s.countAccess r.pa r.size).gain r v.2).reply r v.1
  | .write => (((s.countAccess r.pa r.size).homeWrites r.pa r.data 5).taint r.pa r.bad).land r.pa r.size r.die r.num (r.clock.set r.die r.num)
  | .atom op _ =>
    if s.poisoned r.pa r.size then s.loseReq r
    else
      let old := leNat (s.homeRead r.pa r.size)
      let c := s.clockAt r.pa r.size
      let s := ((s.countFor r).gain r c).reply r old
      ((s.homeWrites r.pa (leBytes r.size (atomNew op r.size old (leNat r.data))) 2).land r.pa r.size r.die r.num
        (joinClock r.clock c)).remoteStrikes r
  | .cas =>
    if s.poisoned r.pa r.size then s.loseReq r
    else
      let old := leNat (s.homeRead r.pa r.size)
      let c := s.clockAt r.pa r.size
      let s := ((s.countFor r).gain r c).reply r old
      (if old = leNat r.cmp then (s.homeWrites r.pa r.data 2).land r.pa r.size r.die r.num (joinClock r.clock c) else s).remoteStrikes r
  | .fill n =>
    let x := (s.countAccess r.pa r.size).countedFill r.ctx (r.pa / 128) n r.data r.bad false
    let s := (x.1.reply r x.2).nodeReply r x.2
    if x.2 = 0 then ((s.strikeFill r).land r.pa 128 r.die r.num r.clock).stampRing (r.pa / 128) r.clock else s
  | .ringFill n =>
    let slot := (s.targets r).drop 1
    let s := slot.foldl (fun s t => s.countAccess t.1 t.2) (s.countAccess r.pa 32)
    let x := s.ringFill r.ctx r.pa n r.data r.bad
    let s := (x.1.reply r x.2).nodeReply r (x.2 % 2 ^ 16)
    if x.2 % 2 ^ 16 = 0 then slot.foldl (fun s t => s.land t.1 t.2 r.die r.num r.clock) (s.stampAt r.pa 32 r.clock) else s
  | .release =>
    let s := s.stampRing (r.pa / 128) r.clock
    let x := (s.countAccess r.pa 128).releaseLine r.ctx (r.pa / 128) (if r.node.isSome then 1 else 0) r.core r.va r.pc
    x.1.nodeReply r x.2

/-- The request leaves the fabric. -/
def State.takeReq (s : State) (r : Req) : State := { s with fabric := s.fabric.filter fun x => x != r }

/-- Is the access a table write: a write to a line with sharers (13 R345)? -/
def State.isTableWrite (s : State) (r : Req) : Bool :=
  s.isTableLine r.pa && (match r.kind with | .write | .atom _ _ | .cas | .fill _ => true | _ => false) &&
  (s.special? (r.pa / 32)).isNone

/-- A read looks at its home before earlier reads of its threads are served; poison it leaves for its turn. -/
def State.lookAhead (s : State) (n : Nat) (r : Req) : State :=
  if r.kind == .read && r.seen.isNone && s.ready n && !s.poisoned r.pa r.size then
    { s with fabric := s.fabric.set n { r with seen := some (leNat (s.homeRead r.pa r.size), s.clockAt r.pa r.size), newer := [] } }
  else s

/-- HOME_ACCESS (R181): a home serves a read, applies a write, or carries out an atomic; a read whose turn has not come may
look ahead. -/
def execHomeAccess (n : Nat) (s : State) : Out :=
  match s.fabric[n]? with
  | none => .next s
  | some r =>
    let mine := match r.kind with | .read | .write | .atom _ _ | .cas | .fence => true | _ => false
    if mine && s.servable n && !s.isTableWrite r then
      match r.kind with
      | .write => .next ((s.mates r).foldl (fun s x => (s.takeReq x).applyReq x) s)
      | _ => .next ((s.takeReq r).applyReq r)
    else .next (s.lookAhead n r)

/-- DIE_BEACON (R181): a home learns that nothing older is on its way. In the model a home sees which writes are in
flight, so the beacon tells it nothing. -/
def execDieBeacon (_d : Nat) (s : State) : Out := .next s

/-- COUNTED_FILL (07 R193). -/
def execCountedFill (n : Nat) (s : State) : Out :=
  match s.fabric[n]? with
  | some r =>
    match r.kind with
    | .fill _ => if s.servable n && !s.isTableWrite r then .next ((s.takeReq r).applyReq r) else .next s
    | _ => .next s
  | none => .next s

/-- RING_FILL (08 R227). -/
def execRingFill (n : Nat) (s : State) : Out :=
  match s.fabric[n]? with
  | some r =>
    match r.kind with
    | .ringFill _ =>
      let line := match (s.targets r).drop 1 with | t :: _ => t.1 / 128 | [] => 0
      if !s.servable n then .next s
      -- a fill of a line with sharers is a table write (13 R345)
      else if s.isTableLine (128 * line) || s.lineHeld (128 * line) then
        .next ((s.takeReq r).hold (placed (128 * line) r.data) (128 * line) (.core r) r.die (r.clock.set r.die r.num))
      else .next ((s.takeReq r).applyReq r)
    | _ => .next s
  | none => .next s

/-- COUNTED_RELEASE (07 R196). -/
def execCountedRelease (n : Nat) (s : State) : Out :=
  match s.fabric[n]? with
  | some r =>
    match r.kind with
    | .release => if s.servable n then .next ((s.takeReq r).applyReq r) else .next s
    | _ => .next s
  | none => .next s

/-- CONSUMING_READ (07 R194, R195): the reads of one instruction of one line and its decrement are one step. Poison
loses the context, and the decrement stands (17 R432). -/
def execConsumingRead (n : Nat) (s : State) : Out :=
  match s.fabric[n]? with
  | some r =>
    match r.kind with
    | .consume =>
      if s.servable n then
        let rs := s.mates r
        let s := rs.foldl State.takeReq s
        if s.isCounted r.pa then
          -- the reads come before the decrement, with what they return (R197)
          let c := rs.foldl (fun c x => joinClock (joinClock c x.clock) (s.clockAt x.pa x.size)) []
          .next (((rs.foldl State.applyReq s).stampRing (r.pa / 128) c).decLine (r.pa / 128))
        else
          let s := rs.foldl (fun s x => (s.countAccess x.pa x.size).reply x 0) s
          .next (s.postRead r.ctx 1 0 r.core 0 (r.va - BitVec.ofNat 64 (r.va.toNat % 128)) r.pa r.pc)
      else .next s
    | _ => .next s
  | none => .next s

/-! ### Table writes (13 R345 to R347) -/

/-- A request takes its place as a table write. -/
def State.holdReq (s : State) (r : Req) : State :=
  (s.takeReq r).hold (placed r.pa ((List.range r.size).map fun i => r.data.getD i 0)) r.pa (.core r) r.die
    (r.clock.set r.die r.num)

/-- TABLE_WRITE (13 R346): a write in the fabric to a line with sharers takes its place. -/
def execTableWrite (n : Nat) (s : State) : Out :=
  match s.fabric[n]? with
  | none => .next s
  | some r =>
    if s.isTableWrite r && s.servable n then .next ((s.mates r).foldl State.holdReq s) else .next s

/-- A write that die `d` makes without a request (8: the IOD), of bytes in one line: it is held where the line has sharers or a
host's copy, else applied at once. -/
def State.writeLine (s : State) (d pa : Nat) (bs : List Byte) (who : WriteBy) : State :=
  if s.mustHold pa bs.length && (s.special? (pa / 32)).isNone then
    let s := s.countWrite d
    s.hold (placed pa bs) pa who d (s.clockOf d)
  else (s.homeWrites pa bs 5).markWrite d pa bs.length

/-- A write of any length, line by line. -/
def State.writeAll (s : State) (d pa : Nat) (bs : List Byte) (who : WriteBy) : Nat → State
  | 0 => s
  | fuel + 1 =>
    match bs with
    | [] => s
    | _ =>
      let n := 128 - pa % 128
      (s.writeLine d pa (bs.take n) who).writeAll d (pa + n) (bs.drop n) who fuel

end Sys2Proof.Machine
end

