-- ==== Sys2Proof/Machine/Mem.lean ====
section
/-! DEFINITION. The checks and the sending of memory accesses (08 R207 to R213), watchpoints on core writes (17 R451 to
R453), and loads and stores of global and local memory (08 R214 to R217).
What rests on the model rather than on the plain words of the manual: log 3 (DESIGN CHOICE), log 16 (DEDUCED). -/

namespace Sys2Proof.Machine

/-! ### Addresses (08 R208) -/

/-- The offset that LIT32 adds: none beside a literal address or in the 64-bit form. -/
def Ops.offset (o : Ops) : W64 := if o.a.kind == .lit || o.len == .w64 then 0 else o.lit.signExtend 64

def Ops.globalEa (o : Ops) (base : Nat) : W64 := BitVec.ofNat 64 base + Ops.offset o
/-- A literal local address is read as S64, any other as 32 bits. `base` is source A as a 32-bit value; of a literal it holds the
bits that S64 extends. -/
def Ops.localBase (o : Ops) (base : Nat) : Nat :=
  if o.a.kind == .lit then ((BitVec.ofNat 32 base).signExtend 64).toNat else base % 2 ^ 32
/-- With the offset, a 32-bit sum. -/
def Ops.localEa (o : Ops) (base : Nat) : Nat :=
  if o.a.kind == .lit then Ops.localBase o base else (base + (Ops.offset o).toNat) % 2 ^ 32

/-! ### Checks (08 Table 2) -/

/-- One access of a lane, or of the bundle. -/
structure Acc where
  lane : Nat
  lanes : W32
  va : W64
  size : Nat
  kind : AccKind

/-- A checked access: its physical address and the entries its translation derives from. -/
structure Placed where
  acc : Acc
  pa : Nat
  ents : List Nat

/-- What the checks of global accesses answer. -/
inductive Checked
  | ok (s : State) (ps : List Placed)
  | trap (s : State) (cause detail lane : Nat) (addr : W64) (aux : W64)
  | miss (s : State) (a : Acc) (lvl e epa : Nat)
  | wait (s : State)
  | stop (s : State)

/-- Detail of an alignment fault (08 R217): log2, or 0x8000 plus the alignment. -/
def alignDetail (n : Nat) : Nat := if 2 ^ Nat.log2 n = n then Nat.log2 n else 0x8000 + n

/-- Translate accesses in order, the state going along. -/
def State.translateAll (s : State) (q : Asker) : List Acc → State × List (Acc × Tr)
  | [] => (s, [])
  | a :: as =>
    let r := s.translate q a.va a.kind
    let t := r.1.translateAll q as
    (t.1, (a, r.2) :: t.2)

/-- Set D for the writes (13 R340); none where one must wait. -/
def State.setDirtyBits (s : State) (q : Asker) : List Acc → Option State
  | [] => some s
  | a :: as =>
    match a.kind with
    | .write | .both =>
      match s.setDirtyBit q a.va with
      | some s => s.setDirtyBits q as
      | none => none
    | _ => s.setDirtyBits q as

def AccKind.isWrite : AccKind → Bool
  | .write | .both => true
  | _ => false

/-- Is the 4 KiB page of a physical address sealed (08 R236)? -/
def State.isSealed (s : State) (pa : Nat) : Bool := s.sealed.contains (pa / 4096)

/-- Checks 4 to 7 of accesses whose addresses have passed; without `write`, neither seals nor D (08 R234). -/
def State.checkTranslated (s : State) (q : Asker) (accs : List Acc) (write : Bool) : Checked :=
  let r := s.translateAll q accs
  let s := r.1
  let ts := r.2
  if ts.any fun t => t.2 == .stop then .stop s
  else if ts.any fun t => t.2 == .wait then .wait s
  else
    match ts.findSome? fun t => match t.2 with | .miss l e p => some (t.1, l, e, p) | _ => none with
    | some (a, l, e, p) => .miss s a l e p
    | none =>
      match ts.findSome? fun t => match t.2 with | .prot d => some (t.1, d) | _ => none with
      | some (a, d) => .trap s 9 d a.lane a.va 0
      | none =>
        let ps := ts.filterMap fun t => match t.2 with | .ok pa _ en => some (Placed.mk t.1 pa en) | _ => none
        match ps.find? fun p => write && AccKind.isWrite p.acc.kind && s.isSealed p.pa with
        | some p => .trap s 0xA 1 p.acc.lane p.acc.va 0
        | none =>
          match ps.find? fun p => s.home p.pa == .none with
          | some p => .trap s 0xB 0 p.acc.lane p.acc.va (BitVec.ofNat 64 p.pa)
          | none =>
            match if write then s.setDirtyBits q accs else some s with
            | some s => .ok s ps
            | none => .wait (accs.foldl (fun s a => s.dropTlb q a.va) s)

/-- Checks 1 and 3 to 7. `bases`: the lane and address that must be a multiple of `align`. -/
def State.check (s : State) (q : Asker) (accs : List Acc) (bases : List (Nat × W64)) (align : Nat) : Checked :=
  match accs.find? fun a => !canonical a.va with
  | some a => .trap s 7 1 a.lane a.va 0
  | none =>
    match bases.find? fun b => b.2.toNat % align != 0 with
    | some b => .trap s 8 (alignDetail align) b.1 b.2 0
    | none => s.checkTranslated q accs true

/-- Accesses of the thread that are on their way, and marks of FENCE.REL among them. -/
def State.inFlight (s : State) (gid : Nat) (ls : W32) : List Req :=
  (s.heldReqs [] ++ s.fabric).filter fun r => r.gid == gid && (r.lanes &&& ls) != 0

def Env.asker (e : Env) : Asker :=
  ⟨coreDie e.g.core, e.g.ctx, 0, e.g.core, e.u.pc, (e.s.inFlight e.u.gid (maskOf e.lanes)).any fun r => r.kind.reads⟩

/-- The bundle misses (13 R353): its lanes take PARK and stay; in a handler, to which PARK does not apply, they block. -/
def Env.park (e : Env) (s : State) (a : Acc) (lvl en epa : Nat) : Out :=
  let m : MissArg := ⟨coreDie e.g.core, e.g.ctx, a.va, a.kind, epa, lvl, BitVec.ofNat 64 en, a.lane,
    .group e.u.gid (maskOf e.lanes) e.g.inh⟩
  let s := s.modGroup e.u.gid fun g => g.modLanes e.lanes fun x =>
    if g.inh then { x with block := some .miss, since := s.cycle } else { x with park := true }
  .next ((s.present m s.gtime).retire e.u)

/-- Check accesses and go on with them; every other outcome leaves the instruction without effect. -/
def Env.access (e : Env) (accs : List Acc) (bases : List (Nat × W64)) (align : Nat)
    (k : State → List Placed → Out) : Out :=
  match e.s.check e.asker accs bases align with
  | .ok s ps => k s ps
  | .trap s c d l a x => ({ e with s := s }).trapAux c d l a x
  | .miss s a l en p => e.park s a l en p
  | .wait s => e.blockAt s .tick
  | .stop s => .next { s with cur := none }

/-! ### Watchpoints (17 R453) -/

/-- The instruction completes; core writes that strike post records, and the lowest watchpoint traps after it. -/
def Env.finishWrites (e : Env) (s : State) (g : Group) (ws : List Write) : Out :=
  match s.strikes g.ctx 0 ws with
  | [] => e.finish s g
  | k :: ks =>
    let r := s.watchRecord g.ctx 0 g.core e.u.pc k
    let lane := ((k :: ks).map fun x => x.2.2.lane).foldl min k.2.2.lane
    let addr := match (k :: ks).find? fun x => x.2.2.lane == lane with | some x => x.2.2.va | none => k.2.2.va
    match e.finish s g with
    | .next s =>
      .next (((k :: ks).foldl (fun s x => s.strike g.ctx 0 g.core e.u.pc x) s).raise e.u.gid
        ⟨0x1E, k.1, lane, e.u.pc, addr, r.setWidth 64, e.bundle⟩)
    | x => x

/-! ### Sending -/

/-- A request of an instruction of the bundle. -/
def Env.req (e : Env) (p : Placed) (kind : ReqKind) (z : Sz) (o : MemOrd) (sc : Scope) (tag : Nat) (data cmp : Nat)
    (ds : List DReg) : Req :=
  { kind := kind, pa := p.pa, va := p.acc.va, size := p.acc.size, data := leBytes p.acc.size data,
    cmp := leBytes p.acc.size cmp, dests := ds, sz := z, gid := e.u.gid, lanes := p.acc.lanes, ctx := e.g.ctx,
    core := e.g.core, pc := e.u.pc, ord := o, scope := sc, num := 0, clock := [], ents := p.ents, tag := tag }

/-- An acquire blocks its threads until it has performed (07 R185). -/
def Group.acquire (g : Group) (cycle : Nat) (o : MemOrd) (sc : Scope) (ls : List Nat) : Group :=
  if isAcq o then g.modLanes ls fun x => { x with block := some (.drain true false (farScope sc)), since := cycle } else g

/-- Send requests and complete: destinations become empty, an acquire waits. -/
def Env.send (e : Env) (s : State) (o : MemOrd) (sc : Scope) (rs : List Req) (ws : List Write) : Out :=
  let ds := rs.flatMap (·.dests)
  let s := (rs.map fun (r : Req) => { r with dests := r.dests.map e.g.into }).foldl State.sendReq { s with nextId := s.nextId + 1 }
  let g := (e.g.await ds e.winOver).acquire s.cycle o sc e.act
  ({ e with winOver := if ds.isEmpty then e.winOver else 0 }).finishWrites s g ws

/-- The bundle's threads as one party (08 R207). -/
def Env.mask (e : Env) : W32 := maskOf e.act
def bitMask (l : Nat) : W32 := maskOf [l]

/-- Accesses of `n` bytes: one per active lane, or one for the bundle. -/
def Env.accs (e : Env) (o : Ops) (scl : Bool) (n : Nat) (k : AccKind) : List Acc :=
  if scl then
    match e.act with
    | [] => []
    | l :: _ => [⟨l, e.mask, Ops.globalEa o (e.a l), n, k⟩]
  else e.act.map fun l => ⟨l, bitMask l, Ops.globalEa o (e.a l), n, k⟩

def basesOf (l : List Acc) : List (Nat × W64) := l.map fun a => (a.lane, a.va)

/-- The registers that lane `l` of a load fills (08 R211). -/
def destRegs (o : Ops) (z : Sz) (scl : Bool) (l : Nat) : List DReg :=
  if scl then [.scal o.dst.toNat] else (List.range z.regs).map fun k => .vec (o.dst.toNat + k) l

/-- A load of one access per lane. -/
def Env.loadGlobal (e : Env) (o : Ops) (m : ModM) (scl : Bool) (kind : ReqKind) : Out :=
  let as := e.accs o scl m.sz.bytes .read
  e.access as (basesOf as) m.sz.bytes fun s ps =>
    e.send s m.ord m.scope (ps.map fun p => e.req p kind m.sz m.ord m.scope s.nextId 0 0 (destRegs o m.sz scl p.acc.lane)) []

def writeOf (p : Placed) : Write := ⟨p.acc.lane, p.acc.va, p.pa, p.acc.size⟩

/-- Would the die's writes run too far ahead (07 R181)? Then the lanes wait. -/
def Env.roomFor (e : Env) (s : State) (n : Nat) (k : Out) : Out :=
  if s.mayWrite (coreDie e.g.core) n then k else e.blockAt s .tick

/-- A store takes the poison of the registers that it stores along (17 R431). -/
def Env.carry (e : Env) (lane : Nat) (ns : List (Nat × Nat)) (r : Req) : Req :=
  if e.g.badRegs lane ns then { r with bad := List.range ((r.pa % 32 + r.size + 31) / 32) } else r

/-- The registers of source B. -/
def Ops.dataNames (o : Ops) (sg : Sig) : List (Nat × Nat) := match sg.b with | some q => o.b.names q | none => []

/-- Begin a store, whose source B is data. -/
def issueStore (o : Ops) (sg : Sig) (s : State) (k : Env → Out) : Out := issue .all o.len [{ o := o, sg := sg, data := some 1 }] s k

/-- A store of one access per lane. -/
def Env.storeGlobal (e : Env) (o : Ops) (m : ModM) : Out :=
  let as := e.accs o m.scl m.sz.bytes .write
  e.access as (basesOf as) m.sz.bytes fun s ps =>
    e.roomFor s ps.length
      (e.send s m.ord m.scope (ps.map fun p => e.carry p.acc.lane (Ops.dataNames o (Instr.st o m).sig)
        (e.req p .write m.sz m.ord m.scope s.nextId (e.b p.acc.lane) 0 [])) (ps.map writeOf))

/-- LD (R214). -/
def execLd (o : Ops) (m : ModM) (s : State) : Out :=
  issue1 .all o (Instr.ld o m).sig s fun e => e.loadGlobal o m m.scl .read

/-- ST (R214). -/
def execSt (o : Ops) (m : ModM) (s : State) : Out :=
  issueStore o (Instr.st o m).sig s fun e => e.storeGlobal o m

/-- LDC (R222): each request reads as LD would; the home decrements once per line (R194). -/
def execLdc (o : Ops) (m : ModM) (s : State) : Out :=
  issue1 .all o (Instr.ldc o m).sig s fun e => e.loadGlobal o m false .consume

/-! ### Local memory (07 R172) -/

def State.lmSize (s : State) (t : Nat) : Nat := ((Tab.get? s.teams t).map (·.lmSize)).getD 0
def State.lmNum (s : State) (t a n : Nat) : Nat :=
  match Tab.get? s.teams t with
  | some x => Memory.num x.lm a n
  | none => 0
def State.modTeam (s : State) (t : Nat) (f : Team → Team) : State := { s with teams := Tab.modify s.teams t f }

def State.lmWrite (s : State) (t a : Nat) (bs : List Byte) : State := s.modTeam t fun x => x.corePut a bs
def State.lmEngine (s : State) (cls t a : Nat) (bs : List Byte) : State := s.modTeam t fun x => x.enginePut cls a bs

/-- The local memory of a team as the core path (or an engine) sees it at one look: some of the newest writes of the other
path may be hidden, and what is seen once is seen from then on (07 R172, R187). -/
def State.lmLook (s : State) (core : Bool) (t : Nat) : State × Memory :=
  match Tab.get? s.teams t with
  | none => (s, [])
  | some x =>
    let l := if core then x.engineLate else x.coreLate
    if l.isEmpty then (s, x.lm)
    else
      let h := l.take (Config.late s.freeCount % (l.length + 1))
      ({ s with freeCount := s.freeCount + 1 }.modTeam t fun x =>
        if core then { x with engineLate := h } else { x with coreLate := h }, hideLate x.lm h)

/-- An edge of 07 R179 makes the team's core-path writes visible to its engines. -/
def State.seeCore (s : State) (t : Nat) : State := s.modTeam t fun x => { x with coreLate := [] }
/-- An edge makes engine writes of the classes that `p` names, and older ones, visible to the core path. -/
def State.seeEngine (s : State) (t : Nat) (p : Nat → Bool) : State :=
  s.modTeam t fun x => { x with engineLate := x.engineLate.takeWhile fun e => !p e.cls }

/-- Is some word of a local range poisoned? -/
def State.lmBad (s : State) (t a n : Nat) : Bool :=
  match Tab.get? s.teams t with
  | some x => x.bad.any fun w => decide (a < 4 * w + 4) && decide (4 * w < a + n)
  | none => false

/-- Checks 2 and 3 of local accesses: (lane, address, size). -/
def Env.localCheck (e : Env) (as : List (Nat × Nat × Nat)) (bases : List (Nat × Nat)) (align : Nat) (k : Unit → Out) : Out :=
  match as.find? fun a => decide (e.s.lmSize e.g.team < a.2.1 + a.2.2) with
  | some a => e.trapAux 7 2 a.1 (BitVec.ofNat 64 a.2.1) 0
  | none =>
    match bases.find? fun b => b.2 % align != 0 with
    | some b => e.trapAux 8 (alignDetail align) b.1 (BitVec.ofNat 64 b.2) 0
    | none => k ()

/-- On-core poison consumed: the context is lost (17 R432, REASON 2). -/
def Env.loseLocal (e : Env) : Out :=
  .next { e.s.lose e.g.ctx 2 e.g.core 0 0 with cur := none }

/-- A local release, or a local write after FENCE.REL, waits for the thread's earlier accesses (07 R185, R186). -/
def Env.localOrder (e : Env) (o : MemOrd) (sc : Scope) (wr : Bool) (k : Unit → Out) : Out :=
  let fl := e.s.inFlight e.u.gid e.mask
  let far := farScope sc
  if isRel o && fl.any fun r => far || isLocal r.pa || r.kind.reads then e.blockAt e.s (.drain true true far)
  else if wr && fl.any fun r => r.kind == .fence then e.blockAt e.s (.drain true true true)
  else k ()

/-- Local addresses of the active lanes, or of the bundle. -/
def Env.localAccs (e : Env) (o : Ops) (scl : Bool) (n : Nat) : List (Nat × Nat × Nat) :=
  (if scl then e.act.take 1 else e.act).map fun l => (l, Ops.localEa o (e.a l), n)

def basesL (l : List (Nat × Nat × Nat)) : List (Nat × Nat) := l.map fun a => (a.1, a.2.1)

/-- A result that is ready at issue and arrives as a long-latency result. -/
def Env.result (e : Env) (s : State) (g : Group) (ws : List (DReg × W64)) : Out :=
  match ws with
  | [] => e.finish s g
  | _ =>
    let r : Result := ⟨e.u.gid, ws.map fun w => (g.into w.1, w.2), false⟩
    Env.finish { e with winOver := 0 } { s with results := s.results ++ [r] } (g.await (ws.map fun w => w.1) e.winOver)

/-- LDL (R214). -/
def execLdl (o : Ops) (m : ModM) (s : State) : Out :=
  issue1 .all o (Instr.ldl o m).sig s fun e =>
    let n := m.sz.bytes
    let as := e.localAccs o m.scl n
    e.localCheck as (basesL as) n fun _ =>
      e.localOrder m.ord m.scope false fun _ =>
        if as.any fun a => e.s.lmBad e.g.team a.2.1 n then e.loseLocal
        else
          let v := e.s.lmLook true e.g.team
          e.result v.1 e.g (as.flatMap fun a => writesOf m.sz (Memory.num v.2 a.2.1 n) (destRegs o m.sz m.scl a.1))

/-- An engine's writes to local memory, in order. -/
def State.lmPuts (s : State) (cls t : Nat) (ws : List (Nat × List Byte)) : State :=
  ws.foldl (fun s w => s.lmEngine cls t w.1 w.2) s

/-- Local stores of lanes in ascending order (R215). -/
def State.lmStores (s : State) (t : Nat) (ws : List (Nat × List Byte)) : State :=
  ws.foldl (fun s w => s.lmWrite t w.1 w.2) s

/-- STL (R214). -/
def execStl (o : Ops) (m : ModM) (s : State) : Out :=
  issue1 .all o (Instr.stl o m).sig s fun e =>
    let n := m.sz.bytes
    let as := e.localAccs o m.scl n
    e.localCheck as (basesL as) n fun _ =>
      e.localOrder m.ord m.scope true fun _ =>
        e.finish (e.s.lmStores e.g.team (as.map fun a => (a.2.1, leBytes n (e.b a.1)))) e.g

/-- LDW (R216): window N is OPF bits 11:8, the offset is taken modulo 2^32. -/
def execLdw (o : Ops) (m : ModM) (s : State) : Out :=
  let w := (m.opf.extractLsb' 0 4).toNat
  issue .all o.len [{ o := o, sg := (Instr.ldw o m).sig, win := some w }] s fun e =>
    let n := m.sz.bytes
    let past := e.act.any fun l => decide (e.s.winSize e.g w < Ops.localEa o (e.a l) % 2 ^ 32 + n)
    ({ e with winOver := e.winOver ||| flagIf past fWIN }).result e.s e.g
      (e.act.flatMap fun l => writesOf m.sz (e.s.winRead e.g w (Ops.localEa o (e.a l) % 2 ^ 32) n) (destRegs o m.sz false l))

/-! ### Register lines (R217) -/

/-- Byte offset of element (lane i, register j). -/
def lineOffset (m : ModM) (i j : Nat) : Nat :=
  (if m.opf.getLsbD 3 then i * m.lineCount + j else j * 32 + i) * m.sz.bytes

/-- The alignment that the base needs. -/
def lineAlign (m : ModM) : Nat := (if m.opf.getLsbD 3 then m.lineCount else 32) * m.sz.bytes

/-- Registers of element (lane i, register or pair j). -/
def lineRegs (o : Ops) (m : ModM) (i j : Nat) : List DReg :=
  (List.range m.sz.regs).map fun k => .vec (o.dst.toNat + j * m.sz.regs + k) i

/-- Element j of the data of a lane. -/
def lineData (m : ModM) (x j : Nat) : Nat := x / 2 ^ (8 * m.sz.bytes * j) % 2 ^ (8 * m.sz.bytes)

/-- (lane, register) pairs of the active lanes. -/
def Env.elems (e : Env) (m : ModM) : List (Nat × Nat) :=
  e.act.flatMap fun i => (List.range m.lineCount).map fun j => (i, j)

def Env.lineAccs (e : Env) (o : Ops) (m : ModM) (k : AccKind) : List Acc :=
  (e.elems m).map fun p =>
    ⟨p.1, bitMask p.1, Ops.globalEa o (e.a e.first) + BitVec.ofNat 64 (lineOffset m p.1 p.2), m.sz.bytes, k⟩

/-- LDV. -/
def execLdv (o : Ops) (m : ModM) (s : State) : Out :=
  issue1 .all o (Instr.ldv o m).sig s fun e =>
    e.access (e.lineAccs o m .read) (e.act.take 1 |>.map fun l => (l, Ops.globalEa o (e.a l))) (lineAlign m) fun s ps =>
      e.send s m.ord m.scope ((ps.zip (e.elems m)).map fun p =>
        e.req p.1 .read m.sz m.ord m.scope s.nextId 0 0 (lineRegs o m p.2.1 p.2.2)) []

/-- The registers that hold element j of a stored line. -/
def lineNames (o : Ops) (m : ModM) (j : Nat) : List (Nat × Nat) :=
  (List.range m.sz.regs).map fun k => (0, o.b.val.toNat + j * m.sz.regs + k)

/-- STV. -/
def execStv (o : Ops) (m : ModM) (s : State) : Out :=
  issueStore o (Instr.stv o m).sig s fun e =>
    e.access (e.lineAccs o m .write) (e.act.take 1 |>.map fun l => (l, Ops.globalEa o (e.a l))) (lineAlign m) fun s ps =>
      e.roomFor s ps.length
        (e.send s m.ord m.scope ((ps.zip (e.elems m)).map fun p => e.carry p.2.1 (lineNames o m p.2.2)
          (e.req p.1 .write m.sz m.ord m.scope s.nextId (lineData m (e.b p.2.1) p.2.2) 0 [])) (ps.map writeOf))

/-- Local element addresses, which no width bounds: lane, address, size. -/
def Env.lineLocals (e : Env) (o : Ops) (m : ModM) : List (Nat × Nat × Nat) :=
  (e.elems m).map fun p => (p.1, Ops.localEa o (e.a e.first) + lineOffset m p.1 p.2, m.sz.bytes)

/-- LDLV. -/
def execLdlv (o : Ops) (m : ModM) (s : State) : Out :=
  issue1 .all o (Instr.ldlv o m).sig s fun e =>
    let as := e.lineLocals o m
    e.localCheck as (e.act.take 1 |>.map fun l => (l, Ops.localEa o (e.a l))) (lineAlign m) fun _ =>
      e.localOrder m.ord m.scope false fun _ =>
        if as.any fun a => e.s.lmBad e.g.team a.2.1 a.2.2 then e.loseLocal
        else
          let v := e.s.lmLook true e.g.team
          e.result v.1 e.g ((as.zip (e.elems m)).flatMap fun p =>
            writesOf m.sz (Memory.num v.2 p.1.2.1 m.sz.bytes) (lineRegs o m p.2.1 p.2.2))

/-- STLV. -/
def execStlv (o : Ops) (m : ModM) (s : State) : Out :=
  issue1 .all o (Instr.stlv o m).sig s fun e =>
    let as := e.lineLocals o m
    e.localCheck as (e.act.take 1 |>.map fun l => (l, Ops.localEa o (e.a l))) (lineAlign m) fun _ =>
      e.localOrder m.ord m.scope true fun _ =>
        e.finish (e.s.lmStores e.g.team ((as.zip (e.elems m)).map fun p =>
          (p.1.2.1, leBytes m.sz.bytes (lineData m (e.b p.2.1) p.2.2)))) e.g

/-! ### Atomics (R218 to R221) -/

def ModM.akind (m : ModM) : ReqKind := .atom m.aop (m.aop == 9)

/-- Atomics of the active lanes. -/
def Env.atomics (e : Env) (o : Ops) (m : ModM) (ret : Bool) : Out :=
  let as := e.accs o false m.sz.bytes .both
  e.access as (basesOf as) m.sz.bytes fun s ps =>
    e.roomFor s ps.length
      (e.send s m.ord m.scope (ps.map fun p =>
        e.req p (.atom m.aop (m.aop == 9)) m.sz m.ord m.scope s.nextId (e.b p.acc.lane) 0
          (if ret then destRegs o m.sz false p.acc.lane else [])) (ps.map writeOf))

/-- ATOM. -/
def execAtom (o : Ops) (m : ModM) (s : State) : Out :=
  issue1 .all o (Instr.atom o m).sig s fun e => e.atomics o m false

/-- ATOMR. -/
def execAtomr (o : Ops) (m : ModM) (s : State) : Out :=
  issue1 .all o (Instr.atomr o m).sig s fun e => e.atomics o m true

/-- CAS (R220): B is compared, C is written. -/
def execCas (o : Ops) (m : ModM) (s : State) : Out :=
  issue1 .all o (Instr.cas o m).sig s fun e =>
    let as := e.accs o false m.sz.bytes .both
    e.access as (basesOf as) m.sz.bytes fun s ps =>
      e.roomFor s ps.length
        (e.send s m.ord m.scope (ps.map fun p =>
          e.req p .cas m.sz m.ord m.scope s.nextId (e.c p.acc.lane) (e.b p.acc.lane) (destRegs o m.sz false p.acc.lane))
          (ps.map writeOf))

/-- Local atomics, lane by lane: each returns the value it finds. -/
def State.lmAtomics (s : State) (t : Nat) (n : Nat) (f : Nat → Nat → Nat) :
    List (Nat × Nat) → State × List (Nat × Nat)
  | [] => (s, [])
  | (l, a) :: as =>
    let old := s.lmNum t a n
    let r := (s.lmWrite t a (leBytes n (f l old))).lmAtomics t n f as
    (r.1, (l, old) :: r.2)

/-- ATOML and CASL share this: `f lane old` is the new value. -/
def Env.localAtomics (e : Env) (o : Ops) (m : ModM) (f : Nat → Nat → Nat) : Out :=
  let n := m.sz.bytes
  let as := e.localAccs o false n
  e.localCheck as (basesL as) n fun _ =>
    e.localOrder m.ord m.scope true fun _ =>
      if as.any fun a => e.s.lmBad e.g.team a.2.1 n then e.loseLocal
      else
        let r := e.s.lmAtomics e.g.team n f (basesL as)
        e.result r.1 e.g (r.2.flatMap fun x => writesOf m.sz x.2 (destRegs o m.sz false x.1))

/-- ATOML (R219). -/
def execAtoml (o : Ops) (m : ModM) (s : State) : Out :=
  issue1 .all o (Instr.atoml o m).sig s fun e =>
    e.localAtomics o m fun l old => atomNew m.aop m.sz.bytes old (e.b l)

/-- CASL (R220). -/
def execCasl (o : Ops) (m : ModM) (s : State) : Out :=
  issue1 .all o (Instr.casl o m).sig s fun e =>
    e.localAtomics o m fun l old => if old = e.b l then e.c l else old

/-! ### Counted fills and releases by threads (R223, R224) -/

/-- The line a counted fill writes: lane i's word at bytes 4i, inactive lanes zero. -/
def Env.fillData (e : Env) : Nat := ofFields (e.act.map fun l => (32 * l, 32, e.b l))

/-- Its atoms that hold poisoned words (17 R431). -/
def Env.fillBad (e : Env) (o : Ops) (sg : Sig) : List Nat :=
  ((e.act.filter fun l => e.g.badRegs l (Ops.dataNames o sg)).map (· / 8)).eraseDups

/-- CFILL without RING. -/
def execCfill (o : Ops) (m : ModM) (s : State) : Out :=
  issueStore o (Instr.cfill o m).sig s fun e =>
    let as := (e.act.take 1).map fun l => (⟨l, e.mask, BitVec.ofNat 64 (e.a l), 128, .write⟩ : Acc)
    e.access as (basesOf as) 128 fun s ps =>
      e.roomFor s ps.length
        (e.send s .rlx .thread (ps.map fun p =>
          { e.req p (.fill (cfillCount o m)) .b64 .rlx .thread s.nextId e.fillData 0 [.scal o.dst.toNat] with
            bad := e.fillBad o (Instr.cfill o m).sig }) (ps.map writeOf))

/-- CFILL.RING (R227): the address names a ring control atom. -/
def execCfillRing (o : Ops) (m : ModM) (s : State) : Out :=
  issueStore o (Instr.cfillRing o m).sig s fun e =>
    let as := (e.act.take 1).map fun l => (⟨l, e.mask, BitVec.ofNat 64 (e.a l), 32, .write⟩ : Acc)
    e.access as (basesOf as) 32 fun s ps =>
      e.roomFor s ps.length
        (e.send s .rlx .thread (ps.map fun p =>
          { e.req p (.ringFill (cfillCount o m)) .b64 .rlx .thread s.nextId 0 0 [.scal o.dst.toNat] with
            data := leBytes 128 e.fillData, bad := e.fillBad o (Instr.cfillRing o m).sig }) [])

/-- CREL (R224): each distinct line named is released once. -/
def execCrel (o : Ops) (m : ModM) (s : State) : Out :=
  issue1 .all o (Instr.crel o m).sig s fun e =>
    let as := e.accs o false 1 .write
    e.access as [] 1 fun s ps =>
      let once := ps.foldl (fun (acc : List Placed) p => if acc.any fun q => q.pa / 128 == p.pa / 128 then acc else acc ++ [p]) []
      e.roomFor s once.length
        (e.send s m.ord m.scope (once.map fun p =>
          let who := maskOf ((ps.filter fun q => q.pa / 128 == p.pa / 128).map fun q => q.acc.lane)
          { e.req p .release .b32 m.ord m.scope s.nextId 0 0 [] with
            pa := p.pa / 128 * 128, va := p.acc.va - BitVec.ofNat 64 (p.acc.va.toNat % 128), size := 128, lanes := who }) [])

/-! ### Fences (R228 to R230) -/

/-- FENCE (07 R186): REL leaves a mark that later writes wait for; ACQ blocks its threads until their reads have
performed; AR, and RLX above THREAD (R229), until all their accesses have: at SCOPE (07 R182, R183). -/
def execFence (o : Ops) (m : ModM) (s : State) : Out :=
  issue1 .all o (Instr.fence o m).sig s fun e =>
    let block := fun r w => e.commit (e.g.modLanes e.act fun x => { x with block := some (.drain r w (farScope m.scope)), since := s.cycle })
    match m.ord with
    | .rlx => if m.scope == .thread then e.commit e.g else block true true
    | .acq => block true false
    | .ar => block true true
    | .rel =>
      let p : Placed := ⟨⟨e.first, e.mask, 0, 0, .read⟩, 0, []⟩
      if e.act.isEmpty then e.commit e.g
      else e.finish (({ s with nextId := s.nextId + 1 }).sendReq (e.req p .fence .b32 .rlx m.scope s.nextId 0 0 [])) e.g

/-- Nodes of class `x` that the team's drill has started. -/
def State.startedNodes (s : State) (team x : Nat) : List (Nat × Nat) :=
  s.furrows.flatMap fun f =>
    if f.2.opened && f.2.team == team then
      (f.2.nodes.filter fun n => (n.phase == .running || n.phase == .parked || n.phase == .again) && nodeClass n.kind == some x).map fun n => (f.1, n.ix)
    else []

/-- FENCEX (07 R189): the accesses before it are recorded; with Y = CORE the group waits until it completes. -/
def execFencex (o : Ops) (m : ModM) (s : State) : Out :=
  issue1 .all o (Instr.fencex o m).sig s fun e =>
    let x := (m.opf.extractLsb' 0 3).toNat
    let y := (m.opf.extractLsb' 3 3).toNat
    if e.act.isEmpty then e.commit e.g
    else
      let f : FenceX :=
        { id := s.nextId, gid := e.u.gid, team := e.g.team, x := x, y := y, scope := m.scope,
          tags := if x = 0 then (s.inFlight e.u.gid (BitVec.allOnes 32)).map (·.tag) else [],
          nodes := s.startedNodes e.g.team x,
          sends := if x = 3 then (s.sends.filter fun d => d.src == e.g.team).map (·.id) else []
          gangs := if x = 4 then (s.teamGroups e.g.team).flatMap fun k => match k.2.hold with
            | some h => (match h.kind with | .gang _ => [(k.1, h.since)] | _ => [])
            | none => []
            else [] }
      let s := { s with nextId := s.nextId + 1, fences := s.fences ++ [f] }
      match e.finish s e.g with
      | .next s =>
        .next (if y = 0 then
          s.modGroup e.u.gid fun g =>
            { g with hold := some ⟨.fencex f.id, s.cycle, e.bundle, e.u.pc, e.next, 0⟩, bundles := [] }
          else s)
      | r => r

/-- Is a cross-path fence of the team with second class `y` incomplete? -/
def State.fenced (s : State) (team y : Nat) : Bool := s.fences.any fun f => f.team == team && f.y == y

/-- Are the accesses before a cross-path fence performed? -/
def State.fenceDone (s : State) (f : FenceX) : Bool :=
  !((s.heldReqs [] ++ s.fabric).any fun r => r.gid == f.gid && f.tags.contains r.tag) &&
  f.nodes.all (fun k => match Tab.get? s.furrows k.1 with
    | some u => !(u.nodes.any fun n => n.ix == k.2 && (n.phase == .running || n.phase == .parked || n.phase == .again))
    | none => true) &&
  (f.gangs.all fun k => !(s.group? k.1).any fun g => g.hold.any fun h => decide (h.since = k.2)) &&
  f.sends.all fun i => !s.sends.any fun d => d.id == i

/-- FENCEX_COMPLETE (07 R189). -/
def execFencexComplete (n : Nat) (s : State) : Out :=
  match s.fences[n]? with
  | none => .next s
  | some f =>
    if s.fenceDone f then
      let s := { s with fences := s.fences.eraseIdx n }
      let s := if f.x = 0 then (if f.y = 0 then s else s.seeCore f.team)
        else if f.y = 0 then s.seeEngine f.team (fun c => c == f.x) else s
      .next (s.modGroup f.gid fun g => match g.hold with
        | some h => if h.kind = .fencex f.id then { g with hold := none } else g
        | none => g)
    else .next s

/-! ### Hints (R231 to R233) -/

/-- What becomes of a hint at one address: a fetch of a remote-marked page, or a dropped hint counted. -/
def State.hint (s : State) (q : Asker) (gid : Nat) (ls : W32) (va : W64) (fetch : Bool) : State × Option Nat :=
  if !canonical va then (s.dropHint q.ctx, none)
  else
    let r := s.translate q va .read
    match r.2 with
    | .ok pa _ _ => (r.1, some pa)
    | .miss lvl e epa =>
      if entryRemote e then
        if fetch then
          let m : MissArg := ⟨q.die, q.ctx, va, .read, epa, lvl, BitVec.ofNat 64 e, 0, .group gid ls false⟩
          ({ r.1 with faultIn := r.1.faultIn ++ [r.1.faultRecord m false 0] }, none)
        else (r.1, none)
      else (r.1.dropHint q.ctx, none)
    | .prot _ => (r.1.dropHint q.ctx, none)
    | .wait | .stop => (r.1, none)

/-- Hints at a list of addresses; `f` is what a readable page does. -/
def State.hints (s : State) (q : Asker) (gid : Nat) (ls : W32) (fetch : Bool) (f : State → Nat → State) :
    List W64 → State
  | [] => s
  | va :: vas =>
    let r := s.hint q gid ls va fetch
    (match r.2 with | some pa => f r.1 pa | none => r.1).hints q gid ls fetch f vas

/-- The hints of an instruction are acted on once none of their walks waits (R231 to R233); a walk may freeze or lose the
context. -/
def Env.hinted (e : Env) (fetch : Bool) (f : State → Nat → State) (vas : List W64) : Out :=
  let r := e.s.translateAll e.asker ((vas.filter canonical).map fun va => ⟨e.first, e.mask, va, 1, .read⟩)
  if r.2.any fun t => t.2 == .wait then e.blockAt r.1 .tick
  else
    let s := r.1.hints e.asker e.u.gid e.mask fetch f vas
    if s.cur.isNone then .next s else e.finish s e.g

/-- PREF (R231): what it brings into the MSC changes only timing. -/
def execPref (o : Ops) (m : ModM) (s : State) : Out :=
  issue1 .all o (Instr.pref o m).sig s fun e =>
    e.hinted true (fun s _ => s) (e.act.map fun l => Ops.globalEa o (e.a l))

/-- The 64 KiB pages of a residency hint (R232). -/
def residPages (ea : W64) (n : Nat) : List W64 :=
  if n = 0 then []
  else
    let off := ea.toNat % 65536
    (List.range (min 4096 ((off + n + 65535) / 65536))).map fun i =>
      if i = 0 then ea else ea - BitVec.ofNat 64 off + BitVec.ofNat 64 (65536 * i)

def Env.resid (e : Env) (o : Ops) (fetch : Bool) (f : State → Nat → State) : Out :=
  if e.act.isEmpty then e.commit e.g
  else
    e.hinted fetch f (residPages (Ops.globalEa o (e.a e.first)) (e.b e.first % 2 ^ 32))

/-- RESID.NEAR. -/
def execResidNear (o : Ops) (m : ModM) (s : State) : Out :=
  issue1 .all o (Instr.residNear o m).sig s fun e => e.resid o true fun s _ => s

/-- RESID.HBM: a tier-migration notification for each page homed in LPDDR6. -/
def execResidHbm (o : Ops) (m : ModM) (s : State) : Out :=
  issue1 .all o (Instr.residHbm o m).sig s fun e =>
    e.resid o true fun s pa => if isLocal pa && !isHbm pa then s.migrate 1 e.g.ctx (pa / 65536) else s

/-- RESID.COLD: the order of eviction from the MSC is not architectural (01 R22). -/
def execResidCold (o : Ops) (m : ModM) (s : State) : Out :=
  issue1 .all o (Instr.residCold o m).sig s fun e => e.resid o false fun s _ => s

end Sys2Proof.Machine
end

