-- ==== Sys2Proof/Machine/Sync.lean ====
section
/-! DEFINITION. Team and cluster barriers (11 R307 to R309), byte-counting barriers (R310 to R312) with the waits of MRECV
(08 R240), gangs (R316, R317), and accumulator banks (R318 to R320).
What rests on the model rather than on the plain words of the manual: log 16 (DEDUCED), log 23 (DEDUCED). -/

namespace Sys2Proof.Machine

/-! ### Barriers (R307 to R309) -/

/-- Every live lane of the group reaches the instruction, whatever its guard. -/
def Env.crossAll (e : Env) (i : Instr) (k : Env → Out) : Out :=
  if e.u.fresh && e.arrived (BitVec.allOnes 32) then k e.awake else e.waitCross i

/-- The group is held at barrier `id`, unless no guard is true. -/
def Env.barrier (e : Env) (i : Instr) (cluster : Bool) (id : Nat) : Out :=
  e.crossAll i fun e =>
    if e.act.isEmpty then e.commit e.g
    else ({ e with s := e.s.setGroup e.u.gid e.g }).holdFor (e.s.setGroup e.u.gid e.g) (.barrier cluster id)

def execTbar (o : Ops) (m : BitVec 20) (s : State) : Out :=
  issue1 .all o (Instr.tbar o m).sig s fun e => e.barrier (.tbar o m) false (m.extractLsb' 0 2).toNat

def execCbar (o : Ops) (m : BitVec 20) (s : State) : Out :=
  issue1 .all o (Instr.cbar o m).sig s fun e => e.barrier (.cbar o m) true (m.extractLsb' 0 2).toNat

/-- Groups that a barrier of `g` waits for: those of the team or cluster that have not ended. -/
def State.barrierPeers (s : State) (cluster : Bool) (g : Group) : List (Nat × Group) :=
  s.groups.filter fun e => !e.2.ended && (if cluster then e.2.cluster == g.cluster else e.2.team == g.team)

def Group.heldAt (g : Group) (k : HoldKind) : Bool := g.hold.any fun h => h.kind == k

/-- The group has arrived: it is held, and its core-path accesses are performed (R307). -/
def State.signalled (s : State) (k : HoldKind) (e : Nat × Group) : Bool :=
  e.2.heldAt k && (s.inFlight e.1 (BitVec.allOnes 32)).isEmpty

/-- Barrier `id` that `g` is held at is complete (R308). -/
def State.barrierDone (s : State) (cluster : Bool) (id : Nat) (g : Group) : Bool :=
  (s.barrierPeers cluster g).all (s.signalled (.barrier cluster id))

/-- Groups that are held at a complete barrier go on (R308); it is an edge between the core path and the matrix path of the team. -/
def State.releaseBarriers (s : State) : State :=
  let done := s.groups.filter fun e =>
    s.onCore e.2 && (match e.2.hold with
      | some h => (match h.kind with | .barrier c id => s.barrierDone c id e.2 | _ => false)
      | none => false)
  done.foldl (fun s e => ((s.releaseGroup e.1).seeCore e.2.team).seeEngine e.2.team (· == 4)) s

/-- BARRIER_STALL (R309): every group held at the barrier traps, and the arrivals are withdrawn. -/
def execBarrierStall (gid : Nat) (s : State) : Out :=
  match s.group? gid with
  | none => .next s
  | some g =>
    match g.hold with
    | none => .next s
    | some h =>
      match h.kind with
      | .barrier c id =>
        if s.onCore g && decide (h.since + 2 ^ 26 ≤ s.cycle) && !s.barrierDone c id g then
          .next (((s.barrierPeers c g).filter fun e => e.2.heldAt h.kind).foldl
            (fun s e => s.stall e.1 0x18 (if c then 2 else 1) 0) s)
        else .next s
      | _ => .next s

/-! ### Mailboxes and their waits (R310 to R312; 08 R240) -/

def Team.box (t : Team) (b : Nat) : Mailbox := Tab.read Mailbox.empty t.boxes b
def Team.setBox (t : Team) (b : Nat) (x : Mailbox) : Team := { t with boxes := Tab.write Mailbox.empty t.boxes b x }
def State.boxOf (s : State) (t b : Nat) : Mailbox :=
  match Tab.get? s.teams t with
  | some x => x.box b
  | none => Mailbox.empty
def State.setBoxOf (s : State) (t b : Nat) (x : Mailbox) : State := s.modTeam t fun y => y.setBox b x

/-- A wait completes with a value; message bytes delivered before are seen from then on (07 R179). -/
def State.answer (s : State) (p : Pending) (v : W64) : State :=
  let s := { s with pendings := s.pendings.filter fun q => q != p, results := s.results ++ [Result.mk p.gid [(.scal p.dst, v)] false] }
  s.seeEngine p.team (· == 3)

/-- Is `p` the next of its kind: the oldest BCWAIT of the team, or the oldest MRECV of the mailbox? -/
def State.isNext (s : State) (p : Pending) : Bool :=
  let same := s.pendings.filter fun q => q.team == p.team &&
    (match p.kind, q.kind with
      | .bcwait _, .bcwait _ => true
      | .mrecv a, .mrecv b => a == b
      | _, _ => false)
  same.head? == some p

/-- A BCWAIT whose target is reached completes: the target is taken off the count (R312). -/
def State.reached (s : State) (b : Nat) (x : Mailbox) (p : Pending) : State :=
  (s.setBoxOf p.team b { x with bcnt := x.bcnt - x.tgt, armed := false }).answer p (x.bcnt.setWidth 64)

/-- A wait whose condition holds completes. -/
def State.servePending (s : State) (p : Pending) : State :=
  if s.isNext p then
    match p.kind with
    | .mrecv b =>
      let x := s.boxOf p.team b
      match x.recs with
      | r :: rs => (s.setBoxOf p.team b { x with recs := rs }).answer p r
      | [] => s
    | .bcwait b =>
      let x := s.boxOf p.team b
      if x.tgt.toNat ≤ x.bcnt.toNat then s.reached b x p else s
  else s

/-- Waits complete in the order of their issue. -/
def State.servePendings (s : State) : State := s.pendings.foldl State.servePending s

/-- A wait begins: its destination is empty until it completes. -/
def Env.await (e : Env) (o : Ops) (k : PendKind) : Out :=
  let p : Pending := ⟨k, e.u.gid, e.g.team, o.dst.toNat, e.s.cycle⟩
  match ({ e with winOver := 0 }).finish { e.s with pendings := e.s.pendings ++ [p] } (e.g.await [.scal o.dst.toNat] e.winOver) with
  | .next s => .next s.servePendings
  | x => x

/-- BCARM (R311). -/
def execBcarm (o : Ops) (m : BitVec 20) (s : State) : Out :=
  issue1 .all o (Instr.bcarm o m).sig s fun e =>
    e.once fun _ =>
      let b := (m.extractLsb' 0 4).toNat
      let x := e.s.boxOf e.g.team b
      e.finish (e.s.setBoxOf e.g.team b { x with armed := true, tgt := BitVec.ofNat 32 (e.a e.first) }).servePendings e.g

/-- BCWAIT (R312). -/
def execBcwait (o : Ops) (m : BitVec 20) (s : State) : Out :=
  issue1 .all o (Instr.bcwait o m).sig s fun e =>
    e.once fun _ =>
      let b := (m.extractLsb' 0 4).toNat
      let x := e.s.boxOf e.g.team b
      if x.armed then e.await o (.bcwait b)
      else e.result e.s e.g [(.scal o.dst.toNat, BitVec.ofNat 64 (2 ^ 62 + x.bcnt.toNat))]

/-- Has a wait lasted its 2^26 cycles, the cycles of pre-emption apart? -/
def State.pendingOver (s : State) (p : Pending) : Bool :=
  decide (p.since + 2 ^ 26 ≤ s.cycle) && (s.group? p.gid).any s.onCore

/-- BCWAIT_TIMEOUT: TMO, and the mailbox stays armed, unless the target is reached; the waits behind it go on. -/
def execBcwaitTimeout (n : Nat) (s : State) : Out :=
  match s.pendings[n]? with
  | none => .next s
  | some p =>
    match p.kind with
    | .bcwait b =>
      let x := s.boxOf p.team b
      if !s.pendingOver p then .next s
      else if x.tgt.toNat ≤ x.bcnt.toNat then .next (s.reached b x p).servePendings
      else .next (s.answer p (BitVec.ofNat 64 (2 ^ 63 + x.bcnt.toNat))).servePendings
    | _ => .next s

/-! ### Gangs (R316, R317) -/

/-- GANGSET and GANGCLR come only from a bundle that holds every live lane. -/
def Env.whole (e : Env) (k : Unit → Out) : Out :=
  e.once fun _ => if e.g.liveLanes.all fun l => e.lanes.contains l then k () else e.trap 0x10 2 e.first

def HoldKind.isGang : HoldKind → Bool
  | .gang _ => true
  | _ => false

/-- 2 to 6 bits, all below TEAMSIZE, one of them the group's own. -/
def gangMaskOk (mask : W32) (size gix : Nat) : Bool :=
  let ls := lanesOf mask
  decide (2 ≤ ls.length) && decide (ls.length ≤ 6) && ls.all (fun l => decide (l < size)) && ls.contains gix

def execGangset (o : Ops) (m : BitVec 20) (s : State) : Out :=
  issue1 .all o (Instr.gangset o m).sig s fun e =>
    e.whole fun _ =>
      let mask := BitVec.ofNat 32 (e.a e.first)
      if gangMaskOk mask (e.s.teamSize e.g) e.g.gix then e.commit { e.g with gang := mask } else e.trap 0x10 7 e.first

def execGangclr (o : Ops) (m : BitVec 20) (s : State) : Out :=
  issue1 .all o (Instr.gangclr o m).sig s fun e => e.whole fun _ => e.commit { e.g with gang := 0 }

/-- GANG_STALL_TIMEOUT (R317). -/
def execGangStallTimeout (gid : Nat) (s : State) : Out :=
  match s.group? gid with
  | none => .next s
  | some g =>
    match g.hold with
    | some h =>
      if h.kind.isGang && s.onCore g && decide (h.since + 2 ^ 22 ≤ s.cycle) then .next (s.stall gid 0x12 2 0) else .next s
    | none => .next s

/-- Members held at the latch that list an ended group. -/
def State.abandoned (s : State) (g : Group) : List (Nat × Group) :=
  s.groups.filter fun e => e.2.team == g.team && e.2.hold.any (fun h => h.kind.isGang) && hasLane e.2.gang g.gix && s.onCore e.2

/-- GANG_PARTNER_ENDED (R317): `gid` has ended. -/
def execGangPartnerEnded (gid : Nat) (s : State) : Out :=
  match s.group? gid with
  | none => .next s
  | some g =>
    if g.ended then .next ((s.abandoned g).foldl (fun s e => s.stall e.1 0x12 1 0) s) else .next s

/-! ### Accumulator banks (R318 to R320) -/

def State.grid? (s : State) (k : Nat) : Option Grid := Tab.get? s.grids k

/-- ACCB of a kernel on a core; 17 to 31 act as 16 (10 Table 5). -/
def State.accb (s : State) (k core : Nat) : Nat :=
  match s.grid? k with
  | some g => min 16 (g.quotaField core 49 5)
  | none => 0

/-- Banks that a kernel's teams hold on a core. -/
def State.kernelBanks (s : State) (k core : Nat) : Nat :=
  (s.banks.filter fun e => e.1 / 16 == core && (Tab.get? s.teams e.2).any fun t => t.grid == k).length

/-- ACCAL. -/
def execAccal (o : Ops) (m : BitVec 20) (s : State) : Out :=
  issue1 .all o (Instr.accal o m).sig s fun e =>
    e.once fun _ =>
      let n := e.a e.first % 2 ^ 32
      if n = 0 then e.trap 0x13 2 e.first
      else if n > 16 ∨ n > e.s.accb e.g.grid e.g.core then e.trap 0x13 1 e.first
      else e.holdFor { e.s with accReqs := e.s.accReqs ++ [⟨e.g.core, e.u.gid, n, o.dst.toNat⟩] } (.accal n)

/-- Does the request wait? A freeze and a recovery job's hold stop the wait (R328; 17 R447), and a spilled group waits on no core. -/
def State.accWaits (s : State) (r : AccReq) : Bool :=
  (s.group? r.gid).any fun g => !s.frozen g.ctx && !s.scopeHeld g.ctx &&
    (Tab.get? s.clusters g.cluster).any fun c => c.phase == .resident || c.phase == .preempted

/-- Does its kernel's ACCB permit the request? -/
def State.accPermitted (s : State) (r : AccReq) : Bool :=
  s.accWaits r && (s.group? r.gid).any fun g => decide (s.kernelBanks g.grid r.core + r.n ≤ s.accb g.grid r.core)

/-- The lowest run of `n` free banks of a core. -/
def State.freeBanks (s : State) (core n : Nat) : Option Nat :=
  (List.range (17 - n)).find? fun b => (List.range n).all fun i => !Tab.has s.banks (16 * core + b + i)

/-- Key of an element of an accumulator tile: 8192 elements to a bank (06 R138). -/
def accKey (core tile r c : Nat) : Nat := ((core * 32 + tile) * 64 + r) * 64 + c

/-- Banks become the team's, their elements zero. -/
def State.takeBanks (s : State) (core b n team : Nat) : State :=
  let inside := fun k => decide (accKey core (2 * b) 0 0 ≤ k) && decide (k < accKey core (2 * (b + n)) 0 0)
  { s with
    banks := (List.range n).foldl (fun t i => Tab.set t (16 * core + b + i) team) s.banks
    acc := Tab.keep s.acc fun k _ => !inside k
    accBad := s.accBad.filter fun k => !inside k }

/-- The request that a core grants next, and its lowest bank. -/
def State.accNext (s : State) (core : Nat) : Option (AccReq × Nat) :=
  match s.accReqs.find? fun r => r.core == core && s.accPermitted r with
  | none => none
  | some r => (s.freeBanks core r.n).map fun b => (r, b)

/-- ACCAL_GRANT (R318). -/
def execAccalGrant (core : Nat) (s : State) : Out :=
  match s.accNext core with
  | none => .next s
  | some (r, b) =>
    match s.group? r.gid with
    | none => .next s
    | some g =>
      let s := { s.takeBanks core b r.n g.team with accReqs := s.accReqs.filter fun q => q.gid != r.gid }
      .next ((s.setGroup r.gid (g.setSr r.dst (BitVec.ofNat 64 b))).releaseGroup r.gid)

/-- ACCFREE (R320). -/
def execAccfree (o : Ops) (m : BitVec 20) (s : State) : Out :=
  issue1 .all o (Instr.accfree o m).sig s fun e =>
    e.once fun _ =>
      let a := e.a e.first % 2 ^ 32
      let n := e.b e.first % 2 ^ 32
      let held := fun i => Tab.get? e.s.banks (16 * e.g.core + a + i) == some e.g.team
      if 1 ≤ n ∧ n ≤ 16 ∧ a + n ≤ 16 ∧ (List.range n).all held = true then
        e.finish { e.s with banks := (List.range n).foldl (fun t i => Tab.erase t (16 * e.g.core + a + i)) e.s.banks } e.g
      else e.trap 0xF 3 e.first

/-- A team is blocked (R319, 10 R292). -/
def State.teamBlocked (s : State) (t : Nat) : Bool :=
  (s.openGroups t).all fun e =>
    (match e.2.hold with
      | some h => (match h.kind with | .accal _ | .barrier _ _ | .gang _ => true | _ => false)
      | none => false) ||
    (Tab.get? s.clusters e.2.cluster).any fun c => c.phase == .preempted || c.phase == .spilled

/-- Every team that holds a bank of the core is blocked while a request waits: the youngest request is withdrawn. -/
def State.breakDeadlock (s : State) (core : Nat) : State :=
  let holders := (s.banks.filter fun e => e.1 / 16 == core).map (·.2)
  match (s.accReqs.filter fun r => r.core == core && s.accWaits r).getLast? with
  | none => s
  | some r => if (s.accNext core).isNone && holders.all s.teamBlocked then s.stall r.gid 0x14 0 0 else s

def State.breakDeadlocks (s : State) : State :=
  ((s.accReqs.map (·.core)).eraseDups).foldl State.breakDeadlock s

end Sys2Proof.Machine
end

