-- ==== Sys2Proof/Machine/Matrix.lean ====
section
/-! DEFINITION. The matrix array's stores and arithmetic: operand-buffer records (06 R134 to R137), accumulator tiles
(R138, R139), Q4 blocks (04 R88 to R90), summation (04 R95 to R98), claims (06 R143, R144), products (R154 to R158), top-k
(04 R99), and the value checks of 06 Table 6.
What rests on the model rather than on the plain words of the manual: log 3 (DESIGN CHOICE), log 6 (DEDUCED), log 47
(DEDUCED). -/

namespace Sys2Proof.Machine

/-! ### Records (06 R134 to R137) -/

/-- The record that a handle or reference names. -/
def State.obRec (s : State) (core h : Nat) : ObRec := Tab.read ObRec.zero s.ob (core * 32 + h % 32)
def State.setRec (s : State) (core h : Nat) (r : ObRec) : State :=
  { s with ob := Tab.set s.ob (core * 32 + h % 32) r }

def handleGen (h : Nat) : Nat := h / 32 % 2048

def ObRec.ty (r : ObRec) : MatTy := .ofBits (BitVec.ofNat 3 r.fmt)
def ObRec.pitch (r : ObRec) : Nat := 4 * r.kb * r.ty.width
def ObRec.rows (r : ObRec) : Nat := (if r.ty = .q4 then r.soff else r.size * 1024) / r.pitch

/-- Address of byte `off` of a record in `obMem`: 512 KiB to a core. -/
def obAddr (core : Nat) (r : ObRec) (off : Nat) : Nat := core * 524288 + r.start * 1024 + off

/-- Words of the operand buffer written whole lose their poison (17 R431). -/
def State.obCover (s : State) (a n : Nat) : State :=
  { s with obBad := s.obBad.filter fun w => !(decide (a ≤ 4 * w) && decide (4 * w + 4 ≤ a + n)) }

def State.obWrite (s : State) (core : Nat) (r : ObRec) (off : Nat) (bs : List Byte) : State :=
  { s with obMem := Memory.setBytes s.obMem (obAddr core r off) bs }.obCover (obAddr core r off) bs.length

def State.obNum (s : State) (core : Nat) (r : ObRec) (off n : Nat) : Nat := Memory.num s.obMem (obAddr core r off) n

/-- Fields of a tile reference (Table 2). -/
def refRow (ref : Nat) : Nat := bitsOf ref 16 16
def refK0 (ref : Nat) : Nat := bitsOf ref 32 9

/-! ### Value checks (06 Table 6) -/

/-- A failed check: cause, detail, TADDR, TAUX. -/
structure Bad where
  cause : Nat
  detail : Nat
  addr : Nat := 0
  aux : Nat := 0

def badIf (c : Bool) (cause detail : Nat) : Option Bad := if c then some { cause := cause, detail := detail } else none

/-- The first failed check. -/
def firstBad (l : List (Option Bad)) : Option Bad := l.findSome? id

/-- Order 1: the handle; TAUX holds it. -/
def State.handleBad (s : State) (core team ref : Nat) : Option Bad :=
  let h := ref % 65536
  let r := s.obRec core h
  if handleGen h ≠ r.gen then some { cause := 0xD, detail := 2, aux := h }
  else if !r.live then some { cause := 0xD, detail := 1, aux := h }
  else if r.team ≠ team then some { cause := 0xD, detail := 3, aux := h }
  else none

/-- Order 2, reserved bits of a reference. -/
def refReserved (ref : Nat) : Option Bad := badIf (ref / 2 ^ 41 != 0) 0xE 1

/-- Order 2, rows and blocks of a reference: `rows` rows, `k` elements of each. -/
def State.refRange (s : State) (core ref rows k : Nat) : Option Bad :=
  let r := s.obRec core ref
  badIf (decide (r.kb ≤ refK0 ref) || decide (32 * (r.kb - refK0 ref) < k) || decide (r.rows < refRow ref + rows)) 0xE 2

/-- Descriptor fields (Table 3). -/
def descT (d : Nat) : Nat := d % 32
def descM (d : Nat) : Nat := bitsOf d 5 6 + 1
def descN (d : Nat) : Nat := bitsOf d 11 6 + 1
def descK (d : Nat) : Nat := bitsOf d 17 13 + 1
def descZero (d : Nat) : Bool := bitsOf d 30 1 == 1

/-- Order 3: a tile's bank. -/
def State.tileBad (s : State) (core team tile : Nat) : Option Bad :=
  badIf (Tab.get? s.banks (16 * core + tile / 2) != some team) 0xF 1

/-- Order 4: a local range. -/
def State.lmRange (s : State) (team a n : Nat) : Option Bad :=
  if s.lmSize team < a + n then some { cause := 7, detail := 2, addr := a } else none

/-- An entry of an index vector (R152): reserved bits, alignment. -/
def entReserved (es : List (Option Nat)) : Option Bad :=
  badIf (es.any fun e => e.any fun x => bitsOf x 22 9 != 0) 0xE 1
def entAlign (es : List (Option Nat)) : Option Bad :=
  badIf (es.any fun e => e.any fun x => x / 2 ^ 31 == 0 && x % 16 != 0) 0xE 5

/-! ### Element values (04 R88 to R90, R97) -/

/-- Magnitude of a signed code in halves (Table 5). -/
def codeMag (ty c : Nat) : Nat :=
  (match ty with
    | 1 => [0, 1, 2, 3, 4, 6, 8, 12]
    | 2 => [0, 2, 4, 8, 16, 32, 64, 128]
    | _ => [0, 2, 4, 6, 8, 10, 16, 24]).getD (c % 8) 0

/-- Two's complement of a code. -/
def codeInt (c : Nat) : Int := if c % 16 < 8 then (c % 16 : Nat) else (c % 16 : Nat) - 16

/-- Decode(c) × 2^(e − 31) for a scale byte; a NaN block gives NaN. -/
def q4Val (scale c : Nat) : FVal :=
  let e : Int := (scale % 64 : Nat) - 31
  if scale % 64 = 63 then .nan false
  else if scale / 64 % 4 = 0 then .fin (decide (codeInt c < 0)) (codeInt c).natAbs e false
  else .fin (decide (8 ≤ c % 16)) (codeMag (scale / 64 % 4) c) (e - 1) false

/-- A row of elements: their format, the bits of the row, and the scale bytes of its blocks. `none`: a row of MMAG that has no data,
whose products are zero (06 R156). -/
structure MatRow where
  ty : MatTy
  raw : Nat
  scales : Nat
  none : Bool

def MatRow.code (r : MatRow) (i : Nat) : Nat := r.raw / 2 ^ (r.ty.width * i) % 2 ^ r.ty.width
def MatRow.scale (r : MatRow) (i : Nat) : Nat := r.scales / 256 ^ (i / 32) % 256

/-- Element `i` as a number for F32 accumulation. -/
def MatRow.val (r : MatRow) (i : Nat) : FVal :=
  match r.ty with
  | .f16 => FloatTy.f16.read (r.code i)
  | .b16 => FloatTy.b16.read (r.code i)
  | .e4m3 => FloatTy.e4m3.read (r.code i)
  | .e5m2 => FloatTy.e5m2.read (r.code i)
  | .f32 => FloatTy.f32.read (r.code i)
  | .s8 => .ofInt (IntTy.s8.val (r.code i))
  | .n8 => .ofInt (IntTy.n8.val (r.code i))
  | .q4 => q4Val (r.scale i) (r.code i)

/-- Element `i` as an integer for S32 accumulation (R97). -/
def MatRow.int (r : MatRow) (i : Nat) : Int :=
  match r.ty with
  | .s8 => IntTy.s8.val (r.code i)
  | .n8 => IntTy.n8.val (r.code i)
  | .q4 => if r.scale i % 64 = 63 then 0 else codeInt (r.code i)
  | _ => 0

/-- Is one of the first `k` elements in a NaN block? -/
def MatRow.nanBlock (r : MatRow) (k : Nat) : Bool :=
  r.ty == .q4 && (List.range ((k + 31) / 32)).any fun j => r.scale (32 * j) % 64 == 63

/-- Row `m` of a reference: `k` elements from block K0. -/
def State.obRow (s : State) (core ref m k : Nat) : MatRow :=
  let r := s.obRec core ref
  let row := refRow ref + m
  let raw := s.obNum core r (row * r.pitch + 4 * refK0 ref * r.ty.width) ((k * r.ty.width + 7) / 8)
  let sc := if r.ty = .q4 then s.obNum core r (r.soff + row * r.kb + refK0 ref) ((k + 31) / 32) else 0
  ⟨r.ty, raw, sc, false⟩

/-- Row of an index vector's entry, from local memory as the instruction sees it (R156). -/
def gatherRow (lm : Memory) (ty : MatTy) (e : Option Nat) (k : Nat) : MatRow :=
  match e with
  | some x => if x / 2 ^ 31 = 1 then ⟨ty, 0, 0, true⟩ else ⟨ty, Memory.num lm (x % 2 ^ 22) (k * ty.width / 8), 0, false⟩
  | none => ⟨ty, 0, 0, true⟩

/-! ### Summation (04 R95 to R98) -/

/-- G. -/
def groupLen (dist : Bool) (a b : MatTy) : Nat :=
  if dist then 32
  else if a = .f32 ∨ b = .f32 then 4
  else if a.width = 16 ∨ b.width = 16 then 16
  else 32

/-- One exact term. The difference of two infinities of one sign is NaN, which sets NV: the spec is silent (DEDUCED, log 47). -/
def termF (dist : Bool) (x y : FVal) : FVal :=
  if dist then
    let d := (exactSum .rn [x, y.neg]).1
    (d.mul d).1
  else (x.mul y).1

/-- A group sum (R96); an exact sum of zero is +0. -/
def groupSum (ts : List FVal) : FVal × W32 :=
  let r := exactSum .rn ts
  (if r.1.isZero then .zero false else r.1, r.2 ||| flagIf (ts.any FVal.isNan) fNV)

/-- Indices of group `j`. -/
def groupIx (g k j : Nat) : List Nat := (List.range (min g (k - j * g))).map fun i => j * g + i

/-- F32 accumulation over `k` terms. -/
def dotF (dist : Bool) (g k : Nat) (a b : MatRow) (init : Nat) : Res :=
  (List.range ((k + g - 1) / g)).foldl (fun r j =>
    let x := groupSum ((groupIx g k j).map fun i => if a.none then .zero false else termF dist (a.val i) (b.val i))
    let t := fAdd .f32 .rn false (FloatTy.f32.read r.bits) x.1
    ⟨t.bits, r.flags ||| t.flags ||| x.2⟩) ⟨init, 0⟩

def termI (dist : Bool) (x y : Int) : Int := if dist then (x - y) * (x - y) else x * y

/-- The exact sum of group `j`. -/
def groupSumI (dist : Bool) (g k j : Nat) (a b : MatRow) : Int :=
  (groupIx g k j).foldl (fun n i => n + termI dist (a.int i) (b.int i)) 0

/-- The first `n` updates of an S32 or S64 accumulation, saturating. -/
def sumI (t : IntTy) (dist : Bool) (g k n : Nat) (a b : MatRow) (init : Nat) : Res :=
  (List.range n).foldl (fun r j =>
    let y := t.deliver true (t.val r.bits + groupSumI dist g k j a b)
    ⟨y.bits, r.flags ||| y.flags⟩) ⟨init, 0⟩

/-- S32 or S64 accumulation over `k` terms. -/
def dotI (t : IntTy) (dist : Bool) (g k : Nat) (a b : MatRow) (init : Nat) : Res :=
  sumI t dist g k ((k + g - 1) / g) a b init

/-- (acc + Sg) mod 255 of the last update, before it saturates (R103). -/
def residueI (t : IntTy) (dist : Bool) (g k : Nat) (a b : MatRow) (init : Nat) : Nat :=
  let last := (k + g - 1) / g - 1
  ((t.val (sumI t dist g k last a b init).bits + groupSumI dist g k last a b) % 255).toNat

/-! ### Tiles -/

def State.elem (s : State) (core tile m n : Nat) : W32 := Tab.read 0 s.acc (accKey core tile m n)
def State.setElem (s : State) (core tile m n : Nat) (v : W32) : State :=
  { s with acc := Tab.write 0 s.acc (accKey core tile m n) v, accBad := s.accBad.filter fun k => k != accKey core tile m n }

/-- Results of a region: row, column, value, flags. -/
abbrev Cells := List (Nat × Nat × Res)

def cellFlags (c : Cells) : W32 := c.foldl (fun f x => f ||| x.2.2.flags) 0

/-- Write a region of one tile. -/
def State.setCells (s : State) (core tile : Nat) (c : Cells) : State :=
  c.foldl (fun s x => s.setElem core tile x.1 x.2.1 (BitVec.ofNat 32 x.2.2.bits)) s

/-- Coordinates of an M × N region. -/
def tileRegion (m n : Nat) : List (Nat × Nat) := (List.range m).flatMap fun i => (List.range n).map fun j => (i, j)

/-! ### Products (06 R154 to R158) -/

def Product.wide (p : Product) : Bool := p.op == 1
def Product.dist (p : Product) : Bool := p.op == 2
def Product.gathers (p : Product) : Bool := p.op == 3
def Product.k (p : Product) : Nat := descK p.desc
def Product.tiles (p : Product) : List Nat :=
  if p.wide then [descT p.desc, descT p.desc + 1] else [descT p.desc]

/-- Handles whose records the product consumes (R143). -/
def Product.uses (p : Product) : List Nat :=
  if p.gathers then [p.b % 65536] else [p.a % 65536, p.b % 65536]

/-- Checks 1 to 4 of Table 6. -/
def State.productBad (s : State) (core team : Nat) (p : Product) : Option Bad :=
  let m := descM p.desc
  let n := descN p.desc
  let a := fun x => if p.gathers then none else x
  let fmtBad := fun (ref : Nat) (t : MatTy) => badIf ((s.obRec core ref).ty != t) 0xE 3
  firstBad [
    a (s.handleBad core team p.a), s.handleBad core team p.b,
    a (refReserved p.a), refReserved p.b, entReserved p.ents,
    a (s.refRange core p.a m p.k), s.refRange core p.b n p.k,
    a (fmtBad p.a p.af), fmtBad p.b p.bf,
    entAlign p.ents,
    badIf (p.desc / 2 ^ 31 % 2 == 1 || (p.wide && descT p.desc % 2 == 1)) 0xF 2,
    s.tileBad core team (descT p.desc),
    p.ents.findSome? fun e => match e with
      | some x => if x / 2 ^ 31 = 1 then none else s.lmRange team (x % 2 ^ 22) (p.k * p.af.width / 8)
      | none => none]

/-- Row `m` of A. -/
def State.aRow (s : State) (core : Nat) (lm : Memory) (p : Product) (m : Nat) : MatRow :=
  if p.gathers then gatherRow lm p.af (p.ents.getD m none) p.k else s.obRow core p.a m p.k

/-- What an element starts from. -/
def State.start (s : State) (core : Nat) (p : Product) (m n : Nat) : Nat :=
  let t := descT p.desc
  if descZero p.desc then 0
  else (s.elem core t m n).toNat + (if p.wide then 2 ^ 32 * (s.elem core (t + 1) m n).toNat else 0)

/-- One element of the product. -/
def Product.cell (p : Product) (a b : MatRow) (init : Nat) : Res :=
  let g := groupLen p.dist p.af p.bf
  let r := if p.acc then dotI (if p.wide then .s64 else .s32) p.dist g p.k a b init else dotF p.dist g p.k a b init
  let nanBlock := a.nanBlock p.k || b.nanBlock p.k
  Res.orFlags r (flagIf nanBlock fDQNAN)

/-- Is a word that row `m` of a reference reads poisoned (17 R430)? -/
def State.obRowBad (s : State) (core ref m k : Nat) : Bool :=
  let r := s.obRec core ref
  let row := refRow ref + m
  let hits := fun off n => s.obBad.any fun w => rangesMeet (obAddr core r off) n (4 * w) 4
  hits (row * r.pitch + 4 * refK0 ref * r.ty.width) ((k * r.ty.width + 7) / 8) ||
  (r.ty == .q4 && hits (r.soff + row * r.kb + refK0 ref) ((k + 31) / 32))

/-- Is a cell of a tile's region poisoned? -/
def State.cellsBad (s : State) (core tile : Nat) (region : List (Nat × Nat)) : Bool :=
  !s.accBad.isEmpty && region.any fun x => s.accBad.contains (accKey core tile x.1 x.2)

/-- Would the product consume poison of the operand buffer or of accumulator memory (17 R432)? -/
def State.productPoison (s : State) (core : Nat) (p : Product) : Bool :=
  let m := descM p.desc
  let n := descN p.desc
  (!s.obBad.isEmpty && ((!p.gathers && (List.range m).any fun i => s.obRowBad core p.a i p.k) ||
    (List.range n).any fun j => s.obRowBad core p.b j p.k)) ||
  (!descZero p.desc && p.tiles.any fun t => s.cellsBad core t (tileRegion m n))

/-- Every element of the product, m first and then n; `lm` is local memory as the instruction sees it. -/
def State.product (s : State) (core : Nat) (lm : Memory) (p : Product) : Cells :=
  (tileRegion (descM p.desc) (descN p.desc)).map fun x =>
    (x.1, x.2, p.cell (s.aRow core lm p x.1) (s.obRow core p.b x.2 p.k) (s.start core p x.1 x.2))

/-- The results are written: one tile, or a pair for MMAW. -/
def State.writeProduct (s : State) (core : Nat) (p : Product) (c : Cells) : State :=
  let s := s.setCells core (descT p.desc) c
  if p.wide then s.setCells core (descT p.desc + 1) (c.map fun x => (x.1, x.2.1, ⟨x.2.2.bits / 2 ^ 32, 0⟩)) else s

/-! ### Claims (06 R143, R144) -/

/-- A record's COUNT is too small for the claims of a list of handles, or the record is gone. -/
def State.exhausted (s : State) (core : Nat) (hs : List Nat) (h : Nat) : Bool :=
  let r := s.obRec core h
  !(r.live && r.gen == handleGen h) || (!r.unc && decide (r.count < (hs.filter fun x => x == h).length))

/-- Claims are taken and the results written: a counted record whose COUNT reaches zero is freed. -/
def State.claim (s : State) (core : Nat) (hs : List Nat) : State :=
  hs.foldl (fun s h =>
    let r := s.obRec core h
    if r.unc then s
    else if r.count ≤ 1 then s.setRec core h { r with count := 0 }.free
    else s.setRec core h { r with count := r.count - 1 }) s

/-! ### Shadow units of the array (04 R103, R104; 17 R435) -/

def Product.unit (p : Product) : Nat := if p.acc then (if p.wide then 5 else 4) else 3

/-- What the shadow unit sees of a delivered value of format `t`, and of element (m, n) of a product: of an integer accumulation the
residue of its last update, where the spec does not say which update's (DEDUCED, log 6). -/
def seesFloat (t : FloatTy) (_m _n x : Nat) : Shadowed := .float t x
def State.seesProduct (s : State) (core : Nat) (lm : Memory) (p : Product) (m n x : Nat) : Shadowed :=
  if p.acc then
    .residue (residueI (if p.wide then .s64 else .s32) p.dist (groupLen p.dist p.af p.bf) p.k (s.aRow core lm p m)
      (s.obRow core p.b n p.k) (s.start core p m n))
  else .float .f32 x

/-- The record of a second mismatch of an array operation, with the element that it names; `see` says what is checked of one. -/
def State.arrayShadow (s : State) (c : Cells) (unit src ctx core : Nat) (see : Nat → Nat → Nat → Shadowed) (pc : W64) : BitVec 256 :=
  let n := s.freeCount
  let i := Config.shadowElem n % c.length
  match c.drop i |>.head? with
  | some x =>
    let k := see x.1 x.2.1 x.2.2.bits
    shadowRecord (x.2.2.bits % 2 ^ 32) (k.shadow n) k.key (x.1 + 64 * x.2.1) unit pc src ctx core
  | none => shadowRecord 0 0 0 0 unit pc src ctx core

/-- The record goes to the context's queue and to the system's. -/
def State.postShadow (s : State) (ctx : Nat) (r : BitVec 256) : State :=
  (({ s with freeCount := s.freeCount + 1, shadow := 0 }).postEq ctx r).postSys r

/-- The flag of a retry that passes. -/
def State.retryFlag (s : State) : W32 := flagIf (s.shadow == 1) fRETRY

/-- A checked operation passes. -/
def State.passed (s : State) (core : Nat) : State := if s.shadow = 0 then s else s.retryPassed core

/-- A checked instruction of the bundle: it traps at a second mismatch, and otherwise goes on with the retry's flag. -/
def Env.arrayCheck (e : Env) (c : Cells) (unit : Nat) (see : Nat → Nat → Nat → Shadowed) (k : State → W32 → Out) : Out :=
  if e.s.shadow ≤ 1 ∨ c.isEmpty = true then k (e.s.passed e.g.core) e.s.retryFlag
  else
    let r := e.s.arrayShadow c unit 0 e.g.ctx e.g.core see e.u.pc
    .next ((e.s.postShadow e.g.ctx r).raise e.u.gid ⟨0x15, 0, e.first, e.u.pc, 0, r.setWidth 64, e.bundle⟩)

/-! ### Top-k (04 R99; 06 R163) -/

/-- Does candidate `a` rank before `b`? Candidates are (index, pattern). Several NaNs rank by ascending index among
themselves: R99 orders only equal values so (DEDUCED, log 47). -/
def ranksBefore (int low : Bool) (a b : Nat × Nat) : Bool :=
  let tie := decide (a.1 < b.1)
  let by_ := fun (o : Ordering) => match o with
    | .eq => tie
    | .lt => low
    | .gt => !low
  if int then by_ (compare (IntTy.s32.val a.2) (IntTy.s32.val b.2))
  else
    let x := FloatTy.f32.read a.2
    let y := FloatTy.f32.read b.2
    if x.isNan then y.isNan && tie
    else if y.isNan then true
    else match x.cmp y with
      | some o => by_ o
      | none => tie

def rankInsert (int low : Bool) (x : Nat × Nat) : List (Nat × Nat) → List (Nat × Nat)
  | [] => [x]
  | y :: ys => if ranksBefore int low x y then x :: y :: ys else y :: rankInsert int low x ys

/-- The first `k` of the order, filled up. -/
def topK (int low : Bool) (k : Nat) (c : List (Nat × Nat)) : List (Nat × Nat) :=
  let r := c.foldl (fun l x => rankInsert int low x l) []
  (List.range k).map fun i => r.getD i (0xFFFFFFFF, if int then 0x80000000 else 0x7FC00000)

/-- One row of output: k indices, and k values under VAL. -/
def topKBytes (val : Bool) (r : List (Nat × Nat)) : List Byte :=
  (r.flatMap fun x => leBytes 4 x.1) ++ (if val then r.flatMap fun x => leBytes 4 x.2 else [])

/-- x × 2^s; beyond ±5000 the result no longer depends on s. -/
def scaleBy (v : FVal) (x : Int) : FVal :=
  let k := if x < -5000 then -5000 else if 5000 < x then 5000 else x
  match v with
  | .fin n m e st => .fin n m (e + k) st
  | v => v

end Sys2Proof.Machine
end

