-- ==== Sys2Proof/Machine/Bulk.lean ====
section
/-! DEFINITION. Accesses of whole ranges, as engines and matrix-path instructions make them: page by page, acting on
memory at once; and watchpoint strikes of engine writes (17 R452, R454).
What rests on the model rather than on the plain words of the manual: log 10 (DEDUCED), log 12 (DEDUCED), log 34 (DEDUCED).
-/

namespace Sys2Proof.Machine

/-- A range cut at 4 KiB pages. -/
def splitPages (va : W64) (n : Nat) : List (W64 × Nat) :=
  let off := va.toNat % 4096
  if n = 0 then [] else
  (List.range ((off + n + 4095) / 4096)).map fun i =>
    if i = 0 then (va, min n (4096 - off))
    else (va + BitVec.ofNat 64 (4096 * i - off), min 4096 (n - (4096 * i - off)))

/-- Accesses to ranges, in order. -/
def rangeAccs (lane : Nat) (lanes : W32) (k : AccKind) (rs : List (W64 × Nat)) : List Acc :=
  rs.flatMap fun r => (splitPages r.1 r.2).map fun p => ⟨lane, lanes, p.1, p.2, k⟩

/-- Bytes of placed accesses, in order. -/
def State.pull (s : State) (ps : List Placed) : List Byte := ps.flatMap fun p => s.homeRead p.pa p.acc.size

/-- Each line touched counts (14 R388). -/
def State.touch (s : State) (ps : List Placed) : State := ps.foldl (fun s p => s.countAccess p.pa p.acc.size) s

/-- The first placed access that finds poison. -/
def State.badPlace (s : State) (ps : List Placed) : Option Placed := ps.find? fun p => s.poisoned p.pa p.acc.size

/-- The clocks of what is read go to the reader's die (07 R181). -/
def State.learnFrom (s : State) (d : Nat) (ps : List Placed) : State :=
  s.learn d (ps.foldl (fun c p => joinClock c (s.clockAt p.pa p.acc.size)) [])

/-- A read on behalf of a context: each line counts, and the reader's die learns. -/
def State.touchRead (s : State) (d : Nat) (ps : List Placed) : State := (s.touch ps).learnFrom d ps

/-- Must an access of a placed range wait behind a table write (13 R346)? -/
def State.waitsLine (s : State) (p : Placed) : Bool :=
  s.tableWrites.any fun t =>
    decide (128 * t.line < p.pa + p.acc.size) && decide (p.pa < 128 * t.line + 128) && !t.hits p.ents

/-- Must die `d`'s access of a placed range wait: for a host copy, behind a table write, or for writes on their way that its
clock tells of (07 R178, R181)? -/
def State.waitsAt (s : State) (d : Nat) (write : Bool) (p : Placed) : Bool :=
  s.hostWaits write p.pa p.acc.size || s.waitsLine p || s.clockWaits d p.pa

/-- The recalls that placed accesses wait for are sent. -/
def State.askAt (s : State) (write : Bool) (ps : List Placed) : State := ps.foldl (fun s p => s.ask write p.pa p.acc.size) s

/-- Bytes that die `d` writes for context `c` at placed accesses, in order. -/
def State.push (s : State) (d c : Nat) : List Placed → List Byte → State
  | [], _ => s
  | p :: ps, bs =>
    (s.writeAll d p.pa (bs.take p.acc.size) (.own c p.ents) (bs.length + 1)).push d c ps (bs.drop p.acc.size)

/-- Writes as the comparators see them. -/
def writesAt (ps : List Placed) : List Write := ps.map writeOf

/-- WATCH_ENGINE_TRAP (R454): a group on its core takes the strikes that are pending for it. -/
def execWatchEngineTrap (gid : Nat) (s : State) : Out :=
  .next (if (s.group? gid).any s.onCore then s.takeWatch gid else s)

end Sys2Proof.Machine
end

