-- ==== Sys2Proof/Machine/Calls.lean ====
section
/-! DEFINITION. Device-side launch (11 R321, R322) and steward calls (R323 to R326; 14 R387).
What rests on the model rather than on the plain words of the manual: log 15 (DEDUCED). -/

namespace Sys2Proof.Machine

/-! ### LAUNCH -/

/-- Word `n` of 64 bytes. -/
def wordOf (bs : List Byte) (n : Nat) : Nat := leNat ((bs.drop (8 * n)).take 8)

/-- Slots of a producer block's ring: QLOG2 4 to 16, every other value acts as 0 (10 Table 1). -/
def blockSlots (blk : List Byte) : Nat := 2 ^ ringLog (bitsOf (wordOf blk 4) 0 5) 16

/-- The accesses that LAUNCH translates beside its block. -/
def launchAccs (lane : Nat) (ls : W32) (blk : List Byte) : List Acc :=
  rangeAccs lane ls .read [(BitVec.ofNat 64 (wordOf blk 1), 8)] ++
  rangeAccs lane ls .write [(BitVec.ofNat 64 (wordOf blk 3), 8)] ++
  rangeAccs lane ls .write [(BitVec.ofNat 64 (wordOf blk 2), 64 * blockSlots blk)]

/-- Physical address of byte `off` of placed pieces, with the table entries that its translation derives from. -/
def pieceAt : List Placed → Nat → Nat × List Nat
  | [], _ => (0, [])
  | p :: ps, off => if off < p.acc.size then (p.pa + off, p.ents) else pieceAt ps (off - p.acc.size)
def placedAt (ps : List Placed) (off : Nat) : Nat := (pieceAt ps off).1

/-- FSCOPE of a packet. -/
def fscopeOf : Nat → Scope
  | 0 => .modul
  | 1 => .domain
  | _ => .system

/-- The slot is filled and the queue notified: words 1 to 7, then word 0 with VALID, then QNOTIFY. -/
def State.fillSlot (s : State) (d c : Nat) (blk slot qnot : Nat × List Nat) (w : Nat) (packet : List Byte) : State :=
  let s := s.writeAll d blk.1 (leBytes 8 (w + 1)) (.own c blk.2) 2
  let s := s.writeAll d (slot.1 + 8) (packet.drop 8) (.own c slot.2) 3
  let s := s.writeAll d slot.1 (leBytes 8 (wordOf packet 0 ||| 1)) (.own c slot.2) 2
  s.writeAll d qnot.1 (leBytes 8 (w + 1)) (.own c qnot.2) 2

/-- LAUNCH, everything checked: `blk` is its block, and `ps` are RIDXA, QNOTA and the ring. A release wider than MODULE waits for every
write that the die knows of (07 R183, R185). -/
def Env.launch (e : Env) (s : State) (dst : Nat) (p : Placed) (blk packet : List Byte) (ps : List Placed) : Out :=
  match ps with
  | r :: q :: ring =>
    let w := wordOf blk 0
    let ridx := leNat (s.homeRead r.pa 8)
    let n := blockSlots blk
    let d := coreDie e.g.core
    let full := (w + 2 ^ 64 - ridx) % 2 ^ 64 ≥ n
    let known := joinClock (s.clockOf d) (joinClock (s.clockAt p.pa 8) (s.clockAt r.pa 8))
    if ¬full ∧ farScope (fscopeOf (bitsOf (wordOf packet 0) 4 2)) ∧ s.tellsOf known then e.blockAt s .tick
    else
      let s := ((s.countAccess p.pa 8).learn d (s.clockAt p.pa 8)).touchRead d [r]
      if full then e.setScalar s dst 1
      else
        let slot := pieceAt ring (w % n * 64)
        let s := (s.countAccess slot.1 64).countAccess q.pa 8
        e.setScalar (s.fillSlot d e.g.ctx (p.pa, p.ents) slot (q.pa, q.ents) w packet) dst 0
  | _ => e.setScalar s dst 1

/-- The alignment of QBASE (10 R265), checked after the canonical form of every address and the alignment of RIDXA and QNOTA. -/
def qbaseBad (blk : List Byte) (accs : List Acc) (bases : List (Nat × W64)) : Bool :=
  (accs.all fun a => canonical a.va) && (bases.all fun b => b.2.toNat % 8 == 0) && wordOf blk 2 % (64 * blockSlots blk) != 0

/-- What LAUNCH checks before its first translation, in the order of 08 Table 2: the block's address, the packet's range, and the
alignment of both. -/
def Env.launchChecks (e : Env) (a : W64) (b : Nat) (k : Unit → Out) : Out :=
  if !canonical a then e.trapAux 7 1 e.first a 0
  else
    e.localCheck [(e.first, b, 64)] [] 1 fun _ =>
      if a.toNat % 64 ≠ 0 then e.trapAux 8 (alignDetail 64) e.first a 0
      else e.localCheck [] [(e.first, b)] 16 k

/-- LAUNCH (R322): the group's earlier accesses are performed first, and then the whole sequence is made at once. -/
def execLaunch (o : Ops) (m : BitVec 20) (s : State) : Out :=
  issue1 .all o (Instr.launch o m).sig s fun e =>
    e.once fun _ =>
      let a := BitVec.ofNat 64 (e.a e.first)
      let b := e.b e.first % 2 ^ 32
      if !(e.s.inFlight e.u.gid (BitVec.allOnes 32)).isEmpty then e.holdFor e.s .drain
      else
        e.launchChecks a b fun _ =>
          e.access [⟨e.first, e.mask, a, 64, .both⟩] [] 1 fun s bp =>
            match bp with
            | [] => e.commit e.g
            | p :: _ =>
              let e := { e with s := s }
              let blk := s.homeRead p.pa 64
              let bases := [(e.first, BitVec.ofNat 64 (wordOf blk 1)), (e.first, BitVec.ofNat 64 (wordOf blk 3))]
              let accs := launchAccs e.first e.mask blk
              if s.waitsAt (coreDie e.g.core) true p then e.blockAt (s.askAt true [p]) .tick
              else if s.poisoned p.pa 64 then .next { (s.reportBad p.pa 0).lose e.g.ctx 1 e.g.core p.acc.va p.pa with cur := none }
              else if qbaseBad blk accs bases then
                e.trapAux 8 (alignDetail (64 * blockSlots blk)) e.first (BitVec.ofNat 64 (wordOf blk 2)) 0
              else
                e.access accs bases 8 fun s ps =>
                  let e := { e with s := s }
                  if ps.any (s.waitsAt (coreDie e.g.core) true) then e.blockAt (s.askAt true ps) .tick
                  else if s.lmBad e.g.team b 64 then e.loseLocal
                  else
                    match s.badPlace (ps.take 1) with
                    | some r => .next { (s.reportBad r.pa 0).lose e.g.ctx 1 e.g.core r.acc.va r.pa with cur := none }
                    | none =>
                      let v := s.lmLook true e.g.team
                      e.launch v.1 o.dst.toNat p blk (Memory.bytes v.2 b 64) ps

/-! ### Steward calls -/

/-- The call completes. -/
def State.endCall (s : State) (c : Call) (result status : W64) : State :=
  { s with
    calls := s.calls.filter fun x => x.id != c.id
    results := s.results ++ [⟨c.gid, [(.scal c.dst, result), (.scal (c.dst + 1), status)], false⟩] }

/-- Call ring fields (14 Table 11). -/
def State.crLog (s : State) (c : Nat) : Nat := ringLog (s.field c 3 416 5) 12
/-- The index of the next call: those posted, and those that wait to be performed. -/
def State.crNext (s : State) (c : Nat) : Nat := s.field c 3 384 32 + s.pendRecords c 2
def State.crFull (s : State) (c : Nat) : Bool :=
  s.crLog c == 0 || decide ((s.crNext c + 2 ^ 32 - s.field c 3 352 32) % 2 ^ 32 = 2 ^ s.crLog c)
def State.crSlot (s : State) (c : Nat) : Nat :=
  let lg := s.crLog c
  s.field c 3 448 64 / 2 ^ (6 + lg) * 2 ^ (6 + lg) + 64 * (s.crNext c % 2 ^ lg)

/-- The packet of a call (14 R387). -/
def callPacket (c : Call) (core gix : Nat) : List Byte :=
  leBytes 8 (ofFields [(32, 32, c.tag), (13, 1, 1), (12, 1, if c.strong then 1 else 0), (0, 12, c.svc)]) ++
  leBytes 8 (ofFields [(32, 10, core), (12, 10, c.ctx), (0, 5, gix)]) ++
  leBytes 8 c.pc.toNat ++ leBytes 8 c.arg0.toNat ++ leBytes 8 c.arg1.toNat ++ leBytes 24 0

/-- Is the call free to be posted: the accesses before it performed, and earlier strong calls answered? -/
def State.callReady (s : State) (c : Call) : Bool :=
  c.posted.isNone && !s.frozen c.ctx && !s.scopeHeld c.ctx &&
  !((s.inFlight c.gid (BitVec.allOnes 32)).any fun r => decide (r.tag < c.id)) &&
  !(c.strong && s.calls.any fun x => x.gid == c.gid && x.strong && decide (x.id < c.id))

/-- Post a call, or begin its wait at a full ring. -/
def State.postCall (s : State) (c : Call) : State :=
  if !s.callReady c then s
  else
    let put := fun (d : Call) => { s with calls := s.calls.map fun x => if x.id = c.id then d else x }
    if s.crFull c.ctx then (if c.since.isSome then s else put { c with since := some s.gtime })
    else
      let a := s.crSlot c.ctx
      if s.structOk c.ctx a then
        match s.group? c.gid with
        | some g => (put { c with posted := some s.gtime }).writeRecord (coreDie g.core) c.ctx 2 a (callPacket c g.core g.gix)
        | none => s
      else s.freeze c.ctx 4 3 0x3FF 0 a 0 true

/-- Calls that can be posted are posted, oldest first. -/
def State.postCalls (s : State) : State := s.calls.foldl State.postCall s

def State.callsOf (s : State) (gid : Nat) : List Call := s.calls.filter fun c => c.gid == gid

/-- SCALL (R323, R324): the ninth call of a group is held at issue. -/
def execScall (o : Ops) (m : BitVec 20) (s : State) : Out :=
  issue1 .all o (Instr.scall o m).sig s fun e =>
    e.once fun _ =>
      if 8 ≤ (e.s.callsOf e.u.gid).length then e.holdFor e.s .scall
      else
        let d := o.dst.toNat
        let c : Call :=
          { id := e.s.nextId, gid := e.u.gid, ctx := e.g.ctx, tag := e.s.tag, svc := (m.extractLsb' 0 12).toNat,
            strong := m.getLsbD 12, arg0 := BitVec.ofNat 64 (e.a e.first), arg1 := BitVec.ofNat 64 (e.b e.first), pc := e.u.pc,
            dst := d, since := none, posted := none }
        let s := { e.s with nextId := e.s.nextId + 1, tag := (e.s.tag + 1) % 2 ^ 32, calls := e.s.calls ++ [c] }
        match ({ e with winOver := 0 }).finish s (e.g.await [.scal d, .scal (d + 1)] e.winOver) with
        | .next s => .next (s.postCall c)
        | x => x

/-- SCWAIT (R326). -/
def execScwait (o : Ops) (m : BitVec 20) (s : State) : Out :=
  issue1 .all o (Instr.scwait o m).sig s fun e =>
    e.once fun _ => if (e.s.callsOf e.u.gid).isEmpty then e.commit e.g else e.holdFor e.s .scwait

/-- SCALL_RING_TIMEOUT: the ring has stayed full for 1 ms. -/
def execScallRingTimeout (n : Nat) (s : State) : Out :=
  match s.calls[n]? with
  | none => .next s
  | some c =>
    match c.since with
    | some t =>
      if c.posted.isNone && decide (t + 1000000 ≤ s.gtime) && !s.frozen c.ctx && s.crFull c.ctx then
        .next (s.endCall c 0 0xFFFFFFFFFFFFFFFE)
      else .next s
    | none => .next s

/-- SCALL_REPLY_TIMEOUT: no reply within 100 ms of posting. -/
def execScallReplyTimeout (n : Nat) (s : State) : Out :=
  match s.calls[n]? with
  | none => .next s
  | some c =>
    match c.posted with
    | some t =>
      if decide (t + 100000000 ≤ s.gtime) && !s.frozen c.ctx then .next (s.endCall c 0 0xFFFFFFFFFFFFFFFF) else .next s
    | none => .next s

/-- STEWARD_REPLY (14 R387): a reply that matches no call, or a frozen context's, is discarded. -/
def execStewardReply (w : Words4) (s : State) : Out :=
  match s.calls.find? fun c => c.posted.isSome && c.tag == bitsOf w.w0.toNat 32 32 && c.ctx == bitsOf w.w0.toNat 0 10 with
  | some c => if s.frozen c.ctx then .next s else .next (s.endCall c w.w1 w.w2).postCalls
  | none => .next s

end Sys2Proof.Machine
end

