-- ==== Sys2Proof/Machine/Pool.lean ====
section
/-! DEFINITION. Expert buffers: fill pools, FBWAIT and the Gleaner's fills (11 R313 to R315).
What rests on the model rather than on the plain words of the manual: log 14 (DEDUCED). -/

namespace Sys2Proof.Machine

/-! ### Pools -/

def State.setAtom (s : State) (p i : Nat) (a : Atom) : State :=
  { s with pool := Tab.modify s.pool p fun l => l.set i a }

/-- Virtual address of buffer `b` (14 Table 10). -/
def State.bufferVa (s : State) (p b : Nat) : W64 := s.poolW p 1 + BitVec.ofNat 64 (b * (s.poolW p 2).toNat)

/-- Results of FBWAIT: value in sD, status in sD+1. -/
def fbResult (dst : Nat) (v : W64) (status : Nat) : List (DReg × W64) :=
  [(.scal dst, v), (.scal (dst + 1), BitVec.ofNat 64 status)]

/-- Physical address of a fill-barrier atom (14 Table 10). -/
def State.fillAtomPa (s : State) (p i : Nat) : Nat := ((s.poolW p 3).toNat / 32 + i) * 32

/-- A pin is taken, and the atom becomes the one pinned last. -/
def State.pin (s : State) (p i : Nat) : State :=
  let a := s.atomOf p i
  { s.setAtom p i { a with pins := a.pins + 1, used := s.nextId } with nextId := s.nextId + 1 }

/-! ### FBWAIT (R314, R315) -/

/-- The atom that a physical address names for a context (Table 6, status 3). -/
def State.atomFor (s : State) (c pa : Nat) : Option (Nat × Nat) :=
  if pa % 32 = 0 then
    match s.poolOfAtom (pa / 32) with
    | some x => if s.poolCtx x.1 = c then some x else none
    | none => none
  else none

/-- The address is translated as a load's is. -/
def Env.fillAtom (e : Env) (k : State → Option (Nat × Nat) → Out) : Out :=
  e.access [⟨e.first, e.mask, BitVec.ofNat 64 (e.a e.first), 1, .read⟩] [] 1 fun s ps =>
    match ps with
    | p :: _ => k s (s.atomFor e.g.ctx p.pa)
    | [] => k s none

def execFbwait (o : Ops) (m : BitVec 20) (s : State) : Out :=
  issue1 .all o (Instr.fbwait o m).sig s fun e =>
    e.once fun _ =>
      let d := o.dst.toNat
      e.fillAtom fun s x =>
        match x with
        | none => e.result s e.g (fbResult d 0 3)
        | some (p, i) =>
          let a := s.atomOf p i
          if a.state = 2 then
            -- the fill of the buffer happened before
            e.result ((s.learn (coreDie e.g.core) (s.clockAt (s.fillAtomPa p i) 32)).pin p i) e.g (fbResult d a.bufa 0)
          else
            let w := (e.u.gid, d, e.b e.first % 2 ^ 32)
            let s :=
              if a.state = 0 then
                { s.setAtom p i { a with state := 1 } with fills := s.fills ++ [⟨p, i, s.gtime, none, [w]⟩] }
              else
                { s with fills := s.fills.map fun f =>
                    if f.pool = p ∧ f.atom = i then { f with waiters := f.waiters ++ [w] } else f }
            ({ e with winOver := 0 }).finish s (e.g.await [.scal d, .scal (d + 1)] e.winOver)

/-- FBWAIT.REL waits until the group's accesses are performed. -/
def execFbwaitRel (o : Ops) (m : BitVec 20) (s : State) : Out :=
  issue1 .all o (Instr.fbwaitRel o m).sig s fun e =>
    e.once fun _ =>
      let d := o.dst.toNat
      e.fillAtom fun s x =>
        if !(s.inFlight e.u.gid (BitVec.allOnes 32)).isEmpty then e.holdFor s .drain
        else
          match x with
          | none => e.result s e.g (fbResult d 0 3)
          | some (p, i) =>
            let a := s.atomOf p i
            if a.pins = 0 then e.result s e.g (fbResult d 0 4)
            else e.result (s.setAtom p i { a with pins := a.pins - 1 }) e.g (fbResult d 0 1)

/-! ### Fills (R314) -/

/-- A fill ends with a status that is not 0: every waiter completes, and the expert is absent. -/
def State.failFill (s : State) (f : Fill) (status : Nat) : State :=
  let a := s.atomOf f.pool f.atom
  let more := if status = 2 then f.waiters.foldl (fun n w => n + w.2.2) 0 else 0
  let s := s.setAtom f.pool f.atom { a with state := 0, bufa := 0, noroom := min (2 ^ 32 - 1) (a.noroom + more) }
  { s with
    fills := s.fills.filter fun x => x != f
    bufOwner := match f.buf with | some b => Tab.erase s.bufOwner (256 * f.pool + b) | none => s.bufOwner
    results := s.results ++ f.waiters.map fun w => ⟨w.1, fbResult w.2.1 0 status, false⟩ }

/-- The expert is resident: the waiters complete in order, each with a pin. The buffer's bytes happen before what their groups do
next: the atom keeps the clock of the fill, and their dies learn it. -/
def State.endFill (s : State) (f : Fill) (b : Nat) : State :=
  let a := s.atomOf f.pool f.atom
  let va := s.bufferVa f.pool b
  let c := s.clockOf 8
  let s := f.waiters.foldl (fun s w => match s.group? w.1 with | some g => s.learn (coreDie g.core) c | none => s)
    (s.stampAt (s.fillAtomPa f.pool f.atom) 32 c)
  let s := s.setAtom f.pool f.atom
    { a with state := 2, buf := b, bufa := va, pins := a.pins + f.waiters.length, used := s.nextId }
  { s with
    nextId := s.nextId + 1
    fills := s.fills.filter fun x => x != f
    results := s.results ++ f.waiters.map fun w => ⟨w.1, fbResult w.2.1 va 0, false⟩ }

/-- A free buffer of a pool, or the buffer of the unpinned resident expert pinned least recently, with that expert. -/
def State.chooseBuffer (s : State) (p : Nat) : Option (Nat × Option Nat) :=
  match (List.range (s.poolBuffers p)).find? fun b => !Tab.has s.bufOwner (256 * p + b) with
  | some b => some (b, none)
  | none =>
    let free := (Tab.read [] s.pool p).zipIdx.filter fun a => a.1.state == 2 && a.1.pins == 0
    match free with
    | [] => none
    | a :: as =>
      let v := as.foldl (fun (m : Atom × Nat) x => if x.1.used < m.1.used then x else m) a
      some (v.1.buf, some v.2)

/-- The fill takes a buffer; a victim becomes absent. -/
def State.takeBuffer (s : State) (f : Fill) (b : Nat) (victim : Option Nat) : State :=
  let s := match victim with
    | some i => s.setAtom f.pool i { s.atomOf f.pool i with state := 0, bufa := 0 }
    | none => s
  { s with
    bufOwner := Tab.set s.bufOwner (256 * f.pool + b) f.atom
    fills := s.fills.map fun x => if x = f then { f with buf := some b } else x }

/-- The Gleaner as a walker for a context: it is the sharer 8 of the directory (13 Table 5). -/
def gleanerAsker (c : Nat) : Asker := ⟨8, c, 3, 0x3FF, 0, false⟩

/-- A fault of the Gleaner's own on a remote-marked page, unless one is being served. -/
def State.ownFault (s : State) (c : Nat) (va : W64) (lvl e epa : Nat) : State :=
  let m : MissArg := ⟨0, c, va, .read, epa, lvl, BitVec.ofNat 64 e, 0, .group (2 ^ 64) 0 false⟩
  let r := s.faultRecord m false 0
  if s.faultIn.contains r || s.services.any fun x => x.ctx == c && x.page == pageOf va then s
  else { s with faultIn := s.faultIn ++ [r] }

/-- Bytes are copied with the poison of their source (17 R431). -/
def State.copyPoison (s : State) (src dst : List Placed) : State :=
  let bad := (src.flatMap fun p => (List.range p.acc.size).map fun i => s.poisonedAt (p.pa + i)).zip
    (dst.flatMap fun p => (List.range p.acc.size).map fun i => p.pa + i)
  bad.foldl (fun s x => if x.1 then s.markWritten x.2 else s) s

/-- The fill itself: the source is read and the buffer written through the context's translation. -/
def State.runFill (s : State) (f : Fill) (b : Nat) : State :=
  let a := s.atomOf f.pool f.atom
  let c := s.poolCtx f.pool
  let rd := rangeAccs 0 0 .read [(a.src, a.len)]
  let wr := rangeAccs 0 0 .write [(s.bufferVa f.pool b, a.len)]
  match s.check (gleanerAsker c) (rd ++ wr) [] 1 with
  | .ok s ps =>
    let src := ps.take rd.length
    let dst := ps.drop rd.length
    if (src.any (s.waitsAt 8 false)) || dst.any (s.waitsAt 8 true) then (s.askAt false src).askAt true dst
    else (((s.learnFrom 8 src).push 8 c dst (s.pull src)).copyPoison src dst).endFill f b
  | .miss s acc lvl e epa => if entryRemote e then s.ownFault c acc.va lvl e epa else s.failFill f 5
  | .trap s _ _ _ _ _ => s.failFill f 5
  | .wait s => s
  | .stop s => s

/-- EXPERT_FILL_COMPLETE: the fill takes a buffer, and completes when its source can be read. -/
def execExpertFillComplete (n : Nat) (s : State) : Out :=
  match s.fills[n]? with
  | none => .next s
  | some f =>
    if s.frozen (s.poolCtx f.pool) then .next s
    else
      match f.buf with
      | some b => .next (s.runFill f b)
      | none =>
        match s.chooseBuffer f.pool with
        | none => .next s
        | some (b, v) => .next ((s.takeBuffer f b v).runFill { f with buf := some b } b)

/-- FILL_NOROOM_TIMEOUT. -/
def execFillNoroomTimeout (n : Nat) (s : State) : Out :=
  match s.fills[n]? with
  | none => .next s
  | some f =>
    if f.buf.isNone && (s.chooseBuffer f.pool).isNone && decide (f.t0 + 1000000 ≤ s.gtime) && !s.frozen (s.poolCtx f.pool)
    then .next (s.failFill f 2) else .next s

/-- FILL_SOURCE_TIMEOUT. -/
def execFillSourceTimeout (n : Nat) (s : State) : Out :=
  match s.fills[n]? with
  | none => .next s
  | some f =>
    if decide (f.t0 + 50000000 ≤ s.gtime) && !s.frozen (s.poolCtx f.pool) then .next (s.failFill f 5) else .next s

/-- The Gleaner declines a page: the fills that read it complete with status 5. -/
def State.failFills (s : State) (c page : Nat) : State :=
  (s.fills.filter fun f =>
    let a := s.atomOf f.pool f.atom
    s.poolCtx f.pool == c && (rangeAccs 0 0 .read [(a.src, a.len)]).any fun x => pageOf x.va == page).foldl
    (fun s f => s.failFill f 5) s

end Sys2Proof.Machine
end

