-- ==== Sys2Proof/Machine/Message.lean ====
section
/-! DEFINITION. Messages (08 R237 to R241).
What rests on the model rather than on the plain words of the manual: log 8 (DEDUCED). -/

namespace Sys2Proof.Machine

/-- Teams of the group's cluster. -/
def State.clusterTeams (s : State) (c : Nat) : List Nat := ((Tab.get? s.clusters c).map (·.teams)).getD []

/-- Sends of a team's engine that are not delivered. -/
def State.sendsOf (s : State) (t : Nat) : Nat := (s.sends.filter fun x => x.src == t).length

/-- Put a send of `data` into the team's engine. -/
def State.queueSend (s : State) (t dst box daddr : Nat) (data : List Byte) (node : Option (Nat × Nat)) : State :=
  match Tab.get? s.teams t with
  | none => s
  | some x =>
    { s with
      nextId := s.nextId + 1
      sends := s.sends ++ [⟨s.nextId, x.ctx, t, dst, x.teamix, box, daddr, data, s.cycle, node⟩] }

/-- MSEND (R238). -/
def execMsend (o : Ops) (m : BitVec 20) (s : State) : Out :=
  issue1 .all o (Instr.msend o m).sig s fun e =>
    e.once fun _ =>
      let n := ((m.extractLsb' 8 12).toNat + 1) * 16
      let src := Ops.localBase o (e.a e.first)
      let dst := e.b e.first % 2 ^ 32
      match (e.s.clusterTeams e.g.cluster)[(m.extractLsb' 0 4).toNat]? with
      | none => e.trap 0x1A 0 e.first
      | some dest =>
        e.localCheck [(e.first, src, n)] [(e.first, src), (e.first, dst)] 16 fun _ =>
          -- a FENCEX of the team with Y = MESSAGE holds it as it holds a send node (R230)
          if e.s.fenced e.g.team 3 then e.blockAt e.s .tick
          else if e.s.sendsOf e.g.team ≥ 16 then e.holdFor e.s .msend
          else if e.s.lmBad e.g.team src n then e.loseLocal
          else
            let v := e.s.lmLook false e.g.team
            e.finish (v.1.queueSend e.g.team dest (m.extractLsb' 4 4).toNat dst (Memory.bytes v.2 src n) none) e.g

/-- MRECV (R240). -/
def execMrecv (o : Ops) (m : BitVec 20) (s : State) : Out :=
  issue1 .all o (Instr.mrecv o m).sig s fun e => e.once fun _ => e.await o (.mrecv (m.extractLsb' 0 4).toNat)

/-- MPROBE (R241). -/
def execMprobe (o : Ops) (m : BitVec 20) (s : State) : Out :=
  issue1 .all o (Instr.mprobe o m).sig s fun e =>
    e.once fun _ =>
      e.setScalar e.s o.dst.toNat (BitVec.ofNat 64 (e.s.boxOf e.g.team (m.extractLsb' 0 4).toNat).recs.length)

/-- MRECV_TIMEOUT (R240). -/
def execMrecvTimeout (n : Nat) (s : State) : Out :=
  match s.pendings[n]? with
  | none => .next s
  | some p =>
    match p.kind with
    | .mrecv _ => if s.pendingOver p then .next (s.answer p (BitVec.ofNat 64 (2 ^ 63))) else .next s
    | _ => .next s

/-- MESSAGE_STALL (R238): 2^22 cycles of waiting for the engine. -/
def execMessageStall (gid : Nat) (s : State) : Out :=
  match s.group? gid with
  | none => .next s
  | some g =>
    match g.hold with
    | some h =>
      if h.kind == .msend && s.onCore g && decide (h.since + 2 ^ 22 ≤ s.cycle) then .next (s.stall gid 0x1B 0 0)
      else .next s
    | none => .next s

/-- 08 Table 5. -/
def arrivalRecord (err : Bool) (daddr src n : Nat) : W64 :=
  BitVec.ofNat 64 (ofFields [(62, 1, if err then 1 else 0), (32, 22, daddr), (28, 4, src), (0, 17, n)])

/-- Bytes counted, saturating (11 R310). -/
def satAdd32 (a : W32) (n : Nat) : W32 := BitVec.ofNat 32 (min (2 ^ 32 - 1) (a.toNat + n))

/-- What delivering a send does to its receiver, or none while it waits there (R239, 11 R310). -/
def Team.receive (t : Team) (x : Send) : Option Team :=
  let b := t.box x.box
  let n := x.data.length
  let err := decide (t.lmSize < x.daddr + n)
  if !err && b.armed then some ((t.enginePut 3 x.daddr x.data).setBox x.box { b with bcnt := satAdd32 b.bcnt n })
  else if b.recs.length ≥ 8 then none
  else
    let recs := b.recs ++ [arrivalRecord err x.daddr x.srcIx n]
    if err then some (t.setBox x.box { b with recs := recs })
    else some ((t.enginePut 3 x.daddr x.data).setBox x.box { b with recs := recs, bcnt := satAdd32 b.bcnt n })

/-- Is an earlier send of the same team to the same mailbox undelivered? -/
def State.sendBehind (s : State) (n : Nat) (x : Send) : Bool :=
  (s.sends.take n).any fun y => y.src == x.src && y.dst == x.dst && y.box == x.box

/-- Delivery of send `n`, if it can happen now. -/
def State.deliverSend (s : State) (n : Nat) : Option State :=
  match s.sends[n]? with
  | none => none
  | some x =>
    if s.sendBehind n x || s.frozen x.ctx then none
    else
      match Tab.get? s.teams x.dst with
      | none => some { s with sends := s.sends.eraseIdx n }
      | some t =>
        if t.ended then some { s with sends := s.sends.eraseIdx n }
        else if t.spilled then none
        else (t.receive x).map fun t => { s with sends := s.sends.eraseIdx n, teams := Tab.set s.teams x.dst t }

/-- MESSAGE_DELIVERY (R239). -/
def execMessageDelivery (n : Nat) (s : State) : Out :=
  match s.deliverSend n with
  | none => .next s
  | some s => .next s.servePendings

end Sys2Proof.Machine
end

