-- ==== Sys2Proof/Machine/Drill.lean ====
section
/-! DEFINITION. Furrow slots and their entries: what the drill keeps, writes back and decides (08 R242, R246 to R258).
What rests on the model rather than on the plain words of the manual: log 8 (DEDUCED), log 12 (DEDUCED). -/

namespace Sys2Proof.Machine

/-! ### Entries (R247, R248) -/

def Words4.hdr (e : Words4) : Nat := e.w0.toNat
def Words4.kind (e : Words4) : Nat := bitsOf e.w0.toNat 0 4
def Words4.flag (e : Words4) (i : Nat) : Bool := e.w0.getLsbD i
def Words4.succ0 (e : Words4) : Nat := bitsOf e.w0.toNat 16 6
def Words4.succ1 (e : Words4) : Nat := bitsOf e.w0.toNat 22 6

/-- Local address of entry `ix`. -/
def Furrow.at (f : Furrow) (ix : Nat) : Nat := f.base + ix % f.len * 32

/-- An entry as it stands in local memory. -/
def Team.entry (t : Team) (f : Furrow) (ix : Nat) : Words4 :=
  let w := fun i => BitVec.ofNat 64 (Memory.num t.lm (f.at ix + 8 * i) 8)
  ⟨w 0, w 1, w 2, w 3⟩

/-- Bits that W1, W2 and W3 of a kind may set, and its FLAGS bits (Table 8). -/
def entryMask (kind : Nat) : Nat × Nat × Nat × Nat :=
  let all := 2 ^ 64 - 1
  let idx := 2 ^ 44 - 1
  let rows := (2 ^ 32 - 1) * 2 ^ 32 + 0xFFF * 2 ^ 16 + 0x1FFF
  match kind with
  | 0 => (0, all, all, 2 ^ 32 - 1)
  | 1 => (3, all, idx, rows)
  | 2 => (2, all, idx, rows)
  | 3 => (0, all, 0, 0)
  | 4 => (1, all, 0xFFFF0FFFFFFF, 0xFF7F)
  | 5 => (0, all, 63, 0x7F)
  | 6 => (3, all, 2 ^ 34 - 1, (2 ^ 32 - 1) * 2 ^ 32 + 2 ^ 22 - 1)
  | 7 => (0, 2 ^ 50 - 1, 2 ^ 41 - 1, 2 ^ 32 - 1)
  | 8 => (0, 2 ^ 22 - 1, 0, 0x1FFFF)
  | 9 => (0, 2 ^ 32 - 1, all, 0)
  | _ => (1, all, all, 0)

/-- A reserved KIND, or a reserved bit that is set. -/
def entryReservedBit (e : Words4) : Bool :=
  let m := entryMask (Words4.kind e)
  decide (10 < Words4.kind e) || bitsOf (Words4.hdr e) 56 8 != 0 || bitsOf (Words4.hdr e) 28 4 != 0 ||
  (bitsOf (Words4.hdr e) 4 4 ||| m.1) != m.1 || (e.w1.toNat ||| m.2.1) != m.2.1 || (e.w2.toNat ||| m.2.2.1) != m.2.2.1 ||
  (e.w3.toNat ||| m.2.2.2) != m.2.2.2

/-- Fields of a gather or scatter. -/
def gRows (e : Words4) : Nat := bitsOf e.w3.toNat 0 13
def gRowb (e : Words4) : Nat := (bitsOf e.w3.toNat 16 12 + 1) * 16
def gPitch (e : Words4) : Nat := bitsOf e.w3.toNat 32 32
def gList (e : Words4) : Nat := bitsOf e.w2.toNat 0 22
def gLocal (e : Words4) : Nat := bitsOf e.w2.toNat 22 22

/-- Fields of a near-memory top-k. -/
def nRows (e : Words4) : Nat := bitsOf e.w2.toNat 22 12 + 1
def nCols (e : Words4) : Nat := bitsOf e.w3.toNat 0 16
def nK (e : Words4) : Nat := bitsOf e.w3.toNat 16 6 + 1
def nPitch (e : Words4) : Nat := bitsOf e.w3.toNat 32 32
def nBytes (e : Words4) : Nat := nK e * (if Words4.flag e 5 then 8 else 4)
def nRow (e : Words4) (m : Nat) : W64 := e.w1 + BitVec.ofNat 64 (m * nPitch e)

/-- Bytes of a send, and lines of a fill or release. -/
def sendBytes (e : Words4) : Nat := (bitsOf e.w1.toNat 52 12 + 1) * 16
def fillLines (e : Words4) : Nat := bitsOf e.w2.toNat 22 6 + 1
def relLines (e : Words4) : Nat := bitsOf e.w2.toNat 0 6 + 1
/-- LEN of a copy. -/
def copyLen (e : Words4) : Nat := bitsOf e.w3.toNat 0 32

/-- An L address word that selects local memory, and its local address. -/
def isL (w : W64) : Bool := w.getLsbD 63
def lAddr (w : W64) : Nat := bitsOf w.toNat 0 22
/-- The global address of an L address word: none where bits 62:57 are not all bit 56. -/
def gAddr? (w : W64) : Option W64 :=
  let a := sext64 57 w.toNat
  if bitsOf w.toNat 57 6 = bitsOf a.toNat 57 6 then some a else none

/-- Local ranges (address, bytes, alignment) of an entry. -/
def entryLocals (e : Words4) : List (Nat × Nat × Nat) :=
  match Words4.kind e with
  | 0 => (if isL e.w1 then [(lAddr e.w1, copyLen e, 1)] else []) ++ (if isL e.w2 then [(lAddr e.w2, copyLen e, 1)] else [])
  | 1 | 2 => [(gList e, 4 * gRows e, 4), (gLocal e, gRows e * gRowb e, 16)]
  | 3 => [(lAddr e.w1, sendBytes e, 16)]
  | 4 => [(lAddr e.w2, 128 * fillLines e, 16)]
  | 6 => [(lAddr e.w2, nRows e * nBytes e, 4)]
  | 9 => [(lAddr e.w1, 8, 8)]
  | 10 => if isL e.w1 then [(lAddr e.w1, 8, 8)] else []
  | _ => []

/-- An L word that selects local memory has bits 62:22 zero. -/
def lReserved (w : W64) : Bool := isL w && bitsOf w.toNat 22 41 != 0

/-- Fields within their ranges, addresses aligned, at most 65,536 bytes of global writes (R250). -/
def entryFields (e : Words4) (ix : Nat) : Bool :=
  match Words4.kind e with
  | 0 => decide (1 ≤ copyLen e) && decide (copyLen e ≤ 2 ^ 22) && (isL e.w2 || decide (copyLen e ≤ 65536)) &&
      !lReserved e.w1 && !lReserved e.w2
  | 1 => decide (1 ≤ gRows e) && decide (gRows e ≤ 4096)
  | 2 => decide (1 ≤ gRows e) && decide (gRows e ≤ 4096) && decide (gRows e * gRowb e ≤ 65536)
  | 3 => bitsOf e.w1.toNat 22 22 % 16 == 0
  | 4 => bitsOf e.w2.toNat 32 16 != 0 && e.w1.toNat % (if Words4.flag e 4 then 32 else 128) == 0
  | 5 => e.w1.toNat % 128 == 0
  | 6 => decide (4 * nCols e ≤ 65536) &&
      (List.range (nRows e)).all fun m => decide ((nRow e m).toNat % 65536 + 4 * nCols e ≤ 65536)
  | 7 => decide (bitsOf e.w1.toNat 41 2 < 3) &&
      productOk (bitsOf e.w1.toNat 41 2) (e.w1.getLsbD 49) (.ofBits (e.w1.extractLsb' 43 3)) (.ofBits (e.w1.extractLsb' 46 3))
  | 8 => bitsOf e.w1.toNat 0 16 != 0 && bitsOf e.w1.toNat 16 6 != 0 && decide (bitsOf e.w1.toNat 16 6 ≤ ix)
  | 9 => decide (bitsOf e.w1.toNat 22 4 ≤ 5) && bitsOf e.w1.toNat 26 6 != 0
  | 10 => e.w1.toNat % 8 == 0 && !lReserved e.w1
  | _ => true

/-- Does a successor lie past the next loop or condition entry before TAIL? -/
def Team.succBad (t : Team) (f : Furrow) (e : Words4) (ix : Nat) : Bool :=
  (List.range (max (Words4.succ0 e) (Words4.succ1 e))).any fun i =>
    i != 0 && decide (ix + i < f.tail) &&
    (Words4.kind (t.entry f (ix + i)) == 8 || Words4.kind (t.entry f (ix + i)) == 9)

/-- The entry is admitted (R250). -/
def Team.entryOk (t : Team) (f : Furrow) (e : Words4) (ix : Nat) : Bool :=
  !entryReservedBit e && entryFields e ix && !t.succBad f e ix &&
  (entryLocals e).all fun r => r.1 % r.2.2 == 0 && decide (r.1 + r.2.1 ≤ t.lmSize)

/-! ### Slots -/

def State.setFurrow (s : State) (k : Nat) (f : Furrow) : State := { s with furrows := Tab.set s.furrows k f }
def State.modFurrow (s : State) (k : Nat) (g : Furrow → Furrow) : State := { s with furrows := Tab.modify s.furrows k g }

/-- A slot that has never been opened. -/
def Furrow.init : Furrow :=
  { team := 0, gid := 0, gen := 1, opened := false, base := 0, len := 1, cw := 0, cur := 0, admitted := 0, tail := 0, seq := 0, state := 0,
    hidx := 0, limit := none, ending := false, paused := false, nodes := [], heldDec := [] }

/-- HEAD: the oldest unfinished entry (R242). -/
def Furrow.head (f : Furrow) : Nat :=
  match f.nodes with
  | [] => f.cur
  | n :: ns => ns.foldl (fun a x => min a x.ix) n.ix

/-- STATE of FRSTAT (Table 6). -/
def Furrow.stat (f : Furrow) : Nat := if f.state = 0 ∧ f.cur = f.tail ∧ f.nodes = [] then 1 else f.state

/-- The FRSTAT word. -/
def State.frstat (s : State) (f : Furrow) : W64 :=
  let lost := ((Tab.get? s.teams f.team).map (·.msgLost)).getD 0
  BitVec.ofNat 64 (ofFields [(32, 32, f.seq), (24, 8, lost), (8, 12, f.hidx), (0, 8, f.stat)])

/-- The slot that a handle names for a team; none for a stale handle. -/
def State.furrowOf (s : State) (core team h : Nat) : Option (Nat × Furrow) :=
  let k := 16 * core + h % 16
  match Tab.get? s.furrows k with
  | some f => if f.opened && f.team == team && h / 16 == f.gen then some (k, f) else none
  | none => none

/-- May the drill admit the entry at CUR now (R250)? -/
def Furrow.admits (f : Furrow) : Bool :=
  f.opened && f.state == 0 && !f.ending && decide (f.cur < f.tail) && f.limit.all (fun l => decide (f.cur < l)) &&
  decide (f.nodes.length < 64) && !(f.nodes.any fun n => n.kind == 8 || n.kind == 9) &&
  !(f.nodes.any fun n => n.ix % f.len == f.cur % f.len)

/-- No node runs, is ready or parked, while one is unfinished (R257). -/
def Furrow.stalls (f : Furrow) : Bool :=
  f.opened && f.state == 0 && !f.nodes.isEmpty && f.nodes.all (fun n => n.phase == .waiting && n.live != 0)

/-- The completion word. -/
def State.writeCw (s : State) (f : Furrow) (v : Nat) : State :=
  s.lmEngine 1 f.team (f.cw * 8) (leBytes 8 v)

/-- After a change of a slot: it stalls, or it is freed (R244, R257, R258). -/
def State.settleFurrow (s : State) (k : Nat) : State :=
  match Tab.get? s.furrows k with
  | none => s
  | some f =>
    let f := if f.stalls then { f with state := 3, hidx := f.head % f.len } else f
    let s := s.setFurrow k f
    let free := fun (s : State) => s.setFurrow k f.free
    if !f.opened then s
    else if f.ending then (if f.busy then s else free s)
    else
      match f.limit with
      | none => s
      | some l =>
        if f.state = 0 ∧ f.nodes = [] ∧ l ≤ f.cur then free (s.writeCw f (f.seq % 2 ^ 63 + 2 ^ 63))
        else if (f.state = 2 ∨ f.state = 3) ∧ f.busy = false then free (s.writeCw f (f.seq % 2 ^ 62 + 2 ^ 62 + 2 ^ 63))
        else s

/-- A node halts its furrow (R256, R257): STATUS, CAUSE and DETAIL are written, and its buffered writes are discarded. -/
def State.haltNode (s : State) (k ix status cause detail : Nat) : State :=
  match Tab.get? s.furrows k with
  | none => s
  | some f =>
    let s := s.modTeam f.team fun t => t.setStatus f ix status cause (detail % 256)
    let f := (if f.state = 0 then { f with state := 2, hidx := ix % f.len } else f).modNode ix fun n =>
      { n with phase := .halted, buf := [] }
    (s.setFurrow k f).settleFurrow k

/-- STATUS of a cause (Table 9; 16 R411). -/
def statusOf (cause : Nat) : Nat :=
  if cause = 3 ∨ cause = 9 ∨ cause = 0xA then 2
  else if cause = 7 ∨ cause = 8 ∨ cause = 0xB then 3
  else if cause = 0xC then 4
  else 5

/-! ### Admission (R250, R251) -/

/-- The unfinished nodes of which the entry at position `p` is a successor learn what became of it: the admission that it is, or
that it was skipped (R251). -/
def Furrow.tell (f : Furrow) (p : Nat) (heard : Option Nat) : Furrow :=
  { f with nodes := f.nodes.map fun m =>
      let off := p - m.ix
      if m.ix < p ∧ (off = Words4.succ0 m.ent ∨ off = Words4.succ1 m.ent) ∧ (m.succAt.all fun x => x.1 != off) then
        { m with succAt := (off, heard) :: m.succAt }
      else m }

/-- Admit or reject the entry at CUR. -/
def State.admitEntry (s : State) (k : Nat) (f : Furrow) (t : Team) : State :=
  let ix := f.cur
  let e := t.entry f ix
  if t.entryOk f e ix then
    let n : Node :=
      { ix := ix, num := f.admitted, live := bitsOf e.w0.toNat 8 8 - Tab.read 0 f.heldDec ix, phase := .waiting, kind := Words4.kind e, ent := e,
        sent := false, res := 0, buf := [], fin := ⟨0, none, true⟩ }
    let f := f.tell ix (some f.admitted)
    s.setFurrow k { f with cur := ix + 1, admitted := f.admitted + 1, nodes := f.nodes ++ [n], heldDec := Tab.erase f.heldDec ix }
  else (s.modTeam f.team fun t => t.setStatus f ix 1 0 0).setFurrow k { f with state := 2, hidx := ix % f.len }

/-- DRILL_ADMIT. -/
def execDrillAdmit (core i : Nat) (s : State) : Out :=
  let k := 16 * core + i
  match Tab.get? s.furrows k with
  | none => .next s
  | some f =>
    match Tab.get? s.teams f.team with
    | none => .next s
    | some t =>
      if f.admits && !s.frozen t.ctx then
        let v := s.lmLook false f.team
        .next ((v.1.admitEntry k f { t with lm := v.2 }).settleFurrow k)
      else .next s

/-! ### Finishing (R251, R255) -/

/-- The live count of the successor `off` entries on falls; a decrement is held for the position of one that has not been admitted
since the node was, and discarded for one that has finished or was skipped. -/
def Furrow.decrement (f : Furrow) (n : Node) (off : Nat) : Furrow :=
  if off = 0 then f
  else
    match n.succAt.find? fun x => x.1 == off with
    | some (_, some j) => { f with nodes := f.nodes.map fun m => if m.num = j then { m with live := m.live - 1 } else m }
    | some (_, none) => f
    | none => { f with heldDec := Tab.set f.heldDec (n.ix + off) (Tab.read 0 f.heldDec (n.ix + off) + 1) }

/-- Bytes of W3 that a kind names as written back (Table 8). -/
def backBytes (kind : Nat) : Nat :=
  match kind with
  | 4 => 2
  | 5 => 1
  | _ => 3

/-- The node finishes: entry, SEQ and completion word, successors. -/
def State.finishNode (s : State) (k : Nat) (f : Furrow) (n : Node) : State :=
  let f1 := { f with seq := (f.seq + 1) % 2 ^ 64, nodes := f.nodes.filter fun m => m.ix != n.ix }
  let f2 := if n.fin.go then (f1.decrement n (Words4.succ0 n.ent)).decrement n (Words4.succ1 n.ent) else f1
  let s := s.modTeam f.team fun t =>
    let t := t.setStatus f n.ix n.fin.status 0 0
    match n.fin.w3 with
    | some w => t.enginePut 1 (f.at n.ix + 24) (leBytes (backBytes n.kind) w.toNat)
    | none => t
  ((s.setFurrow k f2).writeCw f f2.seq).settleFurrow k

/-- Is something that the node has sent still on its way? -/
def State.nodeOut (s : State) (k ix : Nat) : Bool :=
  ((s.heldReqs [] ++ s.fabric).any fun r => r.node == some (k, ix)) || s.sends.any fun x => x.node == some (k, ix)

/-- The group number of accesses that no group makes. -/
def noGroup : Nat := 2 ^ 64

/-- Node `ix` of the slot sends an access; `clock`: that of its die when the node buffered it, if it did. -/
def State.nodeReq (s : State) (k ix ctx : Nat) (kind : ReqKind) (va : W64) (pa size : Nat) (ents : List Nat) (data : List Byte)
    (bad clock : List Nat) : State :=
  { s with nextId := s.nextId + 1 }.sendReq
    { kind := kind, pa := pa, va := va, size := size, data := data, cmp := [], dests := [], sz := .b64, gid := noGroup,
      lanes := 0, ctx := ctx, core := k / 16, pc := 0, ord := .rlx, scope := .thread, num := 0, clock := clock, ents := ents,
      tag := s.nextId, bad := bad, node := some (k, ix) }

/-- A buffered write is sent; poison goes with it (17 R431). -/
def State.sendChunk (s : State) (k ix ctx : Nat) (c : Chunk) : State :=
  s.nodeReq k ix ctx .write c.va c.pa c.bytes.length c.ents c.bytes c.bad c.clock

/-- Buffered writes are sent, in the node's own order (07 R187). -/
def State.sendChunks (s : State) (k ix ctx : Nat) (cs : List Chunk) : State := cs.foldl (fun s c => s.sendChunk k ix ctx c) s

/-- Buffered writes of a node are matched with the watchpoints as they are sent (17 R452, R454; 18 R457). -/
def State.strikeChunks (s : State) (k : Nat) (f : Furrow) (n : Node) (ctx : Nat) (cs : List Chunk) : State :=
  s.engineStrike ctx (k / 16) f.gid (f.who k n) (cs.map fun c => ⟨0, c.va, c.pa, c.bytes.length⟩)

/-- Some of a node's buffered writes are sent. -/
def State.sendBuf (s : State) (k : Nat) (f : Furrow) (n : Node) (ctx : Nat) (cs : List Chunk) : State :=
  ((s.modNode k n.ix fun m => { m with sent := true, buf := m.buf.filter fun c => !cs.contains c }).strikeChunks k f n ctx cs).sendChunks
    k n.ix ctx cs

/-- What a node has not read yet: bytes of a copy, which reads in pieces; rows of a gather or a near-memory top-k (R249). -/
def Node.unread (n : Node) : Nat :=
  match n.kind with
  | 0 => copyLen n.ent - n.res
  | 1 => gRows n.ent - n.res
  | 6 => nRows n.ent - n.res
  | _ => 0

/-- NODE_FINISH (R255): the buffered writes are sent; once everything is performed the node finishes. -/
def execNodeFinish (core i ix : Nat) (s : State) : Out :=
  let k := 16 * core + i
  match Tab.get? s.furrows k with
  | none => .next s
  | some f =>
    match f.nodes.find? fun n => n.ix == ix, Tab.get? s.teams f.team with
    | some n, some t =>
      if n.phase != .running || n.unread != 0 || s.nodeOut k ix then .next s
      else if n.buf.isEmpty then .next (s.finishNode k f n)
      else if n.kind = 4 ∨ n.kind = 5 ∨ s.mayWrite (coreDie core) n.buf.length = false then .next s
      else .next (s.sendBuf k f n t.ctx n.buf)
    | _, _ => .next s

end Sys2Proof.Machine
end

