-- ==== Sys2Proof/Machine/Tables.lean ====
section
/-! DEFINITION. Table writes and their sharers (13 R343 to R350), misses and wakes (R353, R355; 16 R418 to R420), and the
privileged translation instructions (13 R357 to R361).
What rests on the model rather than on the plain words of the manual: log 17 (DEDUCED), log 34 (DEDUCED). -/

namespace Sys2Proof.Machine

/-! ### Removing translations (R347, R348) -/

/-- Chunks of a node whose translation derives from removed entries. -/
def Node.hit (n : Node) (hit : List Nat → Bool) : List Chunk :=
  if n.kind = 4 ∨ n.kind = 5 then [] else n.buf.filter fun c => hit c.ents

/-- Removal acts on one node, parked on a miss or not: before its first access it is abandoned, to start again; after it, the
buffered writes concerned are sent at once. -/
def State.flushNode (s : State) (hit : List Nat → Bool) (k : Nat) (f : Furrow) (n : Node) : State :=
  let cs := n.hit hit
  if (n.phase != .running && n.phase != .parked) || cs.isEmpty then s
  else if !n.sent then
    s.modNode k n.ix fun m => { m with phase := if m.phase = .parked then .parked else .again, buf := [], res := 0 }
  else match s.ctxOfTeam f.team with
    | some c => s.sendBuf k f n c cs
    | none => s

/-- A die (or the Gleaner, 8; the stewards, 9) removes the translations derived from certain entries. -/
def State.flushDie (s : State) (d : Nat) (hit : List Nat → Bool) : State :=
  let nodes := (s.furrows.filter fun f => f.1 / 1024 == d).flatMap fun f => f.2.nodes.map fun n => (f, n)
  nodes.foldl (fun s x => s.flushNode hit x.1.1 x.1.2 x.2) { s with tlb := s.tlb.filter fun t => !(t.die == d && hit t.ents) }

/-- SHARER_INVALIDATE (R347, R348): a named sharer of a held line acknowledges; what its die has sent, the accesses through the
removed translations among it, comes before the write. -/
def execSharerInvalidate (line sharer : Nat) (s : State) : Out :=
  match s.tableWrites.find? fun t => t.line == line && t.waits.contains sharer with
  | none => .next s
  | some t =>
    let s := s.flushDie sharer t.hits
    let c := s.clockOf (min sharer 8)
    .next { s with tableWrites := s.tableWrites.map fun x =>
        if x.id = t.id then { x with waits := x.waits.erase sharer, clock := joinClock x.clock c } else x }

/-- Sharers that still hold a translation derived from a line. -/
def State.holders (s : State) (line : Nat) : List Nat :=
  (List.range 10).filter fun d => s.tlb.any fun t => t.die == d && t.ents.any fun e => e / 128 == line

/-- Has every access translated through certain entries been performed, the one held as table write `id` apart? -/
def State.landed (s : State) (id : Nat) (hit : List Nat → Bool) : Bool :=
  !(s.fabric.any fun r => hit r.ents) &&
  !(s.tableWrites.any fun x => x.id != id && (match x.who with | .core r => hit r.ents | .own _ es => hit es | _ => false))

/-- What is written at a home without a request: by a context, by another party. -/
def TableWrite.put (t : TableWrite) (s : State) : State :=
  match t.who, t.bytes with
  | .own _ _, b :: bs => s.homeWrites b.1 ((b :: bs).map (·.2)) 5
  | _, bs => s.plainWrite bs

/-- The groups that wait with PTWAIT for the write follow it (R358). -/
def State.tellWaiters (s : State) (t : TableWrite) : State :=
  s.groups.foldl (fun s e => match e.2.hold with
    | some h => (match h.kind with
      | .ptwait ns _ => if ns.contains t.id then s.learn (coreDie e.2.core) t.clock else s
      | _ => s)
    | none => s) s

/-- Must a held write wait although its sharers have acknowledged: for accesses through what it removes (R347), for a host's
copy (07 R178), or for the record before it in its ring (07 R200)? -/
def State.stays (s : State) (t : TableWrite) : Bool :=
  !s.landed t.id t.hits || (t.bytes.any fun b => s.hostWaits true b.1 1) ||
  (match t.who with
    | .record c k => (s.tableWrites.find? fun x => match x.who with | .record c' k' => c' == c && k' == k | _ => false) != some t
    | _ => false)

/-- The write is applied, and with that performed (R346), as a host acknowledges one of its lines (R350): the die that made it as a
request learns what it follows (R351), and the index of a record's ring advances. -/
def State.applyTable (s : State) (t : TableWrite) : State :=
  let s := { s with
    tableWrites := s.tableWrites.filter fun x => x.id != t.id
    dir := Tab.write [] s.dir t.line (s.holders t.line)
    -- a host-table line is taken OWNED first (R350)
    cxlLines := if isLocal (128 * t.line) then s.cxlLines
      else t.bytes.foldl (fun (l : Tab HostSt) (b : Nat × Byte) => Tab.set l (b.1 / 64) .owned) s.cxlLines }
  let s := match t.who, t.bytes with
    | .core r, _ => (s.applyReq { r with clock := joinClock r.clock t.clock }).learn r.die t.clock
    | _, [] => s
    | .record c k, b :: bs => ((t.put s).land b.1 (bs.length + 1) t.die t.num t.clock).advanceRing c k
    | _, b :: bs => (t.put s).land b.1 (bs.length + 1) t.die t.num t.clock
  (t.bad.foldl (fun (s : State) a => s.setPoison (32 * a) true) s).tellWaiters t

/-- HOST_SNOOP (R350): the translations derived from the 64-byte line are removed; the answer, which gives the line up, waits
until the accesses translated through them have been performed. Until then no walk reads the line. -/
def execHostSnoop (pa : Nat) (s : State) : Out :=
  let l := pa / 64
  let hit := fun (es : List Nat) => es.any fun e => e / 64 == l
  let s := (List.range 10).foldl (fun s d => s.flushDie d hit) s
  if s.landed s.nextId hit then
    .next { s with cxlLines := Tab.erase s.cxlLines l, snoops := s.snoops.filter fun x => x != l }
  else .next { s with snoops := if s.snoops.contains l then s.snoops else l :: s.snoops }

/-! ### Walks and misses -/

/-- PAGE_WALK (R338): a walk by a die's walker. -/
def execPageWalk (die c : Nat) (va : W64) (k : AccKind) (s : State) : Out :=
  if s.live c && !s.frozen c && canonical va then .next (s.translate ⟨die, c, 0, 0x3FF, 0, false⟩ va k).1 else .next s

/-- TRANSLATION_MISS (R353). -/
def execTranslationMiss (m : MissArg) (s : State) : Out :=
  if s.live m.ctx && !s.frozen m.ctx then .next (s.present m s.gtime) else .next s

/-- MISS_REPRESENT (R353): every 1 µs. -/
def execMissRepresent (n : Nat) (s : State) : Out :=
  match s.represent[n]? with
  | none => .next s
  | some w =>
    if w.next ≤ s.gtime && !s.frozen w.miss.ctx then
      .next ({ s with represent := s.represent.eraseIdx n }.present w.miss w.since)
    else .next s

/-! ### Wakes (R355; 16 R420) -/

/-- The outcome that is delivered. -/
def wakeCause (outcome detail : Nat) : Nat × Nat :=
  if outcome = 0 ∨ outcome = 3 ∨ outcome = 7 ∨ outcome = 9 ∨ outcome = 0xA ∨ outcome = 0xB ∨ outcome = 0xC
  then (outcome, detail) else (0xC, 2)

/-- What a wake with a cause records, `pc` being that of the instruction that missed. -/
def wakeTrap (pc : W64) (m : MissArg) (ls : List Nat) (cause detail : Nat) : TrapRec :=
  { cause := if m.acc = .fetch ∧ cause = 9 then 3 else cause, detail := detail, tlane := m.lane, pc := pc,
    addr := if m.acc = .fetch then pc else m.va, aux := 0, mask := maskOf ls }

/-- Threads of a waiter that wait still: parked in the program, or in the handler at a miss. -/
def Group.waiting (g : Group) (ls : W32) (inh : Bool) : List Nat :=
  (lanesOf ls).filter fun l => g.live l && if inh then (g.lane l).block == some .miss else (g.lane l).park

/-- The named threads lose PARK, or the handler's wait; with a cause, the group takes the trap, but for an access of the handler that
TRET has abandoned (16 R407); or, for threads parked in the program while the handler runs, defers it, and they stay parked (R409).
`once`: the group has already taken or deferred the trap of this wake, with which these threads go on. -/
def State.wakeGroup (s : State) (gid : Nat) (ls : W32) (inh : Bool) (m : MissArg) (cause detail : Nat) (once : Bool) : State :=
  match s.group? gid with
  | none => s
  | some g =>
    let named := g.waiting ls inh
    let free := g.modLanes named fun x =>
      if inh then { x with block := none, ready := s.cycle } else { x with park := false, ready := s.cycle }
    let pc := if inh then (g.lane m.lane).hpc else (g.lane m.lane).pc
    if named.isEmpty then s
    else if cause = 0 ∨ (inh && g.returning) = true then s.setGroup gid free
    else if g.inh && !inh && (!once || !g.deferred.isEmpty) then
      let t := wakeTrap pc m named cause detail
      s.setGroup gid { g with deferred := g.deferred ++ [if once then { t with cause := 0 } else t] }
    else if once then s.setGroup gid free
    else (s.setGroup gid free).raise gid (wakeTrap pc m named cause detail)

/-- One waiter is woken. -/
def State.wakeWaiter (s : State) (m : MissArg) (cause detail : Nat) (seen : List Nat) : State :=
  match m.waiter with
  | .group gid ls inh => s.wakeGroup gid ls inh m cause detail (!inh && seen.contains gid)
  | .node core slot ix =>
    let k := 16 * core + slot
    let parked := (Tab.get? s.furrows k).any fun f => f.opened && f.nodes.any fun n => n.ix == ix && n.phase == .parked
    if !parked then s
    else if cause = 0 then s.modNode k ix fun n => { n with phase := if n.sent then .running else .again }
    else s.haltNode k ix (statusOf cause) cause detail
  | .queue q =>
    { s with queue := Tab.modify s.queue q fun x =>
        { x with parked := false, verdicts := if cause = 0 then Tab.erase x.verdicts (pageOf m.va)
            else Tab.set x.verdicts (pageOf m.va) (cause * 2 ^ 16 + detail) } }

/-- Waiters are woken in recorded order. -/
def State.wakeAll (s : State) (cause detail : Nat) : List WaiterRec → List Nat → State
  | [], _ => s
  | w :: ws, seen =>
    let seen' := match w.miss.waiter with
      | .group g ls false => if (s.group? g).any fun x => !(x.waiting ls false).isEmpty then g :: seen else seen
      | _ => seen
    (s.wakeWaiter w.miss cause detail seen).wakeAll cause detail ws seen'

/-- A wake for a fault merge table entry. -/
def State.wakeEntry (s : State) (die c page cause detail : Nat) : State :=
  match s.fmt.find? fun e => e.die == die && e.ctx == c && e.page == page with
  | none => s
  | some e =>
    if s.frozen c then s
    else { s with fmt := s.fmt.filter fun x => x != e }.wakeAll cause detail e.waiters []

/-- A wake for a ring waiter. -/
def State.wakeRing (s : State) (w : RingWaiter) (cause detail : Nat) : State :=
  if s.frozen w.miss.ctx then s
  else { s with ringWait := s.ringWait.filter fun x => x != w }.wakeWaiter w.miss cause detail []

/-- WAKE (R355). -/
def execWake (die c page outcome detail : Nat) (s : State) : Out :=
  let x := wakeCause outcome detail
  .next (s.wakeEntry die c page x.1 x.2)

/-- Has a waiter waited its 50 ms (16 R418)? -/
def State.overdue (s : State) (c since : Nat) : Bool := decide (since + 50000000 ≤ s.gtime) && !s.frozen c && !s.scopeHeld c

/-- WAITER_TIMEOUT (16 R418, R419): waiter `n` of an entry; from 64 up, ring waiter `n − 64`; from 2^20 up, a miss that is
presented again and again. -/
def execWaiterTimeout (die c page n : Nat) (s : State) : Out :=
  if n < 64 then
    match s.fmt.find? fun e => e.die == die && e.ctx == c && e.page == page with
    | none => .next s
    | some e =>
      match e.waiters[n]? with
      | none => .next s
      | some w =>
        if e.declined || !s.overdue c w.since then .next s
        else
          let rest := e.waiters.eraseIdx n
          let s := { s with fmt := if rest.isEmpty then s.fmt.filter fun x => x != e
              else s.fmt.map fun x => if x = e then { e with waiters := rest } else x }
          .next (s.wakeWaiter w.miss 0xC 1 [])
  else if n < 2 ^ 20 then
    match s.ringWait[n - 64]? with
    | none => .next s
    | some w => if w.declined || !s.overdue w.miss.ctx w.since then .next s else .next (s.wakeRing w 0xC 1)
  else
    match s.represent[n - 2 ^ 20]? with
    | none => .next s
    | some w =>
      if !s.overdue w.miss.ctx w.since then .next s
      else .next ({ s with represent := s.represent.eraseIdx (n - 2 ^ 20) }.wakeWaiter w.miss 0xC 1 [])

/-! ### PTWAIT, TLBPRB, WALK, ALIASQ (R358 to R361) -/

def execPtwait (o : Ops) (m : BitVec 20) (s : State) : Out :=
  issue1 .system o (Instr.ptwait o m).sig s fun e =>
    e.once fun _ =>
      e.access [⟨e.first, e.mask, Ops.globalEa o (e.a e.first), 1, .read⟩] [] 1 fun s ps =>
        match ps with
        | [] => e.finish s e.g
        | p :: _ =>
          let ns := (s.tableWrites.filter fun t => t.line == p.pa / 128).map (·.id)
          let l := if s.snoops.contains (p.pa / 64) then some (p.pa / 64) else none
          -- writes of the line that have completed are followed too
          let s := s.learn (coreDie e.g.core) (s.clockAt (p.pa / 128 * 128) 128)
          if ns.isEmpty && l.isNone then e.finish s e.g else e.holdFor s (.ptwait ns l)

/-- SIZE of a page. -/
def pageSizeCode (bits : Nat) : Nat :=
  match bits with
  | 12 => 0
  | 16 => 1
  | 21 => 2
  | _ => 3

/-- Table 12. -/
def Tlb.word (t : Tlb) : W64 :=
  let e := t.leaf.toNat
  BitVec.ofNat 64 (ofFields [(63, 1, 1), (60, 3, pageSizeCode t.bits), (12, 44, leafPa e t.bits 0 / 4096), (0, 10, e)])

def execTlbprb (o : Ops) (m : BitVec 20) (s : State) : Out :=
  issue1 .system o (Instr.tlbprb o m).sig s fun e =>
    e.once fun _ =>
      let va := BitVec.ofNat 64 (e.a e.first)
      let c := e.b e.first % 2 ^ 32
      let w := match e.s.lookup (coreDie e.g.core) c va with
        | some t => if e.s.live c && canonical va then t.word else 0
        | none => 0
      e.result e.s e.g [(.scal o.dst.toNat, w)]

/-- STATUS of WALK. -/
def walkStatus : WalkEnd → Nat
  | .leaf _ _ _ => 0
  | .miss _ e _ => if entryRemote e then 2 else 1
  | .prot 3 => 3
  | .prot 5 => 5
  | .prot 7 => 6
  | _ => 4

/-- The pair that WALK writes: the last entry read, and its level, address and STATUS. -/
def walkResult (w : WalkOut) : W64 × W64 :=
  let st := walkStatus w.fin
  if st = 6 then (0, 6)
  else
    match w.reads with
    | [] => (0, BitVec.ofNat 64 st)
    | (lvl, epa, e) :: _ => (BitVec.ofNat 64 e, BitVec.ofNat 64 (ofFields [(61, 3, lvl), (3, 53, epa / 8), (0, 3, st)]))

def execWalk (o : Ops) (m : BitVec 20) (s : State) : Out :=
  issue1 .system o (Instr.walk o m).sig s fun e =>
    e.once fun _ =>
      let va := BitVec.ofNat 64 (e.a e.first)
      let c := e.b e.first % 2 ^ 32
      let d := o.dst.toNat
      let put := fun (s : State) (r : W64 × W64) => e.result s e.g [(.scal d, r.1), (.scal (d + 1), r.2)]
      if !e.s.live c then put e.s (0, 6)
      else if !canonical va then put e.s (0, 7)
      else
        let w := e.s.walk (coreDie e.g.core) c va false
        -- core-path reads: after the group's earlier reads, and its earlier stores to the entries
        let fl := e.s.inFlight e.u.gid (BitVec.allOnes 32)
        let behind := fl.any fun r => r.kind.reads || w.reads.any fun x => rangesMeet r.pa r.size x.2.1 8
        if behind then e.blockAt e.s .tick else
        match w.fin with
        | .held epa => e.blockAt (e.s.ask false epa 8) .tick
        | .poison epa => .next { (e.s.reportBad epa 0).lose e.g.ctx 1 e.g.core va epa with cur := none }
        | _ => put (w.reads.foldl (fun s x => s.learnEntry (coreDie e.g.core) x.2.1) e.s) (walkResult w)

/-- The word of ALIASQ for a physical address. -/
def State.aliasWord (s : State) (pa : Nat) : W64 :=
  if isLocal pa then BitVec.ofNat 64 (2 ^ 63 + (Tab.read 0 s.aliasBits (pa / 65536)).toNat) else 0

def execAliasq (o : Ops) (m : BitVec 20) (s : State) : Out :=
  issue1 .system o (Instr.aliasq o m).sig s fun e =>
    e.once fun _ => e.result e.s e.g [(.scal o.dst.toNat, e.s.aliasWord (e.a e.first % 2 ^ 56))]

def execAliasqClr (o : Ops) (m : BitVec 20) (s : State) : Out :=
  issue1 .system o (Instr.aliasqClr o m).sig s fun e =>
    e.once fun _ =>
      let pa := e.a e.first % 2 ^ 56
      let s := if isLocal pa then { e.s with aliasBits := Tab.erase e.s.aliasBits (pa / 65536) } else e.s
      e.result s e.g [(.scal o.dst.toNat, e.s.aliasWord pa)]

end Sys2Proof.Machine
end

