-- ==== Sys2Proof/Machine/Command.lean ====
section
/-! DEFINITION. The partition controller: context and partition resets (14 R375 to R378), registrations (R386), the words of
its tables (R365 to R367, R371, R392; 17 R451), and the commands that reach it (R364, R391, R394).
What rests on the model rather than on the plain words of the manual: log 14 (DEDUCED), log 18 (DEDUCED), log 19 (DEDUCED),
log 33 (DEDUCED), log 49 (DEDUCED). -/

namespace Sys2Proof.Machine

/-! ### Context flush (R378) -/

/-- Every sharer removes the translations of a context; nodes of it start again or send what they hold. -/
def State.flushCtx (s : State) (c : Nat) : State :=
  let es := (s.tlb.filter fun t => t.ctx == c).flatMap (·.ents)
  let mine := (s.furrows.filter fun f => s.ctxOfTeam f.2.team == some c).flatMap fun f => f.2.nodes.map fun n => (f, n)
  let s := mine.foldl (fun s x => s.flushNode (fun e => e.any es.contains) x.1.1 x.1.2 x.2) s
  { s with tlb := s.tlb.filter fun t => t.ctx != c }

/-! ### Deregistration (R386) -/

/-- A ring goes: its counted lines drop as in a release, with under-read records of SRC 2. -/
def State.dropRing (s : State) (k : Nat) : State :=
  let lines := s.counted.filter fun e => decide (s.ringFirst k ≤ e.1) && decide (e.1 < s.ringFirst k + s.ringLines k)
  let s := lines.foldl (fun s (e : Nat × Nat × Nat) =>
    (s.dropLine e.1 true).postRead e.2.1 2 2 0x3FF e.2.2 0 (128 * e.1) 0) s
  { s with ring := Tab.erase s.ring k }

/-- A pool goes, and its pins with it; waiters for its fills find that the address is no atom (11 Table 6). -/
def State.dropPool (s : State) (k : Nat) : State :=
  let gone := s.fills.filter fun f => f.pool == k
  { s with
    pool := Tab.erase s.pool k
    bufOwner := Tab.keep s.bufOwner fun b _ => b / 256 != k
    fills := s.fills.filter fun f => f.pool != k
    results := s.results ++ gone.flatMap fun f => f.waiters.map fun w => ⟨w.1, fbResult w.2.1 0 3, false⟩ }

/-- Pools, rings and queues of a context. -/
def State.deregister (s : State) (c : Nat) : State :=
  let s := (s.pool.filter fun e => s.poolCtx e.1 == c).foldl (fun s e => s.dropPool e.1) s
  let s := (s.ring.filter fun e => s.ringCtx e.1 == c).foldl (fun s e => s.dropRing e.1) s
  { s with queue := Tab.keep s.queue fun q _ => s.queueCtx q != c }

def State.hasRegistered (s : State) (c : Nat) : Bool :=
  (s.pool.any fun e => s.poolCtx e.1 == c) || (s.ring.any fun e => s.ringCtx e.1 == c) ||
  s.queue.any fun e => s.queueCtx e.1 == c

/-! ### Resets (R375 to R377) -/

/-- A context reset begins: RSTBUSY, and a freeze with cause 0x00. -/
def State.beginReset (s : State) (c : Nat) : State :=
  (s.setField c 0 39 1 1).freeze c 0 3 0x3FF 0 0 0 true

/-- Is every access of certain contexts dropped, or performed at its home, those of engines and their records among them? -/
def State.quietFor (s : State) (is : Nat → Bool) : Bool :=
  !(s.fabric.any fun r => is r.ctx) &&
  !(s.tableWrites.any fun t => match t.who with | .core r => is r.ctx | .own c _ => is c | .record c _ => is c | _ => false)

def State.resetReady (s : State) (c : Nat) : Bool := s.quietFor (· == c)

/-- The Gleaner drops the context's records; an install it has begun goes on (R377). -/
def State.dropRecords (s : State) (c : Nat) : State :=
  { s with
    faultIn := s.faultIn.filter fun r => bitsOf r.toNat 54 10 != c
    services := s.services.filter fun v => v.ctx != c || v.state == .install }

/-- Counted lines drop with under-read records of SRC 2 (07 Table 6). -/
def State.dropLines (s : State) (c : Nat) : State :=
  (s.counted.filter fun e => e.2.1 == c).foldl (fun s (e : Nat × Nat × Nat) =>
    let s := s.dropLine e.1 false
    if e.2.2 = 0 then s else s.postRead c 2 2 0x3FF e.2.2 0 (128 * e.1) 0) s

/-- 14 Table 7. -/
def State.resetFields (s : State) (c : Nat) : State :=
  let s := ((s.setField c 0 480 32 0).setField c 1 320 32 0).setClHeld c 0
  let s := (List.range 16).foldl (fun s i => s.setDescW c (32 + i) 0) s
  { s.setField c 1 352 32 (s.field c 1 384 32) with armed := Tab.keep s.armed fun k _ => k / 8 != c }

/-- FROZEN, LOST, FRZ_CAUSE and RSTBUSY become zero. -/
def State.thaw (s : State) (c : Nat) : State :=
  (((s.setField c 0 37 1 0).setField c 0 38 1 0).setField c 0 40 8 0).setField c 0 39 1 0

/-- The end of a context reset. -/
def State.endReset (s : State) (c : Nat) : State :=
  let s := (((s.discard c).dropRecords c).dropLines c).deregister c
  let s := ((s.flushCtx c).resetFields c).thaw c
  if s.field c 0 434 1 = 1 ∧ s.field c 2 384 32 ≠ s.field c 2 352 32 then s.signal c else s

/-- Watchpoint `n` is armed: its address is walked, and with a valid leaf its home comparator is (17 R452). A walk whose reads must wait
is made again. -/
def State.arm (s : State) (c n : Nat) : State :=
  let w := 32 + 2 * n
  let va := sext64 57 (s.descW c (w + 1)).toNat
  let v := (s.descW c w).toNat
  let out := { s.setDescW c w (BitVec.ofNat 64 (setBitsOf v 7 1 0)) with
    armed := Tab.erase s.armed (8 * c + n), rootPend := Tab.erase s.rootPend (1024 + 8 * c + n) }
  match (s.walk 8 c va false).fin with
  | .leaf lvl e _ =>
    { out.setDescW c w (BitVec.ofNat 64 (setBitsOf v 7 1 1)) with
      armed := Tab.set out.armed (8 * c + n) (leafPa e (leafBits e lvl) va.toNat) }
  | .held _ => { out with rootPend := Tab.set out.rootPend (1024 + 8 * c + n) 0 }
  | _ => out

/-- After a partition reset every field of the descriptor takes its reset value (R376). -/
def State.clearDesc (s : State) (c : Nat) : State :=
  { s with
    desc := Tab.keep s.desc fun k _ => k / 64 != c
    resets := s.resets.filter fun x => x != c
    rootPend := Tab.keep s.rootPend fun k _ => k != c && (decide (k < 1024) || (k - 1024) / 8 != c) }

/-- The flushes that have ended: no access of their contexts is on its way, and the new CROOT is written (R365, R378); and the walks that
wait for watchpoints are made again. -/
def State.settleRoots (s : State) : State :=
  s.rootPend.foldl (fun s e =>
    if 1024 ≤ e.1 then s.arm ((e.1 - 1024) / 8) ((e.1 - 1024) % 8)
    else if s.resetReady e.1 then { s.setDescW e.1 8 e.2 with rootPend := Tab.erase s.rootPend e.1 }
    else s) s

/-- Have these waits ended: the reset of context `c`, or, from 1024 up, the wait `c − 1024` of State.rootPend (R378; 17 R452)? -/
def State.resetsOver (s : State) (cs : List Nat) : Bool :=
  cs.all fun c => if c < 1024 then !s.rstBusy c else !Tab.has s.rootPend (c - 1024)

/-- Words go to consecutive scalar registers. -/
def Group.putWords (g : Group) (r : Nat) : List W64 → Group
  | [] => g
  | w :: ws => (g.setSr r w).putWords (r + 1) ws

/-- A group on its core that waits for resets goes on with its result. -/
def State.answerGroup (s : State) (e : Nat × Group) : State :=
  match e.2.hold with
  | some h =>
    match h.kind with
    | .reset dst vs cs => if s.onCore e.2 && s.resetsOver cs then (s.modGroup e.1 fun g => g.putWords dst vs).releaseGroup e.1 else s
    | _ => s
  | none => s

/-- Commands and groups that wait only for resets and flushes that have ended are answered. -/
def State.answerResets (s : State) : State :=
  let s := s.settleRoots
  let done := s.cmdWait.filter fun (w : List W64 × List Nat) => s.resetsOver w.2
  let s := { s with
    cmdOut := s.cmdOut ++ done.map Prod.fst
    cmdWait := s.cmdWait.filter fun (w : List W64 × List Nat) => !s.resetsOver w.2 }
  s.groups.foldl State.answerGroup s

/-- CONTEXT_RESET_DONE (R375). -/
def execContextResetDone (c : Nat) (s : State) : Out :=
  if s.rstBusy c && s.resetReady c then
    let whole := s.resets.contains c
    let s := s.endReset c
    .next (if whole then s.clearDesc c else s).answerResets
  else .next s

/-- Live contexts of a partition. -/
def State.liveOf (s : State) (p : Nat) : List Nat := (List.range 1024).filter fun c => s.live c && s.partOf c == p

/-- A partition reset begins: every live context of it (R376). -/
def State.resetPart (s : State) (p : Nat) : State :=
  let cs := s.liveOf p
  let s := cs.foldl State.beginReset s
  { s with resets := s.resets ++ cs.filter fun c => !s.resets.contains c }

/-! ### Context descriptors (R362 to R365, R379, R392) -/

/-- Ones from bit `lo`, `n` of them. -/
def ones (lo n : Nat) : Nat := (2 ^ n - 1) * 2 ^ lo

/-- RW bits of descriptor word `w` (14 Tables 2 and 11; 13 Tables 1 and 2; 07 Table 7; 17 Table 6). -/
def descRw (w : Nat) : Nat :=
  match w with
  | 0 => ones 0 3 + ones 16 6
  | 6 => ones 50 14
  | 7 => ones 32 32
  | 8 => ones 0 44 + ones 59 5
  | 13 => ones 0 64
  | 14 => ones 32 5
  | 15 => ones 0 64
  | 19 => ones 16 24
  | 21 => ones 0 64
  | 22 => ones 32 5
  | 23 => ones 0 64
  | 29 => ones 32 32
  | 30 => ones 32 5
  | 31 => ones 0 64
  | _ => if 32 ≤ w ∧ w < 48 then (if w % 2 = 0 then ones 0 3 + ones 40 24 else ones 0 57) else 0

/-- QOV, UND and OVR are cleared by writing one. -/
def descW1c (w : Nat) : Nat := if w = 20 then 7 else 0

/-- Bits that may change while the context is frozen (Table 8): EQ_RIDX, FR_RIDX, DHINT_CNT, IVEC and the IEN bits. -/
def descFrozen (w : Nat) : Nat :=
  match w with
  | 6 => ones 50 14
  | 7 | 13 | 21 => ones 32 32
  | _ => 0

/-- The word after a write. -/
def mergeWord (rw w1c old v : Nat) : Nat :=
  ((old &&& (2 ^ 64 - 1 - rw)) &&& (2 ^ 64 - 1 - (w1c &&& v))) ||| (v &&& rw)

/-- Does the context hold something that keeps LIVE and PART as they are (R365)? -/
def State.inUse (s : State) (c : Nat) : Bool :=
  (s.groups.any fun e => e.2.ctx == c && !e.2.ended) || s.hasRegistered c || s.clHeld c != 0 || s.rstBusy c

/-- Why a write to a descriptor word is refused; `adm`: the issuer has ADM reach. -/
def State.descBar (s : State) (c w : Nat) (adm : Bool) (old new v : Nat) : Option Nat :=
  let x := old ^^^ new
  if w = 0 ∧ !adm ∧ x &&& (ones 1 2 + ones 16 6) ≠ 0 then some 1
  else if 32 ≤ w ∧ w < 48 ∧ w % 2 = 1 ∧ v % 16 ≠ 0 then some 3
  else if s.frozen c ∧ (x &&& (2 ^ 64 - 1 - descFrozen w) ≠ 0 ∨ descFrozen w = 0) then some 4
  else if w = 0 ∧ (x &&& ones 16 6 ≠ 0 ∨ (old % 2 = 1 ∧ new % 2 = 0)) ∧ s.inUse c then some 4
  else none

/-- A descriptor word as the last write of it leaves it: a CROOT that waits for its flush stands already. -/
def State.descNow (s : State) (c w : Nat) : W64 := if w = 8 then Tab.read (s.descW c 8) s.rootPend c else s.descW c w

/-- Write a descriptor word that nothing bars. A new CROOT of a live context waits for the context flush, and a context that
becomes live holds no translation (R365; 13 R336). -/
def State.putDesc (s : State) (c w new : Nat) : State :=
  let root := w = 8 ∧ s.live c = true
  let s := if root ∨ (w = 0 ∧ s.live c = false ∧ new % 2 = 1) then s.flushCtx c else s
  if root ∧ s.resetReady c = false then { s with rootPend := Tab.set s.rootPend c (BitVec.ofNat 64 new) } else
  let s := s.setDescW c w (BitVec.ofNat 64 new)
  if 32 ≤ w ∧ w < 48 ∧ w % 2 = 0 then s.arm c ((w - 32) / 2) else s

/-! ### FRAME entries (R371) -/

/-- Does a frame lie in a registered ring or pool? -/
def State.frameBound (s : State) (f : Nat) : Bool :=
  (s.ring.any fun e => s.ringFirst e.1 / 512 == f || s.ringAtom e.1 / 2048 == f) ||
  s.pool.any fun e =>
    (s.poolW e.1 3).toNat / 65536 == f ||
    (splitPages (s.poolW e.1 1) (s.poolBuffers e.1 * (s.poolW e.1 2).toNat)).any fun p =>
      match (s.walk 8 (s.poolCtx e.1) p.1 false).fin with
      | .leaf lvl e _ => leafPa e (leafBits e lvl) p.1.toNat / 65536 == f
      | _ => false

/-- FRAMES_HELD of the partition that OWNER names changes. -/
def State.heldFrames (s : State) (own : Nat) (f : Nat → Nat) : State :=
  if 1 ≤ own ∧ own ≤ 64 then s.setPartField (own - 1) 128 32 (f (s.partField (own - 1) 128 32)) else s

/-- Zero every byte of a frame at its home; its poison and its retirement are cleared (17 R434). -/
def State.zeroFrame (s : State) (f : Nat) : State :=
  { s.writeFrame f [] with
    poison := s.poison.filter fun k => k / 2048 != f
    retired := s.retired.filter fun x => x != f
    sealed := s.sealed.filter fun x => x / 16 != f }

/-- Watchpoints armed in a frame lose PVALID when its OWNER changes (17 R452). -/
def State.disarm (s : State) (f : Nat) : State :=
  let hit := s.armed.filter fun e => e.2 / 65536 == f
  let s := hit.foldl (fun s e =>
    let c := e.1 / 8
    let w := 32 + 2 * (e.1 % 8)
    s.setDescW c w (BitVec.ofNat 64 (setBitsOf (s.descW c w).toNat 7 1 0))) s
  { s with armed := Tab.keep s.armed fun _ a => a / 65536 != f }

/-- The frame changes hands. -/
def State.changeOwner (s : State) (f own : Nat) : State :=
  let s := (s.zeroFrame f).disarm f
  let old := s.owner (f * 65536)
  let s := if isHbm (f * 65536) then (s.heldFrames old (· - 1)).heldFrames own (· + 1) else s
  s.setFrameW (f * 65536) (BitVec.ofNat 64 (setBitsOf (s.frameW (f * 65536)).toNat 0 7 own))

/-- Write a FRAME entry: the state after it, and the status. -/
def State.putFrame (s : State) (f v : Nat) : State × Nat :=
  let own := v % 128
  let old := s.owner (f * 65536)
  let clrq := fun (s : State) =>
    if bitsOf v 25 1 = 1 then s.setFrameW (f * 65536) (BitVec.ofNat 64 (setBitsOf (s.frameW (f * 65536)).toNat 26 2 0)) else s
  if own > 64 ∧ own ≠ 127 then (s, 3)
  else if own = old then (clrq s, 0)
  else if (s.counted.any fun e => e.1 / 512 == f) || s.frameBound f then (s, 4)
  else if isHbm (f * 65536) ∧ 1 ≤ own ∧ own ≤ 64 ∧ s.partField (own - 1) 128 32 + 1 > s.partField (own - 1) 160 32 then (s, 3)
  else (clrq (s.changeOwner f own), 0)

/-! ### Registrations (R386, Table 10) -/

/-- Words and entries of tables 1 to 3. -/
def regShape : Nat → Nat × Nat
  | 1 => (2048, 5)
  | 2 => (1024, 3)
  | _ => (64, 4)

def State.regW (s : State) (t k w : Nat) : W64 :=
  match t with
  | 1 => s.queueW k w
  | 2 => Tab.read 0 s.tabRing (4 * k + w)
  | _ => s.poolW k w

/-- RW bits of word `w` of a queue entry (10 Table 1); its reserved bits read as zero (00 R9). -/
def queueRw : Nat → Nat
  | 0 => ones 0 5 + ones 8 3
  | 1 => ones 0 10
  | _ => ones 0 64

def State.setRegW (s : State) (t k w : Nat) (v : W64) : State :=
  match t with
  | 1 => { s with tabQueue := Tab.write 0 s.tabQueue (8 * k + w) (v &&& BitVec.ofNat 64 (queueRw w)) }
  | 2 => { s with tabRing := Tab.write 0 s.tabRing (4 * k + w) v }
  | _ => { s with tabPool := Tab.write 0 s.tabPool (4 * k + w) v }

def State.registered (s : State) (t k : Nat) : Bool :=
  match t with
  | 1 => Tab.has s.queue k
  | 2 => Tab.has s.ring k
  | _ => Tab.has s.pool k

/-- The context that an entry's words name. -/
def State.regCtx (s : State) (t k : Nat) : Nat :=
  match t with
  | 1 => s.queueCtx k
  | 2 => s.ringCtx k
  | _ => s.poolCtx k

def State.unregister (s : State) (t k : Nat) : State :=
  match t with
  | 1 => { s with queue := Tab.erase s.queue k }
  | 2 => s.dropRing k
  | _ => s.dropPool k

def State.baseDie (s : State) (pa : Nat) : Option Nat :=
  match s.home pa with
  | .hbm c => some (channelDie c)
  | _ => none

/-- May a queue entry be enabled (R386)? -/
def State.queueOk (s : State) (k : Nat) : Bool :=
  let w0 := (s.queueW k 0).toNat
  let lg := w0 % 32
  let w4 := (s.queueW k 4).toNat
  (s.queueW k 2).toNat % (64 * 2 ^ lg) == 0 && (s.queueW k 3).toNat % 8 == 0 &&
  w4 % 32 == 0 && isHbm w4 && s.mayUse (s.queueCtx k) w4

/-- May a ring entry be enabled (R386; 08 R225)? -/
def State.ringOk (s : State) (k : Nat) : Bool :=
  let w0 := (Tab.read 0 s.tabRing (4 * k)).toNat
  let w1 := (Tab.read 0 s.tabRing (4 * k + 1)).toNat
  let w2 := (Tab.read 0 s.tabRing (4 * k + 2)).toNat
  let n := s.ringLines k
  w0 % 32 == 0 && decide (w0 < 2 ^ 56) && w1 % 128 == 0 && decide (w1 < 2 ^ 56) &&
  bitsOf w2 9 7 == 0 && w2 / 2 ^ 26 == 0 && decide (n ≤ 512) &&
  (w1 + 128 * n - 1) / 65536 == w1 / 65536 && !(decide (w1 ≤ w0) && decide (w0 < w1 + 128 * n)) &&
  (s.baseDie w0).isSome && s.baseDie w0 == s.baseDie w1 &&
  s.mayUse (s.ringCtx k) w0 && s.mayUse (s.ringCtx k) w1

/-- The atom table of a pool: SRC, LEN and the bytes that must be zero. -/
def atomTable (bs : List Byte) : Nat → List (W64 × Nat × Nat)
  | 0 => []
  | n + 1 =>
    (BitVec.ofNat 64 (leNat (bs.take 8)), leNat ((bs.drop 8).take 4), leNat ((bs.drop 12).take 4)) :: atomTable (bs.drop 16) n

/-- What a pool entry must be, its atom table apart (R386, Table 10). -/
def State.poolOk (s : State) (k : Nat) : Bool :=
  let w0 := (s.poolW k 0).toNat
  let page := (s.poolW k 3).toNat
  bitsOf w0 8 8 == 0 && bitsOf w0 27 5 == 0 && bitsOf w0 42 21 == 0 && page % 65536 == 0 && s.home page != .none &&
  s.mayUse (s.poolCtx k) page

/-- The atoms of a pool entry that may be enabled, read through its context's translation. -/
def State.poolAtoms (s : State) (k : Nat) : State × Option (List Atom) :=
  let c := s.poolCtx k
  let n := bitsOf (s.poolW k 0).toNat 16 11 + 1
  if s.poolOk k then
    match s.check (gleanerAsker c) (rangeAccs 0 0 .read [(s.poolW k 1, 16 * n)]) [] 1 with
    | .ok s ps =>
      let t := atomTable (s.pull ps) n
      if t.all fun a => a.2.1 != 0 && decide (a.2.1 ≤ (s.poolW k 2).toNat) && a.2.2 == 0 then
        (s, some (t.map fun a => { Atom.zero with src := a.1, len := a.2.1 }))
      else (s, none)
    | .miss s .. | .trap s .. | .wait s | .stop s => (s, none)
  else (s, none)

/-- Does word 0 enable the entry? -/
def regEnables (t v : Nat) : Bool :=
  match t with
  | 1 => ringLog (v % 32) 16 != 0
  | 2 => bitsOf v 5 51 != 0
  | _ => bitsOf v 63 1 == 1

/-- The entry is enabled, its words in place; none where they break a requirement. -/
def State.enable (s : State) (t k : Nat) : Option State :=
  match t with
  | 1 => if s.queueOk k then some { s with queue := Tab.set s.queue k QueueState.init } else none
  | 2 =>
    if s.ringOk k then
      let free := ((List.range (s.ringLines k)).filter fun i => !Tab.has s.counted (s.ringFirst k + i)).length
      some { s with ring := Tab.set s.ring k (0, free, 0, 0) }
    else none
  | _ =>
    match s.poolAtoms k with
    | (s, some l) => some { s with pool := Tab.set s.pool k l }
    | (_, none) => none

/-- Do the words of an enabled entry meet the requirements, apart from what enabling reads? -/
def State.regOk (s : State) (t k : Nat) : Bool :=
  match t with
  | 1 => s.queueOk k
  | 2 => s.ringOk k
  | _ => s.poolOk k

/-- Write a word of table 1, 2 or 3: the state after it, and the status. A word of an enabled entry that breaks a requirement is
refused, and so is a word 0 that would enable a queue with a reserved bit set (R386). -/
def State.putReg (s : State) (t k w v : Nat) : State × Nat :=
  if w ≠ 0 then
    let s' := s.setRegW t k w (BitVec.ofNat 64 v)
    if s.registered t k && !s'.regOk t k then (s, 3) else (s', 0)
  else if regEnables t v && t == 1 && v &&& queueRw 0 != v then (s, 3)
  else if regEnables t v then
    match ((if s.registered t k then s.unregister t k else s).setRegW t k 0 (BitVec.ofNat 64 v)).enable t k with
    | some s => (s, 0)
    | none => (s, 3)
  else ((if s.registered t k then s.unregister t k else s).setRegW t k 0 (BitVec.ofNat 64 v), 0)

/-! ### Partition records (R366, R367) -/

/-- RW bits of the quota word (10 Table 5). -/
def quotaRw : Nat := ones 24 40 + ones 16 7

/-- RW bits of partition word `w` (Table 3). -/
def partRw : Nat → Nat
  | 0 => ones 0 1 + ones 12 1 + ones 16 48
  | 1 => ones 0 64
  | 2 => ones 32 32
  | _ => quotaRw

/-- VFEN reflects the host's VF Enable on the port that HOSTPORT names (R382); vectors pending for an enabled function are sent. -/
def State.refreshVf (s : State) (p : Nat) : State :=
  let on := Tab.read false s.vfOn (64 * s.partField p 12 1 + p)
  let s := s.setPartField p 11 1 (if on then 1 else 0)
  if on then
    { s with msi := s.msi ++ s.msiPend.filter fun v => v.1 == p + 1, msiPend := s.msiPend.filter fun v => v.1 != p + 1 }
  else s

/-- Would the records break R367? -/
def State.qosBad (s : State) (p : Nat) : Bool :=
  let on := (List.range 64).filter fun q => s.partField q 0 1 == 1
  let sum := fun lo n => (on.map fun q => s.partField q lo n).foldl (· + ·) 0
  [96, 104, 112, 120].any (fun lo => decide (256 < sum lo 8)) || decide (512 < sum 54 10) ||
  decide (s.partField p 44 10 < s.partField p 54 10) || decide (512 < s.partField p 44 10) ||
  decide (1024 < s.partField p 32 12)

/-! ### Commands (R364, R391, R392, R394) -/

/-- A command: its opcode, OPF bits and sources, and the context that issued it, none for stewards and PF 0. -/
structure Command where
  op : Nat
  opf : Nat
  a : Nat
  b : Nat
  who : Option Nat

/-- What the controller answers: the destination words, and the contexts whose resets must end first. -/
structure Answer where
  s : State
  out : List W64
  waits : List Nat

def State.admin (s : State) (c : Command) : Bool :=
  match c.who with
  | none => true
  | some k => s.adm k

def State.reaches (s : State) (c : Command) (ctx : Nat) : Bool :=
  s.admin c || (match c.who with | some k => s.partOf k == s.partOf ctx | none => true)

/-- A single destination's failure. -/
def failed (status : Nat) : W64 := BitVec.ofNat 64 (2 ^ 63 + status)

def State.say (s : State) (v : W64) : Answer := ⟨s, [v], []⟩
/-- Old value and status of a pair destination. -/
def State.sayPair (s : State) (old : W64) (status : Nat) : Answer := ⟨s, [old, BitVec.ofNat 64 status], []⟩

def State.cmdFreeze (s : State) (c : Command) : Answer :=
  let x := c.a % 1024
  if !s.reaches c x then s.say (failed 1)
  else if s.rstBusy x then s.say (failed 4)
  else if s.frozen x then s.say 1
  else (s.freeze x 1 4 0x3FF 0 0 0 true).say 0

def State.cmdReset (s : State) (c : Command) : Answer :=
  let x := c.a % 1024
  if !s.reaches c x then s.say (failed 1) else ⟨s.beginReset x, [0], [x]⟩

def State.cmdPartReset (s : State) (c : Command) : Answer :=
  let p := c.a % 64
  if !s.admin c then s.say (failed 1)
  else ⟨s.resetPart p, [BitVec.ofNat 64 (s.liveOf p).length], s.liveOf p⟩

/-- Kernels of a context with a resident team on a core. -/
def State.kernelsOn (s : State) (ctx core : Nat) : List Nat :=
  ((s.teams.filter fun t => t.2.ctx == ctx && t.2.core == core && !t.2.ended &&
    (Tab.get? s.clusters t.2.cluster).any fun c => c.phase == .resident).map fun t => t.2.grid).eraseDups

/-- QSET: the quota word of every kernel of the context on the named cores. -/
def State.cmdQuota (s : State) (c : Command) : Answer :=
  let v := BitVec.ofNat 64 (c.b &&& quotaRw)
  if c.opf % 2 = 1 then
    if s.admin c then (s.setPartW (c.a % 64) 3 v).say 0 else s.say (failed 1)
  else
    let core := c.a % 1024
    let ctx := bitsOf c.a 16 10
    if !s.reaches c ctx then s.say (failed 1)
    else if 512 ≤ core ∧ core ≠ 0x3FF then s.say (failed 2)
    else
      let cores := if core = 0x3FF then List.range 512 else [core]
      let ks := cores.flatMap fun x => (s.kernelsOn ctx x).map fun k => (x, k)
      let s := ks.foldl (fun (s : State) x =>
        { s with grids := Tab.modify s.grids x.2 fun g => { g with quota := Tab.set g.quota x.1 v } }) s
      s.say (BitVec.ofNat 64 ks.length)

def State.cmdQos (s : State) (c : Command) : Answer :=
  let p := c.a % 64
  let w := bitsOf c.a 8 2
  let old := s.partW p w
  if !s.admin c then s.sayPair 0 1
  else
    let s' := s.setPartW p w (BitVec.ofNat 64 (mergeWord (partRw w) 0 old.toNat c.b))
    if s'.qosBad p then s.sayPair old 3 else (s'.refreshVf p).sayPair old 0

/-- WSET of a context descriptor. -/
def State.cmdDesc (s : State) (c : Command) (k w : Nat) (rd : Bool) : Answer :=
  if 1024 ≤ k then s.sayPair 0 2
  else if !s.reaches c k then s.sayPair 0 1
  else
    let old := s.descNow k w
    let new := mergeWord (descRw w) (descW1c w) old.toNat c.b
    if rd then s.sayPair old 0
    else
      match s.descBar k w (s.admin c) old.toNat new c.b with
      | some st => s.sayPair old st
      | none =>
        let t := s.putDesc k w new
        let pend := if w = 8 then k else 1024 + 8 * k + (w - 32) / 2
        ⟨t, [old, 0], if (w = 8 ∨ 32 ≤ w ∧ w < 48 ∧ w % 2 = 0) ∧ Tab.has t.rootPend pend = true then [1024 + pend] else []⟩

/-- WSET of a registration. -/
def State.cmdReg (s : State) (c : Command) (t k w : Nat) (rd : Bool) : Answer :=
  let sh := regShape t
  if sh.1 ≤ k ∨ sh.2 ≤ w then s.sayPair 0 2
  else if !s.reaches c (s.regCtx t k) ||
      !s.reaches c ((s.setRegW t k w (if rd then s.regW t k w else BitVec.ofNat 64 c.b)).regCtx t k) then s.sayPair 0 1
  else
    let old := s.regW t k w
    if rd then s.sayPair old 0
    else
      let r := s.putReg t k w c.b
      r.1.sayPair old r.2

/-- WSET of a FRAME entry: only ADM reach reaches frames. -/
def State.cmdFrame (s : State) (c : Command) (k w : Nat) (rd : Bool) : Answer :=
  if !isLocal (k * 65536) ∨ w ≠ 0 then s.sayPair 0 2
  else if !s.admin c then s.sayPair 0 1
  else
    let old := s.frameW (k * 65536)
    if rd then s.sayPair old 0
    else
      let r := s.putFrame k c.b
      r.1.sayPair old r.2

/-- WSET (R392). -/
def State.cmdWset (s : State) (c : Command) : Answer :=
  let t := bitsOf c.a 60 4
  let k := bitsOf c.a 32 28
  let w := c.a % 64
  let rd := c.opf % 2 == 1
  if bitsOf c.a 6 26 ≠ 0 ∨ 4 < t then s.sayPair 0 2
  else if t = 0 then s.cmdDesc c k w rd
  else if t = 4 then s.cmdFrame c k w rd
  else s.cmdReg c t k w rd

/-- Four words of a record. -/
def recordWords (r : BitVec 256) : List W64 := (List.range 4).map fun i => r.extractLsb' (64 * i) 64

/-- EQPOP: an empty queue, or a caller without ADM reach, gives zeros. -/
def State.cmdPop (s : State) (c : Command) : Answer :=
  if !s.admin c then ⟨s, recordWords 0, []⟩
  else if c.opf % 4 = 0 then
    match s.sysQueue with
    | r :: rs => ⟨{ s with sysQueue := rs }, recordWords r, []⟩
    | [] => ⟨s, recordWords 0, []⟩
  else
    match s.migQueue with
    | r :: rs => ⟨{ s with migQueue := rs }, recordWords r, []⟩
    | [] => ⟨s, recordWords 0, []⟩

/-- Carry out a command. -/
def State.command (s : State) (c : Command) : Answer :=
  match c.op with
  | 0xEC => s.cmdFreeze c
  | 0xED => s.cmdReset c
  | 0xEE => s.cmdPartReset c
  | 0xEF => s.cmdQuota c
  | 0xF0 => s.cmdQos c
  | 0xF1 => s.cmdWset c
  | 0xF2 => s.cmdPop c
  | _ => ⟨s, [], []⟩

/-- A command of a steward or of PF 0 at the command port (R394): its result is there to be read, once resets and the context flush
have ended. -/
def State.portCommand (s : State) (op opf a b : Nat) : State :=
  let r := s.command ⟨op, opf, a, b, none⟩
  if r.s.resetsOver r.waits then { r.s with cmdOut := r.s.cmdOut ++ [r.out] }
  else { r.s with cmdWait := r.s.cmdWait ++ [(r.out, r.waits)] }

end Sys2Proof.Machine
end

