-- ==== Sys2Proof/Machine/Gleaner.lean ====
section
/-! DEFINITION. The Gleaner (16 R413 to R421; R475) and leases (R422 to R426): services, field-map entries, frames, installed
pages. Requests to other modules leave the machine; their replies are events.
What rests on the model rather than on the plain words of the manual: log 2 (DESIGN CHOICE), log 25 (DEDUCED), log 26
(DEDUCED), log 27 (DEDUCED), log 28 (DEDUCED). -/

namespace Sys2Proof.Machine

/-! ### Configuration (Table 8) -/

def gleanReset (w : Nat) : W64 := if w = 1 then BitVec.ofNat 64 (ofFields [(32, 16, 2000), (16, 16, 64)]) else 0
def State.gleanW (s : State) (p w : Nat) : W64 := Tab.read (gleanReset w) s.gleanPart (4 * p + w)
def State.setGleanW (s : State) (p w : Nat) (v : W64) : State :=
  { s with gleanPart := Tab.write (gleanReset w) s.gleanPart (4 * p + w) v }

/-- SELF, the same in every partition's configuration. -/
def State.selfId (s : State) (p : Nat) : Nat := bitsOf (s.gleanW p 0).toNat 0 16
def State.tenant (s : State) (p : Nat) : Nat := bitsOf (s.gleanW p 1).toNat 48 16
/-- LEASE_US in nanoseconds. -/
def State.leaseNs (s : State) (p : Nat) : Nat := max 250 (bitsOf (s.gleanW p 1).toNat 32 16) * 1000
def State.lowmark (s : State) (p : Nat) : Nat := bitsOf (s.gleanW p 1).toNat 16 16
def State.fpLog (s : State) (p : Nat) : Nat := ringLog (bitsOf (s.gleanW p 1).toNat 0 5) 20
def State.fpRidx (s : State) (p : Nat) : Nat := bitsOf (s.gleanW p 2).toNat 0 32
def State.fpWidx (s : State) (p : Nat) : Nat := bitsOf (s.gleanW p 2).toNat 32 32
/-- Frames supplied and not yet taken. -/
def State.fpHeld (s : State) (p : Nat) : Nat :=
  if s.fpLog p = 0 then 0 else (s.fpWidx p + 2 ^ 32 - s.fpRidx p) % 2 ^ 32

/-! ### Field-map entries (Table 10) -/

def entF (e : BitVec 512) (lo n : Nat) : Nat := bitsOf e.toNat lo n
def entSet (e : BitVec 512) (lo n v : Nat) : BitVec 512 := BitVec.ofNat 512 (setBitsOf e.toNat lo n v)
def entExpiry (e : BitVec 512) : Nat := entF e 448 64
def entVersion (e : BitVec 512) : Nat := entF e 416 32
def entWbver (e : BitVec 512) : Nat := entF e 384 32
def entOwner (e : BitVec 512) : Nat := entF e 368 16
def entReq (e : BitVec 512) : Nat := entF e 352 16
def entTracked (e : BitVec 512) : Bool := entF e 264 1 == 0
def noModule : Nat := 0xFFFF
/-- HOLDERS in order, the empty ones left out. -/
def entHolders (e : BitVec 512) : List Nat :=
  ((List.range 4).map fun i => entF e (288 + 16 * i) 16).filter fun h => h != noModule

/-- Holder of a key's shard (R475). -/
def State.shardOf (s : State) (key : Nat) : Nat := (Tab.read 0xFFFF#16 s.shardMap (key % 4096)).toNat
/-- Does this module's harrow hold the key's shard? -/
def State.ownShard (s : State) (key : Nat) : Bool := s.shardOf key != noModule && s.shardOf key == s.selfId 0

/-- Entries of shards held here, and of keys under exchange with another holder as last known. -/
def State.entry? (s : State) (key : Nat) : Option (BitVec 512) := Tab.get? s.fieldMap key
def State.putEntry (s : State) (key : Nat) (e : BitVec 512) : State := { s with fieldMap := Tab.set s.fieldMap key e }

/-! ### Watching modules (17 R442) -/

/-- Does this module wait on a lease of `m`, or hold a shard in which `m` owns one? -/
def State.watches (s : State) (m : Nat) : Bool :=
  m != noModule && m != s.selfId 0 &&
  ((s.services.any fun v => v.state == .lease && v.entry.any fun e => entOwner e == m) ||
   s.fieldMap.any fun e => s.ownShard e.1 && entOwner e.2 == m)

/-- The heartbeats of a module are watched from now on. -/
def State.watch (s : State) (m : Nat) : State :=
  let w := Tab.read ⟨0, 0, 0, false, false⟩ s.watched m
  { s with watched := Tab.set s.watched m { w with last := s.gtime } }

/-- A change is made, and the modules that come to be watched by it are. -/
def State.watching (s : State) (m : Nat) (f : State → State) : State :=
  let t := f s
  if t.watches m && !s.watches m then t.watch m else t

/-! ### Services -/

def State.modService (s : State) (c p : Nat) (f : Service → Service) : State :=
  { s with services := s.services.map fun (v : Service) => if v.ctx = c ∧ v.page = p then f v else v }
def State.putService (s : State) (v : Service) : State := s.modService v.ctx v.page fun _ => v
def State.dropService (s : State) (v : Service) : State :=
  { s with services := s.services.filter fun x => !(x.ctx == v.ctx && x.page == v.page) }
def State.restService (s : State) (v : Service) : State := s.putService { v with state := .waiting, t := s.gtime }

/-- LOOKUP begins: the shard map names who is asked (R475). -/
def State.startLookup (s : State) (v : Service) : State :=
  if s.shardOf v.key = noModule then s.restService v
  else s.putService { v with state := .lookup, hold := s.shardOf v.key, t := s.gtime, tries := 0, entry := none }

/-! ### Leases (R423) -/

/-- The lease of a key ends: OWNER := 0xFFFF. -/
def State.endLease (s : State) (key : Nat) : State :=
  let s := { s with leases := s.leases.filter fun l => l.key != key }
  match s.entry? key with
  | some e => s.putEntry key (entSet e 368 16 noModule)
  | none => s

/-- The entry of a lease that begins, or begins anew: OWNER := SELF, EXPIRY := GTIME + LEASE_US. -/
def State.leaseEntry (s : State) (p : Nat) (e : BitVec 512) : BitVec 512 :=
  entSet (entSet e 368 16 (s.selfId p)) 448 64 (s.gtime + s.leaseNs p)

/-- The module holds a lease with this entry. -/
def State.takeLease (s : State) (p key : Nat) (e : BitVec 512) : State :=
  { s.putEntry key e with leases := ⟨key, p, entExpiry e, false, none⟩ :: s.leases.filter fun l => l.key != key }

def State.hasLease (s : State) (key : Nat) : Bool := s.leases.any fun l => l.key == key

/-- The lease that a service took is released, if nothing else of the key rests on it. -/
def State.releaseService (s : State) (v : Service) : State :=
  let other := s.services.any fun x => x.key == v.key && x.leased && !(x.ctx == v.ctx && x.page == v.page)
  if v.leased && s.hasLease v.key && !other && !(s.installs.any fun i => i.key == v.key) then s.endLease v.key else s

/-! ### Declining (R420) -/

/-- The dies are told: entries and ring waiters of the service are declined. -/
def State.markDeclined (s : State) (v : Service) : State :=
  { s with
    fmt := s.fmt.map fun (e : FmtEntry) => if e.ctx = v.ctx ∧ e.page = v.page then { e with declined := true } else e
    ringWait := s.ringWait.map fun (w : RingWaiter) =>
      if v.rings.any fun r => r.miss == w.miss then { w with declined := true } else w }

def State.decline (s : State) (v : Service) (kind : Nat) : State :=
  let s := ((s.releaseService v).dropService v).postSys (BitVec.ofNat 256 (setBitsOf v.record.toNat 0 8 kind))
  (s.markDeclined v).failFills v.ctx v.page

/-! ### Fetching (R416) -/

/-- HOLDERS from the hinted one on, round to the one before it. -/
def fetchOrder (hint : Nat) (hs : List Nat) : List Nat :=
  hs.dropWhile (· != hint) ++ hs.takeWhile (· != hint)

/-- The next holder is asked; after the last, WAITING. -/
def State.nextHolder (s : State) (v : Service) : State :=
  match v.next with
  | [] => s.restService v
  | h :: t => s.putService { v with state := .fetch, hold := h, next := t, tries := 0, t := s.gtime }

def State.startFetch (s : State) (v : Service) : State :=
  match v.entry with
  | some e => s.nextHolder { v with next := fetchOrder (v.hint % 65536) (entHolders e) }
  | none => s.restService v

/-! ### What LOOKUP finds (Table 9) -/

/-- Does the record ask for writing? -/
def Service.asksWrite (v : Service) : Bool := v.record.getLsbD 64

/-- The change of its entry that a service has asked for stands: it holds the lease, or waits for another module to release it. -/
def State.swapped (s : State) (v : Service) (e : BitVec 512) : State :=
  if entOwner e = s.selfId v.part then
    (s.takeLease v.part v.key e).startFetch { v with entry := some e, leased := true }
  else
    s.watching (entOwner e) fun s =>
      (s.putEntry v.key e).putService { v with state := .lease, entry := some e, t := s.gtime }

/-- A service changes its entry: at once in a shard held here; another holder is asked to swap it, and its answer says whether the
change stands (R415, R423, R424). -/
def State.swap (s : State) (v : Service) (e : BitVec 512) : State :=
  if v.hold = s.selfId v.part then s.swapped v e else s.putService { v with entry := some e, t := s.gtime, tries := 0 }

def State.found (s : State) (v : Service) (e? : Option (BitVec 512)) : State :=
  let self := s.selfId v.part
  match e? with
  | none => s.decline v 0x41
  | some e =>
    if (entHolders e).isEmpty then s.decline v 0x41
    else if entF e 272 16 ≠ s.tenant v.part ∨ (v.asksWrite = true ∧ (entF e 265 2 ≠ 0)) then s.decline v 0x40
    else if entOwner e ≠ noModule ∧ entOwner e ≠ self then
      s.swap v (entSet e 352 16 self)
    else if entTracked e then
      if s.timeBad then s.restService v else s.swap v (s.leaseEntry v.part e)
    else s.startFetch { v with entry := some e }

/-! ### Frames (R417 step 1) -/

/-- A frame from the list of evicted ones, else from the pool. -/
def State.takeFrame (s : State) (p : Nat) : Option (State × Nat) :=
  match s.freeFrames.find? fun f => f.1 == p with
  | some f => some ({ s with freeFrames := s.freeFrames.erase f }, f.2)
  | none =>
    if s.fpHeld p = 0 then none
    else
      let lg := s.fpLog p
      let a := (s.gleanW p 3).toNat / (8 * 2 ^ lg) * (8 * 2 ^ lg) + 8 * (s.fpRidx p % 2 ^ lg)
      let f := bitsOf (leNat (s.homeRead a 8)) 16 40
      some (s.setGleanW p 2 (BitVec.ofNat 64 (ofFields [(32, 32, s.fpWidx p), (0, 32, s.fpRidx p + 1)])), f)

/-- The page's data is written to its frame, with its poison (17 R431). -/
def State.writePage (s : State) (f : Nat) (p : PageImage) : State :=
  let s := { s.writeFrame f p.bytes with
    poison := s.poison.filter fun k => k / 2048 != f
    sealed := s.sealed.filter fun x => x / 16 != f }
  p.poison.foldl (fun s i => if i < 2048 then s.markWritten (f * 65536 + 32 * i) else s) s

/-! ### Leaves -/

/-- The 16 entries of a page, all alike: an Svnapot leaf, or the remote mark. -/
def line16 (e : Nat) : List Byte := (List.range 16).flatMap fun _ => leBytes 8 e

/-- Has a leaf of the line D set? -/
def State.lineDirty (s : State) (a : Nat) : Bool := (List.range 16).any fun i => (s.homeByte (a + 8 * i)).getLsbD 7

/-- A leaf of an installed page (R417 step 3). -/
def pageLeaf (f : Nat) (untrk w : Bool) : Nat :=
  ofFields [(63, 1, 1), (10, 44, f * 16 + 8), (8, 1, if untrk then 1 else 0), (6, 1, 1), (4, 1, 1), (3, 1, 1),
    (2, 1, if w then 1 else 0), (1, 1, 1), (0, 1, 1)]

/-- The remote mark with a hint (13 R341). -/
def remoteEntry (hint : Nat) : Nat := ofFields [(10, 54, hint / 128), (8, 2, 2), (1, 7, hint)]

/-- The retry wake of a service whose leaves have been written (R417 step 4): table waiters of the dies whose records were
taken, then the ring waiters. -/
def State.wakeService (s : State) (v : Service) : State :=
  let untaken := fun (e : FmtEntry) => s.faultIn.any fun r =>
    bitsOf r.toNat 54 10 == v.ctx && bitsOf r.toNat 208 41 == v.page && bitsOf r.toNat 42 3 == e.die && bitsOf r.toNat 45 9 == e.ix
  let es := s.fmt.filter fun e => e.ctx == v.ctx && e.page == v.page && !untaken e
  let s := es.foldl (fun s e => s.wakeEntry e.die v.ctx v.page 0 0) (s.dropService v)
  let rs := s.ringWait.filter fun w => v.rings.any fun r => r.miss == w.miss
  rs.foldl (fun s w => s.wakeRing w 0 0) s

/-- The seal marks of a frame go. -/
def State.unsealFrame (s : State) (f : Nat) : State := { s with sealed := s.sealed.filter fun x => x / 16 != f }

/-- The entry after a write-back: VERSION raised by 1, and WBVER equal to it (16 R421). -/
def writtenBack (e : BitVec 512) : BitVec 512 :=
  let n := (entVersion e + 1) % 2 ^ 32
  entSet (entSet e 416 32 n) 384 32 n

/-- A page that leaves for eviction: write-back and release of the lease (R421 steps 2 to 4). -/
def State.evicted (s : State) (i : Install) (d : Bool) : State :=
  match s.entry? i.key with
  | some e =>
    if !i.tracked then s
    else
      let s := if d || decide (entWbver e < entVersion e) then s.putEntry i.key (writtenBack e) else s
      let other := (s.installs.any fun j => j.key == i.key) || s.services.any fun v => v.key == i.key && v.leased
      if s.hasLease i.key && !other then s.endLease i.key else s
  | none => s

/-- A lease goes to another module; `d`: the page is dirty (R424 step 3). -/
def State.passLease (s : State) (p key dest : Nat) (d : Bool) : State :=
  match s.entry? key with
  | some e =>
    let x := s.gtime + s.leaseNs p
    let e := if d || decide (entWbver e < entVersion e) then entSet e 416 32 (entVersion e + 1) else e
    s.watching dest fun s =>
      { s.putEntry key (entSet (entSet (entSet e 368 16 dest) 448 64 x) 352 16 noModule) with
        leases := s.leases.filter fun l => l.key != key }
  | none => s

/-- A page that leaves for another module: with its last installation the lease goes too. -/
def State.given (s : State) (i : Install) (dest : Nat) (d : Bool) : State :=
  if s.installs.any fun j => j.key == i.key then
    { s with installs := s.installs.map fun (j : Install) => if j.key = i.key then { j with dirty := j.dirty || d } else j }
  else s.passLease i.part i.key dest d

/-- The leaves of a leaving page have been exchanged; `d`: an old leaf had D set. -/
def State.leave (s : State) (i : Install) (d : Bool) : State :=
  let s := { (s.unsealFrame i.frame) with
    installs := s.installs.filter fun j => !(j.ctx == i.ctx && j.page == i.page)
    freeFrames := s.freeFrames ++ [(i.part, i.frame)] }
  match i.leaving with
  | some (.give dest) => s.given i dest (d || i.dirty)
  | _ => s.evicted i (d || i.dirty)

/-- A write of a page's leaves has performed. -/
def State.leavesWritten (s : State) (c p : Nat) (d : Bool) : State :=
  match s.services.find? fun v => v.ctx == c && v.page == p && v.state == .install with
  | some v => s.wakeService v
  | none =>
    match s.installs.find? fun i => i.ctx == c && i.page == p && i.leaving.isSome with
    | some i => s.leave i d
    | none => s

/-- Write a page's leaves: a table write where their line has sharers (13 R345). -/
def State.writeLeaves (s : State) (c p line e : Nat) : State :=
  if s.mustHold line 128 then
    let s := s.countWrite 8
    s.hold (placed line (line16 e)) line (.service c p) 8 (s.clockOf 8)
  else
    let d := s.lineDirty line
    ((s.homeWrites line (line16 e) 5).markWrite 8 line 128).leavesWritten c p d

/-- TABLE_WRITE_COMPLETE (13 R347): the oldest held write of a line; recalls that it waits for are sent. -/
def execTableWriteComplete (line : Nat) (s : State) : Out :=
  match s.tableWrites.find? fun t => t.line == line with
  | none => .next s
  | some t =>
    if !t.waits.isEmpty then .next s
    else if s.stays t then .next (t.bytes.foldl (fun s b => s.ask true b.1 1) s)
    else
      let d := s.lineDirty (128 * line)
      .next (match t.who with
        | .service c p => (s.applyTable t).leavesWritten c p d
        | _ => s.applyTable t)

/-! ### Installing (R417) -/

/-- May the page be installed with W (R417, R423)? A sealed page's stores take the seal fault (08 R236). -/
def State.mayW (s : State) (v : Service) (e : BitVec 512) : Bool :=
  entTracked e && v.leased && s.hasLease v.key && entF e 266 1 == 0 && !s.timeBad &&
  decide (s.gtime + 10000 < entExpiry e)

def State.install (s : State) (v : Service) (p : PageImage) : State :=
  let e := (s.entry? v.key).getD (v.entry.getD 0)
  match s.takeFrame v.part with
  | none => s.decline v 0x42
  | some (s, f) =>
    let line := bitsOf v.record.toNat 136 56 / 128 * 128
    let s := s.writePage f p
    let s := if entF e 265 1 = 1 then { s with sealed := s.sealed ++ (List.range 16).map fun i => 16 * f + i } else s
    let i : Install := ⟨v.part, v.ctx, f, v.key, v.hint, line, v.page, entTracked e, none, false⟩
    let s := ({ s with installs := s.installs ++ [i] }).putService { v with state := .install, t := s.gtime }
    s.writeLeaves v.ctx v.page line (pageLeaf f (!entTracked e) (s.mayW v e))

/-! ### Events of a service -/

/-- A record is taken: it joins the service of its page, or begins one (R414). -/
def State.takeRecord (s : State) (r : BitVec 256) (ring : Option RingWaiter) : State :=
  let c := bitsOf r.toNat 54 10
  let p := bitsOf r.toNat 208 41
  let rs := match ring with | some w => [w] | none => []
  if s.frozen c then s
  else if s.services.any fun v => v.ctx == c && v.page == p then
    s.modService c p fun v => { v with rings := v.rings ++ rs }
  else
    let hint := bitsOf r.toNat 67 61
    let v : Service := ⟨r, c, s.partOf c, p, hint / 65536, hint, .lookup, s.gtime, s.gtime, 0, noModule, [], none, false, rs⟩
    let s := { s with services := s.services ++ [v] }
    if bitsOf r.toNat 0 8 = 0x11 then s.decline v 0x43
    else if bitsOf r.toNat 128 3 ≠ 0 then s.decline v 0x44
    else s.startLookup v

/-- The ring waiter that a ring record names. -/
def State.ringNamed (s : State) (c die page : Nat) (who : Nat × Nat × Nat × Nat) : Option RingWaiter :=
  s.ringWait.find? fun w => w.miss.ctx == c && w.miss.die == die && pageOf w.miss.va == page && s.waiterFields w.miss.waiter == who

/-- WKIND, CORE, SLOT and NIDX of a record. -/
def recordWho (r : Nat) : Nat × Nat × Nat × Nat := (bitsOf r 30 2, bitsOf r 32 10, bitsOf r 24 6, bitsOf r 12 12)

/-- GLEANER_FAULT_RECORD (R414): record `n` of those sent, the oldest of its partition; from 2^16 up, the oldest record of
the fault ring of context n − 2^16. -/
def execGleanerFaultRecord (n : Nat) (s : State) : Out :=
  if n < 2 ^ 16 then
    match s.faultIn[n]? with
    | none => .next s
    | some r =>
      let part := fun (x : BitVec 256) => s.partOf (bitsOf x.toNat 54 10)
      if (s.faultIn.take n).any fun x => part x == part r then .next s
      else .next ({ s with faultIn := s.faultIn.eraseIdx n }.takeRecord r none)
  else
    let c := n - 2 ^ 16
    if !s.live c || s.frozen c || s.frLog c == 0 || s.frWidx c == s.frRidx c then .next s
    else
      let r := BitVec.ofNat 256 (leNat (s.homeRead (s.frSlot c (s.frRidx c)) 32))
      let w := s.ringNamed c (bitsOf r.toNat 42 3) (bitsOf r.toNat 208 41) (recordWho r.toNat)
      .next ((s.setField c 1 352 32 (s.frRidx c + 1)).takeRecord r w)

/-- The holder of a shard elsewhere answers the renewal of lease `n`: it stands, or the lease ends when it did (R423). -/
def State.renewed (s : State) (n : Nat) (e : Option (BitVec 512)) : State :=
  match s.leases[n]?, e with
  | some l, some e =>
    if l.asked = some e then s.takeLease l.part l.key e
    else { s.putEntry l.key e with leases := s.leases.map fun (x : Lease) => if x.key = l.key then { x with asked := none } else x }
  | _, _ => s

/-- FIELD_MAP_REPLY (R414, R475): the answer of a lookup; for a shard held here the entry itself. It also shows a service in
LEASE that OWNER is no other module any more. The answer to a swap is the entry as it then stands: the swap has been made, or the
service goes on from what it finds. From 2^16 up it answers the renewal of a lease, number n − 2^16. -/
def execFieldMapReply (n : Nat) (e : Option (BitVec 512)) (s : State) : Out :=
  if 2 ^ 16 ≤ n then .next (s.renewed (n - 2 ^ 16) e) else
  match s.services[n]? with
  | none => .next s
  | some v =>
    let e := if (if v.state = .lookup then v.hold = s.selfId v.part else s.ownShard v.key = true) then s.entry? v.key else e
    match v.state with
    | .lookup => .next (if v.entry.isSome && v.entry == e then s.swapped v (e.getD 0) else s.found { v with entry := none } e)
    | .lease =>
      match e with
      | some x => if entOwner x = noModule ∨ entOwner x = s.selfId v.part then .next (s.startLookup v) else .next s
      | none => .next s
    | _ => .next s

/-- LOOKUP_TIMEOUT (R414): 500 µs, and three retries. -/
def execLookupTimeout (n : Nat) (s : State) : Out :=
  match s.services[n]? with
  | none => .next s
  | some v =>
    if v.state = .lookup ∧ v.hold ≠ s.selfId v.part ∧ v.t + 500000 ≤ s.gtime then
      .next (if v.tries < 3 then s.putService { v with tries := v.tries + 1, t := s.gtime } else s.restService v)
    else .next s

/-- GLEANER_WAIT_EXPIRY (R414). -/
def execGleanerWaitExpiry (n : Nat) (s : State) : Out :=
  match s.services[n]? with
  | none => .next s
  | some v => if v.state = .waiting ∧ v.t + 5000000 ≤ s.gtime then .next (s.startLookup v) else .next s

/-- Is a module fenced (17 R443)? -/
def State.isFenced (s : State) (m : Nat) : Bool := s.fencedOut.any fun f => f.1 == m

/-- PAGE_FETCH_REPLY (R416, R417): a holder that answers with another VERSION has failed; a fenced module's data is
discarded. -/
def execPageFetchReply (n : Nat) (p : PageImage) (s : State) : Out :=
  match s.services[n]? with
  | none => .next s
  | some v =>
    if v.state ≠ .fetch ∨ s.isFenced v.hold = true then .next s
    else
      match v.entry with
      | some e => if entTracked e && p.version != entVersion e then .next (s.nextHolder v) else .next (s.install v p)
      | none => .next s

/-- FETCH_TIMEOUT (R416). -/
def execFetchTimeout (n : Nat) (s : State) : Out :=
  match s.services[n]? with
  | none => .next s
  | some v =>
    if v.state = .fetch ∧ v.t + 500000 ≤ s.gtime then
      .next (if v.tries < 3 then s.putService { v with tries := v.tries + 1, t := s.gtime } else s.nextHolder v)
    else .next s

/-- GLEANER_SERVICE_EXPIRED (R414). -/
def execGleanerServiceExpired (n : Nat) (s : State) : Out :=
  match s.services[n]? with
  | none => .next s
  | some v =>
    if v.state ≠ .install ∧ v.t0 + 50000000 ≤ s.gtime then .next ((s.releaseService v).dropService v) else .next s

/-- STEWARD_WAKE (R420): the ring waiter that word 2 names, or the entry of its die. -/
def execStewardWake (w : Words4) (s : State) : Out :=
  let c := bitsOf w.w0.toNat 0 10
  let x := wakeCause (bitsOf w.w0.toNat 16 8) (bitsOf w.w0.toNat 32 16)
  let page := pageOf w.w1
  let die := bitsOf w.w2.toNat 42 3
  match s.ringNamed c die page (recordWho w.w2.toNat) with
  | some r => .next (s.wakeRing r x.1 x.2)
  | none => .next (s.wakeEntry die c page x.1 x.2)

/-! ### Eviction (R421) -/

/-- A page begins to leave: its leaves are exchanged for remote marks. -/
def State.beginLeave (s : State) (i : Install) (l : Leave) : State :=
  if i.leaving.isSome then s
  else
    ({ s with installs := s.installs.map fun (j : Install) =>
        if j.ctx = i.ctx ∧ j.page = i.page then { j with leaving := some l } else j }).writeLeaves i.ctx i.page i.line
      (remoteEntry i.hint)

def State.frameCount (s : State) (f : Nat) : Nat := bitsOf (s.frameW (f * 65536)).toNat 28 12

/-- Would R371 refuse the frame? -/
def State.frameStuck (s : State) (f : Nat) : Bool := (s.counted.any fun e => e.1 / 512 == f) || s.frameBound f

/-- Free frames of a partition, those on their way among them. -/
def State.framesFree (s : State) (p : Nat) : Nat :=
  (s.freeFrames.filter fun f => f.1 == p).length + s.fpHeld p +
  (s.installs.filter fun i => i.part == p && i.leaving.isSome).length

/-- GLEANER_EVICT: the page of lowest COUNT, the oldest among equals, is evicted. -/
def execGleanerEvict (p : Nat) (s : State) : Out :=
  if s.lowmark p ≤ s.framesFree p then .next s
  else
    match s.installs.filter fun i => i.part == p && i.leaving.isNone && !s.frameStuck i.frame with
    | [] => .next s
    | i :: is => .next (s.beginLeave (is.foldl (fun m j => if s.frameCount j.frame < s.frameCount m.frame then j else m) i) .evict)

/-! ### Events of a lease (R423 to R425) -/

def State.pagesOf (s : State) (key : Nat) : List Install := s.installs.filter fun i => i.key == key

/-- LEASE_RENEW (R423): considered once, RENEW before the expiry; of a shard held elsewhere the holder is asked. -/
def execLeaseRenew (key : Nat) (s : State) : Out :=
  match s.leases.find? fun l => l.key == key with
  | none => .next s
  | some l =>
    if l.tried || decide (s.gtime + min 500000 (s.leaseNs l.part / 2) < l.expiry) then .next s
    else
      match s.entry? key with
      | none => .next s
      | some e =>
        let busy := (s.services.any fun v => v.key == key) || (s.pagesOf key).any fun i => s.frameCount i.frame != 0
        let tried := fun (q : Option (BitVec 512)) =>
          { s with leases := s.leases.map fun (x : Lease) => if x.key = key then { x with tried := true, asked := q } else x }
        if entReq e = noModule ∧ s.timeBad = false ∧ busy = true then
          let x := s.leaseEntry l.part e
          .next (if s.ownShard key then s.takeLease l.part key x else tried (some x))
        else .next (tried none)

/-- LEASE_END (R423): 10 µs before the expiry. -/
def execLeaseEnd (key : Nat) (s : State) : Out :=
  match s.leases.find? fun l => l.key == key with
  | none => .next s
  | some l =>
    if s.gtime + 10000 < l.expiry then .next s
    else
      match s.pagesOf key with
      | [] => .next (s.endLease key)
      | is => .next (is.foldl (fun s i => s.beginLeave i .evict) s)

/-- LEASE_RELEASE_REQUEST (R424): a module that holds the page gives it up at once. -/
def execLeaseReleaseRequest (key source : Nat) (s : State) : Out :=
  if !s.hasLease key || s.isFenced source then .next s
  else
    let s := match s.entry? key with | some e => s.putEntry key (entSet e 352 16 source) | none => s
    .next ((s.pagesOf key).foldl (fun s i => s.beginLeave i (.give source)) s)

/-- LEASE_PAGE_RECEIVED (R424): the lease is this module's; a service that waits installs the page, the others look again. -/
def execLeasePageReceived (key : Nat) (e : BitVec 512) (p : PageImage) (s : State) : Out :=
  let waits := s.services.filter fun v => v.key == key && v.state == .lease
  match waits with
  | [] => .next s
  | v :: vs =>
    let from? := v.entry.map entOwner
    if entOwner e ≠ s.selfId v.part ∨ from?.any s.isFenced then .next s
    else
      let s := s.takeLease v.part key e
      let s := s.install { v with entry := some e, leased := true } p
      .next (vs.foldl (fun s x => s.startLookup x) s)

/-- LEASE_WAIT_EXPIRY (R425): the requester reads the holder's heartbeats; once the lease is none's, it goes on. -/
def execLeaseWaitExpiry (n : Nat) (s : State) : Out :=
  match s.services[n]? with
  | none => .next s
  | some v =>
    match v.state, v.entry with
    | .lease, some e =>
      if s.gtime < entExpiry e + 50000 then .next s
      else
        match if s.ownShard v.key then s.entry? v.key else none with
        | some x => if entOwner x = noModule then .next (s.startLookup v) else .next s
        | none => if Tab.has s.watched (entOwner e) then .next s else .next (s.watch (entOwner e))
    | _, _ => .next s

/-- HARROW_RESTORE_NOTICE (17 R444): the requester goes on from LOOKUP. -/
def execHarrowRestoreNotice (key : Nat) (s : State) : Out :=
  .next ((s.services.filter fun v => v.key == key && v.state == .lease).foldl State.startLookup s)

/-! ### Requests of other modules (R415, R416) -/

/-- SHARD_REQUEST: a read changes nothing here; a swap stands if the entry is as the request has it, and is refused to a
fenced module (17 R443). -/
def execShardRequest (r : ShardReq) (s : State) : Out :=
  if !s.ownShard r.key || s.isFenced r.source then .next s
  else
    match r.swap, s.entry? r.key with
    | some (old, new), some e => if e = old then .next (s.watching (entOwner new) fun s => s.putEntry r.key new) else .next s
    | _, _ => .next s

/-- PEER_PAGE_READ (R416): the page goes out with its poison, which is reported once (17 R433); a fenced module's request is
discarded (R443). -/
def execPeerPageRead (key source : Nat) (s : State) : Out :=
  if s.isFenced source then .next s
  else
    match s.installs.find? fun i => i.key == key with
    | none => .next s
    | some i =>
      match (List.range 2048).find? fun a => s.poisonedAt (i.frame * 65536 + 32 * a) with
      | some a => .next (s.reportBad (i.frame * 65536 + 32 * a) 0)
      | none => .next s

/-! ### Seals (08 R234, R235) -/

/-- The region of SEAL and UNSEAL, checked: its physical 4 KiB pages. -/
def Env.region (e : Env) (o : Ops) (k : State → List Nat → Out) : Out :=
  let ea := Ops.globalEa o (e.a e.first)
  let b := e.b e.first % 2 ^ 32
  if !canonical ea then e.trapAux 7 1 e.first ea 0
  else if ea.toNat % 65536 ≠ 0 then e.trapAux 8 16 e.first ea 0
  else if b = 0 ∨ 4096 < b then e.trapAux 0xA 2 e.first ea 0
  else
    let as := rangeAccs e.first e.mask .write [(ea, 65536 * b)]
    match as.find? fun a => !canonical a.va with
    | some a => e.trapAux 7 1 a.lane a.va 0
    | none =>
      match e.s.checkTranslated e.asker as false with
      | .ok s ps =>
        let leaf := fun (a : Acc) => match s.lookup e.asker.die e.g.ctx a.va with | some t => t.leaf.toNat | none => 0
        match as.find? fun a => bitsOf (leaf a) 8 1 == 1 with
        | some a => ({ e with s := s }).trapAux 0xA 3 a.lane a.va 0
        | none => k s (ps.map fun p => p.pa / 4096)
      | .trap s c d l a x => ({ e with s := s }).trapAux c d l a x
      | .miss s a l en p => e.park s a l en p
      | .wait s => e.blockAt s .tick
      | .stop s => .next { s with cur := none }

/-- A lease that another module holds on a page is ended with write-back (R234). -/
def endOther (self : Nat) (e : BitVec 512) : BitVec 512 :=
  if entOwner e = noModule ∨ entOwner e = self then e else entSet (writtenBack e) 368 16 noModule

/-- SEALED of the field-map entries of installed pages; before a seal, leases of other modules end. -/
def State.recordSeal (s : State) (ps : List Nat) (v : Nat) : State :=
  (s.installs.filter fun i => i.tracked && ps.contains (16 * i.frame)).foldl (fun s i =>
    match s.entry? i.key with
    | some e => s.putEntry i.key (entSet (if v = 1 then endOther (s.selfId i.part) e else e) 265 1 v)
    | none => s) s

/-- Every cached translation of the pages goes (R234). -/
def State.flushPages (s : State) (ps : List Nat) : State :=
  let hit := s.tlb.filter fun t =>
    let a := leafPa t.leaf.toNat t.bits 0 / 4096
    ps.any fun p => decide (a ≤ p) && decide (p < a + 2 ^ (t.bits - 12))
  let es := hit.map fun t => t.ents.headD 0
  (List.range 10).foldl (fun s d => s.flushDie d fun x => es.contains (x.headD 0)) s

/-- The operation is begun, and the group waits for it. -/
def Env.sealOp (e : Env) (o : Ops) (s : State) (undo : Bool) (ps : List Nat) : Out :=
  ({ e with s := s }).holdFor { s with seals := s.seals ++ [(⟨e.u.gid, undo, ps, Ops.globalEa o (e.a e.first), s.gtime⟩ : SealOp)] } .seal

/-- SEAL. -/
def execSeal (o : Ops) (m : ModM) (s : State) : Out :=
  issue1 .all o (Instr.seal o m).sig s fun e =>
    if e.act.isEmpty then e.commit e.g
    else e.region o fun s ps =>
      let s := { s with sealed := s.sealed ++ ps.filter fun p => !s.sealed.contains p }
      e.sealOp o ((s.recordSeal ps 1).flushPages ps) false ps

/-- UNSEAL. -/
def execUnseal (o : Ops) (m : ModM) (s : State) : Out :=
  issue1 .all o (Instr.unseal o m).sig s fun e =>
    if e.act.isEmpty then e.commit e.g else e.region o fun s ps => e.sealOp o s true ps

/-- Is every earlier write to the pages performed (07 R202)? -/
def State.sealDone (s : State) (x : SealOp) : Bool :=
  x.undo ||
  (!(s.fabric.any fun r => r.kind.writes && x.pages.contains (r.pa / 4096)) &&
   !(s.tableWrites.any fun t => x.pages.contains (t.line / 32)))

/-- SEAL_COMPLETE (07 R202): the oldest operation of the group. -/
def execSealComplete (gid : Nat) (s : State) : Out :=
  match s.seals.find? fun x => x.gid == gid with
  | none => .next s
  | some x =>
    if !s.sealDone x then .next s
    else
      let s := { s with seals := s.seals.erase x }
      let s := if x.undo then { s with sealed := s.sealed.filter fun p => !x.pages.contains p }.recordSeal x.pages 0 else s
      let held := (s.group? gid).any fun g => g.heldAt .seal
      if held && !(s.seals.any fun y => y.gid == gid) then .next (s.releaseGroup gid) else .next s

/-- SEAL_TIMEOUT (08 R235): the group traps; the change goes on. -/
def execSealTimeout (gid : Nat) (s : State) : Out :=
  match s.group? gid, (s.seals.filter fun x => x.gid == gid).getLast? with
  | some g, some x =>
    if g.heldAt .seal && s.onCore g && decide (x.t0 + 50000000 ≤ s.gtime) then .next (s.stallAt gid 0xC 3 x.ea 0) else .next s
  | _, _ => .next s

end Sys2Proof.Machine
end

