-- ==== Sys2Proof/Machine/Fellow.lean ====
section
/-! DEFINITION. Time (16 R412, R426), heartbeats, fences and the harrow (17 R442 to R445), integrity events (17 R433, R436,
R438), access counters (14 R388), and links (17 R439 to R441).
What rests on the model rather than on the plain words of the manual: log 20 (PRESUMED), log 28 (DEDUCED), log 29 (DEDUCED),
log 30 (DEDUCED), log 33 (DEDUCED). -/

namespace Sys2Proof.Machine

/-! ### Things done periodically -/

/-- Has the period of activity `k` passed since it was last done? 0 halving, 1 the harrow's walk, 2 POHOURS. -/
def State.due (s : State) (k period : Nat) : Bool := decide (Tab.read 0 s.periods k + period ≤ s.gtime)
def State.stamp (s : State) (k : Nat) : State := { s with periods := Tab.write 0 s.periods k s.gtime }

/-! ### Time (16 R412, R426) -/

/-- Bytes of a line's entries with W clear. -/
def State.lineNoW (s : State) (a : Nat) : List Byte :=
  (List.range 16).flatMap fun i => leBytes 8 (setBitsOf (leNat (s.homeRead (a + 8 * i) 8)) 2 1 0)

/-- W is cleared in the leaves of a page: by a table write where their line has sharers. Behind a held write of the same
leaves it clears W in what that write stores. -/
def State.clearW (s : State) (i : Install) : State :=
  if s.lineHeld i.line then
    let s := s.countWrite 8
    s.hold (placed i.line (line16 (pageLeaf i.frame false false))) i.line .other 8 (s.clockOf 8)
  else s.writeLine 8 i.line (s.lineNoW i.line) .other

/-- The module becomes time-unsafe: leased pages lose W (R426). -/
def State.becomeUnsafe (s : State) : State :=
  (s.installs.filter fun i => i.tracked && i.leaving.isNone && s.hasLease i.key).foldl State.clearW { s with timeBad := true }

/-- TIME_UNSAFE: SYNCERR exceeds 25 µs. -/
def execTimeUnsafe (s : State) : Out :=
  if decide (25000 < s.syncErr) && !s.timeBad then .next s.becomeUnsafe else .next s

/-- TIME_SAFE: SYNCERR has stayed at or below 12.5 µs for a second. -/
def execTimeSafe (s : State) : Out :=
  match s.safeSince with
  | some t => if s.timeBad && decide (t + 1000000000 ≤ s.gtime) then .next { s with timeBad := false } else .next s
  | none => .next s

/-- What the best master clock algorithm of IEEE 1588 compares, the least first (PRESUMED, log 20). -/
def masterRank (m : PtpMaster) : List Nat :=
  [m.priority1, m.clockClass, m.accuracy, m.variance, m.priority2, m.identity, m.steps, m.port]

/-- The master selected among those announced on the ports that software names. -/
def State.bestMaster (s : State) : Option PtpMaster :=
  (s.ptp.masters.filter fun m => s.ptp.ports.testBit m.port).foldl (fun b m =>
    match b with
    | some x => if decide (masterRank m < masterRank x) then some m else b
    | none => some m) none

/-- Is a sync message accepted, from master `m`? -/
def State.acceptsSync (s : State) (m : PtpMaster) (x : PtpSync) : Bool :=
  x.port == m.port && x.source == m.identity && x.domain == s.ptp.domain && (!x.twoStep || x.followUp) &&
  x.request.any fun t => decide (t ≤ s.gtime) && decide (s.gtime ≤ t + 1000000000)

/-- PTP_SYNC: an accepted message sets SYNCERR to |o| + d + a; the servo's change of rate is timing (log 20). -/
def execPtpSync (x : PtpSync) (o d : Nat) (s : State) : Out :=
  match s.bestMaster with
  | none => .next s
  | some m =>
    if !s.acceptsSync m x then .next s
    else
      let e := o + d + m.accuracy
      let s := { s with
        syncErr := e
        safeSince := if e ≤ 12500 then (if s.safeSince.isSome then s.safeSince else some s.gtime) else none }
      .next (if decide (25000 < e) && !s.timeBad then s.becomeUnsafe else s)

/-- A master announces itself: what it announced before on the port goes. -/
def State.announce (s : State) (m : PtpMaster) : State :=
  { s with ptp := { s.ptp with masters := m :: s.ptp.masters.filter fun x => !(x.port == m.port && x.identity == m.identity) } }

/-! ### The harrow (17 R443 to R445) -/

/-- An entry without module `m`: its lease ends, and it keeps no copy (R444). -/
def restoreEntry (m : Nat) (e : BitVec 512) : BitVec 512 :=
  let e := if entOwner e = m then entSet (entSet (entSet e 368 16 noModule) 448 64 0) 416 32 (entWbver e) else e
  let hs := (entHolders e).filter fun h => h != m
  if (entHolders e).contains m then
    (List.range 4).foldl (fun e i => entSet e (288 + 16 * i) 16 (hs.getD i noModule)) e
  else e

/-- The walk that a fence starts, and requesters here that are told of restored pages. -/
def State.harrowFence (s : State) (m : Nat) : State :=
  let lost := ((s.fieldMap.filter fun e => s.ownShard e.1 && entOwner e.2 == m).map (·.1))
  let s := { s with
    fieldMap := s.fieldMap.map fun (e : Nat × BitVec 512) => if s.ownShard e.1 then (e.1, restoreEntry m e.2) else e }
  (s.services.filter fun v => v.state == .lease && lost.contains v.key).foldl State.startLookup s

/-- Module `m` is fenced at incarnation `inc`: `sub` 0 issued here, 1 received. Requests of it that have not performed are
discarded. -/
def State.fenceModule (s : State) (m inc sub : Nat) : State :=
  let s := s.postSys (recordOf [(48, 16, m), (40, 8, sub), (0, 8, 0x61)])
  { s with
    fabric := s.fabric.filter fun r => r.remote != some m
    tableWrites := s.tableWrites.filter fun t => match t.who with | .core r => r.remote != some m | _ => true
    fencedOut := (m, inc) :: s.fencedOut.filter fun f => f.1 != m
    watched := Tab.modify s.watched m fun w => { w with fenced := true } }.harrowFence m

/-- HARROW_EXPIRY_WALK (R445), while the module is time-safe. -/
def execHarrowExpiryWalk (s : State) : Out :=
  if !s.due 1 100000000 || s.timeBad then .next s
  else
    .next ({ s with
      fieldMap := s.fieldMap.map fun (e : Nat × BitVec 512) =>
        if s.ownShard e.1 && decide (entExpiry e.2 + 100000 < s.gtime) then (e.1, entSet e.2 368 16 noModule) else e }.stamp 1)

/-! ### Heartbeats (R442) -/

/-- HEARTBEAT_SEND: every millisecond, unless a module fatal has stopped them. -/
def execHeartbeatSend (s : State) : Out :=
  if s.power == .on && !s.hbStopped && decide (s.hbLast + 1000000 ≤ s.gtime) then
    .next { s with hbSeq := (s.hbSeq + 1) % 2 ^ 32, hbLast := s.gtime }
  else .next s

/-- HEARTBEAT_RECEIVE: a heartbeat of a higher incarnation ends a fence; one of an older incarnation says nothing. -/
def execHeartbeatReceive (m inc seq : Nat) (timeBad : Bool) (s : State) : Out :=
  let s := { s with fencedOut := s.fencedOut.filter fun f => !(f.1 == m && decide (f.2 < inc)) }
  .next { s with watched := Tab.modify s.watched m fun w =>
    if inc < w.inc then w else ⟨inc, seq, s.gtime, timeBad, w.fenced && inc == w.inc⟩ }

/-- HEARTBEAT_LOSS: 3.1 ms without a heartbeat of a module that is watched. -/
def execHeartbeatLoss (m : Nat) (s : State) : Out :=
  match Tab.get? s.watched m with
  | none => .next s
  | some w =>
    if s.watches m && !w.fenced && decide (w.last + 3100000 ≤ s.gtime) then .next (s.fenceModule m w.inc 0) else .next s

/-- FENCE_RECEIVE (R443): a fence of an incarnation that is past, or that stands already, changes nothing. -/
def execFenceReceive (m inc : Nat) (s : State) : Out :=
  let past := (Tab.get? s.watched m).any fun w => decide (inc < w.inc)
  if past || s.fencedOut.any (fun f => f.1 == m && decide (inc ≤ f.2)) then .next s else .next (s.fenceModule m inc 1)

/-! ### Integrity -/

/-- CONTEXT_LOSS (R436). -/
def execContextLoss (c reason core : Nat) (va : BitVec 64) (pa : Nat) (s : State) : Out :=
  if s.live c && decide (1 ≤ reason) && decide (reason ≤ 5) then .next { s.lose c reason core va pa with cur := none } else .next s

/-- The module is fatal (R438): every live context is lost, heartbeats stop, FAULT. -/
def State.fatal (s : State) : State :=
  let s := ((List.range 1024).filter fun c => s.live c).foldl (fun s c => s.lose c 2 0x3FF 0 0) s
  { s.postSys 0x52 with hbStopped := true, power := .fault, cur := none }.bootStat 4 0xFFFF

/-- MODULE_FATAL. -/
def execModuleFatal (s : State) : Out := if s.power == .on then .next s.fatal else .next s

/-- A corrected error of a structure of Table 1. -/
def State.countCorrected (s : State) (row : Nat) : State :=
  { s with corrected := Tab.write 0 s.corrected row (Tab.read 0 s.corrected row + 1) }

/-- PATROL_SCRUB (R433): the scrub reports an atom that it cannot correct, or writes back one that it has corrected. -/
def execPatrolScrub (pa : Nat) (bad : Bool) (s : State) : Out :=
  if !isLocal pa then .next s
  else if bad then .next ((s.setPoison pa true).reportBad pa 0)
  else if s.poisonedAt pa then .next (s.reportBad pa 0)
  else .next (s.countCorrected 0)

/-- A word of a node's held-back write is poisoned, the `chunk`-th of its buffer. -/
def Node.spoil (n : Node) (chunk word : Nat) : Node :=
  { n with buf := n.buf.zipIdx.map fun x =>
      if x.2 = chunk ∧ 4 * word < x.1.bytes.length then { x.1 with bad := (x.1.pa % 32 + 4 * word) / 32 :: x.1.bad } else x.1 }

/-- An error that its structure cannot correct reacts as Table 1 says; those of the units that it calls module fatal are
MODULE_FATAL, and flits are replayed. -/
def State.storageError (s : State) : StorageError → State
  | .corrected row => if row < 9 then s.countCorrected row else s
  | .atom pa => if isLocal pa then s.setPoison pa true else s
  | .localWord t w => s.modTeam t fun x => if x.bad.contains w then x else { x with bad := w :: x.bad }
  | .vectorWord gid r l => s.modGroup gid fun g =>
      if g.vBad.contains (32 * r + l) then g else { g with vBad := (32 * r + l) :: g.vBad }
  | .scalarWord gid r => s.modGroup gid fun g => if g.sBad.contains r then g else { g with sBad := r :: g.sBad }
  | .operandWord core w =>
    let a := 131072 * core + w
    if 131072 ≤ w ∨ s.obBad.contains a = true then s else { s with obBad := a :: s.obBad }
  | .accWord core k =>
    let a := 131072 * core + k
    if 131072 ≤ k ∨ s.accBad.contains a = true then s else { s with accBad := a :: s.accBad }
  | .bufferWord slot ix chunk w => s.modNode slot ix fun n => n.spoil chunk w
  | .dirEntry l => { s with dir := Tab.write [] s.dir l (List.range 10) }
  | .readerCount l =>
    match Tab.get? s.counted l with
    | some (c, _) => (List.range 4).foldl (fun s i => s.setPoison (128 * l + 32 * i) true) { s with counted := Tab.set s.counted l (c, 1) }
    | none => s
  | .accessCounter f => if !isLocal (f * 65536) then s else s.setFrameW (f * 65536) (BitVec.ofNat 64 (setBitsOf (s.frameW (f * 65536)).toNat 28 12 0))
  | .aliasBits f => if !isLocal (f * 65536) then s else { s with aliasBits := Tab.write 0 s.aliasBits f 3 }
  | .tlbEntry n => { s with tlb := s.tlb.eraseIdx n }
  | .faultEntry n =>
    match s.fmt[n]? with
    | some e =>
      { s with
        fmt := s.fmt.eraseIdx n
        represent := s.represent ++ e.waiters.map fun w => ⟨w.miss, w.since, s.gtime, e.declined⟩ }
    | none => s

/-- COUNTER_HALVING (14 R388): every millisecond. -/
def execCounterHalving (s : State) : Out :=
  if !s.due 0 1000000 then .next s
  else
    let half := fun (e : Nat × W64) => (e.1, BitVec.ofNat 64 (setBitsOf e.2.toNat 28 12 (bitsOf e.2.toNat 28 12 / 2)))
    .next ({ s with frame := (s.frame.map half).filter fun e => e.2 != 0 }.stamp 0)

/-- MIGRATION_RESCAN (14 R388): the first frame with PENDING set, when the queue has space; one that no partition owns any more
posts nothing. -/
def execMigrationRescan (s : State) : Out :=
  match s.frame.find? fun e => bitsOf e.2.toNat 27 1 == 1 with
  | none => .next s
  | some (f, v) =>
    if 4096 ≤ s.migQueue.length then .next s
    else
      let w := v.toNat
      if bitsOf w 0 7 = 0 ∨ 64 < bitsOf w 0 7 then .next (s.setFrameW (f * 65536) (BitVec.ofNat 64 (setBitsOf w 27 1 0)))
      else .next (s.postMigration 0 0 f)

/-! ### Links (R439 to R441) -/

/-- A link event's record. -/
def State.linkEvent (s : State) (id sub : Nat) : State := s.postSys (recordOf [(48, 16, id), (40, 8, sub), (0, 8, 0x60)])

/-- The dies that link k joins, 8 being the IOD (01 R13). -/
def linkEnds (k : Nat) : Nat × Nat := if k < 16 then (k / 2, 8) else (k - 16, (k - 15) % 8)

/-- The link between two dies: a core die's first link to the IOD, or its link to a neighbour in the ring. -/
def linkBetween? (a b : Nat) : Option Nat :=
  (List.range 24).find? fun k => linkEnds k == (a, b) || linkEnds k == (b, a)

/-- Integer register x1 to x31 of a steward core; x0 reads zero (01 R21; what RV64 gives a core is PRESUMED, log 33). -/
def State.stewardReg (s : State) (k n : Nat) : W64 := if n % 32 = 0 then 0 else Tab.read 0 s.stewards.regs (32 * k + n % 32)
def State.stewardPc (s : State) (k : Nat) : W64 := Tab.read 0 s.stewards.regs (32 * k)
/-- A write to x0 is discarded. -/
def State.setStewardReg (s : State) (k n : Nat) (v : W64) : State :=
  if n % 32 = 0 then s else { s with stewards := { s.stewards with regs := Tab.write 0 s.stewards.regs (32 * k + n % 32) v } }
/-- Control and status register `n` of a steward, satp and those of traps and interrupts among them. -/
def State.stewardCsr (s : State) (k n : Nat) : W64 := Tab.read 0 s.stewards.csrs (4096 * k + n % 4096)
def State.setStewardCsr (s : State) (k n : Nat) (v : W64) : State :=
  { s with stewards := { s.stewards with csrs := Tab.write 0 s.stewards.csrs (4096 * k + n % 4096) v } }
/-- Privilege mode of a steward: 3 machine, as it comes out of reset, 1 supervisor, 0 user. -/
def State.stewardMode (s : State) (k : Nat) : Nat := Tab.read 3 s.stewards.mode k

def State.linkOf (s : State) (k : Nat) : Link := (Tab.get? s.link k).getD Link.init
def State.setLink (s : State) (k : Nat) (l : Link) : State := { s with link := Tab.set s.link k l }

/-- Lanes of the link that carry data: all 64, or the half that holds no failed lane. -/
def Link.uses (l : Link) (lane : Nat) : Bool := !l.half || !(l.failed.any fun x => x / 32 == lane / 32)

/-- LINK_PERIODIC_CHECK: a lane that fails gets a spare; with no spare left the link goes to the half without it, and with
neither half left it goes down, which is module fatal. -/
def execLinkPeriodicCheck (k lane : Nat) (failed : Bool) (s : State) : Out :=
  let l := s.linkOf k
  if s.power != .on || !failed || decide (24 ≤ k) || decide (64 ≤ lane) || l.down || !l.uses lane then .next s
  else if 0 < l.spares then .next ((s.setLink k { l with spares := l.spares - 1 }).linkEvent k 1)
  else if l.half then .next (s.setLink k { l with down := true, failed := lane :: l.failed }).fatal
  else .next ((s.setLink k { l with half := true, failed := [lane] }).linkEvent k 2)

/-- FLIT_CRC_ERROR (R439): the flit is replayed in order, so that nothing is lost. -/
def execFlitCrcError (k : Nat) (s : State) : Out :=
  let l := s.linkOf k
  if l.down then .next s else .next (s.setLink k { l with replays := l.replays + 1 })

def State.portGroup (s : State) (g : Nat) : PortGroup := (Tab.get? s.scaleup g).getD PortGroup.init
def State.setPortGroup (s : State) (g : Nat) (x : PortGroup) : State := { s with scaleup := Tab.set s.scaleup g x }

/-- SCALEUP_PORT_LOSS (R441): port 0 to 19. In independent mode its transfers go over another port; in spray mode the loss of
one port costs nothing, and a second moves the group to independent mode. -/
def execScaleupPortLoss (p : Nat) (s : State) : Out :=
  let g := p / 5
  let x := s.portGroup g
  if 20 ≤ p ∨ x.lost.contains p = true then .next s
  else
    let y := { x with lost := p :: x.lost }
    if x.mode = 0 then .next ((s.setPortGroup g y).linkEvent (64 + p) 3)
    else if x.lost.isEmpty then .next (s.setPortGroup g y)
    else .next ((s.setPortGroup g { y with mode := 0 }).linkEvent (64 + p) 4)

/-- SCALEUP_TRAINING (R441): the far ends' modes, true for spray; the record of a mismatch names the first port that has one. -/
def execScaleupTraining (g : Nat) (far : List Bool) (s : State) : Out :=
  let x := s.portGroup g
  if 4 ≤ g ∨ far.length ≠ 5 then .next s
  else
    match far.zipIdx.find? fun f => f.1 != (x.mode == 1) with
    | none => .next (s.setPortGroup g { x with up := true, lost := [] })
    | some f => .next ((s.setPortGroup g { x with up := false }).linkEvent (64 + 5 * g + f.2) 5)

end Sys2Proof.Machine
end

