-- ==== Sys2Proof/Machine/Launch.lean ====
section
/-! DEFINITION. Launch queues (10 R265 to R273, R476): the packet processor examines a slot, checks the packet and starts
or refuses a grid; grids complete (R271).
What rests on the model rather than on the plain words of the manual: log 21 (DEDUCED). -/

namespace Sys2Proof.Machine

/-! ### The packet processor's accesses -/

/-- The packet processor of a queue as a walker for its context. -/
def State.queueAsker (s : State) (q : Nat) : Asker :=
  ⟨bitsOf (s.queueW q 0).toNat 8 3, bitsOf (s.queueW q 1).toNat 0 10, 2, 0x3FF, 0, false⟩

/-- What accesses find before they are made: a fault with cause and detail, misses, a wait, and their places. -/
structure Probed where
  s : State
  fault : Option (W64 × Nat × Nat)
  misses : List (Acc × Nat × Nat × Nat)
  wait : Bool
  stop : Bool
  places : List Placed

def missesOf (ts : List (Acc × Tr)) : List (Acc × Nat × Nat × Nat) :=
  ts.filterMap fun t => match t.2 with | .miss l e p => some (t.1, l, e, p) | _ => none

/-- Translate accesses without making them. -/
def State.probe (s : State) (q : Asker) (accs : List Acc) : Probed :=
  match accs.find? fun a => !canonical a.va with
  | some a => ⟨s, some (a.va, 7, 0), [], false, false, []⟩
  | none =>
    let r := s.translateAll q accs
    let s := r.1
    let ps := r.2.filterMap fun t => match t.2 with | .ok pa _ en => some (Placed.mk t.1 pa en) | _ => none
    let prot := r.2.findSome? fun t => match t.2 with | .prot d => some (t.1.va, 9, d) | _ => none
    let off := (ps.find? fun p => s.home p.pa == .none).map fun p => (p.acc.va, 0xB, 0)
    let w := ps.any fun p => s.waitsAt q.die (AccKind.isWrite p.acc.kind) p
    ⟨if w then ps.foldl (fun s p => s.ask (AccKind.isWrite p.acc.kind) p.pa p.acc.size) s else s,
      prot <|> off, missesOf r.2, (r.2.any fun t => t.2 == .wait) || w,
      r.2.any fun t => t.2 == .stop, ps⟩

def State.modQueue (s : State) (q : Nat) (f : QueueState → QueueState) : State :=
  { s with queue := Tab.modify s.queue q f }

/-- The queue waits for a page (13 R353). -/
def State.parkQueue (s : State) (q : Nat) (m : Acc × Nat × Nat × Nat) : State :=
  let k := s.queueAsker q
  let miss : MissArg :=
    ⟨k.die, k.ctx, m.1.va, m.1.kind, m.2.2.2, m.2.1, BitVec.ofNat 64 m.2.2.1, 0, .queue q⟩
  (s.modQueue q fun x => { x with parked := true }).present miss s.gtime

/-- What a wake gave the queue's access to the page of an address: cause and detail (13 R355). -/
def State.verdictAt (s : State) (q : Nat) (va : W64) : Option Nat :=
  Tab.get? (Tab.read QueueState.init s.queue q).verdicts (pageOf va)

/-- The first miss on a page of which no wake has told the queue: it is still to come. -/
def State.openMiss (s : State) (q : Nat) (ms : List (Acc × Nat × Nat × Nat)) : Option (Acc × Nat × Nat × Nat) :=
  ms.find? fun m => (s.verdictAt q m.1.va).isNone

/-- The access has been dealt with: what a wake told of its page is forgotten. -/
def State.dropVerdict (s : State) (q : Nat) (va : W64) : State :=
  s.modQueue q fun x => { x with verdicts := Tab.erase x.verdicts (pageOf va) }

/-- The packet processor is to write through these translations: D is set, where W is set; none where a write must wait (13 R340). -/
def State.readyWrites (s : State) (k : Asker) : List Placed → Option State
  | [] => some s
  | p :: ps =>
    if s.waitsAt k.die true p then none
    else
      match s.lookup k.die k.ctx p.acc.va with
      | some t =>
        if leafAllows t.leaf.toNat .write then
          match s.setDirtyBit k p.acc.va with
          | some s => s.readyWrites k ps
          | none => none
        else s.readyWrites k ps
      | none => s.readyWrites k ps

/-- What a write of the packet processor waits for is asked for. -/
def State.askWrites (s : State) (k : Asker) (ps : List Placed) : State := ps.foldl (fun s p => s.dropTlb k p.acc.va) (s.askAt true ps)

/-- A write of the packet processor through a translation, ready to be made: nothing is written where W is clear. -/
def State.queueWrite (s : State) (k : Asker) (va : W64) (pa : Nat) (bs : List Byte) : State :=
  match s.lookup k.die k.ctx va with
  | some t => if leafAllows t.leaf.toNat .write then s.writeAll k.die pa bs (.own k.ctx t.ents) 2 else s
  | none => s

/-- The queue-fault record (R476): OP 0 slot read, 1 store of RIDX. -/
def State.queueFault (s : State) (q op : Nat) (f : W64 × Nat × Nat) : State :=
  let k := s.queueAsker q
  s.postEq k.ctx (recordOf [(192, 64, f.1.toNat), (128, 64, (s.queueW q 2).toNat), (48, 16, q), (40, 8, op), (30, 10, k.ctx),
    (16, 8, if f.2.1 = 9 then f.2.2 else 0), (8, 8, f.2.1), (0, 8, 8)])

/-- A wake's cause as a failed access of a queue; remote-unavailable is no fault of R476. -/
def verdictFault (va : W64) (v : Nat) : Option (W64 × Nat × Nat) :=
  let c := v / 2 ^ 16
  if c = 7 ∨ c = 9 ∨ c = 0xB then some (va, c, v % 2 ^ 16) else none

/-- A slot read has failed: it is made again only after a write of QNOTIFY. -/
def State.failSlot (s : State) (q : Nat) (f : Option (W64 × Nat × Nat)) : State :=
  let seen := (Tab.read QueueState.init s.queue q).slotFail
  let s := s.modQueue q fun x => { x with slotFail := x.slotFail || f.isSome, stopped := true, packet := [] }
  match f with
  | some f => if seen then s else s.queueFault q 0 f
  | none => s

/-- The store of RIDX is made, or has failed (R476). -/
def State.storeRidx (s : State) (q : Nat) (p : Probed) : State :=
  let x := Tab.read QueueState.init s.queue q
  match p.fault, p.misses, p.places with
  | some f, _, _ =>
    let s := s.modQueue q fun x => { x with ridxFail := true, unstored := true, owed := false }
    if x.ridxFail then s else s.queueFault q 1 f
  | none, m :: _, _ =>
    let f := (s.verdictAt q m.1.va).bind (verdictFault m.1.va)
    let s := (s.dropVerdict q m.1.va).modQueue q fun x => { x with ridxFail := x.ridxFail || f.isSome, unstored := true, owed := false }
    match f with
    | some f => if x.ridxFail then s else s.queueFault q 1 f
    | none => s
  | none, [], w :: _ =>
    (s.queueWrite (s.queueAsker q) w.acc.va w.pa (leBytes 8 x.ridx.toNat)).modQueue q fun x =>
      { x with ridxFail := false, unstored := false, owed := false }
  | none, [], [] => s

/-! ### The packet (R266 to R268) -/

/-- Words of a packet, of a kernel descriptor, of the window table. -/
def pkW (b : List Byte) (w lo n : Nat) : Nat := bitsOf (wordOf b w) lo n

/-- Status 1 of Table 4. -/
def packetBad (b : List Byte) : Bool :=
  wordOf b 7 != 0 || pkW b 0 27 5 != 0 || pkW b 0 32 32 == 0 || pkW b 0 4 2 == 3 || decide (12 < (pkW b 0 16 3 + 1) * (pkW b 0 19 3 + 1)) ||
  wordOf b 5 == 0 || wordOf b 5 % 4096 != 0 || wordOf b 1 % 64 != 0 || wordOf b 2 % 16 != 0 || wordOf b 6 % 16 != 0

/-- Status 2 of Table 4, for the kernel descriptor. -/
def kernelBad (k : List Byte) : Bool :=
  pkW k 1 45 19 != 0 || pkW k 1 22 10 != 0 || pkW k 1 15 1 != 0 || pkW k 3 32 32 != 0 ||
  ((List.range 4).any fun i => wordOf k (4 + i) != 0) ||
  !canonical (BitVec.ofNat 64 (wordOf k 0)) || wordOf k 0 % 4 != 0 || pkW k 1 32 13 == 0 || decide (4096 < pkW k 1 32 13) ||
  decide (64 < pkW k 1 8 7) || decide (pkW k 1 32 13 * 1024 < pkW k 3 0 32)

/-- Windows of a table: number, address, size, reserved bits. -/
def windowsOf (t : List Byte) : List (Nat × W64 × Nat × Nat) :=
  (List.range 16).filterMap fun n =>
    let e := t.drop (16 * n)
    let size := leNat ((e.drop 8).take 4)
    if size = 0 ∨ t.isEmpty = true then none
    else some (n, BitVec.ofNat 64 (leNat (e.take 8)), size, leNat ((e.drop 12).take 4))

/-- Status 2, for the window table. -/
def windowsBad (t : List Byte) : Bool := (windowsOf t).any fun w => decide (65536 < w.2.2.1) || w.2.2.2 != 0

def windowAccs (t : List Byte) : List Acc :=
  rangeAccs 0 0 .read ((windowsOf t).map fun w => (w.2.1, min w.2.2.1 65536))

/-- The `.lmem` image. -/
def imageAccs (k : List Byte) : List Acc := rangeAccs 0 0 .read [(BitVec.ofNat 64 (wordOf k 2), pkW k 3 0 32)]

/-- Image size of a group (R285), and the team need in KiB (R286). -/
def imgSize (nv : Nat) (compat : Bool) : Nat := nv * 128 + (if compat then 12288 else 4096)
def teamNeed (lmKib tg nv : Nat) (compat : Bool) : Nat := lmKib + (tg * imgSize nv compat + 1023) / 1024

/-! ### LaunchChecks (R272) -/

/-- What a packet's checks answer: a status, or that the queue waits. -/
inductive Verdict
  | status (n : Nat)
  | park (m : Acc × Nat × Nat × Nat)
  | wait
  | stop
  | lose (va : W64) (pa : Nat)

/-- What the checks read, with which the grid starts. -/
structure Loaded where
  s : State
  v : Verdict
  kernel : List Byte
  table : List Byte
  windows : List Placed
  image : List Placed

/-- The pages that status 3 names beside the descriptor and the table. -/
def restAccs (b k t : List Byte) : List Acc :=
  windowAccs t ++ imageAccs k ++
  rangeAccs 0 0 .write ([(BitVec.ofNat 64 (wordOf b 5), 8)] ++
    if wordOf b 6 = 0 then [] else [(BitVec.ofNat 64 (wordOf b 6), 16)])

/-- Status 5: the team can never fit. The quota word is the same on every core. -/
def State.neverFits (s : State) (c : Nat) (k : List Byte) : Bool :=
  let w := (s.partW (s.partOf c) 3).toNat
  let tg := pkW k 1 16 5 + 1
  let need := teamNeed (pkW k 1 32 13) tg (pkW k 1 0 8 + 1) (pkW k 1 21 1 == 1)
  decide (bitsOf w 16 7 < tg) || decide (bitsOf w 36 13 < need) || decide (4096 < need)

/-- Table 4 in its order. A page still to come makes the queue wait, while a status before that of the failures known so far could
apply; a page of which a wake has told fails with its cause. -/
def State.launchChecks (s : State) (q : Nat) (b : List Byte) : Loaded :=
  let k := s.queueAsker q
  if packetBad b then ⟨s, .status 1, [], [], [], []⟩
  else
    let pk := s.probe k (rangeAccs 0 0 .read [(BitVec.ofNat 64 (wordOf b 1), 64)])
    let pt := pk.s.probe k (if wordOf b 2 = 0 then [] else rangeAccs 0 0 .read [(BitVec.ofNat 64 (wordOf b 2), 256)])
    let s := pt.s.learnFrom k.die (pk.places ++ pt.places)
    let kb := s.pull pk.places
    let tb := s.pull pt.places
    let kGood := pk.fault.isNone && pk.misses.isEmpty
    let tGood := pt.fault.isNone && pt.misses.isEmpty
    if pk.stop || pt.stop then ⟨s, .stop, [], [], [], []⟩
    else if pk.wait || pt.wait then ⟨s, .wait, [], [], [], []⟩
    else if (kGood && kernelBad kb) || (tGood && windowsBad tb) then ⟨s, .status 2, [], [], [], []⟩
    else
      match s.openMiss q (pk.misses ++ pt.misses) with
      | some m => ⟨s, .park m, [], [], [], []⟩
      | none =>
        let pr := s.probe k (restAccs b (if kGood then kb else []) (if tGood then tb else []))
        let s := pr.s
        let nw := (windowAccs (if tGood then tb else [])).length
        let ni := (imageAccs (if kGood then kb else [])).length
        let ws := pr.places.take nw
        let im := (pr.places.drop nw).take ni
        let out := fun v => Loaded.mk s v kb tb ws im
        let misses := pk.misses ++ pt.misses ++ pr.misses
        let told := misses.filterMap fun m => s.verdictAt q m.1.va
        if pr.stop then out .stop
        else if pr.wait then out .wait
        else if pk.fault.isSome || pt.fault.isSome || pr.fault.isSome || told.any fun v => v / 2 ^ 16 != 0xC then out (.status 3)
        else
          match s.openMiss q misses, told with
          | some m, _ => out (.park m)
          | none, _ :: _ => out (.status 4)
          | none, [] =>
            if s.neverFits k.ctx kb then out (.status 5)
            else
              match s.badPlace (pk.places ++ pt.places ++ ws ++ im) with
              | some p => out (.lose p.acc.va p.pa)
              | none => out (.status 0)

/-! ### Starting a grid (R273, 07 R173) -/

/-- Captured bytes of the windows. -/
def State.capture (s : State) (ws : List (Nat × W64 × Nat × Nat)) (ps : List Placed) : Memory :=
  (ws.foldl (fun (r : Memory × List Byte) w =>
    (Memory.setBytes r.1 (65536 * w.1) (r.2.take w.2.2.1), r.2.drop w.2.2.1)) ([], s.pull ps)).1

/-- The launch that a packet, its kernel descriptor and its window table describe, with the captured image and windows. -/
def packetGrid (k : Asker) (q : Nat) (b kernel table : List Byte) (image win : Memory) (quota0 : W64) (acq : List Nat) : Grid :=
  { ctx := k.ctx, queue := q, die := k.die, ncl := pkW b 0 32 32, llm1 := pkW b 0 22 5, w := pkW b 0 16 3 + 1,
    h := pkW b 0 19 3 + 1, dieMask := pkW b 0 8 8, prio := pkW b 0 6 2, fscope := fscopeOf (pkW b 0 4 2),
    rel := pkW b 0 2 1 == 1, seed := BitVec.ofNat 64 (wordOf b 3), arg := BitVec.ofNat 64 (wordOf b 4),
    save := BitVec.ofNat 64 (wordOf b 5), donea := BitVec.ofNat 64 (wordOf b 6),
    entry := BitVec.ofNat 64 (wordOf kernel 0), lmKib := pkW kernel 1 32 13, tg := pkW kernel 1 16 5 + 1,
    ns := pkW kernel 1 8 7, nv := pkW kernel 1 0 8 + 1, compat := pkW kernel 1 21 1 == 1,
    image := image, winSize := (windowsOf table).map fun w => (w.1, w.2.2.1), win := win, quota0 := quota0, quota := [], pass := [],
    acq := acq, started := 0, finished := 0, completed := false }

/-- The grid of a packet that has passed its checks. -/
def State.gridOf (s : State) (q : Nat) (b : List Byte) (l : Loaded) : Grid :=
  packetGrid (s.queueAsker q) q b l.kernel l.table (Memory.setBytes [] 0 (s.pull l.image)) (s.capture (windowsOf l.table) l.windows)
    (s.partW (s.partOf (s.queueAsker q).ctx) 3)
    (if pkW b 0 1 1 = 1 then (Tab.read QueueState.init s.queue q).headClock else [])

/-- Complete (R271): the completion block, where DONEA can take one. -/
def State.complete (s : State) (k : Asker) (p : Probed) (donea : W64) (status : Nat) : State :=
  match p.fault, p.misses, p.places with
  | none, [], w :: _ =>
    if donea = 0 ∨ donea.toNat % 16 ≠ 0 then s
    else
      let n := leNat (s.homeRead w.pa 8)
      ((s.learnFrom k.die (p.places.take 1)).queueWrite k donea (w.pa + 8) (leBytes 8 status)).queueWrite k donea w.pa (leBytes 8 (n + 1))
  | _, _, _ => s

/-- The packet is consumed: VALID clears, RIDX advances and is stored; the grid starts, or the packet completes. -/
def State.consumePacket (s : State) (q : Nat) (slot : Placed) (b : List Byte) (l : Loaded) (st : Nat) (pr pd : Probed) :
    State :=
  let s := s.queueWrite (s.queueAsker q) slot.acc.va slot.pa (leBytes 8 (wordOf b 0 / 2 * 2))
  let grid := s.gridOf q b l
  let s := if st = 0 then s.learnFrom (s.queueAsker q).die (l.windows ++ l.image) else s
  let s := s.modQueue q fun x => { x with ridx := x.ridx + 1, poll := none, packet := [], headClock := [] }
  let s := (s.storeRidx q pr).modQueue q fun x => { x with verdicts := [] }
  if st = 0 then { s with grids := Tab.set s.grids s.nextId grid, nextId := s.nextId + 1 }
  else s.complete (s.queueAsker q) pd (BitVec.ofNat 64 (wordOf b 6)) st

/-- Grids of a queue that have not completed. -/
def State.openGrids (s : State) (q : Nat) : List (Nat × Grid) := s.grids.filter fun e => e.2.queue == q && !e.2.completed

/-- The slot at RIDX is readable and holds a packet. -/
def State.servePacket (s : State) (q : Nat) (slot : Placed) (b : List Byte) : State :=
  let k := s.queueAsker q
  if pkW b 0 3 1 = 1 ∧ (s.openGrids q).isEmpty = false then s
  else
    let l := s.launchChecks q b
    match l.v with
    | .stop => l.s
    | .wait => l.s
    | .park m => l.s.parkQueue q m
    | .lose va pa => (l.s.reportBad pa 0).lose k.ctx 1 0x3FF va pa
    | .status st =>
      -- what consumption will write is translated first
      let pr := l.s.probe k [⟨0, 0, s.queueW q 3, 8, .write⟩]
      let done := wordOf b 6
      let pd := pr.s.probe k (if st = 0 ∨ done = 0 ∨ done % 16 ≠ 0 then []
        else [⟨0, 0, BitVec.ofNat 64 done, 16, .write⟩])
      let s := pd.s
      if pr.stop || pd.stop || pr.wait || pd.wait then s
      else
        match s.openMiss q (pr.misses ++ pd.misses) with
        | some m => s.parkQueue q m
        | none =>
          let ws := slot :: (if pr.fault.isSome then [] else pr.places) ++ (if pd.fault.isSome then [] else pd.places)
          match s.readyWrites k ws with
          | none => s.askWrites k ws
          | some s => s.consumePacket q slot b l st pr pd

/-- May the packet processor examine the queue: not frozen, not held, its last grid started, something notified? -/
def State.examines (s : State) (q : Nat) : Bool :=
  let x := Tab.read QueueState.init s.queue q
  let c := s.queueCtx q
  Tab.has s.queue q && s.power == .on && !s.frozen c && !s.scopeHeld c && !x.stopped && !x.parked &&
  decide (x.ridx.toNat < x.notify.toNat) &&
  (s.openGrids q).all fun e => decide (e.2.ncl ≤ e.2.started)

/-- A store of RIDX that failed is made again after a write of QNOTIFY; it waits for a page as any access of the queue does. -/
def State.retryRidx (s : State) (q : Nat) : State :=
  let x := Tab.read QueueState.init s.queue q
  if x.owed && !x.parked && s.power == .on && !s.frozen (s.queueCtx q) then
    let p := s.probe (s.queueAsker q) [⟨0, 0, s.queueW q 3, 8, .write⟩]
    if p.stop || p.wait then p.s
    else
      match (if p.fault.isSome then none else p.s.openMiss q p.misses) with
      | some m => p.s.parkQueue q m
      | none =>
        let ws := if p.fault.isSome then [] else p.places
        match p.s.readyWrites (s.queueAsker q) ws with
        | none => p.s.askWrites (s.queueAsker q) ws
        | some s => s.storeRidx q p
  else s

/-- Bytes of the slot at RIDX are kept as they were read. -/
def State.keepPacket (s : State) (q : Nat) (slot : Placed) (b : List Byte) (head : List Nat) : State :=
  (s.learnFrom (s.queueAsker q).die [slot]).modQueue q fun x => { x with slotFail := false, packet := b, headClock := head }

/-- Words 1 to 7 are read after word 0, whose clock the reads follow; then the packet is served as it was read (R271). -/
def State.readPacket (s : State) (q : Nat) (slot : Placed) (h : List Byte) : State :=
  let k := s.queueAsker q
  if s.waitsAt k.die false slot then s.askAt false [slot]
  else
    let b := h ++ (s.homeRead slot.pa 64).drop 8
    (s.keepPacket q slot b (Tab.read QueueState.init s.queue q).headClock).servePacket q slot b

/-- The slot at RIDX can be read. -/
def State.serveSlot (s : State) (q : Nat) (slot : Placed) : State :=
  let x := Tab.read QueueState.init s.queue q
  if x.packet.length = 64 then s.servePacket q slot x.packet
  else if s.poisoned slot.pa 64 then (s.reportBad slot.pa 0).lose (s.queueAsker q).ctx 1 0x3FF slot.acc.va slot.pa
  else if x.packet.length = 8 then s.readPacket q slot x.packet
  else
    let h := s.homeRead slot.pa 8
    if pkW h 0 0 1 = 0 then
      (s.learnFrom (s.queueAsker q).die [slot]).modQueue q fun x => { x with slotFail := false, poll := some (s.gtime + 1000) }
    else (s.keepPacket q slot h (s.clockAt slot.pa 8)).readPacket q slot h

/-- One examination of a queue (R271). -/
def State.serveQueue (s : State) (q : Nat) : State :=
  let s := s.retryRidx q
  if s.examines q then
    let x := Tab.read QueueState.init s.queue q
    let lg := (s.queueW q 0).toNat % 32
    let va := s.queueW q 2 + BitVec.ofNat 64 (x.ridx.toNat % 2 ^ lg * 64)
    let p := s.probe (s.queueAsker q) [⟨0, 0, va, 64, .read⟩]
    let s := p.s
    if p.stop || p.wait then s
    else
      match p.fault, p.misses, p.places with
      | some f, _, _ => s.failSlot q (some f)
      | none, m :: _, _ =>
        match s.verdictAt q va with
        | none => s.parkQueue q m
        | some v => (s.dropVerdict q va).failSlot q (verdictFault va v)
      | none, [], slot :: _ => s.serveSlot q slot
      | none, [], [] => s
  else s

/-- QNOTIFY_WRITE (R270). -/
def execQnotifyWrite (q : Nat) (v : BitVec 64) (s : State) : Out := .next ((s.notify q v).serveQueue q)

/-- QUEUE_POLL (R271): a slot found invalid is read again after 1 µs. -/
def execQueuePoll (q : Nat) (s : State) : Out :=
  match (Tab.read QueueState.init s.queue q).poll with
  | some t => if t ≤ s.gtime then .next (s.serveQueue q) else .next s
  | none => .next (s.serveQueue q)

/-! ### Completion (R264, R271) -/

def State.gridGroups (s : State) (n : Nat) : List (Nat × Group) := s.groups.filter fun e => e.2.grid == n

/-- Is every access of the grid performed? -/
def State.gridPerformed (s : State) (n : Nat) : Bool :=
  (s.gridGroups n).all (fun e => (s.inFlight e.1 (BitVec.allOnes 32)).isEmpty) &&
  (s.furrows.all fun f => !(f.2.opened && f.2.busy && (Tab.get? s.teams f.2.team).any fun t => t.grid == n))

/-- GRID_COMPLETE (R271): every team of every cluster has ended. -/
def execGridComplete (n : Nat) (s : State) : Out :=
  match Tab.get? s.grids n with
  | none => .next s
  | some g =>
    if g.completed || decide (g.finished < g.ncl) || s.frozen g.ctx || s.scopeHeld g.ctx || (g.rel && !s.gridPerformed n) then
      .next s
    else
      let done := fun (s : State) => { s with grids := Tab.modify s.grids n fun g => { g with completed := true } }
      let x := Tab.read QueueState.init s.queue g.queue
      if g.donea = 0 then .next (done s)
      else if x.parked then .next s
      else
        let k : Asker := ⟨g.die, g.ctx, 2, 0x3FF, 0, false⟩
        let p := s.probe k [⟨0, 0, g.donea, 16, .write⟩]
        if p.stop || p.wait then .next p.s
        else
          match p.misses with
          | m :: _ =>
            if entryRemote m.2.2.1 && (p.s.openMiss g.queue [m]).isSome && Tab.has s.queue g.queue then .next (p.s.parkQueue g.queue m)
            else .next ((done p.s).dropVerdict g.queue g.donea)
          | [] =>
            let ws := if p.fault.isSome then [] else p.places
            match p.s.readyWrites k ws with
            | none => .next (p.s.askWrites k ws)
            | some s => .next (done (s.complete k p g.donea 0))

end Sys2Proof.Machine
end

