-- ==== Sys2Proof/Machine/Trap.lean ====
section
/-! DEFINITION. Trap instructions (16 R403 to R407), handler entry (R400), and the traps that end a cross-lane wait (10 R280)
and a wait at a compatibility queue (02 R53).
What rests on the model rather than on the plain words of the manual: log 11 (DEDUCED), log 41 (DEDUCED), log 49 (DEDUCED).
-/

namespace Sys2Proof.Machine

/-! ### TRAP -/

/-- TRAP #code: the software trap, after the instruction (R404). -/
def execTrapI (o : Ops) (m : BitVec 20) (s : State) : Out :=
  issue1 .all o (Instr.trapI o m).sig s fun e =>
    e.once fun _ =>
      e.finishTrap e.s e.g ⟨0x1F, (m.extractLsb' 4 16).toNat, e.first, e.u.pc, 0, 0, e.bundle⟩

/-- TRAP.VEC: HVEC becomes the target; it does not become zero again (R404). -/
def execTrapVec (o : Ops) (m : BitVec 20) (s : State) : Out :=
  issue1 .all o (Instr.trapVec o m).sig s fun e =>
    e.once fun _ =>
      let a := e.u.pc + relOffset o (m.toNat / 2) 19
      match badTarget a with
      | some d => e.trap 0x16 d e.first
      | none => e.commit (if a = 0 then e.g else { e.g with hvec := a })

/-- Is everything that the handler has issued complete: accesses, and results that were not awaited when it started (R407)? -/
def State.handlerDone (s : State) (gid : Nat) (g : Group) : Bool := s.groupDrained gid && g.empties.all g.owed.contains

/-- TRET (R407): it waits for what the handler has issued; other bundles of the handler issue no more. -/
def execTret (o : Ops) (m : BitVec 20) (s : State) : Out :=
  issue1 .handler o (Instr.tret o m).sig s fun e =>
    e.once fun _ =>
      if e.s.handlerDone e.u.gid e.g then .next (((e.s.setGroup e.u.gid e.g).charge e.g).leaveTrap e.u.gid)
      else e.holdFor e.s .tret

/-! ### Edits (R405) -/

/-- Live lanes of the mask in source A. -/
def Env.edited (e : Env) : List Nat := (lanesOf (BitVec.ofNat 32 (e.a e.first))).filter e.g.live

/-- Lanes' PCs or meetings change: the clocks of the meetings that they turn from and to start again (10 R279). -/
def Group.edit (g : Group) (cycle : Nat) (ls : List Nat) (f : Lane → Lane) : Group :=
  ((g.restart cycle (ls.filter fun l => (f (g.lane l)).meet != (g.lane l).meet)).modLanes ls f)

def execHpc (o : Ops) (m : BitVec 20) (s : State) : Out :=
  issue1 .handler o (Instr.hpc o m).sig s fun e =>
    e.once fun _ =>
      let a := BitVec.ofNat 64 (e.b e.first)
      match badTarget a with
      | some d => e.trap 0x16 d e.first
      | none => e.commit (e.g.edit s.cycle e.edited fun x =>
          { x.moveTo a with held := x.held && (x.moveTo a).held,
                            saved := if a = x.pc then x.saved else x.saved.filter fun b => !b.1.atPc })

def execHmeet (o : Ops) (m : BitVec 20) (s : State) : Out :=
  issue1 .handler o (Instr.hmeet o m).sig s fun e =>
    e.once fun _ =>
      e.commit (e.g.edit s.cycle e.edited fun x => { x with meet := BitVec.ofNat 64 (e.b e.first) })

def execHparkClr (o : Ops) (m : BitVec 20) (s : State) : Out :=
  issue1 .handler o (Instr.hparkClr o m).sig s fun e =>
    e.once fun _ => e.commit (e.g.modLanes e.edited fun x => { x with park := false })

def execHparkSet (o : Ops) (m : BitVec 20) (s : State) : Out :=
  issue1 .handler o (Instr.hparkSet o m).sig s fun e =>
    e.once fun _ => e.commit (e.g.modLanes e.edited fun x => { x with park := true })

def execHparkExit (o : Ops) (m : BitVec 20) (s : State) : Out :=
  issue1 .handler o (Instr.hparkExit o m).sig s fun e =>
    e.once fun _ => e.commit (e.g.modLanes e.edited fun x => { x with exitMark := true })

/-! ### HRD (R406) -/

/-- TSTAT (Table 3). -/
def Group.tstat (g : Group) : W64 :=
  BitVec.ofNat 64 (ofFields [(63, 1, if g.inh then 1 else 0), (48, 5, g.trap.tlane), (32, 16, g.trap.detail), (0, 8, g.trap.cause)])

def LStat.code : LStat → Nat
  | .live => 0
  | .exited => 1
  | .never => 2

/-- The lane word of 10 Table 6. -/
def Lane.word (x : Lane) : Nat :=
  ofFields [(10, 1, if x.park then 1 else 0), (8, 2, x.stat.code), (0, 7, x.p.toNat)]

/-- Table 5. -/
def Group.hrd (g : Group) (sel lane : Nat) : W64 :=
  let x := g.lane (lane % 32)
  match sel with
  | 0 => g.tstat
  | 1 => g.trap.pc
  | 2 => g.trap.addr
  | 3 => g.trap.aux
  | 4 => g.trap.mask.setWidth 64
  | 5 => g.hvec
  | 6 => x.pc
  | 7 => x.meet
  | _ => BitVec.ofNat 64 (x.word + if x.exitMark then 2 ^ 11 else 0)

def execHrd (o : Ops) (m : BitVec 20) (s : State) : Out :=
  issue1 .handler o (Instr.hrd o m).sig s fun e =>
    e.once fun _ => e.setScalar e.s o.dst.toNat (e.g.hrd (m.extractLsb' 0 4).toNat (e.a e.first))

/-! ### Entry and stalls -/

/-- TRAP_ENTRY (R400). -/
def execTrapEntry (gid : Nat) (s : State) : Out := .next (s.settle gid)

/-- Lanes of a group whose block has a kind and began 2^22 cycles ago or more, at a PC. -/
def Group.blockedLong (g : Group) (cycle : Nat) (k : Block → Bool) : List Nat :=
  g.liveLanes.filter fun l => (g.lane l).block.any k && decide ((g.lane l).since + 2 ^ 22 ≤ cycle)

/-- The wait of lanes at an instruction ends in a trap. -/
def State.stallLanes (s : State) (gid : Nat) (g : Group) (cause detail lane : Nat) (pc : W64) (k : Block → Bool) : State :=
  let ls := g.liveLanes.filter fun l => (g.lane l).block.any k && g.epc l == pc
  (s.setGroup gid (g.modLanes ls fun x => { x with block := none })).raise gid ⟨cause, detail, lane, pc, 0, 0, maskOf ls⟩

def isCross : Block → Bool
  | .cross _ => true
  | _ => false
def isQueue : Block → Bool
  | .queue _ _ => true
  | _ => false

/-- CROSS_LANE_STALL (10 R280). -/
def execCrossLaneStall (gid : Nat) (a : W64) (s : State) : Out :=
  match s.group? gid with
  | none => .next s
  | some g =>
    match (g.blockedLong s.cycle isCross).find? fun l => g.epc l == a with
    | some l => if s.onCore g && g.pend.isNone && !g.returning then .next (s.stallLanes gid g 0x17 0 l a isCross) else .next s
    | none => .next s

/-- QUEUE_STALL (02 R53): detail 0 for a pop, 1 for a push. -/
def execQueueStall (gid : Nat) (s : State) : Out :=
  match s.group? gid with
  | none => .next s
  | some g =>
    match g.blockedLong s.cycle isQueue with
    | [] => .next s
    | l :: _ =>
      let push := match (g.lane l).block with | some (.queue p _) => p | _ => false
      if s.onCore g && g.pend.isNone && !g.returning then .next (s.stallLanes gid g 0x19 (if push then 1 else 0) l (g.epc l) isQueue)
      else .next s

end Sys2Proof.Machine
end

