-- ==== Sys2Proof/Machine/Place.lean ====
section
/-! DEFINITION. Where clusters run (10 R262, R263, R273, R275; 14 R369), pre-emption (R288, R289), spilling to the save area
and resumption (R285, R290, R291).
What rests on the model rather than on the plain words of the manual: log 22 (DEDUCED), log 42 (DEDUCED). -/

namespace Sys2Proof.Machine

/-! ### What cores hold -/

/-- The class of a kernel: PRIO lowered to PCMAX (R282). -/
def Grid.cls (k : Grid) : Nat := min k.prio (bitsOf k.quota0.toNat 54 2)

/-- A supposition about what has been freed: clusters pre-empted, teams spilled. -/
structure Suppose where
  gone : List Nat
  free : List Nat

def Suppose.none : Suppose := ⟨[], []⟩

def State.phaseOf (s : State) (c : Nat) : Phase := ((Tab.get? s.clusters c).map (·.phase)).getD .ended

/-- Has every result that the group awaits arrived, so that its slot is free once it has ended (R264, R298)? Its accesses have been
sent: they were as they issued. -/
def State.groupQuiet (s : State) (gid : Nat) : Bool :=
  (s.results.all fun r => r.gid != gid) && ((s.heldReqs [] ++ s.fabric).all fun r => r.gid != gid || r.dests.isEmpty) &&
  (s.pendings.all fun p => p.gid != gid) && (s.calls.all fun c => c.gid != gid) &&
  s.fills.all fun f => f.waiters.all fun w => w.1 != gid

/-- Groups that hold a slot of a core. -/
def State.slotGroups (s : State) (h : Suppose) (core : Nat) : List (Nat × Group) :=
  s.groups.filter fun e =>
    e.2.core == core && !h.gone.contains e.2.cluster &&
    (match s.phaseOf e.2.cluster with | .resident | .ended => true | _ => false) &&
    !(e.2.ended && s.groupQuiet e.1)

/-- Teams that hold local memory of a core. -/
def State.memTeams (s : State) (h : Suppose) (core : Nat) : List (Nat × Team) :=
  s.teams.filter fun t =>
    t.2.core == core && !t.2.spilled && !h.free.contains t.1 &&
    !(t.2.ended && (s.teamGroups t.1).all fun e => s.groupQuiet e.1)

def sumOf {α : Type} (f : α → Nat) (l : List α) : Nat := l.foldl (fun n x => n + f x) 0

/-- Kernels with a team on a core. -/
def State.coreKernels (s : State) (h : Suppose) (core : Nat) : List Nat :=
  ((s.teams.filter fun t => t.2.core == core && !t.2.ended && !h.gone.contains t.2.cluster && s.phaseOf t.2.cluster == .resident).map
    fun t => t.2.grid).eraseDups

def State.rlines (s : State) (k core : Nat) : Nat := match Tab.get? s.grids k with | some g => g.quotaField core 24 12 | none => 0

/-- Has a core the group slots and register lines for a team of kernel `k` (R275)? -/
def State.slotsFit (s : State) (h : Suppose) (k : Nat) (g : Grid) (core : Nat) : Bool :=
  let slots := s.slotGroups h core
  let ks := s.coreKernels h core
  decide (slots.length + g.tg ≤ 64) &&
  decide ((slots.filter fun e => e.2.grid == k).length + g.tg ≤ g.quotaField core 16 7) &&
  decide (sumOf (fun x => s.rlines x core) (if ks.contains k then ks else k :: ks) ≤ 2048)

/-- Can a core take a team of kernel `k` that needs `need` KiB (R275)? -/
def State.coreFits (s : State) (h : Suppose) (k : Nat) (g : Grid) (need core : Nat) : Bool :=
  let mem := s.memTeams h core
  s.slotsFit h k g core && decide (sumOf (fun t => t.2.need) mem + need ≤ 4096) &&
  decide (sumOf (fun t => t.2.need) (mem.filter fun t => t.2.grid == k) + need ≤ g.quotaField core 36 13)

/-- Cores on which a partition has a resident or pre-empted team. -/
def State.partCores (s : State) (h : Suppose) (p : Nat) : List Nat :=
  ((s.teams.filter fun t => s.partOf t.2.ctx == p && !t.2.ended && !t.2.spilled && !h.free.contains t.1).map fun t => t.2.core).eraseDups

/-- Does the rectangle keep the partition within CORE_MAX (14 R369)? -/
def State.withinMax (s : State) (h : Suppose) (p : Nat) (cores : List Nat) : Bool :=
  decide ((s.partCores h p ++ cores).eraseDups.length ≤ s.partField p 44 10)

/-! ### Rectangles (R262, R275) -/

/-- Cores of a rectangle, in TEAMIX order. -/
def rectCores (die x0 y0 w h : Nat) : List Nat :=
  (List.range h).flatMap fun j => (List.range w).map fun i => die * 64 + (y0 + j) * 8 + x0 + i

/-- Dies to try, in order. -/
def Grid.dies (g : Grid) : List Nat :=
  if g.dieMask = 0 then [g.die]
  else
    let named := (List.range 8).filter fun d => g.dieMask.testBit d
    if named.contains g.die then g.die :: named.filter fun d => d != g.die else named

/-- Rectangles to try, in order: die, x0, y0. -/
def Grid.rects (g : Grid) : List (Nat × Nat × Nat) :=
  g.dies.flatMap fun d => (List.range (9 - g.h)).flatMap fun y => (List.range (9 - g.w)).map fun x => (d, x, y)

def Grid.cores (g : Grid) (r : Nat × Nat × Nat) : List Nat := rectCores r.1 r.2.1 r.2.2 g.w g.h

def Grid.need (g : Grid) : Nat := teamNeed g.lmKib g.tg g.nv g.compat

def State.rectFits (s : State) (h : Suppose) (k : Nat) (g : Grid) (r : Nat × Nat × Nat) : Bool :=
  s.withinMax h (s.partOf g.ctx) (g.cores r) && (g.cores r).all fun c => s.coreFits h k g g.need c

/-- The first fitting rectangle. -/
def State.firstFit (s : State) (h : Suppose) (k : Nat) (g : Grid) : Option (Nat × Nat × Nat) :=
  g.rects.find? fun r => s.rectFits h k g r

/-- May work of the context be placed or resumed? -/
def State.mayPlace (s : State) (c : Nat) : Bool :=
  s.power == .on && s.live c && !s.frozen c && s.partField (s.partOf c) 0 1 == 1 &&
  !s.scopeHeld c && !(s.inScope c && s.job.any fun j => j.kind == .handOver && j.phase == 1)

def State.waitingGrid (s : State) (g : Grid) : Bool := !g.completed && decide (g.started < g.ncl) && s.mayPlace g.ctx

/-! ### Starting a cluster (R263, R273) -/

/-- Lanes of a group at launch (R264; 01 R17): the first `n` are live; every PC is the entry. -/
def launchLanes (entry : W64) (cycle n : Nat) : Tab Lane :=
  (List.range 32).map fun l =>
    (l, { Lane.off with pc := entry, stat := if l < n then .live else .never, since := cycle, ready := cycle })

/-- The lowest free slots of a core. -/
def State.freeSlots (s : State) (core : Nat) : List Nat :=
  (List.range 64).filter fun i => !(s.slotGroups Suppose.none core).any fun e => e.2.slot == i

/-- A group at launch (01 R17, R18; R273). `n` numbers it in its grid. -/
def Grid.newGroup (g : Grid) (k cluster team core slot gix n cycle : Nat) : Group :=
  { ctx := g.ctx, grid := k, cluster := cluster, team := team, core := core, slot := slot, gix := gix, nv := g.nv, ns := g.ns,
    compat := g.compat, lanes := launchLanes g.entry cycle (if gix + 1 = g.tg then g.llm1 + 1 else 32), v := [], vEmpty := [],
    sreg := if g.ns = 0 then [] else Tab.write 0 [] 0 g.arg, sEmpty := [], astat := 0,
    seed := g.seed ^^^ (BitVec.ofNat 64 n * 0x9E3779B97F4A7C15), gang := 0, hvec := 0, inh := false, trap := TrapRec.zero,
    owed := [], pend := none, deferred := [], trapAt := 0, stopAt := 0, hold := none, retry := none, queues := [], heads := [], awaited := [], due := [], meets := [],
    bundles := [], watch := [] }

/-- A team starts on a core: its image in local memory, its groups in the lowest free slots. -/
def State.startTeam (s : State) (k : Nat) (g : Grid) (cluster ix teamix core : Nat) : State :=
  let t := s.nextId
  let slots := s.freeSlots core
  let gids := (List.range g.tg).map fun i => t + 1 + i
  let team : Team :=
    { ctx := g.ctx, grid := k, cluster := cluster, core := core, teamix := teamix, lmSize := g.lmKib * 1024, need := g.need,
      lm := g.image, coreLate := [], engineLate := [], bad := [], boxes := [], msgLost := 0, groups := gids, ended := false, spilled := false,
      took := t }
  let base := (ix * (g.w * g.h) + teamix) * g.tg
  { s with
    teams := Tab.set s.teams t team
    dieClock := (s.learn (coreDie core) g.acq).dieClock
    groups := (List.range g.tg).foldl (fun gs i =>
      Tab.set gs (t + 1 + i) (g.newGroup k cluster t core (slots.getD i 0) i (base + i) s.cycle)) s.groups
    nextId := t + 1 + g.tg }

/-- The next cluster of grid `k` starts on a rectangle; the unlatch-permitted signal falls (17 R450). -/
def State.startCluster (s : State) (k : Nat) (g : Grid) (r : Nat × Nat × Nat) : State :=
  let c := s.nextId
  let first := c + 1
  let s := { s.endDrain with nextId := first }
  let s := (g.cores r).zipIdx.foldl (fun s (x : Nat × Nat) => s.startTeam k g c g.started x.2 x.1) s
  let teams := (List.range (g.w * g.h)).map fun i => first + i * (g.tg + 1)
  { s with
    clusters := Tab.set s.clusters c ⟨k, g.started, .resident, r.1, r.2.1, r.2.2, teams⟩
    grids := Tab.modify s.grids k fun g => { g with started := g.started + 1 } }

/-! ### Spilling (R285, R290) -/

/-- What keeps a team from being spilled: banks, records, furrows, sends, a gang latch, arrival records. -/
def State.teamSpillable (s : State) (t : Nat) : Bool :=
  !(s.banks.any fun e => e.2 == t) && !(s.ob.any fun e => e.2.live && e.2.team == t) &&
  !(s.furrows.any fun e => e.2.opened && e.2.team == t) && !(s.sends.any fun x => x.src == t) &&
  !((s.teamGroups t).any fun e => e.2.hold.any fun h => h.kind.isGang) &&
  !((Tab.get? s.teams t).any fun x => x.boxes.any fun b => !b.2.recs.isEmpty)

/-- The teams of a cluster are spilled together (R263). -/
def State.spillable (s : State) (c : Nat) : Bool :=
  (Tab.get? s.clusters c).any fun x => x.teams.all s.teamSpillable

/-- Nothing of the cluster's groups is on its way. -/
def State.clusterQuiet (s : State) (c : Nat) : Bool :=
  s.groups.all fun e => e.2.cluster != c || (s.groupDrained e.1 && e.2.pend.isNone)

/-- Pre-empted clusters that could be spilled, and their teams. -/
def State.spillTeams (s : State) : List Nat :=
  (s.clusters.filter fun c => c.2.phase == .preempted && s.spillable c.1 &&
    (Tab.get? s.grids c.2.grid).any fun g => !s.frozen g.ctx).flatMap fun c => c.2.teams

def fullBits (e : Nat → Bool) (n : Nat) : Nat := ofFields ((List.range n).map fun i => (i, 1, if e i then 0 else 1))

/-- Entries of the compatibility queues, by slot. -/
def Group.queueWord (g : Group) (q slot lane : Nat) : Nat :=
  let i := (slot + 8 - Tab.read 0 g.heads q) % 8
  (Tab.read 0 ((g.queue q).getD i []) lane).toNat

/-- R285 Table 6 and 16 Table 2. -/
def Group.image (g : Group) : List Byte :=
  let each := fun (n : Nat) (f : Nat → Nat) (w : Nat) => (List.range n).flatMap fun i => leBytes w (f i)
  (List.range g.nv).flatMap (fun r => each 32 (fun l => (g.vr r l).toNat) 4) ++
  each 32 (fun l => (g.lane l).pc.toNat) 8 ++ each 32 (fun l => (g.lane l).meet.toNat) 8 ++
  each 64 (fun i => (g.sr i).toNat) 8 ++ each 256 (fun r => fullBits (fun l => g.isEmpty (.vec r l)) 32) 4 ++
  leBytes 8 (fullBits (fun r => g.isEmpty (.scal r)) 64) ++ leBytes 4 g.astat.toNat ++ leBytes 4 g.gang.toNat ++
  leBytes 8 g.seed.toNat ++
  leBytes 8 (if g.compat then ofFields ((List.range 8).map (fun q => (3 * q, 3, Tab.read 0 g.heads q)) ++ [(32, 32, g.qlevel)]) else 0) ++
  each 32 (fun l => (g.lane l).word) 2 ++ each 32 (fun l => (g.lane l).hpc.toNat) 8 ++ leBytes 8 g.hvec.toNat ++
  leBytes 8 g.tstat.toNat ++ leBytes 8 g.trap.pc.toNat ++ leBytes 8 g.trap.addr.toNat ++ leBytes 8 g.trap.aux.toNat ++
  leBytes 4 g.trap.mask.toNat ++ leBytes 116 0 ++ leBytes 1536 0 ++
  (if g.compat then (List.range 8).flatMap fun q => (List.range 8).flatMap fun e => each 32 (g.queueWord q e) 4 else [])

/-- A register file or table read back: entries that differ from what an unlisted one reads as. -/
def tabOf {α : Type} [DecidableEq α] (d : α) (n : Nat) (f : Nat → α) : Tab α :=
  (List.range n).filterMap fun i => if f i = d then none else some (i, f i)

/-- A lane as its image gives it; PARK that a wake cleared meanwhile stays clear. -/
def Lane.fromImage (x : Lane) (pc meet hpc : W64) (w : Nat) : Lane :=
  { x with pc := pc, meet := meet, hpc := hpc, p := BitVec.ofNat 7 w, park := x.park && bitsOf w 10 1 == 1,
           stat := match bitsOf w 8 2 with | 0 => .live | 1 => .exited | _ => .never }

/-- A group as its image gives it. -/
def Group.fromImage (g : Group) (b : List Byte) : Group :=
  let c := g.nv * 128
  let m := Memory.setBytes [] 0 b
  let num := fun off n => Memory.num m (c + off) n
  let g := { g with
    v := tabOf 0 (32 * g.nv) fun i => BitVec.ofNat 32 (Memory.num m (4 * i) 4)
    vEmpty := tabOf false (32 * 256) fun i => !((num (0x400 + 4 * (i / 32)) 4).testBit (i % 32))
    sreg := tabOf 0 64 fun i => BitVec.ofNat 64 (num (0x200 + 8 * i) 8)
    sEmpty := tabOf false 64 fun i => !((num 0x800 8).testBit i)
    astat := BitVec.ofNat 32 (num 0x808 4)
    gang := BitVec.ofNat 32 (num 0x80C 4)
    seed := BitVec.ofNat 64 (num 0x810 8)
    lanes := tabOf Lane.off 32 fun l =>
      (g.lane l).fromImage (BitVec.ofNat 64 (num (8 * l) 8)) (BitVec.ofNat 64 (num (0x100 + 8 * l) 8))
        (BitVec.ofNat 64 (num (0x860 + 8 * l) 8)) (num (0x820 + 2 * l) 2)
    hvec := BitVec.ofNat 64 (num 0x960 8)
    inh := (num 0x968 8).testBit 63
    trap := ⟨bitsOf (num 0x968 8) 0 8, bitsOf (num 0x968 8) 32 16, bitsOf (num 0x968 8) 48 5, BitVec.ofNat 64 (num 0x970 8),
      BitVec.ofNat 64 (num 0x978 8), BitVec.ofNat 64 (num 0x980 8), BitVec.ofNat 32 (num 0x988 4)⟩ }
  if g.compat then
    let w := num 0x818 8
    { g with
      heads := tabOf 0 8 fun q => bitsOf w (3 * q) 3
      queues := tabOf [] 8 fun q => (List.range (min 8 (bitsOf w (32 + 4 * q) 4))).map fun i =>
        tabOf 0 32 fun l => BitVec.ofNat 32 (num (0x1000 + 1024 * q + 128 * ((bitsOf w (3 * q) 3 + i) % 8) + 4 * l) 4) }
  else g

/-- The part of the save area that a team's state takes: local memory, then the images of its groups. -/
def Team.saved (t : Team) (gs : List Group) : List Byte := Memory.bytes t.lm 0 t.lmSize ++ gs.flatMap Group.image

/-- Where a team is saved: SAVE + t × TSAVE. -/
def Grid.saveAt (g : Grid) (ix teamix : Nat) : W64 :=
  g.save + BitVec.ofNat 64 ((ix * (g.w * g.h) + teamix) * ((g.need * 1024 + 4095) / 4096 * 4096))

/-- Groups of a team, by GROUPIX. -/
def State.groupsOf (s : State) (t : Team) : List (Nat × Group) := t.groups.filterMap fun i => (s.group? i).map fun g => (i, g)

/-- Poisoned words of what is saved of a team, as offsets of bytes: of its local memory, and of its groups' registers (17 R431). -/
def Team.savedBad (t : Team) (gs : List Group) : List Nat :=
  (t.bad.map (4 * ·)).filter (· < t.lmSize) ++
  (gs.zipIdx.flatMap fun g =>
    let a := t.lmSize + g.2 * imgSize g.1.nv g.1.compat
    g.1.vBad.map (fun k => a + 4 * k) ++ g.1.sBad.map fun r => a + g.1.nv * 128 + 0x200 + 8 * r)

/-- The atoms written at certain bytes of placed ranges are poisoned. -/
def State.markBytes (s : State) (ps : List Placed) (offs : List Nat) : State :=
  offs.foldl (fun s o => s.markWritten (placedAt ps o)) s

/-- Spill the teams of a cluster: a write that faults loses the context (17 R436). -/
def State.spillCluster (s : State) (c : Nat) : State :=
  match Tab.get? s.clusters c with
  | none => s
  | some x =>
    match Tab.get? s.grids x.grid with
    | none => s
    | some g =>
      let ts := x.teams.filterMap fun t => Tab.get? s.teams t
      let saved := ts.map fun t => t.saved ((s.groupsOf t).map (·.2))
      let rs := (ts.zip saved).map fun y => (g.saveAt x.ix y.1.teamix, y.2.length)
      match s.check ⟨x.die, g.ctx, 3, 0x3FF, 0, false⟩ (rangeAccs 0 0 .write rs) [] 1 with
      | .ok s ps =>
        -- the save area is a structure of the context (14 R372)
        match ps.find? fun p => !s.structOk g.ctx p.pa with
        | some p => s.freeze g.ctx 4 3 0x3FF 0 p.pa 0 true
        | none =>
        if ps.any (s.waitsAt x.die true) then s.askAt true ps
        else
        let bad := ((ts.zip saved).foldl (fun (a : Nat × List Nat) y =>
          (a.1 + y.2.length, a.2 ++ (y.1.savedBad ((s.groupsOf y.1).map (·.2))).map (a.1 + ·))) (0, [])).2
        let s := (s.push x.die g.ctx ps saved.flatten).markBytes ps bad
        { s with
          teams := x.teams.foldl (fun (ts : Tab Team) t => Tab.modify ts t fun y =>
            { y with spilled := true, lm := [], bad := [], coreLate := [], engineLate := [] }) s.teams
          clusters := Tab.modify s.clusters c fun y => { y with phase := .spilled } }
      | .stop s => s
      | .miss s a .. => s.lose g.ctx 4 0x3FF a.va 0
      | .trap s _ _ _ va _ => s.lose g.ctx 4 0x3FF va 0
      | .wait s => s

/-- Where the image of a spilled team's group lies in its save area, with the die that writes there. -/
def State.imageAt (s : State) (gid : Nat) (g : Group) : Option (Nat × W64) :=
  match Tab.get? s.teams g.team, Tab.get? s.clusters g.cluster, Tab.get? s.grids g.grid with
  | some t, some c, some k =>
    if t.spilled then
      some (c.die, k.saveAt c.ix t.teamix + BitVec.ofNat 64 (t.lmSize + t.groups.idxOf gid * imgSize k.nv k.compat))
    else none
  | _, _, _ => none

/-- Does the group's image lie in its save area? -/
def State.away (s : State) (gid : Nat) : Bool :=
  (s.group? gid).any fun g => (Tab.get? s.teams g.team).any (·.spilled)

/-- The group is `new`; where its image lies in the save area, the bytes in which `old` and `new` differ are written there
(02 R44; 17 R449); an error where the writes must wait. A write that faults loses the context, as in a spill. -/
def State.patchImage (s : State) (gid : Nat) (old new : Group) : Except State State :=
  let s := s.setGroup gid new
  match if s.away gid then s.imageAt gid new else none with
  | none => .ok s
  | some (d, va) =>
    let bs := ((old.image.zip new.image).zipIdx.filter fun b => b.1.1 != b.1.2).map fun b => (va + BitVec.ofNat 64 b.2, b.1.2)
    match s.check ⟨d, new.ctx, 3, 0x3FF, 0, false⟩ (bs.map fun b => ⟨0, 0, b.1, 1, .write⟩) [] 1 with
    | .ok s ps =>
      match ps.find? fun p => !s.structOk new.ctx p.pa with
      | some p => .ok (s.freeze new.ctx 4 3 0x3FF 0 p.pa 0 true)
      | none => if ps.any (s.waitsAt d true) then .error (s.askAt true ps) else .ok (s.push d new.ctx ps (bs.map (·.2)))
    | .stop s => .ok s
    | .miss s a .. => .ok (s.lose new.ctx 4 0x3FF a.va 0)
    | .trap s _ _ _ va _ => .ok (s.lose new.ctx 4 0x3FF va 0)
    | .wait s => .error s

/-- A result is written, and its registers are marked full: in the image of a spilled group too (02 R44). One for a group that is no
more is discarded. -/
def State.takeResult (s : State) (r : Result) : Except State State :=
  match s.group? r.gid with
  | none => .ok s
  | some g => s.patchImage r.gid g (r.writes.foldl Group.deliver g)

/-- LONG_LATENCY_RESULT: the result is written and its registers are marked full. -/
def execLongLatencyResult (n : Nat) (s : State) : Out :=
  match s.results[n]? with
  | none => .next s
  | some r =>
    match { s with results := s.results.eraseIdx n }.takeResult r with
    | .ok t => .next t
    | .error t => .next { s with recalls := t.recalls }

/-- Does a waiting grid need local memory that the cluster's teams hold: on a core that does not suffice, those of clusters started
earlier being spilled? -/
def State.spillWanted (s : State) (c : Nat) : Bool :=
  let mine := match Tab.get? s.clusters c with | some x => x.teams | none => []
  let cores := mine.filterMap fun t => (Tab.get? s.teams t).map (·.core)
  let earlier := s.spillTeams.filter fun t => (Tab.get? s.teams t).any fun x => decide (x.cluster < c)
  s.grids.any fun e =>
    s.waitingGrid e.2 && (s.firstFit Suppose.none e.1 e.2).isNone &&
    (match s.firstFit ⟨[], s.spillTeams⟩ e.1 e.2 with
      | some r => (e.2.cores r).any fun core =>
          cores.contains core && !s.coreFits ⟨[], earlier⟩ e.1 e.2 e.2.need core
      | none => false)

/-- Is the hand-over at the point where spillable teams of the scope are spilled (17 R449)? -/
def State.handSpills (s : State) (ctx : Nat) : Bool :=
  s.inScope ctx && s.job.any fun j => j.kind == .handOver && j.phase == 1

/-! ### Pre-emption (R288, R289; 14 R369) -/

/-- A cluster leaves its cores: its groups stop issue, and free their slots. -/
def State.preempt (s : State) (c : Nat) : State :=
  { s with
    clusters := Tab.modify s.clusters c fun x => { x with phase := .preempted }
    groups := s.groups.map fun (e : Nat × Group) =>
      if e.2.cluster = c then (e.1, { e.2 with bundles := [], stopAt := s.cycle }) else e
    cur := match s.cur with
      | some u => if (s.group? u.gid).any fun g => g.cluster == c then none else some u
      | none => none }

/-- SPILL (R290): the cluster of team `t`. In a hand-over a cluster that becomes spillable is pre-empted first (17 R449). -/
def execSpill (t : Nat) (s : State) : Out :=
  match Tab.get? s.teams t with
  | none => .next s
  | some x =>
    let c := x.cluster
    if s.phaseOf c == .resident && s.handSpills x.ctx && !s.frozen x.ctx && s.spillable c then .next (s.preempt c)
    else if s.phaseOf c == .preempted && !x.spilled && !s.frozen x.ctx && s.spillable c && s.clusterQuiet c &&
        (s.spillWanted c || s.handSpills x.ctx) then
      .next (s.spillCluster c)
    else .next s

def State.clusterCores (s : State) (c : Cluster) : List Nat := c.teams.filterMap fun t => (Tab.get? s.teams t).map (·.core)

/-- Cores that a partition holds. -/
def State.heldCores (s : State) (p : Nat) (without : List Nat) : Nat :=
  ((s.clusters.filter fun c => c.2.phase == .resident && !without.contains c.1 &&
    (Tab.get? s.grids c.2.grid).any fun g => s.partOf g.ctx == p).flatMap fun c => s.clusterCores c.2).eraseDups.length

/-- Resident clusters with their grids, those of frozen or held contexts apart. -/
def State.victims (s : State) : List (Nat × Cluster × Grid) :=
  s.clusters.filterMap fun c =>
    if c.2.phase == .resident then
      match Tab.get? s.grids c.2.grid with
      | some g => if s.frozen g.ctx || s.scopeHeld g.ctx then none else some (c.1, c.2, g)
      | none => none
    else none

/-- Put an element before the first that it comes before. -/
def insertBy {α : Type} (le : α → α → Bool) (x : α) : List α → List α
  | [] => [x]
  | y :: ys => if le x y then x :: y :: ys else y :: insertBy le x ys

def sortBy {α : Type} (le : α → α → Bool) : List α → List α
  | [] => []
  | x :: xs => insertBy le x (sortBy le xs)

/-- Lowest class first, then the most recent launch, and of one launch the cluster started last. -/
def victimBefore (a b : Nat × Cluster × Grid) : Bool :=
  decide (a.2.2.cls < b.2.2.cls) ||
  (a.2.2.cls == b.2.2.cls && (decide (b.2.1.grid < a.2.1.grid) || (a.2.1.grid == b.2.1.grid && decide (b.1 ≤ a.1))))

/-- Candidates within the partition (R288). -/
def State.ownVictims (s : State) (g : Grid) : List (Nat × Cluster × Grid) :=
  sortBy victimBefore (s.victims.filter fun v => s.partOf v.2.2.ctx == s.partOf g.ctx && decide (v.2.2.cls < g.cls))

/-- How far a partition stands above its CORE_MIN. -/
def State.excess (s : State) (p : Nat) : Nat := s.heldCores p [] - s.partField p 54 10

/-- Candidates of other partitions, for a partition that holds fewer than its CORE_MIN cores (14 R369). -/
def State.foreignVictims (s : State) (g : Grid) : List (Nat × Cluster × Grid) :=
  let p := s.partOf g.ctx
  if s.heldCores p [] < s.partField p 54 10 then
    sortBy (fun a b =>
        let x := s.excess (s.partOf a.2.2.ctx)
        let y := s.excess (s.partOf b.2.2.ctx)
        decide (y < x) || (x == y && victimBefore a b))
      (s.victims.filter fun v =>
        let q := s.partOf v.2.2.ctx
        q != p && decide (0 < s.excess q))
  else []

/-- Would the victims leave every partition that is robbed at or above its CORE_MIN? -/
def State.keepsMin (s : State) (g : Grid) (vs : List (Nat × Cluster × Grid)) : Bool :=
  vs.all fun v =>
    let q := s.partOf v.2.2.ctx
    q == s.partOf g.ctx || decide (s.partField q 54 10 ≤ s.heldCores q (vs.map (·.1)))

/-- The cluster fits on a rectangle once these are pre-empted, and spilled where they can be. -/
def State.fitsWithout (s : State) (k : Nat) (g : Grid) (r : Nat × Nat × Nat) (vs : List (Nat × Cluster × Grid)) : Bool :=
  let free := (vs.filter fun v => s.spillable v.1).flatMap fun v => v.2.1.teams
  s.keepsMin g vs && s.rectFits ⟨vs.map (·.1), s.spillTeams ++ free⟩ k g r

/-- The sublists of `n` elements, those with earlier elements first. -/
def pick {α : Type} : Nat → List α → List (List α)
  | 0, _ => [[]]
  | _ + 1, [] => []
  | n + 1, x :: xs => (pick n xs).map (x :: ·) ++ pick (n + 1) xs

/-- The fewest of the candidates that free the rectangle; of as few, the earlier candidates. -/
def State.fewest (s : State) (k : Nat) (g : Grid) (r : Nat × Nat × Nat) (cands : List (Nat × Cluster × Grid)) :
    Option (List (Nat × Cluster × Grid)) :=
  let near := cands.filter fun v => (s.clusterCores v.2.1).any (g.cores r).contains
  (List.range near.length).findSome? fun n => (pick (n + 1) near).find? (s.fitsWithout k g r)

/-- Is a choice of victims better: fewer, or, of as many, of earlier candidates? -/
def betterChoice (a b : List Nat) : Bool :=
  decide (a.length < b.length) || (a.length == b.length && decide (a < b))

/-- The best choice among candidates, over all rectangles. -/
def State.bestOf (s : State) (k : Nat) (g : Grid) (cands : List (Nat × Cluster × Grid)) : Option (List (Nat × Cluster × Grid)) :=
  let place := fun (t : List (Nat × Cluster × Grid)) => t.map fun v => (cands.map (·.1)).idxOf v.1
  (g.rects.filterMap fun r => s.fewest k g r cands).foldl
    (fun best t => match best with | none => some t | some b => if betterChoice (place t) (place b) then some t else some b) none

/-- The victims (R288): of the lowest classes that can free a rectangle, as few as will free one; those of other partitions after
those of its own. -/
def State.chooseVictims (s : State) (k : Nat) (g : Grid) : List (Nat × Cluster × Grid) :=
  let own := s.ownVictims g
  (((List.range 4).findSome? fun c => s.bestOf k g (own.filter fun v => decide (v.2.2.cls ≤ c))) <|>
    s.bestOf k g (own ++ s.foreignVictims g)).getD []

/-- PREEMPTION (R288, R289): room for the next cluster of grid `k`. -/
def execPreemption (k : Nat) (s : State) : Out :=
  match Tab.get? s.grids k with
  | none => .next s
  | some g =>
    if s.waitingGrid g && (s.firstFit ⟨[], s.spillTeams⟩ k g).isNone then
      .next ((s.chooseVictims k g).foldl (fun s v => s.preempt v.1) s)
    else .next s

/-! ### Resumption (R291) -/

/-- Clocks of a group's waits go on from where they stood when it left its core (R289; 11 R328). -/
def Group.back (g : Group) (cycle : Nat) : Group :=
  let d := cycle - g.stopAt
  let g := if g.inh then { g with hold := g.hold.map fun h => { h with since := h.since + d } } else g.shift d
  g.modLanes g.liveLanes fun x => { x with since := x.since + d, ready := cycle }

/-- The group takes the lowest slot of a core that is free and not among those given; one that has ended takes none. -/
def State.seat (s : State) (core gid : Nat) (given : List Nat) : State × List Nat :=
  let slot := ((s.freeSlots core).filter fun i => !given.contains i).headD 0
  let gone := (s.group? gid).any fun g => g.ended && s.groupQuiet gid
  ({ s with accReqs := s.accReqs.map fun (r : AccReq) => if r.gid = gid then { r with core := core } else r }.modGroup gid
    fun g => { g.back s.cycle with core := core, slot := if gone then g.slot else slot },
   if gone then given else slot :: given)

/-- The groups of a team take slots of a core, one each (R262); a core that is new to the team has accepted it now (R282). -/
def State.seatTeam (s : State) (t core : Nat) : State :=
  let gids := ((Tab.get? s.teams t).map (·.groups)).getD []
  let s := (gids.foldl (fun (v : State × List Nat) i => v.1.seat core i v.2) (s, [])).1
  { s with nextId := s.nextId + 1 }.modTeam t fun x =>
    { x with core := core, spilled := false, took := if x.core = core then x.took else s.nextId }

/-- Waits of a group or team beside its own record stood still while the team was away, since cycle `off` (R289). -/
def State.shiftWaits (s : State) (mine : Nat → Bool) (off : Nat) : State :=
  let on := fun since => since + (s.cycle - max since off)
  { s with
    pendings := s.pendings.map fun (p : Pending) => if mine p.team then { p with since := on p.since } else p
    sends := s.sends.map fun (x : Send) => if mine x.dst then { x with since := on x.since } else x }

/-- The cluster's groups issue again. -/
def State.seatCluster (s : State) (c : Nat) (x : Cluster) (cores : List Nat) : State :=
  let off := match x.teams with
    | t :: _ => ((s.teamGroups t).map fun e => e.2.stopAt).headD s.cycle
    | [] => s.cycle
  let s := s.shiftWaits x.teams.contains off
  let s := (x.teams.zip cores).foldl (fun s (tc : Nat × Nat) => s.seatTeam tc.1 tc.2) s
  let s := { s with clusters := Tab.modify s.clusters c fun y => { y with phase := .resident } }
  (x.teams.flatMap fun t => ((Tab.get? s.teams t).map (·.groups)).getD []).foldl State.settle s

/-- Bytes of a spilled team come back, with the poison of their atoms. -/
def Team.load (t : Team) (bs : List Byte) (bad : List Nat) : Team := { t with lm := Memory.setBytes [] 0 (bs.take t.lmSize), bad := bad }

/-- The first placed byte from `n` on that is poisoned. -/
def State.badFrom (s : State) (ps : List Placed) (n : Nat) : Option Nat :=
  (ps.foldl (fun (a : Nat × Option Nat) p =>
    (a.1 + p.acc.size, match a.2 with
      | some x => some x
      | none => if s.poisoned p.pa p.acc.size then
          ((List.range p.acc.size).find? fun i => decide (n ≤ a.1 + i) && s.poisonedAt (p.pa + i)).map (a.1 + ·) else none)) (0, none)).2

/-- Words of the first `n` placed bytes that are poisoned. -/
def State.badWords (s : State) (ps : List Placed) (n : Nat) : List Nat :=
  if (s.badPlace ps).isNone then [] else (List.range (n / 4)).filter fun i => s.poisonedAt (placedAt ps (4 * i))

def State.loadGroups (s : State) (size : Nat) : List Nat → List Byte → State
  | [], _ => s
  | i :: is, bs =>
    (s.modGroup i fun g => if g.ended then g else g.fromImage (bs.take size)).loadGroups size is (bs.drop size)

/-- Read a team back from its save area; none where it cannot be read now. -/
def State.unspill (s : State) (ix t : Nat) (k : State → State) : State :=
  match Tab.get? s.teams t with
  | none => s
  | some x =>
    match Tab.get? s.grids x.grid with
    | none => s
    | some g =>
      let n := x.lmSize + g.tg * imgSize g.nv g.compat
      match s.check ⟨coreDie x.core, x.ctx, 3, 0x3FF, 0, false⟩ (rangeAccs 0 0 .read [(g.saveAt ix x.teamix, n)]) [] 1 with
      | .ok s ps =>
        if ps.any (s.waitsAt (coreDie x.core) false) then s.askAt false ps
        else
          -- local memory keeps its poison; a register that would take some consumes it (17 R431, R432)
          let s := ps.foldl (fun s p => s.reportRange p.pa p.acc.size) s
          match s.badFrom ps x.lmSize with
          | some i => s.lose x.ctx 1 0x3FF (g.saveAt ix x.teamix + BitVec.ofNat 64 i) (placedAt ps i)
          | none =>
            let bs := s.pull ps
            let bad := s.badWords ps x.lmSize
            k (((s.learnFrom (coreDie x.core) ps).modTeam t fun x => x.load bs bad).loadGroups (imgSize g.nv g.compat) x.groups (bs.drop x.lmSize))
      | .stop s => s
      | .miss s a .. => s.lose x.ctx 4 0x3FF a.va 0
      | .trap s _ _ _ va _ => s.lose x.ctx 4 0x3FF va 0
      | .wait s => s

/-- All teams are read back, then the cluster goes on; nothing changes while one cannot be read. -/
def State.unspillAll (s : State) (ix : Nat) (k : State → State) : List Nat → State
  | [] => k s
  | t :: ts => s.unspill ix t fun s => s.unspillAll ix k ts

/-- Can the cores that a pre-empted cluster left take it again? Its local memory is still its own. -/
def State.homeFits (s : State) (c : Cluster) (g : Grid) : Bool :=
  (s.clusterCores c).all fun core => s.slotsFit Suppose.none c.grid g core

/-- Where a cluster that is off its cores could run now. -/
def State.resumeOn (s : State) (c : Cluster) (g : Grid) : Option (List Nat × Nat × Nat × Nat) :=
  if !s.mayPlace g.ctx then none
  else
    match c.phase with
    | .preempted => if s.homeFits c g then some (s.clusterCores c, c.die, c.x0, c.y0) else none
    | .spilled => (s.firstFit Suppose.none c.grid g).map fun r => (g.cores r, r)
    | _ => none

/-- Clusters that can resume: number, the number of the launch, and its grid. -/
def State.resumable (s : State) : List (Nat × Nat × Grid) :=
  s.clusters.filterMap fun c =>
    match Tab.get? s.grids c.2.grid with
    | some g => if (s.resumeOn c.2 g).isSome then some (c.1, c.2.grid, g) else none
    | none => none

/-- Does a waiting grid of a higher class have room, or will it have once teams are spilled? -/
def State.higherWaits (s : State) (cls : Nat) : Bool :=
  s.grids.any fun e => s.waitingGrid e.2 && decide (cls < e.2.cls) && (s.firstFit ⟨[], s.spillTeams⟩ e.1 e.2).isSome

/-- RESUME (R291): by class, then by launch, before new placements of the class. -/
def execResumeC (c : Nat) (s : State) : Out :=
  match Tab.get? s.clusters c with
  | none => .next s
  | some x =>
    match Tab.get? s.grids x.grid with
    | none => .next s
    | some g =>
      let first := !(s.resumable.any fun e => decide (g.cls < e.2.2.cls) ||
        (e.2.2.cls == g.cls && (decide (e.2.1 < x.grid) || (e.2.1 == x.grid && decide (e.1 < c)))))
      if first && !s.higherWaits g.cls then
        match s.resumeOn x g with
        | none => .next s
        | some (cores, d, x0, y0) =>
          -- what the teams knew on the die that they left they know on the new one (12 R332)
          let put := fun (s : State) =>
            { s.learn d (s.clockOf x.die) with
              clusters := Tab.modify s.clusters c fun y => { y with die := d, x0 := x0, y0 := y0 } }.seatCluster c x cores
          if x.phase == .spilled then .next (s.unspillAll x.ix put x.teams) else .next (put s)
      else .next s

/-- CLUSTER_PLACEMENT (R263, R275): the next cluster of grid `k` starts on the first fitting rectangle. -/
def execClusterPlacement (k : Nat) (s : State) : Out :=
  match Tab.get? s.grids k with
  | none => .next s
  | some g =>
    if s.waitingGrid g && !(s.resumable.any fun e => decide (g.cls ≤ e.2.2.cls)) then
      match s.firstFit Suppose.none k g with
      | some r => .next (s.startCluster k g r)
      | none => .next s
    else .next s

/-- REGISTER_LINE_WRITEBACK (R287): a line of the register cache reaches its image. The model holds the registers once, in
their image's place, so the order of these writes is not visible. -/
def execRegisterLineWriteback (_g _r : Nat) (s : State) : Out := .next s

end Sys2Proof.Machine
end

