-- ==== Sys2Proof/Machine/Recovery.lean ====
section
/-! DEFINITION. Recovery jobs: checkpoints and hand-over, at the giving and at the taking module (17 R446 to R450). Targets
and neighbours are other modules: what they answer are events.
What rests on the model rather than on the plain words of the manual: log 31 (DEDUCED), log 32 (PRESUMED), log 50 (DEDUCED).
-/

namespace Sys2Proof.Machine

/-! ### The recovery block (Table 5) -/

def State.recStatus (s : State) : Nat := bitsOf (s.recW 0).toNat 8 8
def State.setStatus (s : State) (v : Nat) : State := s.setRecW 0 (BitVec.ofNat 64 (setBitsOf (s.recW 0).toNat 8 8 v))
def State.recDone (s : State) : Nat := bitsOf (s.recW 1).toNat 0 32
def State.setDone (s : State) (v : Nat) : State := s.setRecW 1 (BitVec.ofNat 64 (setBitsOf (s.recW 1).toNat 0 32 v))

/-- The record of a job's end. -/
def State.endRecord (s : State) : BitVec 256 := recordOf [(48, 16, s.recDone / 2 ^ 16), (40, 8, s.recStatus), (0, 8, 0x70)]
def State.jobRecord (s : State) : State := s.postSys s.endRecord

/-- The job ends, and its hold with it. -/
def State.endJob (s : State) (status : Nat) : State := ({ s with job := none }.setStatus status).jobRecord

/-- Is the partition of a frame's OWNER in PMASK? -/
def State.ownerInScope (s : State) (own : Nat) : Bool := decide (1 ≤ own) && decide (own ≤ 64) && s.scopeMask.getLsbD (own - 1)

/-- Frames of the scope, in ascending order. -/
def State.scopeFrames (s : State) : List Nat :=
  (s.frame.filter fun e => s.ownerInScope (bitsOf e.2.toNat 0 7) && isLocal (e.1 * 65536)).map (·.1)

/-- The scope's contexts have nothing on its way, results for their groups included (02 R44), no bundle is about to issue, and the
nodes that have started have finished, those that wait for a page among them (R447). -/
def State.scopeQuiet (s : State) : Bool :=
  s.quietFor s.inScope &&
  (s.results.all fun r => !(s.group? r.gid).any fun g => s.inScope g.ctx) &&
  !(s.cur.any fun u => (s.group? u.gid).any fun g => s.inScope g.ctx) &&
  s.furrows.all fun f => !(s.ctxOfTeam f.2.team).any s.inScope || !f.2.busy

/-! ### Checkpoints (R448) -/

/-- Frames that a checkpoint of this kind takes. -/
def State.ckptFrames (s : State) (k : JobKind) : List Nat :=
  if k = .ckptFull then s.scopeFrames else s.scopeFrames.filter s.dirty.contains

/-- A job begins, its scope PMASK as it stands. -/
def State.startJob (s : State) (k : JobKind) (hold : Bool) (phase : Nat) : State :=
  { (s.setStatus 1).setDone 0 with job := some ⟨k, hold, phase, [], s.gtime, s.gtime⟩, jobScope := s.recW 3 }

/-- A hold begins: the bundle that was to issue goes back, if it is of the scope. -/
def State.dropHeld (s : State) : State :=
  { s with cur := if s.cur.any fun u => (s.group? u.gid).any fun g => s.scopeHeld g.ctx then none else s.cur }

/-- JOB is written, with HOLD: a running job lets it change nothing. -/
def State.startCkpt (s : State) (k : JobKind) (hold : Bool) : State :=
  if s.recStatus = 1 then s
  else
    let s := s.setRecW 0 (BitVec.ofNat 64 (setBitsOf (s.recW 0).toNat 3 1 (if hold then 1 else 0)))
    let s := (s.startJob k hold (if hold then 0 else 1)).dropHeld
    let fs := s.ckptFrames k
    let s := { s with job := s.job.map fun j => { j with frames := fs } }
    if fs.isEmpty && (!hold || s.scopeQuiet) then s.endJob 2 else s

/-- CHECKPOINT_DIRTY. -/
def execCheckpointDirty (hold : Bool) (s : State) : Out := .next (s.startCkpt .ckptDirty hold)
/-- CHECKPOINT_FULL. -/
def execCheckpointFull (hold : Bool) (s : State) : Out := .next (s.startCkpt .ckptFull hold)

/-- The hold is complete: the copy of the frames as they now are begins. -/
def State.beginCopy (s : State) (j : Job) : State :=
  let fs := s.ckptFrames j.kind
  if fs.isEmpty then s.endJob 2 else { s with job := some { j with phase := 1, frames := fs, last := s.gtime } }

/-- The job as a checkpoint at work, once its hold is complete. -/
def State.copying (s : State) : State :=
  match s.job with
  | some j => if j.kind ≠ .handOver ∧ j.phase = 0 ∧ s.scopeQuiet = true then s.beginCopy j else s
  | none => s

/-- A frame is read whole: poison that is found is reported (R433). -/
def State.reportFrame (s : State) (f : Nat) : State :=
  match (List.range 2048).find? fun a => s.poisonedAt (f * 65536 + 32 * a) with
  | some a => s.reportBad (f * 65536 + 32 * a) 0
  | none => s

/-- CHECKPOINT_TARGET_ACCEPT: the next frame, its dirty bit cleared, has been read, its marks with it, and accepted. -/
def execCheckpointTargetAccept (s : State) : Out :=
  let s := s.copying
  match s.job with
  | some j =>
    if j.kind = .handOver ∨ j.phase ≠ 1 then .next s
    else
      match j.frames with
      | [] => .next (s.endJob 2)
      | f :: fs =>
        let s := { s.reportFrame f with dirty := s.dirty.filter fun x => x != f, job := some { j with frames := fs, last := s.gtime } }
        let s := s.setDone (s.recDone + 1)
        if fs.isEmpty then .next (s.endJob 2) else .next s
  | none => .next s

/-- CHECKPOINT_TARGET_TIMEOUT: 500 ms with no frame accepted ends the job. Before that it begins the copy when the hold has
completed. -/
def execCheckpointTargetTimeout (s : State) : Out :=
  match s.job with
  | some j =>
    if j.kind = .handOver then .next s
    else if j.phase = 0 then .next s.copying
    else if j.last + 500000000 ≤ s.gtime then .next (s.endJob 3)
    else .next s
  | none => .next s

/-! ### Hand-over (R449) -/

/-- HAND_OVER: JOB 3; the neighbour is asked to confirm. -/
def execHandOver (s : State) : Out :=
  if s.recStatus = 1 then .next s
  else .next (s.startJob .handOver false 0)

/-- Live contexts of the scope. -/
def State.scopeContexts (s : State) : List Nat := (List.range 1024).filter fun c => s.live c && s.inScope c

/-- Clusters of the scope on their cores that can be spilled are pre-empted. -/
def State.preemptScope (s : State) : State :=
  (s.clusters.filter fun c => c.2.phase == .resident && s.spillable c.1 &&
    (Tab.get? s.grids c.2.grid).any fun g => s.inScope g.ctx).foldl (fun s c => s.preempt c.1) s

/-- The hand-over fails: before its first step is answered nothing has changed; later the scope stays held until ABORT. -/
def State.failHand (s : State) (j : Job) : State :=
  if j.phase = 0 then s.endJob 3 else { s.endJob 3 with kept := some (s.scopeMask ||| s.kept.getD 0) }

/-- HANDOVER_CONFIRM: the neighbour's answer, or, later, its failure. -/
def execHandoverConfirm (ok : Bool) (s : State) : Out :=
  match s.job with
  | some j =>
    if j.kind ≠ .handOver then .next s
    else if !ok then .next (s.failHand j)
    else if j.phase ≠ 0 then .next s
    else
      let s := { s with job := some { j with phase := 1 } }
      let hosted := s.scopeContexts.filter fun c => bitsOf (s.croot c) 59 1 == 1
      .next ((hosted.foldl (fun s c => s.lose c 5 0x3FF 0 0) s).preemptScope)
  | none => .next s

/-- HANDOVER_CONFIRM_TIMEOUT. -/
def execHandoverConfirmTimeout (s : State) : Out :=
  match s.job with
  | some j =>
    if j.kind = .handOver ∧ j.phase = 0 ∧ j.t0 + 500000000 ≤ s.gtime then .next (s.failHand j) else .next s
  | none => .next s

/-- Contexts of the scope with a team that is neither ended nor spilled. -/
def State.unspilled (s : State) : List Nat :=
  ((s.teams.filter fun t => !t.2.ended && !t.2.spilled && s.inScope t.2.ctx).map fun t => t.2.ctx).eraseDups

/-- PARK is cleared in the images of groups; an error where a write of one must wait. -/
def State.clearParks (s : State) : List (Nat × Group) → Except State State
  | [] => .ok s
  | e :: es =>
    match s.patchImage e.1 e.2 (e.2.modLanes allLanes fun x => { x with park := false }) with
    | .ok t => t.clearParks es
    | .error t => .error t

/-- Leases of the scope whose pages are not installed go to the neighbour at once, and the services that took them end. -/
def State.passLeases (s : State) (dest : Nat) : State :=
  (s.leases.filter fun l => s.scopeMask.getLsbD l.part && !(s.installs.any fun i => i.key == l.key)).foldl (fun s l =>
    { s with services := s.services.filter fun v => !(v.key == l.key && v.leased) }.passLease l.part l.key dest false) s

/-- Has every lease on a page of the scope gone to the neighbour? -/
def State.leasesGone (s : State) : Bool :=
  (s.leases.all fun l => !s.scopeMask.getLsbD l.part) && s.installs.all fun i => !s.scopeMask.getLsbD i.part || i.leaving.isNone

/-- The scope is held: PARK is cleared in every image, outstanding steward calls end, and leases go to the neighbour. Nothing changes
while an image cannot be written, but that host copies are recalled. -/
def State.holdScope (s : State) (j : Job) : State :=
  match s.clearParks (s.groups.filter fun e => s.inScope e.2.ctx) with
  | .error t => { s with recalls := t.recalls }
  | .ok s =>
  let s := { s with job := some { j with hold := true, phase := 2, last := s.gtime } }.dropHeld
  let s := (s.calls.filter fun c => s.inScope c.ctx).foldl (fun s c => s.endCall c 0 0xFFFFFFFFFFFFFFFF) s
  let dest := bitsOf (s.recW 2).toNat 0 16
  let s := (s.installs.filter fun i => s.scopeMask.getLsbD i.part && s.hasLease i.key).foldl (fun s i => s.beginLeave i (.give dest)) s
  s.passLeases dest

/-- HANDOVER_SPILL_DEADLINE: when every team is spilled, or at 10 s those contexts lost that have one that is not, the scope
is held. -/
def execHandoverSpillDeadline (s : State) : Out :=
  match s.job with
  | some j =>
    if j.kind ≠ .handOver ∨ j.phase ≠ 1 then .next s
    else
      match s.unspilled with
      | [] => .next (s.holdScope j)
      | cs =>
        if j.t0 + 10000000000 ≤ s.gtime then .next ((cs.foldl (fun s c => s.lose c 5 0x3FF 0 0) s).holdScope j) else .next s
  | none => .next s

/-- HANDOVER_ACK: the leases given, every partition of the scope is reset here. With no other live context the routes are drained, and
the record of the job that has ended follows (R450, Table 8). -/
def execHandoverAck (s : State) : Out :=
  match s.job with
  | some j =>
    if j.kind = .handOver ∧ j.phase = 2 ∧ s.scopeQuiet = true ∧ s.leasesGone = true then
      let all := (List.range 1024).all fun c => !s.live c || s.inScope c
      let s := s.setDone s.scopeFrames.length
      let s := (List.range 64).foldl (fun s p => if s.scopeMask.getLsbD p then s.resetPart p else s) s
      let rest := s.kept.map fun m => m &&& ~~~s.scopeMask
      let s := { s.setStatus 2 with job := none, kept := rest.filter fun m => m != 0 }
      .next (if all then { s with draining := some s.endRecord } else s.jobRecord)
    else .next s
  | none => .next s

/-- ROUTE_DRAIN_COMPLETE (R450): unlatch-permitted is raised. -/
def execRouteDrainComplete (s : State) : Out :=
  if s.draining.isSome then .next { s.endDrain with drained := true } else .next s

/-- JOB_ABORT: JOB 4 ends the running job, and the hold of a hand-over that failed. -/
def execJobAbort (s : State) : Out :=
  if s.recStatus = 1 then .next { s.endJob 4 with kept := none } else .next { s with job := none, kept := none }

/-! ### The neighbour (R449) -/

/-- Is the module prepared: no live context in the partitions, the frames free? -/
def State.prepared (s : State) (pmask : W64) (img : HandImage) : Bool :=
  s.power == .on && ((List.range 1024).all fun c => !s.live c || !pmask.getLsbD (s.partOf c)) &&
  img.frames.all fun f => s.owner (f.1 * 65536) == 0

/-- A counted line arrives with its owner context (above bit 16) and count; its data are among the bytes. -/
def State.takeCounted (s : State) (e : Nat × Nat) : State :=
  let data := Memory.bytes s.mem (128 * e.1) 128
  { s with
    counted := Tab.set s.counted e.1 (e.2 / 2 ^ 16, e.2 % 2 ^ 16)
    countedData := Memory.setBytes (Memory.zero s.countedData (128 * e.1) 128) (128 * e.1) data }

/-- Registrations that the copied words enable. -/
def State.enableAll (s : State) (t : Nat) (ks : List Nat) : State :=
  ks.foldl (fun s k => if regEnables t (s.regW t k 0).toNat && !s.registered t k then (s.enable t k).getD s else s) s

/-- Words into a table. -/
def putWords (t : Tab W64) (ws : List (Nat × W64)) : Tab W64 := ws.foldl (fun t w => Tab.write 0 t w.1 w.2) t

/-- A spilled team, whose local memory and groups its save area holds, with their marks of poison. A result of MRECV, BCWAIT or FBWAIT
that was still pending at the hand-over is neither completed nor carried: its register stays empty (log 50: 02 R44 is silent). -/
def State.takeTeam (s : State) (k : Nat) (g : Grid) (c ix : Nat) (x : HandTeam) : State :=
  let t := s.nextId
  let s := s.startTeam k g c ix x.teamix 0
  { s with
    teams := Tab.modify s.teams t fun y => { y with lm := [], spilled := true, boxes := x.boxes, msgLost := x.msgLost }
    groups := s.groups.map fun (e : Nat × Group) => if e.2.team = t then (e.1, { e.2 with stopAt := s.cycle }) else e }

/-- A spilled cluster, which RESUME reads back (10 R291). -/
def State.takeCluster (s : State) (k : Nat) (g : Grid) (x : HandCluster) : State :=
  let c := s.nextId
  let s := { s.endDrain with nextId := c + 1 }
  let s := x.teams.foldl (fun s t => s.takeTeam k g c x.ix t) s
  { s with clusters := Tab.set s.clusters c ⟨k, x.ix, .spilled, g.die, 0, 0, (List.range x.teams.length).map fun i => c + 1 + i * (g.tg + 1)⟩ }

/-- A launch goes on from where it stood. -/
def State.takeGrid (s : State) (x : HandGrid) : State :=
  let k := s.nextId
  let g := { packetGrid (s.queueAsker x.queue) x.queue x.packet x.kernel x.table
      (x.lmem.foldl (fun m b => Memory.setBytes m b.1 [b.2]) []) (x.windows.foldl (fun m b => Memory.setBytes m b.1 [b.2]) [])
      x.quota0 [] with
    quota := x.quota, started := x.started, finished := x.finished }
  x.clusters.foldl (fun s c => s.takeCluster k g c) { s with grids := Tab.set s.grids k g, nextId := k + 1 }

/-- What registered queues, rings and pools hold. -/
def State.takeHeld (s : State) (img : HandImage) : State :=
  let s := { s with
    ring := img.ringAt.foldl (fun t r => Tab.set t r.1 r.2) s.ring
    pool := img.atoms.foldl (fun t p => Tab.set t p.1 p.2) s.pool
    bufOwner := img.buffers.foldl (fun t b => Tab.set t b.1 b.2) s.bufOwner }
  img.queueAt.foldl (fun s q => s.modQueue q.1 fun x => { x with notify := q.2.1, ridx := q.2.2 }) s

/-- The copied state is taken in: its bytes are writes of the IOD (01 R13), and a counted line's marks are those of its data. -/
def State.takeImage (s : State) (img : HandImage) : State :=
  let s := { s with
    -- every atom of the frames is written, and poisoned where its mark arrives (R431)
    poison := s.poison.filter fun a => !(img.frames.any fun f => f.1 == a / 2048)
    mem := img.mem.foldl (fun m b => Memory.setBytes m b.1 [b.2]) s.mem
    frame := putWords s.frame img.frames
    desc := putWords s.desc img.desc
    part := img.part.foldl (fun t w => Tab.write (partReset (w.1 % 4)) t w.1 w.2) s.part
    tabQueue := putWords s.tabQueue img.queues
    tabRing := putWords s.tabRing img.rings
    tabPool := putWords s.tabPool img.pools
    dirty := s.dirty ++ (img.frames.map (·.1)).filter fun f => !s.dirty.contains f }
  let s := img.poison.foldl (fun s a => s.setPoison (32 * a) true) (img.counted.foldl State.takeCounted s)
  let s := img.frames.foldl (fun s f => s.leaveStamp (f.1 * 65536) 65536 (s.clockOf 8)) (s.countWrite 8)
  let s := s.enableAll 1 ((img.queues.map fun w => w.1 / 8).eraseDups)
  let s := s.enableAll 2 ((img.rings.map fun w => w.1 / 4).eraseDups)
  let s := s.enableAll 3 ((img.pools.map fun w => w.1 / 4).eraseDups)
  img.grids.foldl State.takeGrid (s.takeHeld img)

/-- HANDOVER_REQUEST: a module that is not prepared refuses, and nothing changes. -/
def execHandoverRequest (pmask : BitVec 64) (img : HandImage) (s : State) : Out :=
  if s.prepared pmask img then .next (s.takeImage img) else .next s

end Sys2Proof.Machine
end

