-- ==== Sys2Proof/Machine/MatrixInstr.lean ====
section
/-! DEFINITION. Instructions of the matrix path (06 R141 to R167). Each is one step of the core order: its accesses to the
operand buffer, to accumulator memory and to local memory are made at once.
What rests on the model rather than on the plain words of the manual: log 10 (DEDUCED), log 49 (DEDUCED), log 50 (DEDUCED).
-/

namespace Sys2Proof.Machine

/-- A matrix-path instruction of the bundle waits at issue for a FENCEX of its team with Y = MATRIX; the group's other bundles go on
(09 R259). -/
def Env.pathFree (e : Env) (k : Unit → Out) : Out :=
  if !e.act.isEmpty && e.s.fenced e.g.team 4 then e.blockAt e.s .tick else k ()

/-- A group-level one. -/
def Env.matrix (e : Env) (k : Unit → Out) : Out := e.once fun _ => e.pathFree k

/-- The checks of Table 6 before any effect. -/
def Env.must (e : Env) (l : List (Option Bad)) (k : Unit → Out) : Out :=
  match firstBad l with
  | some b => e.trapAux b.cause b.detail e.first (BitVec.ofNat 64 b.addr) (BitVec.ofNat 64 b.aux)
  | none => k ()

/-- The group-level sources as numbers. -/
def Env.ga (e : Env) : Nat := e.a e.first
def Env.gb (e : Env) : Nat := e.b e.first
def Env.gc (e : Env) : Nat := e.c e.first

/-! ### OBRES, OBFILL, OBDROP, OBQRY (R147 to R150) -/

/-- The lowest start at which `n` KiB are free. -/
def State.freeRange (s : State) (core n : Nat) : Option Nat :=
  let live := (s.ob.filter fun e => e.1 / 32 == core && e.2.live).map (·.2)
  (List.range (513 - n)).find? fun a => live.all fun r => decide (a + n ≤ r.start) || decide (r.start + r.size ≤ a)

/-- The record that OBRES makes of its sources, index and range apart. -/
def obNew (team gen size fmt cfg : Nat) : ObRec :=
  { live := true, team := team, gen := gen, size := size, start := 0, fmt := fmt, kb := bitsOf cfg 16 9,
    soff := bitsOf cfg 32 14 * 32, count := bitsOf cfg 0 16, unc := bitsOf cfg 0 16 == 0 }

/-- Status 3 or 4 of OBRES, or 0. -/
def obresBad (r : ObRec) (size cfg : Nat) : Nat :=
  if size = 0 ∨ size > 512 ∨ bitsOf cfg 25 7 ≠ 0 ∨ bitsOf cfg 46 18 ≠ 0 then 3
  else if r.kb = 0 ∨ r.kb > 256 ∨ (r.soff ≠ 0 ∧ r.ty ≠ .q4) ∨ size * 1024 ≤ r.soff ∨ r.rows = 0 ∨
      (r.ty = .q4 ∧ size * 1024 < r.soff + r.rows * r.kb) then 4
  else 0

def execObres (o : Ops) (m : ModX) (s : State) : Out :=
  issue1 .all o (Instr.obres o m).sig s fun e =>
    e.matrix fun _ =>
      let size := e.ga % 2 ^ 32
      let r := obNew e.g.team 0 size m.afmt.code.toNat e.gb
      let fail := fun n => e.setScalar e.s o.dst.toNat (BitVec.ofNat 64 (2 ^ 63 + n))
      match obresBad r size e.gb with
      | 0 =>
        match (List.range 32).find? fun i => !(e.s.obRec e.g.core i).live with
        | none => fail 1
        | some i =>
          match e.s.freeRange e.g.core size with
          | none => fail 2
          | some a =>
            let r := { r with gen := (e.s.obRec e.g.core i).gen, start := a }
            let s := { e.s with obMem := Memory.zero e.s.obMem (obAddr e.g.core r 0) (size * 1024) }.obCover (obAddr e.g.core r 0) (size * 1024)
            e.setScalar (s.setRec e.g.core i r) o.dst.toNat (BitVec.ofNat 64 (r.gen * 32 + i))
      | n => fail n

/-- OBFILL. B's bits 31:22 not zero, which no code of Table 6 names, give operand-buffer fault 1 (DEDUCED, log 50). -/
def execObfill (o : Ops) (m : ModX) (s : State) : Out :=
  issue1 .all o (Instr.obfill o m).sig s fun e =>
    e.matrix fun _ =>
      let n := (m.opf.toNat + 1) * 64
      let off := bitsOf e.ga 16 19
      let lm := e.gb % 2 ^ 22
      let r := e.s.obRec e.g.core e.ga
      e.must [e.s.handleBad e.g.core e.g.team e.ga, badIf (e.ga / 2 ^ 35 != 0 || bitsOf e.gb 22 10 != 0) 0xE 1,
          badIf (decide (r.size * 1024 < off + n)) 0xE 2, badIf (off % 64 != 0 || lm % 16 != 0) 0xE 5,
          e.s.lmRange e.g.team lm n] fun _ =>
        if e.s.lmBad e.g.team lm n then e.loseLocal
        else
          let v := e.s.lmLook false e.g.team
          e.finish (v.1.obWrite e.g.core r off (leBytes n (Memory.num v.2 lm n))) e.g

/-- Does a handle name a live record of the team? -/
def State.ownRecord (s : State) (core team h : Nat) : Bool := (s.handleBad core team h).isNone

/-- OBDROP: no claim outlives its step, so the record is freed at once. -/
def execObdrop (o : Ops) (m : ModX) (s : State) : Out :=
  issue1 .all o (Instr.obdrop o m).sig s fun e =>
    e.matrix fun _ =>
      let r := e.s.obRec e.g.core e.ga
      e.must [badIf (e.ga / 2 ^ 16 != 0) 0xE 1] fun _ =>
        if e.s.ownRecord e.g.core e.g.team e.ga then
          e.setScalar (e.s.setRec e.g.core e.ga r.free) o.dst.toNat
            (BitVec.ofNat 64 (r.count + if r.unc then 2 ^ 16 else 0))
        else e.setScalar e.s o.dst.toNat (BitVec.allOnes 64)

/-- 06 Table 7. -/
def ObRec.word (r : ObRec) : W64 :=
  BitVec.ofNat 64 (ofFields [(63, 1, 1), (62, 1, if r.unc then 1 else 0), (59, 3, r.fmt),
    (53, 6, if r.ty = .q4 then 32 else 0), (44, 9, r.kb), (30, 14, r.soff / 32), (20, 10, r.size), (0, 16, r.count)])

def execObqry (o : Ops) (m : ModX) (s : State) : Out :=
  issue1 .all o (Instr.obqry o m).sig s fun e =>
    e.matrix fun _ =>
      e.must [badIf (e.ga / 2 ^ 16 != 0) 0xE 1] fun _ =>
        e.setScalar e.s o.dst.toNat
          (if e.s.ownRecord e.g.core e.g.team e.ga then (e.s.obRec e.g.core e.ga).word else 0)

/-! ### MLD, MLDT (R151) -/

/-- The segments of a load: address, bytes, offset in the record. -/
def mldSegs (r : ObRec) (ref addr rows : Nat) (p : Int) (sca tr : Bool) : List (W64 × Nat × Nat) :=
  let at_ := fun (x : Int) => BitVec.ofInt 64 ((addr : Int) + x)
  let lo := 4 * refK0 ref * r.ty.width
  (List.range rows).flatMap fun i =>
    let row := refRow ref + i
    if sca then [(at_ (i * p), r.kb - refK0 ref, r.soff + row * r.kb + refK0 ref)]
    else if tr then
      let w := r.ty.width / 8
      (List.range (32 * (r.kb - refK0 ref))).map fun (c : Nat) =>
        (at_ ((c : Int) * p + ((i * w : Nat) : Int)), w, (row * r.pitch + lo + c * w : Nat))
    else [(at_ (i * p), r.pitch - lo, row * r.pitch + lo)]

/-- Bytes that have been read go to their segments. -/
def State.fillSegs (s : State) (core : Nat) (r : ObRec) : List (W64 × Nat × Nat) → List Byte → State
  | [], _ => s
  | g :: gs, bs => (s.obWrite core r g.2.2 (bs.take g.2.1)).fillSegs core r gs (bs.drop g.2.1)

/-- Poison read on the matrix path is consumed (17 R432). -/
def Env.loseAt (e : Env) (s : State) (p : Placed) : Out :=
  .next { (s.reportBad p.pa 0).lose e.g.ctx 1 e.g.core p.acc.va p.pa with cur := none }

def Env.mld (e : Env) (o : Ops) (m : ModX) (sca tr : Bool) : Out :=
  e.matrix fun _ =>
    let r := e.s.obRec e.g.core e.ga
    let addr := e.gb % 2 ^ 64
    let pw := e.gb / 2 ^ 64
    let p := IntTy.s32.val pw
    let rows := m.rowCount
    let w := r.ty.width / 8
    e.must [e.s.handleBad e.g.core e.g.team e.ga, refReserved e.ga, badIf (pw / 2 ^ 32 != 0) 0xE 1,
        e.s.refRange e.g.core e.ga rows 0, badIf ((sca && r.ty != .q4) || (tr && r.ty == .q4)) 0xE 4,
        badIf (tr && (addr % w != 0 || p.natAbs % w != 0)) 0xE 5] fun _ =>
      let segs := mldSegs r e.ga addr rows p sca tr
      let as := rangeAccs e.first e.mask .read (segs.map fun g => (g.1, g.2.1))
      e.access as [] 1 fun s ps =>
        if ps.any (s.waitsAt (coreDie e.g.core) false) then e.blockAt (s.askAt false ps) .tick else
        let s := s.touchRead (coreDie e.g.core) ps
        match s.badPlace ps with
        | some b => e.loseAt s b
        | none =>
          e.result (s.fillSegs e.g.core r segs (s.pull ps)) e.g
            [(.scal o.dst.toNat, BitVec.ofNat 64 (segs.foldl (fun n g => n + g.2.1) 0))]

def execMld (o : Ops) (m : ModX) (s : State) : Out :=
  issue1 .all o (Instr.mld o m).sig s fun e => e.mld o m false false
def execMldSca (o : Ops) (m : ModX) (s : State) : Out :=
  issue1 .all o (Instr.mldSca o m).sig s fun e => e.mld o m true false
def execMldt (o : Ops) (m : ModX) (s : State) : Out :=
  issue1 .all o (Instr.mldt o m).sig s fun e => e.mld o m false true

/-! ### Row gathers (R152, R153) -/

/-- An index entry. -/
def indexEntry (a d : Nat) : Nat :=
  if a % 2 ^ 32 < bitsOf d 42 22 then (bitsOf d 0 22 + a % 2 ^ 32 * bitsOf d 22 20) % 2 ^ 22 else 0x80000000

/-- A computing instruction of the matrix path (06 R141). -/
def runMatrixAlu (x : Alu) (s : State) : Out :=
  issue1 .all x.o x.sg s fun e =>
    e.pathFree fun _ =>
      let outs := x.outs e
      e.commit (x.write e.act outs e.g)

def execIxset (o : Ops) (m : ModX) (s : State) : Out :=
  runMatrixAlu (aluOf (.ixset o m) o .b32 fun _ a b _ => { val := indexEntry a b }) s

/-- The entries of an index vector for `rows` rows, none where the lane is inactive: `first` gives those of its first register, which
may be a queue's port, `v` is its number. -/
def Env.entries (e : Env) (first : Nat → Nat) (v rows : Nat) : List (Option Nat) :=
  (List.range rows).map fun m =>
    if e.act.contains (m % 32) then some (if m < 32 then first m % 2 ^ 32 else (e.g.vr (v + 1) (m % 32)).toNat) else none

/-- One gathered row: none leaves it, ZROW gives zeros. -/
def State.gatherTo (s : State) (core : Nat) (lm : Memory) (r : ObRec) (ref m : Nat) (e : Option Nat) : State :=
  let lo := 4 * refK0 ref * r.ty.width
  let n := r.pitch - lo
  match e with
  | none => s
  | some x =>
    s.obWrite core r ((refRow ref + m) * r.pitch + lo)
      (leBytes n (if x / 2 ^ 31 = 1 then 0 else Memory.num lm (x % 2 ^ 22) n))

/-- Does a row read a poisoned local word? -/
def State.rowBad (s : State) (team n : Nat) (e : Option Nat) : Bool :=
  e.any fun x => x / 2 ^ 31 == 0 && s.lmBad team (x % 2 ^ 22) n

def execIxgath (o : Ops) (m : ModX) (s : State) : Out :=
  issue1 .all o (Instr.ixgath o m).sig s fun e =>
    e.matrix fun _ =>
      let rows := m.rowCount
      let r := e.s.obRec e.g.core e.ga
      let es := e.entries e.b o.b.val.toNat rows
      let n := r.pitch - 4 * refK0 e.ga * r.ty.width
      e.must [e.s.handleBad e.g.core e.g.team e.ga, refReserved e.ga, entReserved es,
          e.s.refRange e.g.core e.ga rows 0, entAlign es,
          es.findSome? fun x => match x with
            | some y => if y / 2 ^ 31 = 1 then none else e.s.lmRange e.g.team (y % 2 ^ 22) n
            | none => none] fun _ =>
        if es.any (e.s.rowBad e.g.team n) then e.loseLocal
        else
          let v := e.s.lmLook false e.g.team
          e.finish ((es.zipIdx).foldl (fun s x => s.gatherTo e.g.core v.2 r e.ga x.2 x.1) v.1) e.g

/-! ### Gang issue (R159 to R162) -/

/-- A member at the latch. -/
structure Member where
  gid : Nat
  g : Group
  p : Product

/-- The group of a team with an index, if it is held at the latch. -/
def State.latched (s : State) (team gix : Nat) : Option Member :=
  (s.teamGroups team).findSome? fun e =>
    if e.2.gix = gix then
      match e.2.hold with
      | some h => match h.kind with | .gang p => some ⟨e.1, e.2, p⟩ | _ => none
      | none => none
    else none

/-- The members that a GANG register lists, if every one of them is held. -/
def State.members (s : State) (team : Nat) (gang : W32) : Option (List Member) :=
  let ms := (lanesOf gang).filterMap (s.latched team)
  if ms.length = (lanesOf gang).length then some ms else none

/-- Do two members' tiles overlap? -/
def overlapTiles : List Member → Bool
  | [] => false
  | m :: ms => ms.any (fun x => m.p.tiles.any fun t => x.p.tiles.contains t) || overlapTiles ms

/-- Codes 3 to 6 of R161. -/
def gangCode (m : Member) (ms : List Member) : Nat :=
  let p := m.p
  if ms.any fun x => x.g.gang != m.g.gang then 3
  else if ms.any fun x => x.p.op != p.op || x.p.acc != p.acc || x.p.af != p.af || x.p.bf != p.bf then 4
  else if ms.any fun x => x.p.b != p.b || descN x.p.desc != descN p.desc || x.p.k != p.k || descZero x.p.desc != descZero p.desc
    then 5
  else if overlapTiles ms then 6
  else 0

/-- Every member takes a trap. -/
def State.trapAll (s : State) (ms : List Member) (cause detail : Nat) (aux : W64) : State :=
  ms.foldl (fun s m => s.stall m.gid cause detail aux) s

/-- Handles that the joint operation claims (R160): B's once, where the members agree on it. -/
def jointUses (ms : List Member) : List Nat :=
  (ms.map fun x => x.p.b % 65536).eraseDups ++ ms.filterMap fun x => if x.p.gathers then none else some (x.p.a % 65536)

/-- Some members fault, each with its own cause, detail and TAUX; the others take gang-partner traps, which name the first that
faulted (R162). -/
def State.partners (s : State) (ms : List Member) (own : Member → Option (Nat × Nat × Nat)) : State :=
  let first := match ms.find? fun x => (own x).isSome with | some x => x.g.gix | none => 0
  ms.foldl (fun s x =>
    match own x with
    | some t => s.stall x.gid t.1 t.2.1 (BitVec.ofNat 64 t.2.2)
    | none => s.stall x.gid 0x11 0 (BitVec.ofNat 64 first)) s

/-- The over-read fault of a member: B's record or its own A's is exhausted (R162). -/
def State.overRead (s : State) (core : Nat) (ms : List Member) (x : Member) : Option (Nat × Nat × Nat) :=
  let hs := jointUses ms
  if s.exhausted core hs (x.p.b % 65536) then some (0xD, 4, x.p.b % 65536)
  else if !x.p.gathers && s.exhausted core hs (x.p.a % 65536) then some (0xD, 4, x.p.a % 65536)
  else none

/-- The fault of a member whose bank the team has given up since it reached the latch (R138; Table 6, order 3). -/
def State.bankLost (s : State) (core team : Nat) (x : Member) : Option (Nat × Nat × Nat) :=
  (s.tileBad core team (descT x.p.desc)).map fun b => (b.cause, b.detail, 0)

/-- A member whose operation completes: its index vector's queue port is popped (02 R53), the flags of all members go to it (04 R86),
and it leaves the latch. -/
def State.endMember (s : State) (x : Member) (f : W32) : State :=
  (s.modGroup x.gid fun g => (match x.p.port with | some q => g.pop q | none => g).flag f).releaseGroup x.gid

/-- The joint operation executes. It reads the local rows of an MMAG member here, at the joint point, and not at the member's own
issue, where their poison was looked at (DEDUCED, log 50). -/
def State.runJoint (s : State) (core team : Nat) (ms : List Member) : State :=
  let v := s.lmLook false team
  let cs := ms.map fun x => (x, s.product core v.2 x.p)
  let own := ms.foldl (fun f x => match x.g.hold with | some h => f ||| h.flags | none => f) s.retryFlag
  let f := cs.foldl (fun f c => f ||| cellFlags c.2) own
  let t := cs.foldl (fun t c => t.writeProduct core c.1.p c.2) (v.1.passed core)
  let t := t.claim core (jointUses ms)
  ms.foldl (fun t x => t.endMember x f) t

/-- The joint point of the members that `gang` lists. -/
def State.joint (s : State) (core team : Nat) (ms : List Member) : State :=
  match ms with
  | [] => s
  | m :: _ =>
    -- Table 6: banks, then COUNT, then agreement
    if ms.any fun x => (s.bankLost core team x).isSome then s.partners ms (s.bankLost core team)
    else if ms.any fun x => (s.overRead core ms x).isSome then s.partners ms (s.overRead core ms)
    else if gangCode m ms ≠ 0 then s.trapAll ms 0x10 (gangCode m ms) 0
    else if ms.any fun x => s.productPoison core x.p then s.lose m.g.ctx 2 core 0 0
    else if 2 ≤ s.shadow then
      let c := s.product core (s.lmLook false team).2 m.p
      let pc := match m.g.hold with | some h => h.pc | none => 0
      let r := s.arrayShadow c m.p.unit 0 m.g.ctx core (s.seesProduct core (s.lmLook false team).2 m.p) pc
      (s.postShadow m.g.ctx r).trapAll ms 0x15 0 (r.setWidth 64)
    else s.runJoint core team ms

/-- After a member reaches the latch: the first gang that is complete, the newcomer's own first. -/
def State.meetGang (s : State) (gid core team : Nat) : State :=
  let held := (s.teamGroups team).filter fun e => e.2.hold.any fun h => h.kind.isGang
  let order := held.filter (fun e => e.1 == gid) ++ held.filter (fun e => e.1 != gid)
  match order.findSome? fun e => s.members team e.2.gang with
  | some ms => s.joint core team ms
  | none => s

/-! ### Products (R154 to R158) -/

/-- A product with GANG goes to the latch (R161). -/
def Env.gangIssue (e : Env) (p : Product) : Out :=
  if !hasLane e.g.gang e.g.gix || decide ((lanesOf e.g.gang).length < 2) then e.trap 0x10 1 e.first
  else if !(e.g.liveLanes.all fun l => e.lanes.contains l) then e.trap 0x10 2 e.first
  else
    match e.holdFor e.s (.gang p) with
    | .next s => .next (s.meetGang e.u.gid e.g.core e.g.team)
    | x => x

/-- A product issued alone. -/
def Env.runProduct (e : Env) (p : Product) : Out :=
  let hs := p.uses
  match hs.find? (e.s.exhausted e.g.core hs) with
  | some h => e.trapAux 0xD 4 e.first 0 (BitVec.ofNat 64 h)
  | none =>
    let v := e.s.lmLook false e.g.team
    let c := e.s.product e.g.core v.2 p
    ({ e with s := v.1 }).arrayCheck c p.unit (e.s.seesProduct e.g.core v.2 p) fun s f =>
      e.finish ((s.writeProduct e.g.core p c).claim e.g.core hs) (e.g.flag (cellFlags c ||| f))

/-- Checks 1 to 4, then the gang latch or the operation itself. -/
def Env.product (e : Env) (m : ModX) (p : Product) : Out :=
  e.matrix fun _ =>
    e.must [e.s.productBad e.g.core e.g.team p] fun _ =>
      if p.ents.any (e.s.rowBad e.g.team (p.k * p.af.width / 8)) || e.s.productPoison e.g.core p then e.loseLocal
      else if m.opf.getLsbD 0 then e.gangIssue p
      else e.runProduct p

def Env.productOf (e : Env) (m : ModX) (op : Nat) (ents : List (Option Nat)) (port : Option Nat := none) : Product :=
  ⟨op, m.acc, m.afmt, m.bfmt, if op = 3 then 0 else e.ga, e.gb, e.gc % 2 ^ 32, ents, port⟩

def execMma (o : Ops) (m : ModX) (s : State) : Out :=
  issue1 .all o (Instr.mma o m).sig s fun e => e.product m (e.productOf m 0 [])
def execMmaw (o : Ops) (m : ModX) (s : State) : Out :=
  issue1 .all o (Instr.mmaw o m).sig s fun e => e.product m (e.productOf m 1 [])
def execMdist (o : Ops) (m : ModX) (s : State) : Out :=
  issue1 .all o (Instr.mdist o m).sig s fun e => e.product m (e.productOf m 2 [])

/-- MMAG's operands with vB+1 where its descriptor uses more than 32 rows (R153): checks 3 and 5 look at it whatever the guards (R140).
A descriptor in an empty register tells nothing yet. -/
def State.mmagSpan (s : State) (o : Ops) (sg : Sig) : Sig :=
  match s.cur.bind fun u => s.group? u.gid, sg.c with
  | some g, some q =>
    if o.c.kind != .vec && (g.emptyOf o.c q 0).isEmpty && decide (32 < descM (s.value g o sg 2 o.c q 0 % 2 ^ 32)) then
      { sg with a := some (.range 2 2) }
    else sg
  | _, _ => sg

/-- The partner register of MMAG's index vector, used for more than 32 rows (R153). Lanes of it that are empty are looked at after the
other sources: a lane blocks there, or the instruction traps in trap mode (DEDUCED, log 50). -/
def Env.partner (e : Env) (o : Ops) (rows : Nat) (k : Env → Out) : Out :=
  let v := o.a.val.toNat + 1
  if rows ≤ 32 then k e
  else
    let late := e.act.filter fun l => decide (l + 32 < rows) && e.g.isEmpty (.vec v l)
    match late with
    | [] => k e
    | l :: _ =>
      if o.a.trap then e.trap 6 0 l
      else
        let g := e.g.blockLanes e.s.cycle (late.map fun l => (l, .regs [.vec v l]))
        let stay := fun l => !late.contains l
        let e := { e with s := e.s.setGroup e.u.gid g, g := g, lanes := e.lanes.filter stay, act := e.act.filter stay }
        if e.lanes.isEmpty then .next (e.s.retire e.u) else k e

def execMmag (o : Ops) (m : ModX) (s : State) : Out :=
  let sg := (Instr.mmag o m).sig
  issue .all o.len [{ o := o, sg := sg, reg := s.mmagSpan o sg }] s fun e =>
    if e.act.isEmpty then e.commit e.g
    else
      let rows := descM (e.gc % 2 ^ 32)
      e.partner o rows fun e =>
        e.product m (e.productOf m 3 (e.entries e.a o.a.val.toNat rows) (e.g.popped o sg).head?)

/-! ### MTOPK (R163) -/

/-- Row `m` of the output, merged with what is there under MRG. -/
def State.topkRow (s : State) (core : Nat) (lm : Memory) (t n m out k colbase : Nat) (val mrg int low : Bool) : List Byte :=
  let tile := (List.range n).map fun j => ((colbase + j) % 2 ^ 32, (s.elem core t m j).toNat)
  let old := if mrg then
      ((List.range k).map fun i => (Memory.num lm (out + 4 * i) 4, Memory.num lm (out + 4 * (k + i)) 4)).filter fun x =>
        x.1 != 0xFFFFFFFF
    else []
  topKBytes val (topK int low k (tile ++ old))

/-- MTOPK. B's bits 31:22 not zero, which no code of Table 6 names, give operand-buffer fault 1 (DEDUCED, log 50). -/
def execMtopk (o : Ops) (m : ModX) (s : State) : Out :=
  issue1 .all o (Instr.mtopk o m).sig s fun e =>
    e.matrix fun _ =>
      let k := m.rowCount
      let val := m.opf.getLsbD 7
      let d := e.ga % 2 ^ 32
      let a := e.gb % 2 ^ 22
      let t := descT d
      let row := k * (if val then 8 else 4)
      e.must [badIf (bitsOf e.gb 22 10 != 0) 0xE 1, badIf (a % 4 != 0) 0xE 5, badIf (d / 2 ^ 17 != 0) 0xF 2,
          e.s.tileBad e.g.core e.g.team t, e.s.lmRange e.g.team a (descM d * row)] fun _ =>
        if (m.opf.getLsbD 8 && e.s.lmBad e.g.team a (descM d * row)) || e.s.cellsBad e.g.core t (tileRegion (descM d) (descN d)) then
          e.loseLocal
        else
          let v := e.s.lmLook false e.g.team
          e.finish (v.1.lmPuts 4 e.g.team ((List.range (descM d)).map fun i =>
            (a + i * row, e.s.topkRow e.g.core v.2 t (descN d) i (a + i * row) k (e.gb / 2 ^ 32) val
              (m.opf.getLsbD 8) (m.opf.getLsbD 9) (m.opf.getLsbD 6)))) e.g

/-! ### Accumulator access (R164 to R167) -/

/-- Element (tile, row, column) that a lane of ACCLD or ACCST names. -/
def accElem (m : ModX) (a l : Nat) : Nat × Nat × Nat :=
  (a % 32, bitsOf a 5 6, (bitsOf a 11 6 + if m.opf.getLsbD 0 then l else 0) % 64)

/-- The per-lane checks of ACCLD and ACCST, in ascending lane order. -/
def Env.accCheck (e : Env) (k : Unit → Out) : Out :=
  match e.act.find? fun l => bitsOf (e.a l) 17 15 != 0 with
  | some l => e.trap 0xF 2 l
  | none =>
    match e.act.find? fun l => (e.s.tileBad e.g.core e.g.team (e.a l % 32)).isSome with
    | some l => e.trap 0xF 1 l
    | none => k ()

def execAccld (o : Ops) (m : ModX) (s : State) : Out :=
  issue1 .all o (Instr.accld o m).sig s fun e =>
    e.matrix fun _ =>
      e.accCheck fun _ =>
        if e.act.any fun l => e.s.cellsBad e.g.core (accElem m (e.a l) l).1 [(accElem m (e.a l) l).2] then e.loseLocal
        else
        e.result e.s e.g (e.act.map fun l =>
          let x := accElem m (e.a l) l
          (.vec o.dst.toNat l, (e.s.elem e.g.core x.1 x.2.1 x.2.2).setWidth 64))

def execAccst (o : Ops) (m : ModX) (s : State) : Out :=
  issue1 .all o (Instr.accst o m).sig s fun e =>
    e.matrix fun _ =>
      e.accCheck fun _ =>
        e.finish (e.act.foldl (fun s l =>
          let x := accElem m (e.a l) l
          s.setElem e.g.core x.1 x.2.1 x.2.2 (BitVec.ofNat 32 (e.b l))) e.s) e.g

/-- Descriptor checks where KM1 and ZERO must be zero (`pitch`: KM1 is PITCH16). -/
def State.descBad (s : State) (core team d : Nat) (pitch : Bool) : List (Option Bad) :=
  [badIf (d / 2 ^ 30 != 0 || (!pitch && bitsOf d 17 13 != 0)) 0xF 2, s.tileBad core team (descT d)]

def execAccz (o : Ops) (m : ModX) (s : State) : Out :=
  issue1 .all o (Instr.accz o m).sig s fun e =>
    e.matrix fun _ =>
      let d := e.ga % 2 ^ 32
      e.must (e.s.descBad e.g.core e.g.team d false) fun _ =>
        e.finish (e.s.setCells e.g.core (descT d) ((tileRegion (descM d) (descN d)).map fun x => (x.1, x.2, exact 0))) e.g

/-- Row pitch in bytes of a transfer with elements of `w` bytes. -/
def rowPitch (d w : Nat) : Nat := if bitsOf d 17 13 = 0 then descN d * w else bitsOf d 17 13 * 16

def execAcclmIn (o : Ops) (m : ModX) (s : State) : Out :=
  issue1 .all o (Instr.acclmIn o m).sig s fun e =>
    e.matrix fun _ =>
      let d := e.ga % 2 ^ 32
      let a := e.gb % 2 ^ 32
      let p := rowPitch d 4
      e.must ([badIf (a % 4 != 0) 0xE 5] ++
          e.s.descBad e.g.core e.g.team d true ++
          (List.range (descM d)).map fun i => e.s.lmRange e.g.team (a + i * p) (descN d * 4)) fun _ =>
        if (List.range (descM d)).any fun i => e.s.lmBad e.g.team (a + i * p) (descN d * 4) then e.loseLocal
        else
          let v := e.s.lmLook false e.g.team
          e.finish (v.1.setCells e.g.core (descT d) ((tileRegion (descM d) (descN d)).map fun x =>
            (x.1, x.2, exact (Memory.num v.2 (a + x.1 * p + 4 * x.2) 4)))) e.g

/-- OFMT: bytes of an element. -/
def ofmtBytes (f : Nat) : Nat :=
  match f with
  | 0 => 4
  | 1 | 2 | 7 => 2
  | _ => 1

/-- One element as OFMT delivers it (Table 11). -/
def ofmtElem (f : Nat) (sat : Bool) (x : Nat) : Res :=
  let fl := fun t => cvtFF t .rn sat (FloatTy.f32.read x)
  let it := fun (t : IntTy) => t.deliver sat (IntTy.s32.val x)
  match f with
  | 0 => exact x
  | 1 => fl .f16
  | 2 => fl .b16
  | 3 => fl .e4m3
  | 4 => fl .e5m2
  | 5 => it .s8
  | 6 => it .n8
  | _ => it .s16

/-- The floating-point type that the shadow units check for an OFMT. -/
def ofmtTy (f : Nat) : Option FloatTy :=
  match f with
  | 1 => some .f16
  | 2 => some .b16
  | 3 => some .e4m3
  | 4 => some .e5m2
  | _ => none

def ModX.ofmt (m : ModX) : Nat := (m.opf.extractLsb' 1 3).toNat

/-- The elements of a region as ACCLM.OUT and MST deliver them. -/
def Env.outCells (e : Env) (m : ModX) (d : Nat) : Cells :=
  (tileRegion (descM d) (descN d)).map fun x =>
    (x.1, x.2, ofmtElem (ModX.ofmt m) (m.opf.getLsbD 5) (e.s.elem e.g.core (descT d) x.1 x.2).toNat)

/-- Row `i` of delivered elements as bytes. -/
def rowBytes (c : Cells) (w i : Nat) : List Byte := (c.filter fun x => x.1 == i).flatMap fun x => leBytes w x.2.2.bits

/-- The shadow units check floating-point transfers. -/
def Env.outCheck (e : Env) (m : ModX) (c : Cells) (k : State → W32 → Out) : Out :=
  match ofmtTy (ModX.ofmt m) with
  | some t => e.arrayCheck c 6 (seesFloat t) k
  | none => k e.s 0

/-- ACCLM.OUT. Rows that overlap are written in ascending order, the last staying: the spec gives no order (DEDUCED, log 50). -/
def execAcclmOut (o : Ops) (m : ModX) (s : State) : Out :=
  issue1 .all o (Instr.acclmOut o m).sig s fun e =>
    e.matrix fun _ =>
      let d := e.ga % 2 ^ 32
      let a := e.gb % 2 ^ 32
      let w := ofmtBytes (ModX.ofmt m)
      let p := rowPitch d w
      e.must ([badIf (a % w != 0) 0xE 5] ++
          e.s.descBad e.g.core e.g.team d true ++
          (List.range (descM d)).map fun i => e.s.lmRange e.g.team (a + i * p) (descN d * w)) fun _ =>
        let c := e.outCells m d
        if e.s.cellsBad e.g.core (descT d) (tileRegion (descM d) (descN d)) then e.loseLocal
        else
        e.outCheck m c fun s f =>
          e.finish (s.lmPuts 4 e.g.team ((List.range (descM d)).map fun i => (a + i * p, rowBytes c w i)))
            (e.g.flag (cellFlags c ||| f))

/-- Poisoned cells of a region that goes to placed rows, with elements of `w` bytes, poison the atoms that they are written to
(17 R431). -/
def State.markCells (s : State) (core tile cols w : Nat) (ps : List Placed) : State :=
  let cells := ps.flatMap fun p => (List.range p.acc.size).map (p.pa + ·)
  s.accBad.foldl (fun s k =>
    match cells.zipIdx.find? fun x => k == accKey core tile (x.2 / w / cols) (x.2 / w % cols) with
    | some x => s.markWritten x.1
    | none => s) s

/-- MST: every page is translated before a byte is stored; its strikes are an engine's (17 R452). -/
def execMst (o : Ops) (m : ModX) (s : State) : Out :=
  issue1 .all o (Instr.mst o m).sig s fun e =>
    e.matrix fun _ =>
      let d := e.ga % 2 ^ 32
      let w := ofmtBytes (ModX.ofmt m)
      let p := rowPitch d w
      let a := BitVec.ofNat 64 e.gb
      e.must ([badIf (a.toNat % w != 0) 0xE 5] ++ e.s.descBad e.g.core e.g.team d true) fun _ =>
        let rows := (List.range (descM d)).map fun i => (a + BitVec.ofNat 64 (i * p), descN d * w)
        e.access (rangeAccs e.first e.mask .write rows) [] 1 fun s ps =>
          if ps.any (s.waitsAt (coreDie e.g.core) true) then e.blockAt (s.askAt true ps) .tick else
          let c := e.outCells m d
          ({ e with s := s }).outCheck m c fun s f =>
            let s := (s.touch ps).push (coreDie e.g.core) e.g.ctx ps ((List.range (descM d)).flatMap (rowBytes c w))
            let s := s.markCells e.g.core (descT d) (descN d) w ps
            match e.finish s (e.g.flag (cellFlags c ||| f)) with
            | .next s => .next (s.engineStrike e.g.ctx e.g.core e.u.gid 0 (writesAt ps))
            | x => x

/-- ACCCVT: the region converted in place. -/
def Env.acccvt (e : Env) (k : Nat → Int → Res) (checked : Bool) : Out :=
  e.matrix fun _ =>
    let d := e.ga % 2 ^ 32
    let sc := IntTy.s32.val e.gb
    e.must (e.s.descBad e.g.core e.g.team d false) fun _ =>
      if e.s.cellsBad e.g.core (descT d) (tileRegion (descM d) (descN d)) then e.loseLocal
      else
      let c : Cells := (tileRegion (descM d) (descN d)).map fun x =>
        (x.1, x.2, k (e.s.elem e.g.core (descT d) x.1 x.2).toNat sc)
      let go := fun (s : State) f => e.finish (s.setCells e.g.core (descT d) c) (e.g.flag (cellFlags c ||| f))
      if checked then e.arrayCheck c 6 (seesFloat .f32) go else go e.s 0

def ModX.cvtRm (m : ModX) : Rm := .ofBits (m.opf.extractLsb' 1 2)

def execAcccvtI2f (o : Ops) (m : ModX) (s : State) : Out :=
  issue1 .all o (Instr.acccvtI2f o m).sig s fun e =>
    e.acccvt (fun x sc => FloatTy.f32.round (ModX.cvtRm m) false (scaleBy (.ofInt (IntTy.s32.val x)) sc)) true

def execAcccvtF2i (o : Ops) (m : ModX) (s : State) : Out :=
  issue1 .all o (Instr.acccvtF2i o m).sig s fun e =>
    e.acccvt (fun x sc => cvtFI .s32 (ModX.cvtRm m) (scaleBy (FloatTy.f32.read x) sc)) false

end Sys2Proof.Machine
end

