-- ==== Sys2Proof/Machine/Furrow.lean ====
section
/-! DEFINITION. The furrow instructions (08 R243 to R246) and the nodes that the drill starts (R249, R252 to R254, R256). A
node's local-memory accesses and its reads are made as it starts, its local reads at one look of the engine; its global writes
wait in the node write buffer until it finishes, and its fills, releases and atomics travel as accesses of their own. A copy
that touches global memory reads in pieces (R348, R352).
What rests on the model rather than on the plain words of the manual: log 8 (DEDUCED), log 10 (DEDUCED), log 12 (DEDUCED). -/

namespace Sys2Proof.Machine

/-! ### FRGO, FRADV, FRWAIT, FRSTAT -/

/-- Code 2 of FRGO: a descriptor field out of range, a range beyond LMSIZE, or B > LEN. -/
def frgoBad (d tail lmSize : Nat) : Bool :=
  let base := bitsOf d 0 22
  let len := bitsOf d 22 13
  let cw := bitsOf d 35 19 * 8
  d / 2 ^ 54 != 0 || base % 32 != 0 || len == 0 || decide (4096 < len) || decide (lmSize < base + 32 * len) ||
  decide (lmSize < cw + 8) || decide (len < tail)

/-- The slot that FRGO opens. -/
def Furrow.open_ (gen team gid d tail : Nat) : Furrow :=
  { Furrow.init with
    team := team, gid := gid, gen := gen, opened := true, base := bitsOf d 0 22, len := bitsOf d 22 13,
    cw := bitsOf d 35 19, tail := tail }

def execFrgo (o : Ops) (m : BitVec 20) (s : State) : Out :=
  issue1 .all o (Instr.frgo o m).sig s fun e =>
    e.once fun _ =>
      let d := e.a e.first % 2 ^ 64
      let tail := e.b e.first % 2 ^ 32
      let slot := fun i => (Tab.get? e.s.furrows (16 * e.g.core + i)).getD Furrow.init
      let fail := fun n => e.setScalar e.s o.dst.toNat (BitVec.ofNat 64 (2 ^ 63 + n))
      match (List.range 16).find? fun i => !(slot i).opened with
      | none => fail 1
      | some i =>
        if frgoBad d tail (e.s.lmSize e.g.team) then fail 2
        else
          let f := Furrow.open_ (slot i).gen e.g.team e.u.gid d tail
          e.setScalar (((e.s.setFurrow (16 * e.g.core + i) f).seeCore e.g.team).writeCw f 0) o.dst.toNat (BitVec.ofNat 64 (16 * f.gen + i))

/-- FRADV, with or without CLOSE: TAIL advances; a closed slot keeps the TAIL at which it closed as its limit. -/
def Env.fradv (e : Env) (close : Bool) : Out :=
  e.once fun _ =>
    match e.s.furrowOf e.g.core e.g.team (e.a e.first % 2 ^ 64) with
    | none => e.trap 0x1C 1 e.first
    | some (k, f) =>
      let tail := f.tail + e.b e.first % 2 ^ 32
      if f.len < tail - f.head then e.trap 0x1C 2 e.first
      else
        let limit := match f.limit with | some l => some l | none => if close then some tail else none
        e.finish (((e.s.setFurrow k { f with tail := tail, limit := limit }).seeCore e.g.team).settleFurrow k) e.g

def execFradv (o : Ops) (m : BitVec 20) (s : State) : Out :=
  issue1 .all o (Instr.fradv o m).sig s fun e => e.fradv false
def execFradvClose (o : Ops) (m : BitVec 20) (s : State) : Out :=
  issue1 .all o (Instr.fradvClose o m).sig s fun e => e.fradv true

/-- What FRWAIT finds: it goes on, it waits, or it traps with the FRSTAT word. -/
inductive Frw
  | go
  | wait
  | trap (st : Nat) (word : W64)

def State.frwaits (s : State) (core team h v : Nat) : Frw :=
  match s.furrowOf core team h with
  | none => .trap 0xFF 0xFF
  | some (_, f) =>
    if v ≤ f.seq then .go
    else if f.state = 2 ∨ f.state = 4 then .trap f.state (s.frstat f)
    else .wait

def execFrwait (o : Ops) (m : BitVec 20) (s : State) : Out :=
  issue1 .all o (Instr.frwait o m).sig s fun e =>
    e.once fun _ =>
      let h := e.a e.first % 2 ^ 64
      let v := e.b e.first % 2 ^ 64
      match e.s.frwaits e.g.core e.g.team h v with
      | .go => e.finish (e.s.seeEngine e.g.team fun _ => true) e.g
      | .wait => e.holdFor e.s (.frwait (BitVec.ofNat 64 h) (BitVec.ofNat 64 v))
      | .trap st w => e.trapAux 0x1D st e.first 0 w

def execFrstat (o : Ops) (m : BitVec 20) (s : State) : Out :=
  issue1 .all o (Instr.frstat o m).sig s fun e =>
    e.once fun _ =>
      e.result e.s e.g [(.scal o.dst.toNat,
        match e.s.furrowOf e.g.core e.g.team (e.a e.first % 2 ^ 64) with
        | some (_, f) => e.s.frstat f
        | none => 0xFF)]

/-! ### Starting a node -/

/-- A node that a step is for: `k` is the key of its slot. -/
structure Nd where
  s : State
  k : Nat
  core : Nat
  f : Furrow
  n : Node
  t : Team

def State.nd? (s : State) (core i ix kind : Nat) : Option Nd :=
  match Tab.get? s.furrows (16 * core + i) with
  | none => none
  | some f =>
    match f.nodes.find? (fun n => n.ix == ix), Tab.get? s.teams f.team with
    | some n, some t => if f.opened && n.kind == kind then some ⟨s, 16 * core + i, core, f, n, t⟩ else none
    | _, _ => none

/-- May the drill start it (R250, R251, R257, R258; 07 R189; 17 R447, R454)? One that had started goes on in a furrow that
starts no other. -/
def Nd.startable (x : Nd) : Bool :=
  !x.s.frozen x.t.ctx && !x.s.gated.contains x.core &&
  (x.n.phase == .again ||
   (x.n.phase == .waiting && !x.s.scopeHeld x.t.ctx && x.n.live == 0 && x.f.state == 0 && !x.f.paused && !x.f.ending &&
    (match nodeClass x.n.kind with | some c => !x.s.fenced x.f.team c | none => true)))

/-- The node with one look of the engine at its team's local memory (07 R172). -/
def Nd.look (x : Nd) : Nd :=
  let v := x.s.lmLook false x.f.team
  { x with s := v.1, t := { x.t with lm := v.2 } }

def State.startNode (s : State) (core i ix kind : Nat) (k : Nd → Out) : Out :=
  match s.nd? core i ix kind with
  | some x => if x.startable then k x.look else .next s
  | none => .next s

def Nd.die (x : Nd) : Nat := coreDie x.core
def Nd.asker (x : Nd) : Asker := ⟨x.die, x.t.ctx, 1, x.core, 0, false⟩

/-- Every page is translated before any access (R256): a miss parks the node, a fault halts its furrow. -/
def Nd.access (x : Nd) (accs : List Acc) (k : State → List Placed → Out) : Out :=
  match x.s.check x.asker accs [] 1 with
  | .ok s ps =>
    if ps.any fun p => s.waitsAt x.die (AccKind.isWrite p.acc.kind) p then
      .next (ps.foldl (fun s p => s.ask (AccKind.isWrite p.acc.kind) p.pa p.acc.size) s)
    else k s ps
  | .trap s c d _ _ _ => .next (s.haltNode x.k x.n.ix (statusOf c) c d)
  | .miss s a lvl en epa =>
    let m : MissArg := ⟨x.die, x.t.ctx, a.va, a.kind, epa, lvl, BitVec.ofNat 64 en, 0, .node x.core (x.k % 16) x.n.ix⟩
    .next ((s.modNode x.k x.n.ix fun n => { n with phase := .parked }).present m s.gtime)
  | .wait s => .next s
  | .stop s => .next s

/-- The node runs; `g` says what it holds. -/
def Nd.run (x : Nd) (s : State) (g : Node → Node) : State :=
  s.modNode x.k x.n.ix fun n => g { n with phase := .running }

/-- Strikes of the node's writes (17 R452, R454). -/
def Nd.strike (x : Nd) (s : State) (ws : List Write) : State := s.engineStrike x.t.ctx x.core x.f.gid (x.f.who x.k x.n) ws

/-- Poison consumed (17 R432): from memory, or on the core. -/
def Nd.lose (x : Nd) (s : State) (p : Placed) : Out := .next ((s.reportBad p.pa 0).lose x.t.ctx 1 x.core p.acc.va p.pa)
def Nd.loseLocal (x : Nd) : Out := .next (x.s.lose x.t.ctx 2 x.core 0 0)

/-! ### Data with poison marks (17 R431) -/

/-- Bytes, each with its mark. -/
abbrev Marked := List (Byte × Bool)

def State.pullMarked (s : State) (ps : List Placed) : Marked :=
  ps.flatMap fun p => (s.homeRead p.pa p.acc.size).zipIdx.map fun b => (b.1, s.poisonedAt (p.pa + b.2))

def Team.pullMarked (t : Team) (a n : Nat) : Marked :=
  (Memory.bytes t.lm a n).zipIdx.map fun b => (b.1, t.bad.contains ((a + b.2) / 4))

/-- An engine on path `cls` writes local bytes with their marks. -/
def Team.writeMarked (t : Team) (cls a : Nat) (m : Marked) : Team :=
  let t := t.enginePut cls a (m.map (·.1))
  let bad := (m.zipIdx.filter fun b => b.1.2).map fun b => (a + b.2) / 4
  { t with bad := bad.foldl (fun l w => if l.contains w then l else w :: l) t.bad }

/-- What a copy of one kind of memory reads in ascending byte order (R249): bytes that it has itself written before are read as
written. `rs`: where each byte is read and what stands there; `ws`: where each goes; `own`: what it has written, newest first. -/
def forward : List (Nat × (Byte × Bool)) → List Nat → List (Nat × (Byte × Bool)) → Marked
  | r :: rs, w :: ws, own =>
    let v := match own.find? fun o => o.1 == r.1 with | some o => o.2 | none => r.2
    v :: forward rs ws ((w, v) :: own)
  | _, _, _ => []

/-- What a local copy carries. -/
def Team.copied (t : Team) (src dst n : Nat) : Marked :=
  let m := t.pullMarked src n
  if src < dst ∧ dst < src + n then forward (m.zipIdx.map fun b => (src + b.2, b.1)) ((List.range n).map (dst + ·)) []
  else m

/-- One placed range as chunks of a line at most, which carry clock `c`. -/
def cutLines (c : List Nat) (va : W64) (pa : Nat) (ents : List Nat) : Nat → Marked → List Chunk
  | 0, _ => []
  | _, [] => []
  | fuel + 1, m =>
    let n := 128 - pa % 128
    let here := m.take n
    let bad := (here.zipIdx.filter fun b => b.1.2).map fun b => (pa % 32 + b.2) / 32
    ⟨va, pa, here.map (·.1), ents, bad.eraseDups, c⟩ :: cutLines c (va + BitVec.ofNat 64 n) (pa + n) ents fuel (m.drop n)

/-- Data for placed ranges, in order, as chunks with the clock of their die. -/
def chunksOf (c : List Nat) : List Placed → Marked → List Chunk
  | [], _ => []
  | p :: ps, m =>
    cutLines c p.acc.va p.pa p.ents (p.acc.size + 1) (m.take p.acc.size) ++ chunksOf c ps (m.drop p.acc.size)

/-- Bytes of the node write buffer that a node takes (R256): a copy of which bytes are still unread, all its LEN; one that has
halted, none. -/
def Node.buffered (n : Node) : Nat :=
  if n.kind = 4 ∨ n.kind = 5 ∨ n.phase = .halted then 0
  else if n.kind = 0 ∧ isL n.ent.w2 = false ∧ n.sent = true ∧ n.unread ≠ 0 then copyLen n.ent
  else n.buf.foldl (fun a c => a + c.bytes.length) 0

/-- Bytes of a core's node write buffer in use. -/
def State.bufUsed (s : State) (core : Nat) : Nat :=
  s.furrows.foldl (fun a f => if f.1 / 16 = core then f.2.nodes.foldl (fun a n => a + n.buffered) a else a) 0

/-- Is there room for `n` more bytes? Otherwise the node waits to start. -/
def Nd.room (x : Nd) (n : Nat) (k : Unit → Out) : Out :=
  if x.s.bufUsed x.core + n ≤ 65536 then k () else .next x.s

/-- A non-canonical address word (R248). -/
def Nd.badAddress (x : Nd) : Out := .next (x.s.haltNode x.k x.n.ix 3 7 1)

/-- The address word W1 without the L mark must be canonical, whatever is accessed (R248). -/
def Nd.based (x : Nd) (k : Unit → Out) : Out := if canonical x.n.ent.w1 then k () else x.badAddress

/-- The global range of an L address word, or none for local memory. -/
def Nd.global (x : Nd) (w : W64) (k : Option W64 → Out) : Out :=
  if isL w then k none
  else match gAddr? w with
    | some a => k (some a)
    | none => x.badAddress

/-! ### Nodes -/

def nodeAccs (k : AccKind) (rs : List (W64 × Nat)) : List Acc := rangeAccs 0 0 k rs

/-- The first `n` bytes of placed ranges. -/
def takePlaced : List Placed → Nat → List Placed
  | [], _ => []
  | p :: ps, n =>
    if n = 0 then [] else { p with acc := { p.acc with size := min n p.acc.size } } :: takePlaced ps (n - p.acc.size)

/-- Physical addresses of the bytes of placed ranges. -/
def addrsOf (ps : List Placed) : List Nat := ps.flatMap fun p => (List.range p.acc.size).map (p.pa + ·)

/-- The writes in the node write buffer, byte by byte. -/
def Node.own (n : Node) : List (Nat × (Byte × Bool)) :=
  (n.buf.flatMap fun c => c.bytes.zipIdx.map fun b => (c.pa + b.2, b.1, c.bad.contains ((c.pa % 32 + b.2) / 32))).reverse

/-- What a copy between global ranges carries. -/
def Node.globalData (n : Node) (s : State) (rs ws : List Placed) : Marked :=
  let m := s.pullMarked rs
  if rs.any fun p => (n.buf.any fun c => rangesMeet p.pa p.acc.size c.pa c.bytes.length) ||
      ws.any fun w => rangesMeet p.pa p.acc.size w.pa w.acc.size
  then forward ((addrsOf rs).zip m) (addrsOf ws) n.own
  else m

/-- A copy that global memory takes part in: the next 4096 bytes at most; the pages of all that is left are translated before
(R256; 13 R348). -/
def Nd.copyPiece (x : Nd) (src dst : Option W64) : Out :=
  let e := x.n.ent
  let at_ := x.n.res
  let left := copyLen e - at_
  let m := min 4096 left
  let accs := fun k (a : Option W64) => match a with | some a => nodeAccs k [(a + BitVec.ofNat 64 at_, left)] | none => []
  let rd := accs .read src
  x.access (rd ++ accs .write dst) fun s ps =>
    let rs := takePlaced (ps.take rd.length) m
    let ws := takePlaced (ps.drop rd.length) m
    let data := if src.isSome then x.n.globalData s rs ws else x.t.pullMarked (lAddr e.w1 + at_) m
    let s := (rs.foldl (fun s p => s.reportRange p.pa p.acc.size) s).touchRead x.die rs
    let s := if dst.isSome then s else s.modTeam x.f.team fun t => t.writeMarked 1 (lAddr e.w2 + at_) data
    let s := x.run s fun n => { n with sent := true, res := at_ + m, buf := n.buf ++ chunksOf (s.clockOf x.die) ws data }
    .next s

/-- COPY_NODE. -/
def Nd.copy (x : Nd) : Out :=
  let e := x.n.ent
  x.global e.w1 fun src =>
    x.global e.w2 fun dst =>
      if src.isNone && dst.isNone then
        .next (x.run (x.s.modTeam x.f.team fun t =>
          t.writeMarked 1 (lAddr e.w2) (x.t.copied (lAddr e.w1) (lAddr e.w2) (copyLen e))) fun n => { n with res := copyLen e })
      else if x.n.phase == .running then x.copyPiece src dst
      else x.room (if dst.isSome then copyLen e else 0) fun _ => x.copyPiece src dst

/-- The index list of a gather or scatter (R249). -/
def Nd.indices (x : Nd) : List Nat := (List.range (gRows x.n.ent)).map fun m => Memory.num x.t.lm (gList x.n.ent + 4 * m) 4
/-- Is a row skipped under ZSKIP? -/
def skips (e : Words4) (i : Nat) : Bool := Words4.flag e 5 && i == 2 ^ 32 - 1
def Nd.rowVa (x : Nd) (i : Nat) : W64 := x.n.ent.w1 + BitVec.ofNat 64 (i * gPitch x.n.ent)

/-- Placed ranges cut at lines: (virtual address, physical address, bytes). -/
def linePieces (ps : List Placed) : List (W64 × Nat × Nat) :=
  ps.flatMap fun p => (List.range ((p.pa % 128 + p.acc.size + 127) / 128)).map fun i =>
    let a := if i = 0 then 0 else 128 * i - p.pa % 128
    (p.acc.va + BitVec.ofNat 64 a, p.pa + a, min (128 - (p.pa + a) % 128) (p.acc.size - a))

/-- A consuming read of a line that the node has not read before (R249; 07 R194, R195): the line is decremented once, or over-read
once; what it held is kept for the node's other rows. -/
def Nd.takeLine (x : Nd) (v : State × List (Nat × Marked)) (p : W64 × Nat × Nat) : State × List (Nat × Marked) :=
  let l := p.2.1 / 128
  if v.2.any fun t => t.1 == l then v
  else if v.1.isCounted p.2.1 then
    let data := (v.1.homeRead (128 * l) 128).zipIdx.map fun b => (b.1, v.1.poisonedAt (128 * l + b.2))
    ((v.1.stampRing l (v.1.clockOf x.die)).decLine l, (l, data) :: v.2)
  else (v.1.postRead x.t.ctx 1 1 x.core 0 (p.1 - BitVec.ofNat 64 (p.2.1 % 128)) p.2.1 0, (l, List.replicate 128 (0, false)) :: v.2)

/-- What one placed range of a row brings: from memory, or from the lines that the node has taken. -/
def State.rowData (s : State) (taken : Option (List (Nat × Marked))) (p : Placed) : Marked :=
  match taken with
  | none => s.pullMarked [p]
  | some t => (linePieces [p]).flatMap fun q =>
      let d := match t.find? fun y => y.1 == q.2.1 / 128 with | some y => y.2 | none => []
      (d.drop (q.2.1 % 128)).take q.2.2

/-- Row `m` of a gather, with the node's index list: the pages of all the rows that it has not read yet are translated first
(R256; 13 R348; 18 R457), and the row arrives in local memory. -/
def Nd.gatherRow (x : Nd) (is : List Nat) (m : Nat) : Out :=
  let e := x.n.ent
  let w := gRowb e
  let left := (is.drop m).filter fun i => !skips e i
  let i := is.getD m 0
  let put := fun (s : State) (bs : List Byte) => s.lmEngine 2 x.f.team (gLocal e + m * w) bs
  x.access (nodeAccs .read (left.map fun i => (x.rowVa i, w))) fun s ps =>
    if skips e i then .next (x.run (put s (leBytes w 0)) fun n => { n with res := m + 1, index := is })
    else
      let ps := takePlaced ps w
      let s := s.touchRead x.die ps
      let v := if Words4.flag e 4 then (linePieces ps).foldl x.takeLine (s, x.n.taken) else (s, x.n.taken)
      let got := ps.map fun p => (p, s.rowData (if Words4.flag e 4 then some v.2 else none) p)
      match got.find? fun g => g.2.any (·.2) with
      | some g => x.lose v.1 g.1
      | none => .next (x.run (put v.1 (got.flatMap fun g => g.2.map (·.1))) fun n =>
          { n with sent := true, res := m + 1, index := is, taken := v.2 })

/-- INDIRECT_GATHER_NODE: it starts with the first row, and goes on with the next. -/
def Nd.gather (x : Nd) : Out :=
  if x.n.phase == .running then x.gatherRow x.n.index x.n.res
  else
    x.based fun _ =>
    if x.s.lmBad x.f.team (gList x.n.ent) (4 * gRows x.n.ent) then x.loseLocal
    else x.gatherRow x.indices 0

/-- A node that reads step by step starts, or goes on. -/
def State.stepNode (s : State) (core i ix kind : Nat) (k : Nd → Out) : Out :=
  match s.nd? core i ix kind with
  | some x => if x.startable || (x.n.phase == .running && x.n.unread != 0) then k x.look else .next s
  | none => .next s

def execCopyNode (core i ix : Nat) (s : State) : Out := s.stepNode core i ix 0 Nd.copy
def execIndirectGatherNode (core i ix : Nat) (s : State) : Out := s.stepNode core i ix 1 Nd.gather

/-- SCATTER_NODE. -/
def Nd.scatter (x : Nd) : Out :=
  let rows := x.indices.zipIdx.filter fun i => !skips x.n.ent i.1
  let w := gRowb x.n.ent
  x.based fun _ =>
  x.room (gRows x.n.ent * w) fun _ =>
    if x.s.lmBad x.f.team (gList x.n.ent) (4 * gRows x.n.ent) then x.loseLocal
    else
      x.access (nodeAccs .write (rows.map fun i => (x.rowVa i.1, w))) fun s ps =>
        let data := rows.flatMap fun i => x.t.pullMarked (gLocal x.n.ent + i.2 * w) w
        .next (x.run s fun m => { m with buf := chunksOf (s.clockOf x.die) ps data })

def execScatterNode (core i ix : Nat) (s : State) : Out := s.startNode core i ix 2 Nd.scatter

/-- SEND_NODE: as MSEND; a full engine keeps it waiting. -/
def Nd.send (x : Nd) : Out :=
  let e := x.n.ent
  match (x.s.clusterTeams x.t.cluster)[bitsOf e.w1.toNat 44 4]? with
  | none => .next (x.s.haltNode x.k x.n.ix 7 0 0)
  | some dest =>
    if 16 ≤ x.s.sendsOf x.f.team then .next x.s
    else if x.s.lmBad x.f.team (lAddr e.w1) (sendBytes e) then x.loseLocal
    else
      .next (x.run (x.s.queueSend x.f.team dest (bitsOf e.w1.toNat 48 4) (bitsOf e.w1.toNat 22 22)
        (Memory.bytes x.t.lm (lAddr e.w1) (sendBytes e)) (some (x.k, x.n.ix))) fun m => { m with sent := true })

def execSendNode (core i ix : Nat) (s : State) : Out := s.startNode core i ix 3 Nd.send

/-- Send the next fill or release, once the status of the one before has returned (R249); all that is unsent is translated
again before it (13 R348; 18 R457). -/
def Nd.sendNext (x : Nd) (kind : ReqKind) (size : Nat) : Out :=
  match x.n.buf with
  | [] => .next x.s
  | c :: cs =>
    if x.n.phase != .running || x.s.nodeOut x.k x.n.ix || !x.s.mayWrite (coreDie x.core) 1 then .next x.s
    else
      x.access ((c :: cs).map fun b => ⟨0, 0, b.va, size, .write⟩) fun s ps =>
        match ps with
        | p :: _ =>
          let s := s.modNode x.k x.n.ix fun m => { m with sent := true, buf := cs }
          .next (s.nodeReq x.k x.n.ix x.t.ctx kind c.va p.pa size p.ents c.bytes c.bad [])
        | [] => .next s

/-- A chunk that carries a line's worth of local data. -/
def Nd.lineChunk (x : Nd) (va : W64) (j : Nat) : Chunk :=
  let m := x.t.pullMarked (lAddr x.n.ent.w2 + 128 * j) 128
  ⟨va, 0, m.map (·.1), [], ((m.zipIdx.filter fun b => b.1.2).map fun b => b.2 / 32).eraseDups, []⟩

/-- The kind and size of a fill node's accesses. -/
def fillKind (e : Words4) : ReqKind × Nat :=
  let c := bitsOf e.w2.toNat 32 16
  if Words4.flag e 4 then (.ringFill c, 32) else (.fill c, 128)

/-- COUNTED_FILL_NODE starts: every page is translated, and the fills wait to be sent in order. -/
def Nd.fill (x : Nd) : Out :=
  let e := x.n.ent
  let ring := Words4.flag e 4
  let vas := (List.range (fillLines e)).map fun j => if ring then e.w1 else e.w1 + BitVec.ofNat 64 (128 * j)
  x.access (vas.map fun a => ⟨0, 0, a, (fillKind e).2, .write⟩) fun s _ =>
    .next (x.run s fun m => { m with buf := vas.zipIdx.map fun v => x.lineChunk v.1 v.2, fin := { m.fin with w3 := some 0 } })

def execCountedFillNode (core i ix : Nat) (s : State) : Out :=
  match s.nd? core i ix 4 with
  | some x => if x.startable then x.look.fill else x.sendNext (fillKind x.n.ent).1 (fillKind x.n.ent).2
  | none => .next s

/-- RELEASE_NODE. -/
def Nd.release (x : Nd) : Out :=
  let e := x.n.ent
  let vas := (List.range (relLines e)).map fun j => e.w1 + BitVec.ofNat 64 (128 * j)
  x.access (vas.map fun a => ⟨0, 0, a, 128, .write⟩) fun s _ =>
    .next (x.run s fun m => { m with buf := vas.map fun a => ⟨a, 0, [], [], [], []⟩, fin := { m.fin with w3 := some 0 } })

def execReleaseNode (core i ix : Nat) (s : State) : Out :=
  match s.nd? core i ix 5 with
  | some x => if x.startable then x.look.release else x.sendNext .release 128
  | none => .next s

/-- Row `m` of a near-memory top-k: the pages of all the rows not read yet are translated first (18 R457), and every row lies in an
HBM4 channel. -/
def Nd.topkRow (x : Nd) (m : Nat) : Out :=
  let e := x.n.ent
  x.access (nodeAccs .read (((List.range (nRows e)).drop m).map fun m => (nRow e m, 4 * nCols e))) fun s ps =>
    if ps.any fun p => !isHbm p.pa then .next (s.haltNode x.k x.n.ix 8 0 0)
    else
      let ps := takePlaced ps (4 * nCols e)
      match s.badPlace ps with
      | some p => x.lose s p
      | none =>
        let bs := s.pull ps
        let row := (List.range (nCols e)).map fun c => (c, leNat ((bs.drop (4 * c)).take 4))
        let s := (s.touchRead x.die ps).lmEngine 5 x.f.team (lAddr e.w2 + m * nBytes e)
          (topKBytes (Words4.flag e 5) (topK false (Words4.flag e 4) (nK e) row))
        .next (x.run s fun n => { n with sent := true, res := m + 1 })

/-- NEAR_MEMORY_TOPK_NODE: it starts with the first row, and goes on with the next. -/
def Nd.topk (x : Nd) : Out := if x.n.phase == .running then x.topkRow x.n.res else x.based fun _ => x.topkRow 0

def execNearMemoryTopkNode (core i ix : Nat) (s : State) : Out := s.stepNode core i ix 6 Nd.topk

/-- The product that a matrix dispatch names. -/
def dispatchOf (e : Words4) : Product :=
  ⟨bitsOf e.w1.toNat 41 2, e.w1.getLsbD 49, .ofBits (e.w1.extractLsb' 43 3), .ofBits (e.w1.extractLsb' 46 3),
   bitsOf e.w1.toNat 0 41, bitsOf e.w2.toNat 0 41, bitsOf e.w3.toNat 0 32, [], none⟩

/-- MATRIX_DISPATCH_NODE: the product, at once, in the core order (06 R141). -/
def Nd.dispatch (x : Nd) : Out :=
  let p := dispatchOf x.n.ent
  let halt := fun (s : State) st c d => Host.Outcome.next (s.haltNode x.k x.n.ix st c d)
  match x.s.productBad x.core x.f.team p with
  | some b => halt x.s 5 b.cause b.detail
  | none =>
    let hs := p.uses
    if hs.any (x.s.exhausted x.core hs) then halt x.s 5 0xD 4
    else if x.s.productPoison x.core p then x.loseLocal
    else
      let c := x.s.product x.core x.t.lm p
      if 2 ≤ x.s.shadow then
        let r := x.s.arrayShadow c p.unit 1 x.t.ctx x.core (x.s.seesProduct x.core x.t.lm p) 0
        (halt (x.s.postShadow x.t.ctx r) 6 0x15 0)
      else
        let f := cellFlags c ||| x.s.retryFlag
        let s := (((x.s.passed x.core).writeProduct x.core p c).claim x.core hs).modGroup x.f.gid fun g => if g.ended then g else g.flag f
        .next (x.run s fun m => { m with sent := true })

def execMatrixDispatchNode (core i ix : Nat) (s : State) : Out := s.startNode core i ix 7 Nd.dispatch

/-- LOOP_NODE (R252). -/
def Nd.loop (x : Nd) : Out :=
  let e := x.n.ent
  let remaining := if e.w3.getLsbD 16 then bitsOf e.w3.toNat 0 16 else bitsOf e.w1.toNat 0 16 - 1
  let again := remaining != 0
  let w3 := if again then remaining - 1 + 2 ^ 16 else 0
  let cur := if again then x.n.ix - bitsOf e.w1.toNat 16 6 else x.n.ix + 1
  let s := x.s.modFurrow x.k fun f => { f with cur := cur }
  .next (x.run s fun m => { m with fin := ⟨0, some (BitVec.ofNat 64 w3), !again⟩ })

def execLoopNode (core i ix : Nat) (s : State) : Out := s.startNode core i ix 8 Nd.loop

/-- CC 0 to 5 of a condition, unsigned. -/
def condHolds (cc w v : Nat) : Bool :=
  match cc with
  | 0 => w == v
  | 1 => w != v
  | 2 => decide (w < v)
  | 3 => decide (w ≤ v)
  | 4 => decide (v < w)
  | _ => decide (v ≤ w)

/-- CONDITION_NODE (R253): decrements held for skipped entries go. -/
def Nd.condition (x : Nd) : Out :=
  let e := x.n.ent
  if x.s.lmBad x.f.team (lAddr e.w1) 8 then x.loseLocal
  else
    let ok := condHolds (bitsOf e.w1.toNat 22 4) (Memory.num x.t.lm (lAddr e.w1) 8) e.w2.toNat
    let skip := if ok then 0 else bitsOf e.w1.toNat 26 6
    let s := x.s.modFurrow x.k fun f =>
      let f := (List.range skip).foldl (fun f i => f.tell (x.n.ix + 1 + i) none) f
      { f with cur := x.n.ix + 1 + skip, heldDec := Tab.keep f.heldDec fun i _ => !(decide (x.n.ix < i) && decide (i ≤ x.n.ix + skip)) }
    .next (x.run s id)

def execConditionNode (core i ix : Nat) (s : State) : Out := s.startNode core i ix 9 Nd.condition

/-- SIGNAL_NODE (R254): a store, or with ADD an atomic. -/
def Nd.signal (x : Nd) : Out :=
  let e := x.n.ent
  let add := Words4.flag e 4
  x.global e.w1 fun dest =>
    match dest with
    | none =>
      if add && x.s.lmBad x.f.team (lAddr e.w1) 8 then x.loseLocal
      else
        -- an atomic finds the newest writes of either path
        let v := e.w2.toNat + if add then x.s.lmNum x.f.team (lAddr e.w1) 8 else 0
        .next (x.run (x.s.lmEngine 1 x.f.team (lAddr e.w1) (leBytes 8 v)) id)
    | some a =>
      x.room (if add then 0 else 8) fun _ =>
        x.access [⟨0, 0, a, 8, if add then .both else .write⟩] fun s ps =>
          match ps with
          | [] => .next s
          | p :: _ =>
            .next (if add then
                x.strike ((x.run s fun m => { m with sent := true }).nodeReq x.k x.n.ix x.t.ctx (.atom 0 false) a p.pa 8 p.ents
                  (leBytes 8 e.w2.toNat) [] []) (writesAt ps)
              else x.run s fun m => { m with buf := chunksOf (s.clockOf x.die) [p] ((leBytes 8 e.w2.toNat).map fun b => (b, false)) })

def execSignalNode (core i ix : Nat) (s : State) : Out := s.startNode core i ix 10 Nd.signal

/-- MESSAGE_DROP_TIMEOUT (R239): a send that has waited 2^26 cycles at a full mailbox is dropped; a send
node halts its furrow with STATUS 7. -/
def execMessageDropTimeout (n : Nat) (s : State) : Out :=
  match s.sends[n]? with
  | none => .next s
  | some x =>
    let on := (Tab.get? s.teams x.dst).any fun t => (Tab.get? s.clusters t.cluster).any fun c => c.phase == .resident
    if (s.deliverSend n).isNone && on && !s.sendBehind n x && decide (x.since + 2 ^ 26 ≤ s.cycle) then
      let s := { s with sends := s.sends.eraseIdx n }.modTeam x.src fun t => { t with msgLost := min 255 (t.msgLost + 1) }
      .next (match x.node with | some (k, ix) => s.haltNode k ix 7 0 0 | none => s)
    else .next s

end Sys2Proof.Machine
end

