-- ==== Sys2Proof/Machine/System.lean ====
section
/-! DEFINITION. The privileged system instructions (14 R390, R391, R393): each is a command to the partition controller.
What rests on the model rather than on the plain words of the manual: log 18 (DEDUCED), log 19 (DEDUCED), log 38 (DESIGN
CHOICE). -/

namespace Sys2Proof.Machine

/-- The group's earlier accesses are performed; the command is carried out; the group is held until the answer. A group
whose own context the command froze writes nothing more. -/
def Env.command (e : Env) (dst op opf a b : Nat) : Out :=
  e.once fun _ =>
    let c : Command := ⟨op, opf, a, b, some e.g.ctx⟩
    if !(e.s.inFlight e.u.gid (BitVec.allOnes 32)).isEmpty then e.holdFor e.s .drain
    else
      let r := e.s.command c
      if r.s.frozen e.g.ctx then .next { r.s with cur := none }
      else if !r.s.resetsOver r.waits then e.holdFor (r.s.setGroup e.u.gid e.g) (.reset dst r.out r.waits)
      else e.finish r.s (e.g.putWords dst r.out)

/-- CTXFRZ. -/
def execCtxfrz (o : Ops) (m : BitVec 20) (s : State) : Out :=
  issue1 .system o (Instr.ctxfrz o m).sig s fun e => e.command o.dst.toNat 0xEC 0 (e.a e.first) 0

/-- CTXRST. -/
def execCtxrst (o : Ops) (m : BitVec 20) (s : State) : Out :=
  issue1 .system o (Instr.ctxrst o m).sig s fun e => e.command o.dst.toNat 0xED 0 (e.a e.first) 0

/-- PARTRST. -/
def execPartrst (o : Ops) (m : BitVec 20) (s : State) : Out :=
  issue1 .system o (Instr.partrst o m).sig s fun e => e.command o.dst.toNat 0xEE 0 (e.a e.first) 0

/-- QSET. -/
def execQset (o : Ops) (m : BitVec 20) (s : State) : Out :=
  issue1 .system o (Instr.qset o m).sig s fun e => e.command o.dst.toNat 0xEF 0 (e.a e.first) (e.b e.first)

/-- QSET.DEF. -/
def execQsetDef (o : Ops) (m : BitVec 20) (s : State) : Out :=
  issue1 .system o (Instr.qsetDef o m).sig s fun e => e.command o.dst.toNat 0xEF 1 (e.a e.first) (e.b e.first)

/-- QOSSET. -/
def execQosset (o : Ops) (m : BitVec 20) (s : State) : Out :=
  issue1 .system o (Instr.qosset o m).sig s fun e => e.command o.dst.toNat 0xF0 0 (e.a e.first) (e.b e.first)

/-- WSET. -/
def execWset (o : Ops) (m : BitVec 20) (s : State) : Out :=
  issue1 .system o (Instr.wset o m).sig s fun e => e.command o.dst.toNat 0xF1 0 (e.a e.first) (e.b e.first)

/-- WSET.RD: source B is zero. -/
def execWsetRd (o : Ops) (m : BitVec 20) (s : State) : Out :=
  issue1 .system o (Instr.wsetRd o m).sig s fun e => e.command o.dst.toNat 0xF1 1 (e.a e.first) 0

/-- EQPOP: a long-latency result in four registers. -/
def Env.pop (e : Env) (dst q : Nat) : Out :=
  e.once fun _ =>
    if !(e.s.inFlight e.u.gid (BitVec.allOnes 32)).isEmpty then e.holdFor e.s .drain
    else
      let r := e.s.command ⟨0xF2, q, 0, 0, some e.g.ctx⟩
      e.result r.s e.g (r.out.zipIdx.map fun w => (.scal (dst + w.2), w.1))

/-- EQPOP.SYS. -/
def execEqpopSys (o : Ops) (m : BitVec 20) (s : State) : Out :=
  issue1 .system o (Instr.eqpopSys o m).sig s fun e => e.pop o.dst.toNat 0

/-- EQPOP.MIG. -/
def execEqpopMig (o : Ops) (m : BitVec 20) (s : State) : Out :=
  issue1 .system o (Instr.eqpopMig o m).sig s fun e => e.pop o.dst.toNat 1

end Sys2Proof.Machine
end

