-- ==== Sys2Proof/Machine/Tick.lean ====
section
/-! DEFINITION. The formation tick (10 R277 to R281): clocks advance, waits end, meetings complete, bundles form; the meeting
timeout (R279); and the choice of the bundle that issues (R282, R283).
What rests on the model rather than on the plain words of the manual: log 33 (DEDUCED), log 37 (DESIGN CHOICE). -/

namespace Sys2Proof.Machine

/-! ### Clocks (00 R4; 19 R468; 16 R412) -/

/-- Nanoseconds at a cycle of the 2.1 GHz clock, stretched by `n` steps of 1/64. -/
def nsAt (n cycle : Nat) : Nat := cycle * 10 * (64 + n) / (21 * 64)

/-- SYNCERR and when it last came to 12.5 µs or less. -/
def State.drift (s : State) (t : Nat) : State :=
  let e := s.syncErr + (t / 50000 - s.gtime / 50000)
  { s with syncErr := e, safeSince := if e ≤ 12500 then (if s.safeSince.isSome then s.safeSince else some t) else none }

/-- Four cycles pass. -/
def State.advance (s : State) : State :=
  let t := s.gtime + (nsAt s.stretch (s.cycle + 4) - nsAt s.stretch s.cycle)
  { s.drift t with cycle := s.cycle + 4, gtime := t }

/-! ### Waits of threads -/

/-- Is a thread's wait over? -/
def State.blockOver (s : State) (gid : Nat) (g : Group) (l : Nat) : Block → Bool
  | .regs rs => rs.all fun r => !g.isEmpty r
  | .cross _ => false
  | .sleep t => decide (t ≤ s.cycle)
  | .queue push q => if push then decide ((g.queue q).length < 8) else g.canPop q
  | .tick => true
  | .drain r w far =>
    ((s.inFlight gid (bitMask l)).all fun x =>
      if x.kind == .fence then !w || (!far && farScope x.scope)
      else !((r && x.kind.reads) || (w && x.kind.writes && (far || isLocal x.pa)))) &&
    !(far && w && s.tellsOf (s.clockOf (coreDie g.core)))
  | .miss => false

/-- Threads whose waits are over are unblocked. -/
def State.unblock (s : State) (gid : Nat) (g : Group) : Group :=
  g.modLanes (g.liveLanes.filter fun l => (g.lane l).block.any (s.blockOver gid g l)) fun x =>
    { x with block := none, ready := s.cycle }

/-! ### Meetings (R278, R279, R281) -/

/-- Holds follow PC and MEET; an arrival restarts the meeting's clock. -/
def Group.arrive (g : Group) (cycle : Nat) : Group :=
  let new := g.liveLanes.filter fun l =>
    let x := g.lane l
    x.pc == x.meet && !x.passed && !x.held
  let g := g.modLanes g.liveLanes fun x => { x with held := x.pc == x.meet && !x.passed }
  { g with meets := new.foldl (fun m l => Tab.set m (g.lane l).meet.toNat cycle) g.meets }

/-- Threads held at a meeting are released. -/
def Group.releaseMeeting (g : Group) (cycle : Nat) (a : W64) : Group :=
  g.modLanes (g.liveLanes.filter fun l => (g.lane l).held && (g.lane l).meet == a) fun x =>
    { x with held := false, passed := true, ready := cycle }

/-- Every live sibling with this MEET has arrived. -/
def Group.meetingDone (g : Group) (a : W64) : Bool := g.liveLanes.all fun l => (g.lane l).meet != a || (g.lane l).pc == a

/-- Meetings that are complete. -/
def Group.meet (g : Group) (cycle : Nat) : Group :=
  if g.inh then g
  else
    let g := g.arrive cycle
    let ms := ((g.liveLanes.filter fun l => (g.lane l).held).map fun l => (g.lane l).meet).eraseDups
    ms.foldl (fun g a => if g.meetingDone a then g.releaseMeeting cycle a else g) g

/-- MEETING_TIMEOUT (R279): 4096 cycles without a restart. -/
def execMeetingTimeout (gid : Nat) (a : BitVec 64) (s : State) : Out :=
  match s.group? gid with
  | none => .next s
  | some g =>
    let waits := g.liveLanes.any fun l => (g.lane l).held && (g.lane l).meet == a
    if s.onCore g && !g.inh && waits && decide (Tab.read 0 g.meets a.toNat + 4096 ≤ s.cycle) then
      .next (s.setGroup gid (g.releaseMeeting s.cycle a))
    else .next s

/-! ### Held groups -/

/-- A group's hold, looked at again. -/
def State.rehold (s : State) (gid : Nat) : State :=
  match s.group? gid with
  | none => s
  | some g =>
    match g.hold with
    | none => s
    | some h =>
      if !s.onCore g then s
      else
        match h.kind with
        | .barrier _ _ | .gang _ | .accal _ | .fencex _ | .seal => s
        | .msend => if s.sendsOf g.team < 16 then s.setGroup gid g.again else s
        | .drain => if s.groupDrained gid then s.setGroup gid g.again else s
        | .tret => if s.handlerDone gid g then (s.releaseGroup gid).leaveTrap gid else s
        | .ptwait ns l =>
          if (s.tableWrites.any fun t => ns.contains t.id) || l.any s.snoops.contains then s else s.releaseGroup gid
        | .reset _ _ _ => s
        | .frwait _ _ | .scall | .scwait => s.setGroup gid g.again

/-! ### Bundles (R277, R280) -/

/-- Does the core issue (R284; 13 R349)? -/
def State.coreRuns (s : State) (core : Nat) : Bool :=
  s.power == .on && !s.halted.contains core && !s.gated.contains core

/-- The cross-lane instruction or barrier that a lane has arrived at (R280). -/
def Group.waitsAt (g : Group) (l : Nat) : Option Instr :=
  match (g.lane l).block with
  | some (.cross i) =>
    if g.live l && g.hold.isNone && g.pend.isNone && (g.inh || (!(g.lane l).park && !(g.lane l).held)) then some i else none
  | _ => none

/-- The lanes that the set of lanes `ls` at an instruction waits for: the mask that its first lane with a true guard reads (11 R302). -/
def State.named (s : State) (g : Group) (ls : List Nat) (i : Instr) : List Nat :=
  match maskSource i, i.ops? with
  | some k, some o =>
    match ls.filter (g.guard o) with
    | [] => []
    | l :: _ => lanesOf (BitVec.ofNat 32 (s.operand g { o := o, sg := i.sig } k l))
  | _, _ => []

/-- Both operations of a pair word name lanes; a barrier waits for every lane (11 R307). -/
def State.awaited (s : State) (g : Group) (i : Instr) (ls : List Nat) : List Nat :=
  match i with
  | .pair x y => s.named g ls x ++ s.named g ls y
  | .tbar _ _ | .cbar _ _ => allLanes
  | i => s.named g ls i

/-- Do the lanes that wait where lane `l` does form a bundle: has every lane that they wait for arrived (R280, 11 R302)? -/
def State.complete? (s : State) (g : Group) (l : Nat) : Bool :=
  match g.waitsAt l with
  | none => false
  | some i =>
    let here := allLanes.filter fun k => (g.ready k || (g.waitsAt k).isSome) && g.epc k == g.epc l
    (s.awaited g i here).all fun k => here.contains k || !g.live k

/-- A lane that a bundle holds: ready, or of a complete set at a cross-lane instruction. -/
def State.formable (s : State) (g : Group) (l : Nat) : Bool := g.ready l || s.complete? g l

/-- One bundle for each PC, lowest lane first. -/
def bundlesOf (pc : Nat → W64) : Nat → List Nat → List Bundle
  | 0, _ => []
  | _, [] => []
  | n + 1, l :: ls =>
    let here := l :: ls.filter fun k => pc k == pc l
    ⟨maskOf here, pc l, true⟩ :: bundlesOf pc n (ls.filter fun k => pc k != pc l)

/-- The group's bundles; threads whose set is complete have been ready since now. -/
def State.form (s : State) (g : Group) : Group :=
  let ls := allLanes.filter (s.formable g)
  { g.modLanes (ls.filter fun l => !g.ready l) fun x => { x with ready := s.cycle } with bundles := bundlesOf g.epc 32 ls }

/-- A group at the tick, its holds apart. -/
def State.tickGroup (s : State) (e : Nat × Group) : Nat × Group :=
  if s.onCore e.2 then (e.1, (s.unblock e.1 e.2).meet s.cycle) else e

def State.formGroup (s : State) (e : Nat × Group) : Nat × Group :=
  if s.onCore e.2 && s.coreRuns e.2.core then (e.1, s.form e.2) else (e.1, { e.2 with bundles := [] })

/-! ### Passes (R283) -/

/-- Kernels with a ready bundle, by core. -/
def State.readyKernels (s : State) : List (Nat × Nat) :=
  ((s.groups.filter fun e => s.onCore e.2 && !e.2.bundles.isEmpty).map fun e => (e.2.core, e.2.grid)).eraseDups

/-- The class of a kernel on a core (R282). -/
def Grid.classAt (k : Grid) (core : Nat) : Nat := min k.prio (k.quotaField core 54 2)

def State.passOf (s : State) (core k : Nat) : Nat := match Tab.get? s.grids k with | some g => Tab.read 0 g.pass core | none => 0
def State.classOf (s : State) (core k : Nat) : Nat := match Tab.get? s.grids k with | some g => g.classAt core | none => 0

/-- A kernel that comes to have a ready bundle starts no lower than the others of its class. -/
def State.catchUp (s : State) (was now : List (Nat × Nat)) : State :=
  (now.filter fun x => !was.contains x).foldl (fun s x =>
    let others := (now.filter fun y => y.1 == x.1 && y.2 != x.2 && s.classOf y.1 y.2 == s.classOf x.1 x.2).map fun y => s.passOf y.1 y.2
    match others with
    | [] => s
    | p :: ps =>
      let low := ps.foldl min p
      { s with grids := Tab.modify s.grids x.2 fun g =>
          { g with pass := Tab.write 0 g.pass x.1 (max (Tab.read 0 g.pass x.1) low) } }) s

/-! ### What is over -/

/-- Completed grids whose groups have nothing on its way leave the tables. -/
def State.sweep (s : State) : State :=
  let past := (s.grids.filter fun e => e.2.completed && (s.gridGroups e.1).all fun g => s.groupQuiet g.1).map (·.1)
  match past with
  | [] => s
  | _ =>
    { s with
      groups := Tab.keep s.groups fun _ g => !past.contains g.grid
      teams := Tab.keep s.teams fun _ t => !past.contains t.grid
      clusters := Tab.keep s.clusters fun _ c => !past.contains c.grid
      grids := Tab.keep s.grids fun k _ => !past.contains k }

/-- The clocks of a group that stands still move along with time. -/
def Group.still (g : Group) (d : Nat) : Group :=
  let g := if g.inh then { g with hold := g.hold.map fun h => { h with since := h.since + d } } else g.shift d
  { g.modLanes g.liveLanes fun x => { x with since := x.since + d, ready := x.ready + d } with stopAt := g.stopAt + d }

def WaiterRec.later (w : WaiterRec) (d : Nat) : WaiterRec := { w with since := w.since + d }
def RingWaiter.later (w : RingWaiter) (d : Nat) : RingWaiter := { w with since := w.since + d, next := w.next + d }

/-- While a scope is held, the cycle and seconds bounds of its contexts do not advance (17 R447): four cycles and `dt`
nanoseconds pass. -/
def State.standStill (s : State) (dt : Nat) : State :=
  if s.kept.isSome || s.job.any (·.hold) then
    let team := fun t => (Tab.get? s.teams t).any fun x => s.scopeHeld x.ctx
    { s with
      groups := s.groups.map fun (e : Nat × Group) => if s.scopeHeld e.2.ctx then (e.1, e.2.still 4) else e
      pendings := s.pendings.map fun (p : Pending) => if team p.team then { p with since := p.since + 4 } else p
      sends := s.sends.map fun (x : Send) => if s.scopeHeld x.ctx then { x with since := x.since + 4 } else x
      fmt := s.fmt.map fun (e : FmtEntry) => if s.scopeHeld e.ctx then { e with waiters := e.waiters.map fun w => w.later dt } else e
      ringWait := s.ringWait.map fun (w : RingWaiter) => if s.scopeHeld w.miss.ctx then w.later dt else w
      represent := s.represent.map fun (w : RingWaiter) => if s.scopeHeld w.miss.ctx then w.later dt else w
      calls := s.calls.map fun (c : Call) =>
        if s.scopeHeld c.ctx then { c with since := c.since.map (· + dt), posted := c.posted.map (· + dt) } else c
      seals := s.seals.map fun (x : SealOp) =>
        if (s.group? x.gid).any fun g => s.scopeHeld g.ctx then { x with t0 := x.t0 + dt } else x
      fills := s.fills.map fun (f : Fill) => if s.scopeHeld (s.poolCtx f.pool) then { f with t0 := f.t0 + dt } else f }
  else s

/-! ### The tick -/

/-- What fails of bring-up when a step has run out of time (19 R469, Table 4): its code. -/
def bootCode (step : Nat) : Nat :=
  match step with
  | 2 | 4 | 5 | 7 => 4
  | 3 => 2
  | 6 => 3
  | _ => 0

/-- Limit of a step of bring-up in nanoseconds (19 Table 4). -/
def bootLimit (step : Nat) : Option Nat :=
  match step with
  | 2 => some 20000000
  | 3 => some 200000000
  | 4 => some 50000000
  | 5 => some 100000000
  | 6 => some 10000000000
  | 7 => some 1000000000
  | _ => none

/-- Has the step of bring-up run out of time? -/
def State.bootLate (s : State) : Bool := s.power == .boot && (bootLimit s.bootStep).any fun n => decide (s.bootSince + n < s.gtime)

/-- A step of bring-up fails: FAULT; FAILCH names the channel that fails training. -/
def State.bootFail (s : State) (ch : Nat) : State := { s.bootStat (bootCode s.bootStep) ch with power := .fault }

/-- Time passes where nothing is live but the power manager, the identity store and, in BOOT, bring-up (19 R467, R469). -/
def State.idle (s : State) : State :=
  let s := s.advance
  if s.bootLate then s.bootFail 0xFFFF else s

/-- FORMATION_TICK (R277 to R281; 11 R308, R319). -/
def State.tick (s : State) : State :=
  if s.power != .on then s.idle else
  let was := s.readyKernels
  let t := s.gtime
  let s := { s.advance with slots := [] }
  let s := s.standStill (s.gtime - t)
  let s := { s with groups := s.groups.map s.tickGroup }
  let s := (s.groups.map (·.1)).foldl State.rehold s.answerResets
  let s := s.releaseBarriers.breakDeadlocks.postCalls
  let s := { s with groups := s.groups.map s.formGroup }
  (s.catchUp was s.readyKernels).sweep

def execFormationTick (s : State) : Out := .next s.tick

/-! ### Choosing a bundle (R282) -/

/-- A bundle that could issue. `took`: when its kernel's launch was accepted on the core. -/
structure Cand where
  gid : Nat
  b : Bundle
  age : Nat
  cls : Nat
  pass : Nat
  took : Nat
  slot : Nat

/-- Lanes of a bundle that still belong to it. -/
def Group.keeps (g : Group) (b : Bundle) : List Nat :=
  (lanesOf b.lanes).filter fun l => (g.ready l || (b.fresh && (g.waitsAt l).isSome)) && g.epc l == b.pc

/-- The longest time that a thread of the bundle has been ready. -/
def Group.age (g : Group) (cycle : Nat) (ls : List Nat) : Nat := ls.foldl (fun n l => max n (cycle - (g.lane l).ready)) 0

/-- The order in which a core accepted its kernels: by the team of each that came there first. -/
def State.tookOn (s : State) (core k : Nat) : Nat :=
  match (s.teams.filter fun t => t.2.core == core && t.2.grid == k).map fun t => t.2.took with
  | [] => 0
  | t :: ts => ts.foldl min t

/-- Bundles that a core may issue in cycle `n` of the four between two ticks: those of groups that have not issued in it. -/
def State.cands (s : State) (core n : Nat) : List Cand :=
  s.groups.flatMap fun e =>
    if e.2.core == core && s.onCore e.2 && Tab.read 0 s.slots (1024 + e.1) != n + 1 then
      e.2.bundles.filterMap fun b =>
        match e.2.keeps b with
        | [] => none
        | ls => some ⟨e.1, { b with lanes := maskOf ls }, e.2.age s.cycle ls, s.classOf core e.2.grid, s.passOf core e.2.grid,
            s.tookOn core e.2.grid, e.2.slot⟩
    else []

/-- R282's order: aged bundles by age, then class, pass, launch, age, slot. -/
def Cand.before (x y : Cand) : Bool :=
  if (4096 ≤ x.age ∨ 4096 ≤ y.age) ∧ x.age ≠ y.age then decide (y.age < x.age)
  else if x.cls ≠ y.cls then decide (y.cls < x.cls)
  else if x.pass ≠ y.pass then decide (x.pass < y.pass)
  else if x.took ≠ y.took then decide (x.took < y.took)
  else if x.age ≠ y.age then decide (y.age < x.age)
  else decide (x.slot < y.slot)

/-- The bundle taken next on a core, and how many the core has issued once it is: four in each cycle, of different groups. -/
def State.select (s : State) (core : Nat) : Option (Cand × Nat) :=
  let n := Tab.read 0 s.slots core
  let first := fun (cs : List Cand) => match cs with
    | [] => none
    | c :: cs => some (cs.foldl (fun m x => if x.before m then x else m) c)
  match first (s.cands core (n / 4)) with
  | some c => some (c, n + 1)
  | none => if n % 4 = 0 ∨ 12 ≤ n then none else (first (s.cands core (n / 4 + 1))).map fun c => (c, n / 4 * 4 + 5)

/-- ISSUE_SELECT (R282): at most sixteen bundles of a core between two ticks, four a cycle. -/
def execIssueSelect (core : Nat) (s : State) : Out :=
  if s.cur.isNone && s.coreRuns core && decide (Tab.read 0 s.slots core < 16) then
    match s.select core with
    | none => .next s
    | some (c, n) =>
      .next
        { s.modGroup c.gid fun g => { g with bundles := g.bundles.filter fun b => b.pc != c.b.pc || (b.lanes &&& c.b.lanes) == 0 } with
          slots := Tab.write 0 (Tab.write 0 s.slots core n) (1024 + c.gid) ((n - 1) / 4 + 1)
          cur := some ⟨c.gid, c.b.lanes, c.b.pc, c.b.fresh⟩ }
  else .next s

end Sys2Proof.Machine
end

