-- ==== Sys2Proof/Machine/Edges.lean ====
section
/-! DEFINITION. The module at its edges: power states and bring-up (19 R467 to R471), module reset (14 R376), the host's CXL
requests and resets (07 R178; 14 R382, R383), the identity store (19 R473), registers that stewards and hosts write, atomics of
other modules (17 R452), core power and debug (13 R349; 10 R284).
What rests on the model rather than on the plain words of the manual: log 3 (DESIGN CHOICE), log 33 (DEDUCED), log 34
(DEDUCED), log 36 (DEDUCED), log 49 (DEDUCED). -/

namespace Sys2Proof.Machine

/-! ### Power (R467, R469) -/

/-- Everything is lost but the identity store, fuses and flash; the levels of the pins, the permission to unlatch while AUX lasts (R466;
17 R450), and what the environment and the model keep, go on. -/
def State.powerOff (s : State) (p : Power) : State :=
  { State.reset with
    agenda := s.agenda, freeCount := s.freeCount, nextId := s.nextId, idStore := s.idStore, i3c := s.i3c,
    incarnation := s.incarnation, power := p, bootStep := 0, keys := s.keys, flash := s.flash,
    pwrEn := s.pwrEn, slotStrap := s.slotStrap, drained := p != .off && s.drained }

/-- AUX_RISE. -/
def execAuxRise (s : State) : Out := if s.power == .off then .next { s with power := .standby } else .next s

/-- AUX_LOSS. -/
def execAuxLoss (s : State) : Out := if s.power == .off then .next s else .next (s.powerOff .off)

/-- PWR_EN_RISE: bring-up starts with step 2. -/
def execPwrEnRise (s : State) : Out :=
  let s := { s with pwrEn := true }
  if s.power == .standby then .next { s.powerOff .boot with bootStep := 2 } else .next s

/-- PWR_EN_FALL: from BOOT onward, and from FAULT. -/
def execPwrEnFall (s : State) : Out :=
  let s := { s with pwrEn := false }
  match s.power with
  | .boot | .on | .fault => .next (s.powerOff .standby)
  | _ => .next s

/-! ### The image that starts (R470) -/

/-- An image is accepted: signed under the key of an unrevoked slot, of a version that the anti-rollback counter allows, and at
most 16 MiB long. -/
def State.accepts (s : State) (x : Firmware) : Bool :=
  (s.keys.slots.any fun k => decide (k.1 < 4) && !s.keys.revoked.contains k.1 && k.2 == x.keyHash) && Config.lmsVerifies x.id &&
  decide (s.keys.rollback ≤ x.version) && decide (x.length ≤ 2 ^ 24)

/-- Leaves of an LMS tree of height 15. -/
def lmsLeaves : Nat := 2 ^ 15

/-- The stewards sign a measurement under the attestation key: the status; the signature, a free value (log 3), stands in State.keys, and
the counter of the tree index never decreases. A tree that is exhausted signs nothing. -/
def State.attest (s : State) (m : BitVec 256) : State × Nat :=
  let k := s.keys
  if k.attIndex < lmsLeaves then
    ({ s with keys := { k with attIndex := k.attIndex + 1, attSig := some (Config.lmsSignature k.attKey k.attIndex m) } }, 0)
  else (s, 3)

/-- FWVER of the identity store: the version of the last image accepted (R473). -/
def State.putFwver (s : State) (v : Nat) : State := { s with idStore := Memory.setBytes s.idStore 260 (leBytes 4 v) }

/-- The next step of bring-up begins. -/
def State.bootNext (s : State) : State := { s with bootStep := s.bootStep + 1, bootSince := s.gtime, timeBad := true }

/-- Bring-up has completed: ON, BOOTSTAT 1, every atom zero and none poisoned (R471). -/
def State.bootEnd (s : State) : State :=
  { s.bootStat 1 0xFFFF with
    power := .on, incarnation := s.incarnation + 1, drained := false, mem := [], poison := [], retired := [], scrubSeen := [],
    dirty := [], mirrorBad := [] }

/-- BRINGUP_STEP_DONE: a step that has run out of time fails, and so does step 3 with an image that is not accepted. Step 8 starts the
time unit, and the module is time-unsafe. -/
def execBringupStepDone (s : State) : Out :=
  if s.power != .boot then .next s
  else if s.bootLate then .next (s.bootFail 0xFFFF)
  else if s.bootStep = 3 then
    if s.accepts s.flash then .next (s.putFwver s.flash.version).bootNext else .next (s.bootFail 0xFFFF)
  else if s.bootStep < 9 then .next s.bootNext
  else .next s.bootEnd

/-- BRINGUP_STEP_TIMEOUT: the step fails; FAILCH names the channel that fails training. -/
def execBringupStepTimeout (code ch : Nat) (s : State) : Out :=
  if s.power == .boot && code != 0 && code == bootCode s.bootStep then .next (s.bootFail (if code = 3 then ch else 0xFFFF))
  else .next s

/-- The identity store after a module reset (Table 5, 00 R7): what was made into it stays. -/
def idReset (m : Memory) : Memory :=
  [(4, 4), (24, 12), (40, 8)].foldl (fun t r => Memory.setBytes t r.1 (Memory.bytes m r.1 r.2)) idStoreReset

/-- A field-map entry after a module reset (16 Table 10, 00 R7): its key has no reset value and stays. -/
def entryReset (e : BitVec 512) : BitVec 512 := BitVec.ofNat 512 (ofFields [(288, 96, 2 ^ 96 - 1), (0, 45, e.toNat)])

/-- A module reset (14 R376): memory and its poison stay, counted lines and everything else go; the time unit runs on
(16 R412). -/
def State.moduleReset (s : State) : State :=
  { State.reset with
    agenda := s.agenda, freeCount := s.freeCount, nextId := s.nextId, gtime := s.gtime, syncErr := s.syncErr,
    timeBad := s.timeBad, safeSince := s.safeSince, mem := s.mem, poison := s.poison.filter fun k => decide (k < 2 ^ 59),
    scrubSeen := s.scrubSeen, retired := s.retired, dirty := s.dirty, hostSt := s.hostSt, hostVia := s.hostVia, mirrorBad := s.mirrorBad,
    aliasBits := s.aliasBits, fieldMap := s.fieldMap.map fun e => (e.1, entryReset e.2),
    incarnation := s.incarnation + 1, hbLast := s.gtime, periods := s.periods, link := s.link, hdm := s.hdm,
    stretch := s.stretch, idStore := idReset s.idStore, keys := s.keys, flash := s.flash, i3c := s.i3c, ptp := s.ptp,
    pwrEn := s.pwrEn, slotStrap := s.slotStrap, corrected := s.corrected, shadowRetries := s.shadowRetries }

/-- MRST_N. -/
def execMrstN (s : State) : Out :=
  match s.power with
  | .boot => .next { s with bootStep := 3, bootSince := s.gtime }
  | .on => .next s.moduleReset
  | _ => .next s

/-- POWER_LIMIT_STRETCH (R468): the arithmetic clock is stretched by `n` steps of 1/64. -/
def execPowerLimitStretch (n : Nat) (s : State) : Out := .next { s with stretch := n }

/-- PERIODIC_RETRAINING (R471) changes only timing. -/
def execPeriodicRetraining (s : State) : Out := .next s

/-! ### Identity store (R473) -/

/-- POHOURS_UPDATE: bits 2175:2112, every hour in ON. -/
def execPohoursUpdate (s : State) : Out :=
  if s.power == .on && s.due 2 3600000000000 then
    .next ({ s with idStore := Memory.setBytes s.idStore 264 (leBytes 8 (Memory.num s.idStore 264 8 + 1)) }.stamp 2)
  else .next s

/-- Bytes written at an offset that wraps at 1 KiB: only the owner area takes them. -/
def idWrite (m : Memory) (off : Nat) : List Byte → Memory
  | [] => m
  | b :: bs => idWrite (if 512 ≤ off % 1024 then Memory.setByte m (off % 1024) b else m) (off + 1) bs

/-- `n` bytes read at an offset that wraps at 1 KiB. -/
def idRead (m : Memory) (off n : Nat) : List Byte := (List.range n).map fun i => Memory.byte m ((off + i) % 1024)

/-- I3C_TRANSFER: one to the target's static address, 0x50 + SLOT: the offset is set, bytes are written and `n` bytes read. -/
def execI3cTransfer (h : I3cHead) (w : List (BitVec 8)) (n : Nat) (s : State) : Out :=
  if h.addr != 0x50 + s.slotStrap then .next s
  else
    let m := idWrite s.idStore h.off w
    .next { s with idStore := m, i3c := ⟨(h.off + w.length + n) % 1024, idRead m (h.off + w.length) n⟩ }

/-! ### Cores (13 R349; 10 R284) -/

/-- A selected bundle of the core goes back. -/
def State.dropCur (s : State) (core : Nat) : State :=
  { s with cur := match s.cur with
      | some u => if (s.group? u.gid).any fun g => g.core == core then none else some u
      | none => none }

/-- What a core holds of contexts and neither an image nor local memory does: its records and operand buffer, accumulators and banks,
furrow slots (16 R410). -/
def State.emptyCore (s : State) (core : Nat) : State :=
  let here := fun k => k / 131072 == core
  { s with
    ob := s.ob.map fun e => if e.1 / 32 = core ∧ e.2.live = true then (e.1, e.2.free) else e
    obMem := Memory.zero s.obMem (524288 * core) 524288
    acc := Tab.keep s.acc fun k _ => !here k
    banks := Tab.keep s.banks fun k _ => k / 16 != core
    accReqs := s.accReqs.filter fun r => r.core != core
    obBad := s.obBad.filter fun k => !here k
    accBad := s.accBad.filter fun k => !here k
    furrows := s.furrows.map fun (e : Nat × Furrow) => if e.1 / 16 = core ∧ e.2.opened = true then (e.1, e.2.free) else e }

/-- CORE_POWER_GATE: the core issues no more, and what it holds is lost. The translations its die holds stay the die's; with its last
core gated a die holds none and leaves every directory entry. -/
def execCorePowerGate (core : Nat) (s : State) : Out :=
  if s.gated.contains core || decide (512 ≤ core) then .next s
  else
    let s := { (s.dropCur core).emptyCore core with gated := core :: s.gated }
    let d := coreDie core
    if (List.range 64).all fun i => s.gated.contains (64 * d + i) then
      let s := s.flushDie d fun _ => true
      .next { s with dir := Tab.keep (s.dir.map fun (e : Nat × List Nat) => (e.1, e.2.filter fun x => x != d)) fun _ l => !l.isEmpty }
    else .next s

/-- CORE_POWER_UNGATE. -/
def execCorePowerUngate (core : Nat) (s : State) : Out := .next { s with gated := s.gated.filter fun c => c != core }

/-- DEBUGGER_HALT. -/
def execDebuggerHalt (core : Nat) (s : State) : Out :=
  if s.halted.contains core then .next s else .next { s.dropCur core with halted := core :: s.halted }

/-- DEBUGGER_RESUME. -/
def execDebuggerResume (core : Nat) (s : State) : Out := .next { s with halted := s.halted.filter fun c => c != core }

/-! ### The host (07 R178; 14 R382, R383) -/

/-- The host state of both atoms of a line. -/
def State.setHost (s : State) (line : Nat) (h : HostSt) : State :=
  { s with
    hostSt := Tab.write HostSt.none (Tab.write HostSt.none s.hostSt (2 * line) h) (2 * line + 1) h
    hostVia := if h = .none then Tab.erase s.hostVia line else s.hostVia
    recalls := Tab.erase s.recalls line }

/-- The port by which a host took the line. -/
def State.takeVia (s : State) (line port : Nat) : State := { s with hostVia := Tab.set s.hostVia line (port % 2) }

def State.hostOf (s : State) (line : Nat) : HostSt := Tab.read HostSt.none s.hostSt (2 * line)

/-- A host writes a line back, as the IOD's write (01 R13; log 40): of a line with sharers it is a table write (13 R345). The host has owned
the line since before the writes that are held there, so its write comes before them. -/
def State.hostBack (s : State) (pa : Nat) (bs : List (Nat × Byte)) : State :=
  let ws := (bs.filter fun b => decide (b.1 < 64)).map fun b => (pa + b.1, b.2)
  if s.isTableLine pa || s.lineHeld pa then
    let s := s.countWrite 8
    { s with tableWrites := s.heldWrite ws pa .other 8 (s.clockOf 8) :: s.tableWrites, nextId := s.nextId + 1 }
  else if ws.isEmpty then s
  else (s.plainWrite ws).markWrite 8 pa 64

/-- HOST_CXL_REQUEST: both atoms of the line move together; a write-back of a line that the host does not own is discarded. A line at
which a write is held gives no copy until that completes (13 R346); poison that a read finds is reported (17 R433). -/
def execHostCxlRequest (r : HostReq) (s : State) : Out :=
  let line := r.pa / 64
  if !isLocal r.pa || s.power != .on then .next s
  else
    match r.kind with
    | .readShared =>
      if s.hostOf line = .none && !s.lineHeld r.pa then
        .next (((s.reportRange (64 * line) 64).setHost line .shared).takeVia line r.port)
      else .next s
    | .readOwned =>
      if s.lineHeld r.pa then .next s else .next (((s.reportRange (64 * line) 64).setHost line .owned).takeVia line r.port)
    | .writeBack =>
      if s.hostOf line = .owned then .next ((s.hostBack (64 * line) r.data).setHost line .none) else .next s
    | .release => .next (s.setHost line .none)

/-- Does an access, or a write held at its home, wait for a host's copy of the line? -/
def State.waitsRecall (s : State) (line : Nat) : Bool :=
  s.hostOf line != .none &&
  ((s.fabric.any fun r =>
    s.hostBlocks r && decide (64 * line < r.pa + max 1 r.size) && decide (r.pa < 64 * line + 64)) ||
   s.tableWrites.any fun t => t.bytes.any fun b => b.1 / 64 == line && s.hostWaits true b.1 1)

/-- The snoop timeout of the port by which a host holds the line: 1 ms, unless it has been set through the PF. -/
def State.snoopNs (s : State) (line : Nat) : Nat := Tab.read 1000000 s.snoopTime (Tab.read 0 s.hostVia line)

/-- SNOOP_TIMEOUT (R383): a recall that something waits for is sent, and sent again after the timeout; after twice the timeout the
line counts as NONE. The record's other bits are free values (log 3). -/
def execSnoopTimeout (pa : Nat) (s : State) : Out :=
  let line := pa / 64
  if s.hostOf line = .none ∨ !isLocal pa then .next s
  else
    match Tab.get? s.recalls line with
    | none => if s.waitsRecall line then .next { s with recalls := Tab.set s.recalls line s.gtime } else .next s
    | some t =>
      if t + 2 * s.snoopNs line ≤ s.gtime then
        let r := (Config.snoopRecord s.freeCount).zeroExtend 256 <<< 8 ||| 0x21
        .next ({ s.setHost line .none with freeCount := s.freeCount + 1 }.postSys r)
      else .next s

/-- The port that carries a partition's virtual function. -/
def State.hostPort (s : State) (p : Nat) : Nat := s.partField p 12 1

/-- VF_FLR (R382): virtual function n + 1 resets partition n, on the port that carries it. -/
def execVfFlr (vf port : Nat) (s : State) : Out :=
  if decide (1 ≤ vf) && decide (vf ≤ 64) && s.hostPort (vf - 1) == port then .next (s.resetPart (vf - 1)) else .next s

/-- CXL_LINK_RESET (R382): every partition whose HOSTPORT names the port. -/
def execCxlLinkReset (port : Nat) (s : State) : Out :=
  .next ((List.range 64).foldl (fun s p => if s.hostPort p = port then s.resetPart p else s) s)

/-- The outputs of the signal connector (R465, R466): AUX_PG, and UNLATCH_OK, which is raised only with it (17 R450). -/
def State.auxPg (s : State) : Bool := s.power != .off
/-- MOD_PRSNT_N is low while the module is seated, also unpowered; the module is. -/
def State.modPrsntN (_ : State) : Bool := false
def State.unlatchOk (s : State) : Bool := s.auxPg && s.drained

/-! ### Registers with no row of their own (00 R8) -/

/-- RW bits of the Gleaner's configuration words (16 Table 8). -/
def gleanRw : Nat → Nat
  | 0 => ones 0 16
  | 1 => ones 0 5 + ones 16 48
  | 2 => ones 32 32
  | 3 => ones 0 64
  | _ => 0

def State.putGlean (s : State) (p w v : Nat) : State :=
  if p < 64 ∧ w < 4 then s.setGleanW p w (BitVec.ofNat 64 (mergeWord (gleanRw w) 0 (s.gleanW p w).toNat v)) else s

/-- Words of the recovery block: JOB starts or aborts, HOLD is kept, DONE and STATUS are read-only (17 R446). -/
def State.putRecovery (s : State) (w : Nat) (v : W64) : Out :=
  let n := v.toNat
  match w with
  | 0 =>
    let hold := bitsOf n 3 1 == 1
    let s := s.setRecW 0 (BitVec.ofNat 64 (setBitsOf (s.recW 0).toNat 3 1 (bitsOf n 3 1)))
    match n % 8 with
    | 1 => execCheckpointDirty hold s
    | 2 => execCheckpointFull hold s
    | 3 => execHandOver s
    | 4 => execJobAbort s
    | _ => .next s
  | 1 => .next (s.setRecW 1 (BitVec.ofNat 64 (mergeWord (ones 32 32) 0 (s.recW 1).toNat n)))
  | 2 => .next (s.setRecW 2 v)
  | 3 => .next (s.setRecW 3 v)
  | _ => .next s

/-- Another module's atomic reaches a home here: it comes after every fabric write of its line, and waits as others do. Kinds 0
to 9 are those of 08 Table 3; 10 is the compare-and-swap. -/
def State.remoteAtomic (s : State) (source pa op : Nat) (sz : Sz) (b cmp : W64) : State :=
  let n := Sz.bytes sz
  if s.isFenced source || !isLocal pa || decide (10 < op) || pa % n != 0 then s
  else
    { s.sendReq
        { kind := if op = 10 then .cas else .atom op (op == 9), pa := pa, va := 0, size := n, data := leBytes n b.toNat,
          cmp := leBytes n cmp.toNat, dests := [], sz := sz, gid := 2 ^ 64, lanes := 0, ctx := 2 ^ 16, core := 512, pc := 0,
          ord := .rlx, scope := .domain, num := 0, clock := [], ents := [], tag := s.nextId, remote := some source } with
      nextId := s.nextId + 1 }

/-- A key's hash is blown into an empty slot of the four, and never changed. -/
def State.blowKey (s : State) (n : Nat) (h : BitVec 256) : State :=
  if n < 4 ∧ Tab.has s.keys.slots n = false then { s with keys := { s.keys with slots := Tab.set s.keys.slots n h } } else s

/-- A slot is revoked for good. -/
def State.revokeKey (s : State) (n : Nat) : State :=
  if n < 4 ∧ s.keys.revoked.contains n = false then { s with keys := { s.keys with revoked := n :: s.keys.revoked } } else s

/-- REGISTER_WRITE. -/
def execRegisterWrite (r : RegTarget) (v : BitVec 64) (s : State) : Out :=
  if s.power != .on then .next s
  else
    match r with
    | .gleanPart p w => .next (s.putGlean p w v.toNat)
    | .shardMap k =>
      if k < 4096 then .next { s with shardMap := Tab.write 0xFFFF#16 s.shardMap k (v.setWidth 16) } else .next s
    | .recovery w => s.putRecovery w v
    | .scaleupMode g => if g < 4 then .next (s.setPortGroup g { s.portGroup g with mode := v.toNat % 2 }) else .next s
    | .vfEnable vf port =>
      if 1 ≤ vf ∧ vf ≤ 64 ∧ port < 2 then
        .next ({ s with vfOn := Tab.write false s.vfOn (64 * port + (vf - 1)) (v.toNat % 2 == 1) }.refreshVf (vf - 1))
      else .next s
    | .hdmDecoder port n f =>
      if port < 2 ∧ n < 8 ∧ f < 4 then .next { s with hdm := Tab.write 0 s.hdm ((port * 8 + n) * 4 + f) v } else .next s
    | .snoopTimeout port => if port < 2 then .next { s with snoopTime := Tab.write 1000000 s.snoopTime port v.toNat } else .next s
    | .targetPoison pa => .next (s.targetPoison pa)
    | .targetTimeout pa => .next (s.targetTimeout pa)
    | .storageError e => .next (s.storageError e)
    | .command op opf a b => .next (s.portCommand op.toNat opf.toNat a.toNat b.toNat)
    | .idOwner byte =>
      if 512 ≤ byte ∧ byte < 1024 then .next { s with idStore := Memory.setByte s.idStore byte (v.setWidth 8) } else .next s
    | .remoteAtomic source pa op sz b cmp => .next (s.remoteAtomic source pa op sz b cmp)
    | .keySlot n h => .next (s.blowKey n h)
    | .keyRevoke n => .next (s.revokeKey n)
    | .antiRollback => .next { s with keys := { s.keys with rollback := max s.keys.rollback (min 64 v.toNat) } }
    | .flashImage x => .next { s with flash := x }
    | .loadFirmware x => .next (if s.accepts x then s.putFwver x.version else s)
    | .attest m => let r := s.attest m; .next { r.1 with cmdOut := r.1.cmdOut ++ [[BitVec.ofNat 64 r.2]] }
    | .attestKey h => .next { s with keys := { s.keys with attKey := if s.keys.attKey = 0 then h else s.keys.attKey } }
    | .ptpDomain => .next { s with ptp := { s.ptp with domain := v.toNat } }
    | .ptpPorts => .next { s with ptp := { s.ptp with ports := v.toNat } }
    | .ptpAnnounce m => .next (s.announce m)

end Sys2Proof.Machine
end

