-- ==== Sys2Proof/Machine/Logic.lean ====
section
/-! DEFINITION. Logic and bit operations (05_scalar_vector R120 to R123). -/

namespace Sys2Proof.Machine

/-! ### Shapes -/

/-- Element-wise over unsigned patterns. -/
def natBin (t : IntTy) (f : Nat → Nat → Nat) (a b : Nat) : LaneOut :=
  perElem (.i t) fun i => exact (f (elemOf t.width a i) (elemOf t.width b i) % 2 ^ t.width)
def natUn (t : IntTy) (f : Nat → Nat) (a : Nat) : LaneOut :=
  perElem (.i t) fun i => exact (f (elemOf t.width a i) % 2 ^ t.width)

/-- All bits of a width inverted. -/
def notW (w x : Nat) : Nat := 2 ^ w - 1 - x % 2 ^ w

/-- Shift counts: element `i` of b, and for 64-bit types b as N32 (R121). -/
def countOf (t : IntTy) (b i : Nat) : Nat := if t.width = 64 then b % 2 ^ 32 else elemOf t.width b i

/-- Element-wise with a shift count. -/
def shiftOp (t : IntTy) (f : Nat → Nat → Res) (a b : Nat) : LaneOut :=
  perElem (.i t) fun i => f (elemOf t.width a i) (countOf t b i)

/-! ### Bitwise -/

def aluAnd (o : Ops) (m : ModI) : Alu := aluOf (.and o m) o (.i m.ity) fun _ a b _ => natBin m.ity (· &&& ·) a b
def execAnd (o : Ops) (m : ModI) (s : State) : Out := runAlu (aluAnd o m) s
def aluOr (o : Ops) (m : ModI) : Alu := aluOf (.or o m) o (.i m.ity) fun _ a b _ => natBin m.ity (· ||| ·) a b
def execOr (o : Ops) (m : ModI) (s : State) : Out := runAlu (aluOr o m) s
def aluXor (o : Ops) (m : ModI) : Alu := aluOf (.xor o m) o (.i m.ity) fun _ a b _ => natBin m.ity (· ^^^ ·) a b
def execXor (o : Ops) (m : ModI) (s : State) : Out := runAlu (aluXor o m) s
def aluNot (o : Ops) (m : ModI) : Alu :=
  aluOf (.not o m) o (.i m.ity) fun _ a _ _ => natUn m.ity (notW m.ity.width) a
def execNot (o : Ops) (m : ModI) (s : State) : Out := runAlu (aluNot o m) s
def aluAndn (o : Ops) (m : ModI) : Alu :=
  aluOf (.andn o m) o (.i m.ity) fun _ a b _ => natBin m.ity (fun x y => x &&& notW m.ity.width y) a b
def execAndn (o : Ops) (m : ModI) (s : State) : Out := runAlu (aluAndn o m) s
def aluOrn (o : Ops) (m : ModI) : Alu :=
  aluOf (.orn o m) o (.i m.ity) fun _ a b _ => natBin m.ity (fun x y => x ||| notW m.ity.width y) a b
def execOrn (o : Ops) (m : ModI) (s : State) : Out := runAlu (aluOrn o m) s

/-- A number from its bits, lowest first. -/
def ofBits : List Bool → Nat
  | [] => 0
  | b :: bs => b.toNat + 2 * ofBits bs

/-- LUT is OPF bits 18:11. -/
def aluLop3 (o : Ops) (m : ModI) : Alu :=
  aluOf (.lop3 o m) o (.i m.ity) fun _ a b c =>
    let n := if m.ity.width = 64 then 64 else 32
    { val := ofBits ((List.range n).map fun j =>
        (m.opf.extractLsb' 7 8).getLsbD (4 * (a / 2 ^ j % 2) + 2 * (b / 2 ^ j % 2) + c / 2 ^ j % 2)) }
def execLop3 (o : Ops) (m : ModI) (s : State) : Out := runAlu (aluLop3 o m) s

/-! ### Shifts -/

/-- a × 2^n modulo 2^W, or SatInt (R121: a count of W or more gives 0 without SAT). -/
def aluShl (o : Ops) (m : ModI) : Alu :=
  aluOf (.shl o m) o (.i m.ity) fun _ a b _ =>
    shiftOp m.ity (fun x n =>
      if m.sat then m.ity.deliver true (m.ity.val x * 2 ^ (min n 128))
      else exact (if n ≥ m.ity.width then 0 else x * 2 ^ n % 2 ^ m.ity.width)) a b
def execShl (o : Ops) (m : ModI) (s : State) : Out := runAlu (aluShl o m) s

def aluShr (o : Ops) (m : ModI) : Alu :=
  aluOf (.shr o m) o (.i m.ity) fun _ a b _ =>
    shiftOp m.ity (fun x n => exact (if n ≥ m.ity.width then 0 else x / 2 ^ n)) a b
def execShr (o : Ops) (m : ModI) (s : State) : Out := runAlu (aluShr o m) s

/-- The signed type of a width. -/
def IntTy.asSigned (t : IntTy) : IntTy :=
  match t with
  | .n32 => .s32 | .n16 => .s16 | .n8 => .s8 | .n64 => .s64 | t => t

def aluShra (o : Ops) (m : ModI) : Alu :=
  aluOf (.shra o m) o (.i m.ity) fun _ a b _ =>
    let t := IntTy.asSigned m.ity
    shiftOp m.ity (fun x n => exactInt t (t.val x / 2 ^ (min n t.width))) a b
def execShra (o : Ops) (m : ModI) (s : State) : Out := runAlu (aluShra o m) s

def rotl (w x n : Nat) : Nat := (x * 2 ^ (n % w) + x / 2 ^ (w - n % w)) % 2 ^ w

def aluRotl (o : Ops) (m : ModI) : Alu :=
  aluOf (.rotl o m) o (.i m.ity) fun _ a b _ => shiftOp m.ity (fun x n => exact (rotl m.ity.width x n)) a b
def execRotl (o : Ops) (m : ModI) (s : State) : Out := runAlu (aluRotl o m) s

def aluRotr (o : Ops) (m : ModI) : Alu :=
  aluOf (.rotr o m) o (.i m.ity) fun _ a b _ =>
    shiftOp m.ity (fun x n => exact (rotl m.ity.width x (m.ity.width - n % m.ity.width))) a b
def execRotr (o : Ops) (m : ModI) (s : State) : Out := runAlu (aluRotr o m) s

def aluFshl (o : Ops) (m : ModI) : Alu :=
  aluOf (.fshl o m) o (.i m.ity) fun _ a b c =>
    let w := m.ity.width
    { val := ((a % 2 ^ w * 2 ^ w + b % 2 ^ w) * 2 ^ min (c % 2 ^ 32) w) / 2 ^ w % 2 ^ w }
def execFshl (o : Ops) (m : ModI) (s : State) : Out := runAlu (aluFshl o m) s

def aluFshr (o : Ops) (m : ModI) : Alu :=
  aluOf (.fshr o m) o (.i m.ity) fun _ a b c =>
    let w := m.ity.width
    { val := (a % 2 ^ w * 2 ^ w + b % 2 ^ w) / 2 ^ min (c % 2 ^ 32) w % 2 ^ w }
def execFshr (o : Ops) (m : ModI) (s : State) : Out := runAlu (aluFshr o m) s

/-! ### Bytes and counts -/

/-- R122. -/
def prmtByte (a b c j : Nat) : Nat :=
  let s := c / 2 ^ (4 * j) % 16
  let x := elemOf 8 (a % 2 ^ 32 + 2 ^ 32 * b) (s % 8)
  if s ≥ 8 then (if x ≥ 128 then 255 else 0) else x

def aluPrmt (o : Ops) (m : ModI) : Alu :=
  aluOf (.prmt o m) o (.i m.ity) fun _ a b c => packRes 8 ((List.range 4).map fun j => exact (prmtByte a b c j))
def execPrmt (o : Ops) (m : ModI) (s : State) : Out := runAlu (aluPrmt o m) s

def bswap (w x : Nat) : Nat := leNat ((leBytes (w / 8) x).reverse)

def aluBswap (o : Ops) (m : ModI) : Alu :=
  aluOf (.bswap o m) o (.i m.ity) fun _ a _ _ => natUn m.ity (bswap m.ity.width) a
def execBswap (o : Ops) (m : ModI) (s : State) : Out := runAlu (aluBswap o m) s

/-- The bits of an element, lowest first. -/
def bitList (w x : Nat) : List Bool := (List.range w).map fun j => x / 2 ^ j % 2 == 1

def aluPopc (o : Ops) (m : ModI) : Alu :=
  aluOf (.popc o m) o (.i m.ity) fun _ a _ _ =>
    natUn m.ity (fun x => ((bitList m.ity.width x).filter id).length) a
def execPopc (o : Ops) (m : ModI) (s : State) : Out := runAlu (aluPopc o m) s

def aluClz (o : Ops) (m : ModI) : Alu :=
  aluOf (.clz o m) o (.i m.ity) fun _ a _ _ =>
    natUn m.ity (fun x => ((bitList m.ity.width x).reverse.takeWhile (!·)).length) a
def execClz (o : Ops) (m : ModI) (s : State) : Out := runAlu (aluClz o m) s

def aluCtz (o : Ops) (m : ModI) : Alu :=
  aluOf (.ctz o m) o (.i m.ity) fun _ a _ _ =>
    natUn m.ity (fun x => ((bitList m.ity.width x).takeWhile (!·)).length) a
def execCtz (o : Ops) (m : ModI) (s : State) : Out := runAlu (aluCtz o m) s

def aluBrev (o : Ops) (m : ModI) : Alu :=
  aluOf (.brev o m) o (.i m.ity) fun _ a _ _ => natUn m.ity (fun x => ofBits (bitList m.ity.width x).reverse) a
def execBrev (o : Ops) (m : ModI) (s : State) : Out := runAlu (aluBrev o m) s

/-! ### Bit fields (R123) -/

def bfx (t : IntTy) (a b : Nat) : Nat :=
  let n := min (b / 256 % 256) t.width
  let f := ((t.val a / 2 ^ (b % 256)) % 2 ^ n).toNat
  if n = 0 then 0
  else if t.signed && decide (2 ^ (n - 1) ≤ f) then t.wrap ((f : Int) - 2 ^ n) else f

def aluBfx (o : Ops) (m : ModI) : Alu := aluOf (.bfx o m) o (.i m.ity) fun _ a b _ => { val := bfx m.ity a b }
def execBfx (o : Ops) (m : ModI) (s : State) : Out := runAlu (aluBfx o m) s

def bfi (w a b c : Nat) : Nat :=
  let pos := b % 256
  let n := min (b / 256 % 256) w
  ofBits ((List.range w).map fun j =>
    if pos ≤ j ∧ j < pos + n then a / 2 ^ (j - pos) % 2 == 1 else c / 2 ^ j % 2 == 1)

def aluBfi (o : Ops) (m : ModI) : Alu :=
  aluOf (.bfi o m) o (.i m.ity) fun _ a b c => { val := bfi m.ity.width a b c }
def execBfi (o : Ops) (m : ModI) (s : State) : Out := runAlu (aluBfi o m) s

def aluBmsk (o : Ops) (m : ModI) : Alu :=
  aluOf (.bmsk o m) o (.i m.ity) fun _ a b _ =>
    let w := m.ity.width
    { val := if a ≥ w then 0 else (2 ^ min b w - 1) * 2 ^ a % 2 ^ w }
def execBmsk (o : Ops) (m : ModI) (s : State) : Out := runAlu (aluBmsk o m) s

end Sys2Proof.Machine
end

