-- ==== Sys2Proof/Machine/Reals.lean ====
section
/-! DEFINITION. Where the values of the transcendental functions of 05_scalar_vector R132 lie: intervals of multiples of
`2^-q` that hold the exact value f(x), from series whose cut-off ends are bounded. They are narrower than the bounds of 04
R101 by far, and say which values y those bounds admit (log 3).
What rests on the model rather than on the plain words of the manual: log 3 (DESIGN CHOICE). -/

namespace Sys2Proof.Machine

/-- The reals between `lo / 2^q` and `hi / 2^q`; `q` goes with the operation. -/
structure Iv where
  lo : Int
  hi : Int
  deriving DecidableEq, Repr

/-- Quotient rounded up; the divisor is positive. -/
def ceilDiv (a b : Int) : Int := -((-a) / b)

def Iv.pt (x : Int) : Iv := ⟨x, x⟩
def Iv.one (q : Nat) : Iv := .pt (2 ^ q : Nat)
def Iv.add (a b : Iv) : Iv := ⟨a.lo + b.lo, a.hi + b.hi⟩
def Iv.neg (a : Iv) : Iv := ⟨-a.hi, -a.lo⟩
def Iv.sub (a b : Iv) : Iv := a.add b.neg
/-- An integer multiple. -/
def Iv.times (a : Iv) (k : Int) : Iv := if 0 ≤ k then ⟨a.lo * k, a.hi * k⟩ else ⟨a.hi * k, a.lo * k⟩
/-- A part by a positive number, rounded outwards. -/
def Iv.over (a : Iv) (k : Nat) : Iv := ⟨a.lo / k, ceilDiv a.hi k⟩
def Iv.mul (q : Nat) (a b : Iv) : Iv :=
  let x := a.lo * b.lo
  let y := a.lo * b.hi
  let z := a.hi * b.lo
  let w := a.hi * b.hi
  Iv.over ⟨min (min x y) (min z w), max (max x y) (max z w)⟩ (2 ^ q)
/-- The quotient by an interval of positive numbers. -/
def Iv.div (q : Nat) (a b : Iv) : Iv :=
  ⟨a.lo * (2 ^ q : Nat) / (if 0 ≤ a.lo then b.hi else b.lo), ceilDiv (a.hi * (2 ^ q : Nat)) (if 0 ≤ a.hi then b.lo else b.hi)⟩
/-- Scaled by `2^n`. -/
def Iv.shift (a : Iv) (n : Int) : Iv := if 0 ≤ n then a.times (2 ^ n.toNat : Nat) else a.over (2 ^ (-n).toNat)

/-- A series: `step k` makes term k + 1 of term k and `out k` what term k adds. The caller gives so many terms that the rest is
below one unit. -/
def Iv.series (out : Nat → Iv → Iv) (step : Nat → Iv → Iv) : Nat → Nat → Iv → Iv
  | 0, _, _ => ⟨-1, 1⟩
  | n + 1, k, t => (out k t).add (Iv.series out step n (k + 1) (step k t))

/-! ### Constants and series -/

/-- The odd series of atanh, or of atan with `alt`, for an argument of at most 1/3. -/
def atanSeries (q : Nat) (alt : Bool) (u : Iv) : Iv :=
  let u2 := u.mul q u
  Iv.series (fun k t => t.over (2 * k + 1)) (fun _ t => let p := t.mul q u2; if alt then p.neg else p) (q / 3 + 8) 0 u

def ratio (q : Nat) (a b : Nat) : Iv := (Iv.pt (a * 2 ^ q : Nat)).over b

def ln2Iv (q : Nat) : Iv := (atanSeries q false (ratio q 1 3)).times 2
/-- π = 16 atan(1/5) − 4 atan(1/239). -/
def piIv (q : Nat) : Iv := ((atanSeries q true (ratio q 1 5)).times 16).sub ((atanSeries q true (ratio q 1 239)).times 4)
/-- √(a / 2^q) of a non-negative interval. -/
def sqrtIv (q : Nat) (a : Iv) : Iv :=
  let r := fun x : Int => isqrt (x.toNat * 2 ^ q) (Nat.log2 (x.toNat * 2 ^ q) / 2 + 1) 0
  ⟨r a.lo, r a.hi + 1⟩

/-- e^x: a multiple of ln 2 is taken out and the exponential series gives the rest. -/
def expIv (q : Nat) (x : Iv) : Iv :=
  let n := x.lo / (ln2Iv q).lo
  let r := x.sub ((ln2Iv q).times n)
  (Iv.series (fun _ t => t) (fun k t => (t.mul q r).over (k + 1)) (q / 2 + 24) 0 (Iv.one q)).shift n

/-- e^-x for x ≥ 0; beyond the precision only a bound is left. -/
def expNeg (q : Nat) (x : Iv) : Iv :=
  if (q + 8) * 2 ^ q ≤ x.lo then ⟨0, 1⟩ else expIv q x.neg

/-- ln(m · 2^e), m not zero. -/
def lnIv (q : Nat) (m : Nat) (e : Int) : Iv :=
  let k := Nat.log2 m
  let u : Iv := ratio q (m - 2 ^ k) (m + 2 ^ k)
  ((atanSeries q false u).times 2).add ((ln2Iv q).times (e + k))

/-- ln(1 + t) for t from 0 to 1. -/
def ln1p (q : Nat) (t : Iv) : Iv := (atanSeries q false (t.div q (t.add ((Iv.one q).times 2)))).times 2

/-- The sine or cosine of `x / 2^q`: quarter turns are taken out with as many bits of π as the argument asks for. -/
def sinCosIv (q : Nat) (cos : Bool) (x : Int) : Iv :=
  let b := Nat.log2 (x.natAbs + 1) + 4
  let p := piIv (q + b)
  let y := x * (2 ^ b : Nat)
  let k := (4 * y + p.lo) / (2 * p.lo)
  let r := (((Iv.pt (2 * y)).sub (p.times k)).over 2).over (2 ^ b)
  let r2 := r.mul q r
  let sin := Iv.series (fun _ t => t) (fun j t => ((t.mul q r2).over ((2 * j + 2) * (2 * j + 3))).neg) (q / 4 + 24) 0 r
  let co := Iv.series (fun _ t => t) (fun j t => ((t.mul q r2).over ((2 * j + 1) * (2 * j + 2))).neg) (q / 4 + 24) 0 (Iv.one q)
  match ((if cos then k + 1 else k) % 4).toNat with
  | 0 => sin
  | 1 => co
  | 2 => sin.neg
  | _ => co.neg

/-- erf z for z ≥ 0: (2/√π) · e^(−z²) · Σ 2^n z^(2n+1) / (1·3·…·(2n+1)). -/
def erfIv (q : Nat) (z : Iv) : Iv :=
  let zz := ((z.mul q z).hi / (2 ^ q : Nat)).toNat + 1
  if q + 1 < zz then ⟨(2 ^ q : Nat) - 1, (2 ^ q : Nat)⟩
  else
    let w := 2 * zz + 16
    let p := q + w
    let z := z.shift w
    let z2 := z.mul p z
    let s := Iv.series (fun _ t => t) (fun k t => ((t.mul p z2).times 2).over (2 * k + 3)) (4 * zz + p + 16) 0 z
    let v := ((s.mul p (expIv p z2.neg)).times 2).div p (sqrtIv p (piIv p))
    v.over (2 ^ w)

/-! ### The functions of Table 10 -/

/-- A quotient that `t = e^(−|x|)` (or its square) gives: 1/(1 + t), t/(1 + t) or (1 − t)/(1 + t). -/
def sigmIv (q : Nat) (neg : Bool) (t : Iv) : Iv :=
  let d := (Iv.one q).add t
  if neg then t.div q d else (Iv.one q).div q d
def tanhIv (q : Nat) (t : Iv) : Iv := ((Iv.one q).sub t).div q ((Iv.one q).add t)

/-- What lies in both: a function's own bound cuts the interval that a series gives. -/
def Iv.meet (a b : Iv) : Iv := ⟨max a.lo b.lo, min a.hi b.hi⟩
/-- From -1 to 1. -/
def Iv.unit (q : Nat) : Iv := ⟨-(2 ^ q : Nat), (2 ^ q : Nat)⟩

/-- Negated where the argument is. -/
def Iv.signed (neg : Bool) (a : Iv) : Iv := if neg then a.neg else a

/-- The units of an enclosure in format `t`. -/
def unitBits (t : FloatTy) : Nat := (-t.qmin).toNat + 192

/-- Where f(x) lies, x = ±m·2^e being none of the fixed inputs, in multiples of `2^-(unitBits t)`; none where f is algebraic. A
result past every format's range is given as 2^8192: each y near it overflows alike. -/
def enclosed (f : SpecialFn) (t : FloatTy) (neg : Bool) (m : Nat) (e : Int) : Option Iv :=
  let q := unitBits t
  let a : Iv := (Iv.pt m).shift (e + q)
  let x := a.signed neg
  let huge := decide ((2 ^ (q + 12) : Nat) ≤ a.lo)
  let beyond : Iv := .pt (2 ^ (q + 8192) : Nat)
  match f with
  | .rcp | .rsq | .sqrt | .fdiv => none
  | .exp2 =>
    some (if huge then (if neg then ⟨0, 1⟩ else beyond)
      else if neg then expNeg q (a.mul q (ln2Iv q)) else expIv q (a.mul q (ln2Iv q)))
  | .exp => some (if neg then expNeg q a else if huge then beyond else (expIv q a).meet ⟨(2 ^ q : Nat), (expIv q a).hi⟩)
  | .log2 => some ((lnIv q m e).div q (ln2Iv q))
  | .log => some (lnIv q m e)
  -- |sin x| and |tanh x| are below |x| too
  | .sin => some (((sinCosIv q false x.lo).meet (.unit q)).meet ⟨-a.hi, a.hi⟩)
  | .cos => some ((sinCosIv q true x.lo).meet (.unit q))
  | .tanh => some ((((tanhIv q (expNeg q (a.times 2))).meet (.unit q)).meet ⟨0, a.hi⟩).signed neg)
  | .sigm => some ((sigmIv q neg (expNeg q a)).meet ⟨0, (2 ^ q : Nat)⟩)
  | .erf => some (((erfIv q a).meet ⟨0, (2 ^ q : Nat)⟩).signed neg)
  | .gelu =>
    if neg && decide ((q * 2 ^ q : Nat) ≤ a.lo) then some ⟨-1, 0⟩
    else
      -- the factor x costs as many bits as it has above the point
      let p := q + 16
      let z := (a.shift 16).div p (sqrtIv p ((Iv.one p).times 2))
      some ((((x.shift 16).mul p ((Iv.one p).add ((erfIv p z).signed neg))).over (2 ^ 17)).meet ⟨-a.hi, a.hi⟩)
  | .splus =>
    -- above max(x, 0)
    let l := (ln1p q (expNeg q a)).meet ⟨0, (2 ^ q : Nat)⟩
    some (if neg then l else l.add a)

end Sys2Proof.Machine
end

