-- ==== Sys2Proof/Machine/Special.lean ====
section
/-! DEFINITION. The special functions (05_scalar_vector R132, R133; 04 R101, R102). RCP, SQRT and FDIV in the accurate
grade are correctly rounded; the fixed inputs of Table 10 are given bit for bit; every other input takes the free value
`Config.special`, kept within the bound of its grade (notes/assumptions/3.md).
What rests on the model rather than on the plain words of the manual: log 3 (DESIGN CHOICE), log 47 (DEDUCED). -/

namespace Sys2Proof.Machine

/-! ### Exact values of the algebraic functions -/

/-- 1/√x for x = m·2^e. -/
def rsqFin (m : Nat) (e : Int) : FVal :=
  let odd := e % 2 != 0
  let m2 := if odd then 2 * m else m
  let e2 := if odd then e - 1 else e
  let k := 140 + Nat.log2 m2
  let r := isqrt (2 ^ (2 * k) / m2) (k + 1) 0
  .fin false r (-(e2 / 2) - k) (r * r * m2 != 2 ^ (2 * k))

/-- ln 2 to 128 bits (SPLUS of ±0). -/
def ln2 : FVal := .fin false 0xB17217F7D1CF79ABC9E3B39803F2F6AF (-128) true

/-- The exact value where the function is algebraic and its input is none of the fixed ones. -/
def algebraic (f : SpecialFn) (x : FVal) : Option FVal :=
  match f, x with
  | .rcp, .fin n m e _ => some (divFin false 1 0 n m e)
  | .sqrt, .fin _ m e _ => some (sqrtFin m e)
  | .rsq, .fin _ m e _ => some (rsqFin m e)
  | _, _ => none

/-! ### Fixed inputs (Table 10) -/

def fixedInt (t : FloatTy) (x : Int) : Option Res := some (t.round .rn false (.ofInt x))
def fixedZero (t : FloatTy) (neg : Bool) : Option Res := some (t.round .rn false (.zero neg))
/-- An infinite fixed result; E4M3 delivers its NaN with NV. -/
def fixedInf (t : FloatTy) (neg : Bool) (fl : W32) : Option Res := some (Res.orFlags (t.round .rn false (.inf neg)) fl)
def fixedNan (t : FloatTy) : Option Res := some ⟨t.canon, fNV⟩
def fixedHalf (t : FloatTy) : Option Res := some (t.round .rn false (.fin false 1 (-1) false))

/-- ±∞. -/
def fixedAtInf (f : SpecialFn) (t : FloatTy) (neg : Bool) : Option Res :=
  match f with
  | .rcp => fixedZero t neg
  | .rsq => if neg then fixedNan t else fixedZero t false
  | .sqrt | .log2 | .log => if neg then fixedNan t else fixedInf t false 0
  | .exp2 | .exp | .splus => if neg then fixedZero t false else fixedInf t false 0
  | .sin | .cos => fixedNan t
  | .tanh | .erf => fixedInt t (if neg then -1 else 1)
  | .sigm => if neg then fixedZero t false else fixedInt t 1
  | .gelu => if neg then fixedZero t true else fixedInf t false 0
  | .fdiv => none

/-- ±0. -/
def fixedAtZero (f : SpecialFn) (t : FloatTy) (neg : Bool) : Option Res :=
  match f with
  | .rcp => fixedInf t neg fDZ
  | .rsq => fixedInf t neg fDZ
  | .sqrt | .sin | .tanh | .erf | .gelu => fixedZero t neg
  | .exp2 | .exp | .cos => fixedInt t 1
  | .log2 | .log => fixedInf t true fDZ
  | .sigm => fixedHalf t
  | .splus => some (t.round .rn false ln2)
  | .fdiv => none

/-- The value of a finite number that is an integer of moderate size. -/
def smallInt (m : Nat) (e : Int) (neg : Bool) : Option Int :=
  if e + Nat.log2 m > 16 ∨ e < -1100 then none
  else if 0 ≤ e then some (if neg then -(m * 2 ^ e.toNat : Nat) else (m * 2 ^ e.toNat : Nat))
  else if m % 2 ^ (-e).toNat = 0 then
    some (if neg then -(m / 2 ^ (-e).toNat : Nat) else (m / 2 ^ (-e).toNat : Nat))
  else none

/-- The other fixed cases of Table 10, for a finite input that is not zero. LOG2.E5M2 of 2^n with an n that E5M2 cannot
hold is n rounded to nearest even, with NX, where Table 10 says "n exactly" (DEDUCED, log 47). -/
def fixedOther (f : SpecialFn) (t : FloatTy) (neg : Bool) (m : Nat) (e : Int) : Option Res :=
  match f with
  | .rsq | .sqrt => if neg then fixedNan t else none
  | .exp2 =>
    match smallInt m e neg with
    | some n =>
      let r := t.round .rn false (.fin false 1 n false)
      if r.flags = 0 then some r else none
    | none => none
  | .log2 =>
    if neg then fixedNan t
    -- an n that E5M2 does not hold is rounded to nearest with NX (DEDUCED, log 47)
    else if m = 2 ^ Nat.log2 m then fixedInt t (e + Nat.log2 m) else none
  | .log =>
    if neg then fixedNan t
    else if (FVal.fin false m e false).cmp (.ofInt 1) == some .eq then fixedZero t false else none
  | _ => none

/-! ### Deliver (R132) -/

def FVal.ofDyad (y : Dyad) : FVal := .fin y.neg y.mant y.exp false

/-- A delivered value is inexact unless it equals f(x). -/
def deliver (t : FloatTy) (y : FVal) (fx : Option FVal) : Res :=
  let r := t.round .rn false y
  let same : Bool := match fx with
    | some (.fin n m e st) => !st && (t.read r.bits).cmp (.fin n m e false) == some .eq
    | _ => false
  if same then r else Res.orFlags r fNX

/-- Where a value known exactly, or but for the part cut off it, lies: an interval of multiples of its own unit. -/
def FVal.enclosure : FVal → Iv × Int
  | .fin n m e st => ((Iv.add (.pt m) ⟨0, if st then 1 else 0⟩).signed n, e)
  | _ => (.pt 0, 0)

/-- Is the finite value v within the grade's bound of the exact value `f · 2^e` (04 R101)? All are brought to one unit; an ulp is
the format's spacing at `f · 2^e`. -/
def nearTo (t : FloatTy) (fast : Bool) (v : FVal) (f e : Int) : Bool :=
  let ulp : Int := max (e + Nat.log2 f.natAbs - t.mbits) t.qmin
  let u := min (min v.exp e) t.qmin
  let x := f * (2 ^ (e - u).toNat : Nat)
  let d := (x - v.scaled u).natAbs
  if fast && (t == .f64 || t == .f32) then decide (d * 2 ^ 21 ≤ max x.natAbs (2 ^ (t.qmin + t.mbits - u).toNat))
  else decide (d < 2 ^ (ulp - u).toNat)

/-- Are y and the result that it delivers within the grade's bound of a value that lies in `c.1`, in multiples of `2^c.2`: of one
of its ends, the interval being far narrower than the bound (log 3)? A result that is not finite is y's overflow (R132). -/
def withinBound (t : FloatTy) (fast : Bool) (y : FVal) (c : Iv × Int) : Bool :=
  let near := fun v => match v with | .fin _ _ _ _ => nearTo t fast v c.1.lo c.2 || nearTo t fast v c.1.hi c.2 | _ => true
  near y && near (t.read (t.round .rn false y).bits)

/-- The value y of R132: the free value, kept within the grade's bound of f(x). A free value outside it gives way to the
lower end of the enclosure (DESIGN CHOICE, log 3). -/
def chosen (f : SpecialFn) (t : FloatTy) (fast : Bool) (key : Nat) (c : Iv × Int) : FVal :=
  let y := FVal.ofDyad (Config.special f t fast key)
  if withinBound t fast y c then y else .fin (decide (c.1.lo < 0)) c.1.lo.natAbs c.2 false

/-- Correctly rounded in the accurate grade (Table 10 of 04_numbers). -/
def SpecialFn.isRounded : SpecialFn → Bool
  | .rcp | .sqrt | .fdiv => true
  | _ => false

/-- f(x) of a finite input that is none of the fixed ones, delivered (R132). -/
def specialAny (f : SpecialFn) (t : FloatTy) (fast : Bool) (key : Nat) (x : FVal) : Res :=
  match x with
  | .fin n m e _ =>
    match algebraic f x, enclosed f t n m e with
    | some v, _ =>
      if !fast && SpecialFn.isRounded f then t.round .rn false v else deliver t (chosen f t fast key (FVal.enclosure v)) (some v)
    | none, some c => deliver t (chosen f t fast key (c, -(unitBits t : Int))) none
    | none, none => ⟨t.canon, 0⟩
  | _ => ⟨t.canon, 0⟩

/-- Flush of the fast grade: a subnormal input becomes zero of its sign. -/
def flush (t : FloatTy) (fast : Bool) (x : Nat) : Nat × W32 :=
  if fast && t.isSub x then (x / t.signBit * t.signBit, fFLUSH) else (x, 0)

/-- One element of a function of one source. -/
def specialElem (f : SpecialFn) (t : FloatTy) (fast : Bool) (x0 : Nat) : Res :=
  let x := flush t fast x0
  let r : Res :=
    match t.read x.1 with
    | .nan sg => ⟨t.canon, flagIf sg fNV⟩
    | .inf n => (fixedAtInf f t n).getD ⟨t.canon, 0⟩
    | .fin n m e st =>
      if m = 0 then (fixedAtZero f t n).getD ⟨t.canon, 0⟩
      else
        match fixedOther f t n m e with
        | some r => r
        | none => specialAny f t fast x.1 (.fin n m e st)
  Res.orFlags r x.2

def aluRcp (o : Ops) (m : ModS) : Alu :=
  aluFloat 2 (.rcp o m) o m.fty fun _ a _ _ => fUn m.fty (specialElem .rcp m.fty m.fast) a
def execRcp (o : Ops) (m : ModS) (s : State) : Out := runAlu (aluRcp o m) s

def aluRsq (o : Ops) (m : ModS) : Alu :=
  aluFloat 2 (.rsq o m) o m.fty fun _ a _ _ => fUn m.fty (specialElem .rsq m.fty m.fast) a
def execRsq (o : Ops) (m : ModS) (s : State) : Out := runAlu (aluRsq o m) s

def aluSqrt (o : Ops) (m : ModS) : Alu :=
  aluFloat 2 (.sqrt o m) o m.fty fun _ a _ _ => fUn m.fty (specialElem .sqrt m.fty m.fast) a
def execSqrt (o : Ops) (m : ModS) (s : State) : Out := runAlu (aluSqrt o m) s

def aluExp2 (o : Ops) (m : ModS) : Alu :=
  aluFloat 2 (.exp2 o m) o m.fty fun _ a _ _ => fUn m.fty (specialElem .exp2 m.fty m.fast) a
def execExp2 (o : Ops) (m : ModS) (s : State) : Out := runAlu (aluExp2 o m) s

def aluLog2 (o : Ops) (m : ModS) : Alu :=
  aluFloat 2 (.log2 o m) o m.fty fun _ a _ _ => fUn m.fty (specialElem .log2 m.fty m.fast) a
def execLog2 (o : Ops) (m : ModS) (s : State) : Out := runAlu (aluLog2 o m) s

def aluExp (o : Ops) (m : ModS) : Alu :=
  aluFloat 2 (.exp o m) o m.fty fun _ a _ _ => fUn m.fty (specialElem .exp m.fty m.fast) a
def execExp (o : Ops) (m : ModS) (s : State) : Out := runAlu (aluExp o m) s

def aluLog (o : Ops) (m : ModS) : Alu :=
  aluFloat 2 (.log o m) o m.fty fun _ a _ _ => fUn m.fty (specialElem .log m.fty m.fast) a
def execLog (o : Ops) (m : ModS) (s : State) : Out := runAlu (aluLog o m) s

def aluSin (o : Ops) (m : ModS) : Alu :=
  aluFloat 2 (.sin o m) o m.fty fun _ a _ _ => fUn m.fty (specialElem .sin m.fty m.fast) a
def execSin (o : Ops) (m : ModS) (s : State) : Out := runAlu (aluSin o m) s

def aluCos (o : Ops) (m : ModS) : Alu :=
  aluFloat 2 (.cos o m) o m.fty fun _ a _ _ => fUn m.fty (specialElem .cos m.fty m.fast) a
def execCos (o : Ops) (m : ModS) (s : State) : Out := runAlu (aluCos o m) s

def aluTanh (o : Ops) (m : ModS) : Alu :=
  aluFloat 2 (.tanh o m) o m.fty fun _ a _ _ => fUn m.fty (specialElem .tanh m.fty m.fast) a
def execTanh (o : Ops) (m : ModS) (s : State) : Out := runAlu (aluTanh o m) s

def aluSigm (o : Ops) (m : ModS) : Alu :=
  aluFloat 2 (.sigm o m) o m.fty fun _ a _ _ => fUn m.fty (specialElem .sigm m.fty m.fast) a
def execSigm (o : Ops) (m : ModS) (s : State) : Out := runAlu (aluSigm o m) s

def aluErf (o : Ops) (m : ModS) : Alu :=
  aluFloat 2 (.erf o m) o m.fty fun _ a _ _ => fUn m.fty (specialElem .erf m.fty m.fast) a
def execErf (o : Ops) (m : ModS) (s : State) : Out := runAlu (aluErf o m) s

def aluGelu (o : Ops) (m : ModS) : Alu :=
  aluFloat 2 (.gelu o m) o m.fty fun _ a _ _ => fUn m.fty (specialElem .gelu m.fty m.fast) a
def execGelu (o : Ops) (m : ModS) (s : State) : Out := runAlu (aluGelu o m) s

def aluSplus (o : Ops) (m : ModS) : Alu :=
  aluFloat 2 (.splus o m) o m.fty fun _ a _ _ => fUn m.fty (specialElem .splus m.fty m.fast) a
def execSplus (o : Ops) (m : ModS) (s : State) : Out := runAlu (aluSplus o m) s

/-! ### FDIV (R133) -/

def fdivElem (t : FloatTy) (fast : Bool) (x0 y0 : Nat) : Res :=
  let x := flush t fast x0
  let y := flush t fast y0
  let a := t.read x.1
  let b := t.read y.1
  let neg := a.isNeg != b.isNeg
  let r : Res :=
    match a, b with
    | .nan _, _ | _, .nan _ => ⟨t.canon, sigFlag [a, b]⟩
    | .inf _, .inf _ => ⟨t.canon, fNV⟩
    | .inf _, .fin _ _ _ _ => t.round .rn false (.inf neg)
    | .fin _ _ _ _, .inf _ => t.round .rn false (.zero neg)
    | .fin n m e _, .fin k d f _ =>
      if d = 0 then
        if m = 0 then ⟨t.canon, fNV⟩ else Res.orFlags (t.round .rn false (.inf neg)) fDZ
      else if m = 0 then t.round .rn false (.zero neg)
      else
        let q := divFin n m e k d f
        if fast then deliver t (chosen .fdiv t fast (x.1 + 2 ^ 64 * y.1) (FVal.enclosure q)) (some q)
        else t.round .rn false q
  Res.orFlags r (x.2 ||| y.2)

def aluFdiv (o : Ops) (m : ModS) : Alu :=
  aluFloat 2 (.fdiv o m) o m.fty fun _ a b _ => fBin m.fty (fdivElem m.fty m.fast) a b
def execFdiv (o : Ops) (m : ModS) (s : State) : Out := runAlu (aluFdiv o m) s

end Sys2Proof.Machine
end

