-- ==== Sys2Proof/Machine/Pair.lean ====
section
/-! DEFINITION. Pair words (02 R49 to R51) and ILL (03 R75). -/

namespace Sys2Proof.Machine

/-- One operation of a pair word: what it computes, or for LSCAN (false) and LRED (true) its scan. -/
structure Half where
  alu : Alu
  scan : Option (Bool × BitVec 20)

/-- The scan of LSCAN or LRED as a half. -/
def scanHalf (i : Instr) (o : Ops) (red : Bool) (m : BitVec 20) : Half :=
  ⟨aluOf i o .b32 fun _ _ _ _ => { val := 0 }, some (red, m)⟩

/-- A pairable operation (03 R61, R62). -/
def halfOf (i : Instr) : Option Half :=
  match i with
  | .mov o m => some ⟨aluMov o m, none⟩
  | .sel o m => some ⟨aluSel o m, none⟩
  | .iadd o m => some ⟨aluIadd o m, none⟩
  | .isub o m => some ⟨aluIsub o m, none⟩
  | .iaddc o m => some ⟨aluIaddc o m, none⟩
  | .isubb o m => some ⟨aluIsubb o m, none⟩
  | .imul o m => some ⟨aluImul o m, none⟩
  | .imulh o m => some ⟨aluImulh o m, none⟩
  | .imin o m => some ⟨aluImin o m, none⟩
  | .imax o m => some ⟨aluImax o m, none⟩
  | .iabs o m => some ⟨aluIabs o m, none⟩
  | .ineg o m => some ⟨aluIneg o m, none⟩
  | .isad o m => some ⟨aluIsad o m, none⟩
  | .iavg o m => some ⟨aluIavg o m, none⟩
  | .icmp o m => some ⟨aluIcmp o m, none⟩
  | .iset o m => some ⟨aluIset o m, none⟩
  | .itest o m => some ⟨aluItest o m, none⟩
  | .lea o m => some ⟨aluLea o m, none⟩
  | .leax o m => some ⟨aluLeax o m, none⟩
  | .canon o m => some ⟨aluCanon o m, none⟩
  | .pdiff o m => some ⟨aluPdiff o m, none⟩
  | .and o m => some ⟨aluAnd o m, none⟩
  | .or o m => some ⟨aluOr o m, none⟩
  | .xor o m => some ⟨aluXor o m, none⟩
  | .not o m => some ⟨aluNot o m, none⟩
  | .andn o m => some ⟨aluAndn o m, none⟩
  | .orn o m => some ⟨aluOrn o m, none⟩
  | .shl o m => some ⟨aluShl o m, none⟩
  | .shr o m => some ⟨aluShr o m, none⟩
  | .shra o m => some ⟨aluShra o m, none⟩
  | .rotl o m => some ⟨aluRotl o m, none⟩
  | .rotr o m => some ⟨aluRotr o m, none⟩
  | .bswap o m => some ⟨aluBswap o m, none⟩
  | .popc o m => some ⟨aluPopc o m, none⟩
  | .clz o m => some ⟨aluClz o m, none⟩
  | .ctz o m => some ⟨aluCtz o m, none⟩
  | .brev o m => some ⟨aluBrev o m, none⟩
  | .bfx o m => some ⟨aluBfx o m, none⟩
  | .bmsk o m => some ⟨aluBmsk o m, none⟩
  | .fadd o m => some ⟨aluFadd o m, none⟩
  | .fsub o m => some ⟨aluFsub o m, none⟩
  | .fmul o m => some ⟨aluFmul o m, none⟩
  | .fmin o m => some ⟨aluFmin o m, none⟩
  | .fmax o m => some ⟨aluFmax o m, none⟩
  | .fminm o m => some ⟨aluFminm o m, none⟩
  | .fmaxm o m => some ⟨aluFmaxm o m, none⟩
  | .fabs o m => some ⟨aluFabs o m, none⟩
  | .fneg o m => some ⟨aluFneg o m, none⟩
  | .fcsgn o m => some ⟨aluFcsgn o m, none⟩
  | .fsum o m => some ⟨aluFsum o m, none⟩
  | .fcmp o m => some ⟨aluFcmp o m, none⟩
  | .fset o m => some ⟨aluFset o m, none⟩
  | .fclass o m => some ⟨aluFclass o m, none⟩
  | .frndi o m => some ⟨aluFrndi o m, none⟩
  | .fscale o m => some ⟨aluFscale o m, none⟩
  | .fxexp o m => some ⟨aluFxexp o m, none⟩
  | .fxman o m => some ⟨aluFxman o m, none⟩
  | .cvt o m => some ⟨aluCvt o m, none⟩
  | .cvtfi o m => some ⟨aluCvtfi o m, none⟩
  | .cvtif o m => some ⟨aluCvtif o m, none⟩
  | .pack2 o m => some ⟨aluPack2 o m, none⟩
  | .pack4 o m => some ⟨aluPack4 o m, none⟩
  | .unpk o m => some ⟨aluUnpk o m, none⟩
  | .exts o m => some ⟨aluExts o m, none⟩
  | .extz o m => some ⟨aluExtz o m, none⟩
  | .rcp o m => some ⟨aluRcp o m, none⟩
  | .rsq o m => some ⟨aluRsq o m, none⟩
  | .sqrt o m => some ⟨aluSqrt o m, none⟩
  | .exp2 o m => some ⟨aluExp2 o m, none⟩
  | .log2 o m => some ⟨aluLog2 o m, none⟩
  | .exp o m => some ⟨aluExp o m, none⟩
  | .log o m => some ⟨aluLog o m, none⟩
  | .sin o m => some ⟨aluSin o m, none⟩
  | .cos o m => some ⟨aluCos o m, none⟩
  | .tanh o m => some ⟨aluTanh o m, none⟩
  | .sigm o m => some ⟨aluSigm o m, none⟩
  | .erf o m => some ⟨aluErf o m, none⟩
  | .gelu o m => some ⟨aluGelu o m, none⟩
  | .splus o m => some ⟨aluSplus o m, none⟩
  | .lscan o m => some (scanHalf (.lscan o m) o false m)
  | .lred o m => some (scanHalf (.lred o m) o true m)
  | _ => none

/-- The operation as an instruction of the bundle: its own active lanes, its sources from the state before the pair word. -/
def Env.half (e : Env) (g : Group) (h : Half) : Env :=
  let val := fun (i : Nat) (l : Nat) =>
    match (h.alu.o.sources h.alu.sg).find? fun x => x.1 == i with
    | some x => e.s.value g h.alu.o h.alu.sg x.1 x.2.1 x.2.2 l
    | none => 0
  { e with act := e.lanes.filter (g.guard h.alu.o), a := val 0, b := val 1, c := val 2 }

/-- Mask of a scan (11 R306). -/
def Env.scanMask (e : Env) : W32 := BitVec.ofNat 32 (e.b e.first)

/-- May the operation execute now: a scan by the set rule (11 R302)? -/
def Env.halfReady (e : Env) (h : Half) : Bool :=
  h.scan.isNone || (e.u.fresh && (e.act.isEmpty || e.arrived e.scanMask))

/-- Results of the operation's active lanes. -/
def Env.halfOuts (e : Env) (h : Half) : List (Nat × LaneOut) :=
  match h.scan with
  | none => h.alu.outs e
  | some (red, m) => scanOuts red m e.act e.scanMask e.a

/-- Has the operation results that a shadow unit checks? -/
def Half.isChecked (h : Half) (outs : List (Nat × LaneOut)) : Bool := h.alu.unit?.isSome && !outs.isEmpty

/-- Both operations complete together (R51), with one check of both by the shadow units (04 R104). -/
def Env.pairDone (e : Env) (x y : Half) (ex ey : Env) : Out :=
  let ox := ex.halfOuts x
  let oy := ey.halfOuts y
  let g := y.alu.write ey.act oy (x.alu.write ex.act ox e.g)
  let cx := x.isChecked ox
  let cy := y.isChecked oy
  if !cx && !cy then e.commit g
  else if e.s.shadow ≤ 1 then e.passShadow e.s g
  else
    -- which operation mismatched, where both are checked, is a free value
    let first := cx && (!cy || Config.shadowElem (e.s.freeCount + 2 ^ 32) % 2 == 0)
    if first then x.alu.checked ex ox (x.alu.unit?.getD 0) g else y.alu.checked ey oy (y.alu.unit?.getD 0) g

/-- Does an operation name v248 to v255 (R50 (f))? -/
def Half.namesPort (h : Half) : Bool :=
  ((h.alu.o.sources h.alu.sg).flatMap (fun e => e.2.1.names e.2.2) ++ dstNames h.alu.o.dst h.alu.sg.dst).any fun n =>
    n.1 == 0 && decide (248 ≤ n.2)

/-- PAIR (R50, R51). -/
def execPair (x y : Instr) (s : State) : Out :=
  match s.cur with
  | none => .fault .noBundle
  | some u =>
    match s.group? u.gid with
    | none => .fault .noBundle
    | some g =>
      match halfOf x, halfOf y with
      | some hx, some hy =>
        if g.compat && (hx.namesPort || hy.namesPort) then s.illegal u .compatPort
        else
          issue .all .w96 [{ o := hx.alu.o, sg := hx.alu.sg }, { o := hy.alu.o, sg := hy.alu.sg }] s fun e =>
            let ex := e.half g hx
            let ey := e.half g hy
            if !(ex.halfReady hx && ey.halfReady hy) then e.waitCross (.pair x y)
            else if hx.scan.isSome || hy.scan.isSome then e.awake.pairDone hx hy ex ey
            else e.pairDone hx hy ex ey
      | _, _ => s.illegal u .pairLimit

/-- ILL (03 R75). -/
def execIll (_l : Len) (s : State) : Out :=
  match s.cur with
  | none => .fault .noBundle
  | some u =>
    match s.group? u.gid with
    | none => .fault .noBundle
    | some _ => s.illegal u .unassigned

end Sys2Proof.Machine
end

