-- ==== Sys2Proof/Machine/Quant.lean ====
section
/-! DEFINITION. The quantise opcodes (06 R168 to R170; 04 R87 to R93).
What rests on the model rather than on the plain words of the manual: log 6 (DEDUCED), log 47 (DEDUCED). -/

namespace Sys2Proof.Machine

/-- VFMT. -/
def ModX.vty (m : ModX) : FloatTy :=
  match m.vfmt with
  | 0 => .f32
  | 1 => .f16
  | _ => .b16

def ModX.qt (m : ModX) : Nat := (m.opf.extractLsb' 0 2).toNat

/-- The 32 elements of a block. -/
def blockElems (t : FloatTy) (x : Nat) : List Nat := (List.range 32).map fun i => elemOf t.width x i

/-- A finite magnitude that is larger. -/
def largerMag (x y : FVal) : FVal := match x.abs.cmp y.abs with | some .lt => y | _ => x

/-- The largest magnitude of finite values. -/
def amaxOf (vs : List FVal) : FVal := (vs.foldl largerMag (.zero false)).abs

/-! ### Scales (04 R91) -/

def emax (qt : Nat) : Int :=
  match qt with
  | 0 | 1 => 2
  | 2 => 6
  | _ => 3

/-- e of a finite amax, and QSC_CLAMP. -/
def scaleExp (qt : Nat) (a : FVal) : Nat × W32 :=
  match a with
  | .fin _ m ex _ =>
    if m = 0 then (0, 0)
    else
      let e := ex + Nat.log2 m - emax qt + 31
      if e < 0 then (0, fQCLAMP) else if 62 < e then (62, fQCLAMP) else (e.toNat, 0)
  | _ => (63, 0)

/-! ### Codes (04 R92) -/

/-- The values of a type's codes in halves, ascending, with their codes; −0 apart. -/
def codeList (qt : Nat) : List (Int × Nat) :=
  if qt = 0 then (List.range 16).map fun i => let c := (i + 8) % 16; (2 * codeInt c, c)
  else
    ((List.range 7).map fun i => (-(codeMag qt (7 - i) : Int), 15 - i)) ++
    (List.range 8).map fun i => ((codeMag qt i : Int), i)

/-- One step of the generator: the new SEED and the 24-bit value (04 R87). -/
def drawSeed (seed : W64) : W64 × Nat :=
  let s := seed + 0x9E3779B97F4A7C15#64
  let z := (s ^^^ (s >>> 30)) * 0xBF58476D1CE4E5B9#64
  let z := (z ^^^ (z >>> 27)) * 0x94D049BB133111EB#64
  let z := z ^^^ (z >>> 31)
  (s, (z.extractLsb' 40 24).toNat)

/-- `n` draws. -/
def draws (seed : W64) : Nat → W64 × List Nat
  | 0 => (seed, [])
  | n + 1 =>
    let r := drawSeed seed
    let t := draws r.1 n
    (t.1, r.2 :: t.2)

/-- The upper neighbour is taken: value `x`, neighbours `lo` and `hi`, all in one unit. -/
def takesUpper (rm : Rm) (q : Option Nat) (x lo hi : Int) (hiCode : Nat) : Bool :=
  match q with
  | some q => decide ((q : Int) * (hi - lo) < (x - lo) * 2 ^ 24)
  | none =>
    match rm with
    | .rn => decide (hi - x < x - lo) || (decide (hi - x = x - lo) && hiCode % 2 == 0)
    | .rz => decide (x < 0)
    | .rd => false
    | .ru => true

/-- The largest magnitude of a type's codes, in halves: 8 for the uniform integers, whose least code is −8. -/
def codeMax (qt : Nat) : Int := ((codeList qt).map fun c => (c.1.natAbs : Int)).foldl max 0

/-- The code of a finite value in a block with exponent `e`. A value beyond the codes takes the last one, with FSAT where its
magnitude is beyond the type's largest: a uniform-integer value from 7 to 8 takes code 7 with NX alone. -/
def quantise (qt e : Nat) (rm : Rm) (q : Option Nat) (v : FVal) : Res :=
  let y := scaleBy v (31 - (e : Int))
  -- one unit of 2^u, in which a half is 2^(−1−u)
  let u : Int := min y.exp (-1)
  let x := y.scaled u
  let cs := (codeList qt).map fun c => (c.1 * 2 ^ (-1 - u).toNat, c.2)
  match cs.find? fun c => c.1 == x with
  | some c => exact c.2
  | none =>
    match (cs.filter fun c => decide (c.1 < x)).getLast?, cs.find? fun c => decide (x < c.1) with
    | some lo, some hi => ⟨if takesUpper rm q x lo.1 hi.1 hi.2 then hi.2 else lo.2, fNX⟩
    | some lo, none => ⟨lo.2, fNX ||| flagIf (decide (codeMax qt * 2 ^ (-1 - u).toNat < x)) fFSAT⟩
    | none, some hi => ⟨hi.2, fNX ||| fFSAT⟩
    | none, none => exact 0

/-! ### The instructions -/

/-- QAMAX. -/
def qamaxLane (t : FloatTy) (x : Nat) : LaneOut :=
  let vs := (blockElems t x).map t.read
  let f := sigFlag vs
  if vs.any FVal.isNan then { val := FloatTy.f32.canon, flags := f }
  else if vs.any FVal.isInf then { val := FloatTy.f32.infBits, flags := f }
  else { val := (FloatTy.f32.round .rn false (amaxOf vs)).bits, flags := f }

def execQamax (o : Ops) (m : ModX) (s : State) : Out :=
  runMatrixAlu (aluOf (.qamax o m) o .b32 fun _ a _ _ => qamaxLane (ModX.vty m) a) s

/-- QSCL; a signalling NaN is an arithmetic source here (04 R78; DEDUCED, log 47). -/
def qsclLane (qt x : Nat) : LaneOut :=
  let r := match FloatTy.f32.read x with
    | .nan sg => (63, fQNAN ||| flagIf sg fNV)
    | .inf _ => (63, fQINF)
    | v => scaleExp qt v
  { val := qt * 64 + r.1, flags := r.2 }

def execQscl (o : Ops) (m : ModX) (s : State) : Out :=
  runMatrixAlu (aluOf (.qscl o m) o .b32 fun _ a _ _ => qsclLane (ModX.qt m) a) s

/-- QNT of one block: the codes and the scale byte above them. -/
def qntLane (qt : Nat) (t : FloatTy) (rm : Rm) (expl : Option Nat) (qs : List Nat) (sr : Bool) (x : Nat) : LaneOut :=
  let vs := (blockElems t x).map t.read
  let nan := vs.any FVal.isNan
  let inf := vs.any FVal.isInf
  if nan || inf then { val := (qt * 64 + 63) * 2 ^ 128, flags := flagIf nan fQNAN ||| flagIf inf fQINF }
  else
    let e := match expl with | some b => (b % 64, 0) | none => scaleExp qt (amaxOf vs)
    if e.1 = 63 then { val := (qt * 64 + 63) * 2 ^ 128 }
    else
      let cs := vs.zipIdx.map fun v => quantise qt e.1 rm (if sr then qs[v.2]? else none) v.1
      { val := (qt * 64 + e.1) * 2 ^ 128 + ofFields (cs.zipIdx.map fun c => (4 * c.2, 4, c.1.bits)),
        flags := cs.foldl (fun f c => f ||| c.flags) e.2 }

/-- Lanes in ascending order, each with its draws under SR. -/
def qntLanes (sr : Bool) (f : Nat → List Nat → LaneOut) (seed : W64) : List Nat → W64 × List (Nat × LaneOut)
  | [] => (seed, [])
  | l :: ls =>
    let d := if sr then draws seed 32 else (seed, [])
    let t := qntLanes sr f d.1 ls
    (t.1, (l, f l d.2) :: t.2)

def execQnt (o : Ops) (m : ModX) (s : State) : Out :=
  issue1 .all o (Instr.qnt o m).sig s fun e =>
    e.pathFree fun _ =>
    let sr := m.opf.getLsbD 4
    let rm := Rm.ofBits (m.opf.extractLsb' 2 2)
    let f := fun l qs => qntLane (ModX.qt m) (ModX.vty m) rm (if m.expl then some (e.b l) else none) qs sr (e.a l)
    let r := qntLanes sr f e.g.seed e.act
    let x := aluOf (.qnt o m) o .b32 fun _ _ _ _ => { val := 0 }
    e.commit (x.write e.act r.2 { e.g with seed := r.1 })

/-- DQNT of one block. -/
def dqntLane (t : FloatTy) (codes scale : Nat) : LaneOut :=
  if scale % 64 = 63 then
    let r := packRes t.width ((List.range 32).map fun _ => exact t.canon)
    { r with flags := fDQNAN }
  else packRes t.width ((List.range 32).map fun i => t.round .rn false (q4Val (scale % 256) (codes / 2 ^ (4 * i) % 16)))

def execDqnt (o : Ops) (m : ModX) (s : State) : Out :=
  runMatrixAlu (aluOf (.dqnt o m) o .b32 fun _ a b _ => dqntLane (ModX.vty m) a b) s

end Sys2Proof.Machine
end

