-- ==== Sys2Proof/Machine/Dispatch.lean ====
section
/-! DEFINITION. One arm for each row of the opcode table. -/

namespace Sys2Proof.Machine

def exec (i : Instr) (s : State) : Host.Outcome State Fault Refusal :=
  match i with
  | .nop o m => Sys2Proof.Machine.execNop o m s
  | .mov o m => Sys2Proof.Machine.execMov o m s
  | .sel o m => Sys2Proof.Machine.execSel o m s
  | .plop o m => Sys2Proof.Machine.execPlop o m s
  | .ppack o m => Sys2Proof.Machine.execPpack o m s
  | .punpk o m => Sys2Proof.Machine.execPunpk o m s
  | .sprd o m => Sys2Proof.Machine.execSprd o m s
  | .spwr o m => Sys2Proof.Machine.execSpwr o m s
  | .iadd o m => Sys2Proof.Machine.execIadd o m s
  | .isub o m => Sys2Proof.Machine.execIsub o m s
  | .iaddc o m => Sys2Proof.Machine.execIaddc o m s
  | .isubb o m => Sys2Proof.Machine.execIsubb o m s
  | .imul o m => Sys2Proof.Machine.execImul o m s
  | .imulh o m => Sys2Proof.Machine.execImulh o m s
  | .imad o m => Sys2Proof.Machine.execImad o m s
  | .imadw o m => Sys2Proof.Machine.execImadw o m s
  | .idiv o m => Sys2Proof.Machine.execIdiv o m s
  | .irem o m => Sys2Proof.Machine.execIrem o m s
  | .imin o m => Sys2Proof.Machine.execImin o m s
  | .imax o m => Sys2Proof.Machine.execImax o m s
  | .iabs o m => Sys2Proof.Machine.execIabs o m s
  | .ineg o m => Sys2Proof.Machine.execIneg o m s
  | .isad o m => Sys2Proof.Machine.execIsad o m s
  | .iavg o m => Sys2Proof.Machine.execIavg o m s
  | .idot2 o m => Sys2Proof.Machine.execIdot2 o m s
  | .idot4 o m => Sys2Proof.Machine.execIdot4 o m s
  | .iclamp o m => Sys2Proof.Machine.execIclamp o m s
  | .icmp o m => Sys2Proof.Machine.execIcmp o m s
  | .iset o m => Sys2Proof.Machine.execIset o m s
  | .itest o m => Sys2Proof.Machine.execItest o m s
  | .lea o m => Sys2Proof.Machine.execLea o m s
  | .leax o m => Sys2Proof.Machine.execLeax o m s
  | .canon o m => Sys2Proof.Machine.execCanon o m s
  | .pdiff o m => Sys2Proof.Machine.execPdiff o m s
  | .and o m => Sys2Proof.Machine.execAnd o m s
  | .or o m => Sys2Proof.Machine.execOr o m s
  | .xor o m => Sys2Proof.Machine.execXor o m s
  | .not o m => Sys2Proof.Machine.execNot o m s
  | .andn o m => Sys2Proof.Machine.execAndn o m s
  | .orn o m => Sys2Proof.Machine.execOrn o m s
  | .lop3 o m => Sys2Proof.Machine.execLop3 o m s
  | .shl o m => Sys2Proof.Machine.execShl o m s
  | .shr o m => Sys2Proof.Machine.execShr o m s
  | .shra o m => Sys2Proof.Machine.execShra o m s
  | .rotl o m => Sys2Proof.Machine.execRotl o m s
  | .rotr o m => Sys2Proof.Machine.execRotr o m s
  | .fshl o m => Sys2Proof.Machine.execFshl o m s
  | .fshr o m => Sys2Proof.Machine.execFshr o m s
  | .prmt o m => Sys2Proof.Machine.execPrmt o m s
  | .bswap o m => Sys2Proof.Machine.execBswap o m s
  | .popc o m => Sys2Proof.Machine.execPopc o m s
  | .clz o m => Sys2Proof.Machine.execClz o m s
  | .ctz o m => Sys2Proof.Machine.execCtz o m s
  | .brev o m => Sys2Proof.Machine.execBrev o m s
  | .bfx o m => Sys2Proof.Machine.execBfx o m s
  | .bfi o m => Sys2Proof.Machine.execBfi o m s
  | .bmsk o m => Sys2Proof.Machine.execBmsk o m s
  | .fadd o m => Sys2Proof.Machine.execFadd o m s
  | .fsub o m => Sys2Proof.Machine.execFsub o m s
  | .fmul o m => Sys2Proof.Machine.execFmul o m s
  | .fma o m => Sys2Proof.Machine.execFma o m s
  | .fms o m => Sys2Proof.Machine.execFms o m s
  | .fnma o m => Sys2Proof.Machine.execFnma o m s
  | .fmin o m => Sys2Proof.Machine.execFmin o m s
  | .fmax o m => Sys2Proof.Machine.execFmax o m s
  | .fminm o m => Sys2Proof.Machine.execFminm o m s
  | .fmaxm o m => Sys2Proof.Machine.execFmaxm o m s
  | .fabs o m => Sys2Proof.Machine.execFabs o m s
  | .fneg o m => Sys2Proof.Machine.execFneg o m s
  | .fcsgn o m => Sys2Proof.Machine.execFcsgn o m s
  | .fclamp o m => Sys2Proof.Machine.execFclamp o m s
  | .fdot2 o m => Sys2Proof.Machine.execFdot2 o m s
  | .fsum o m => Sys2Proof.Machine.execFsum o m s
  | .fcmp o m => Sys2Proof.Machine.execFcmp o m s
  | .fset o m => Sys2Proof.Machine.execFset o m s
  | .fclass o m => Sys2Proof.Machine.execFclass o m s
  | .frndi o m => Sys2Proof.Machine.execFrndi o m s
  | .fscale o m => Sys2Proof.Machine.execFscale o m s
  | .fxexp o m => Sys2Proof.Machine.execFxexp o m s
  | .fxman o m => Sys2Proof.Machine.execFxman o m s
  | .cvt o m => Sys2Proof.Machine.execCvt o m s
  | .cvtfi o m => Sys2Proof.Machine.execCvtfi o m s
  | .cvtif o m => Sys2Proof.Machine.execCvtif o m s
  | .pack2 o m => Sys2Proof.Machine.execPack2 o m s
  | .pack4 o m => Sys2Proof.Machine.execPack4 o m s
  | .unpk o m => Sys2Proof.Machine.execUnpk o m s
  | .exts o m => Sys2Proof.Machine.execExts o m s
  | .extz o m => Sys2Proof.Machine.execExtz o m s
  | .rcp o m => Sys2Proof.Machine.execRcp o m s
  | .rsq o m => Sys2Proof.Machine.execRsq o m s
  | .sqrt o m => Sys2Proof.Machine.execSqrt o m s
  | .fdiv o m => Sys2Proof.Machine.execFdiv o m s
  | .exp2 o m => Sys2Proof.Machine.execExp2 o m s
  | .log2 o m => Sys2Proof.Machine.execLog2 o m s
  | .exp o m => Sys2Proof.Machine.execExp o m s
  | .log o m => Sys2Proof.Machine.execLog o m s
  | .sin o m => Sys2Proof.Machine.execSin o m s
  | .cos o m => Sys2Proof.Machine.execCos o m s
  | .tanh o m => Sys2Proof.Machine.execTanh o m s
  | .sigm o m => Sys2Proof.Machine.execSigm o m s
  | .erf o m => Sys2Proof.Machine.execErf o m s
  | .gelu o m => Sys2Proof.Machine.execGelu o m s
  | .splus o m => Sys2Proof.Machine.execSplus o m s
  | .obres o m => Sys2Proof.Machine.execObres o m s
  | .obfill o m => Sys2Proof.Machine.execObfill o m s
  | .obdrop o m => Sys2Proof.Machine.execObdrop o m s
  | .obqry o m => Sys2Proof.Machine.execObqry o m s
  | .ixset o m => Sys2Proof.Machine.execIxset o m s
  | .ixgath o m => Sys2Proof.Machine.execIxgath o m s
  | .mma o m => Sys2Proof.Machine.execMma o m s
  | .mmag o m => Sys2Proof.Machine.execMmag o m s
  | .mmaw o m => Sys2Proof.Machine.execMmaw o m s
  | .mdist o m => Sys2Proof.Machine.execMdist o m s
  | .mtopk o m => Sys2Proof.Machine.execMtopk o m s
  | .accld o m => Sys2Proof.Machine.execAccld o m s
  | .accst o m => Sys2Proof.Machine.execAccst o m s
  | .accz o m => Sys2Proof.Machine.execAccz o m s
  | .acclmIn o m => Sys2Proof.Machine.execAcclmIn o m s
  | .acclmOut o m => Sys2Proof.Machine.execAcclmOut o m s
  | .mld o m => Sys2Proof.Machine.execMld o m s
  | .mldSca o m => Sys2Proof.Machine.execMldSca o m s
  | .mldt o m => Sys2Proof.Machine.execMldt o m s
  | .mst o m => Sys2Proof.Machine.execMst o m s
  | .qnt o m => Sys2Proof.Machine.execQnt o m s
  | .dqnt o m => Sys2Proof.Machine.execDqnt o m s
  | .qscl o m => Sys2Proof.Machine.execQscl o m s
  | .qamax o m => Sys2Proof.Machine.execQamax o m s
  | .acccvtI2f o m => Sys2Proof.Machine.execAcccvtI2f o m s
  | .acccvtF2i o m => Sys2Proof.Machine.execAcccvtF2i o m s
  | .ld o m => Sys2Proof.Machine.execLd o m s
  | .st o m => Sys2Proof.Machine.execSt o m s
  | .ldl o m => Sys2Proof.Machine.execLdl o m s
  | .stl o m => Sys2Proof.Machine.execStl o m s
  | .ldc o m => Sys2Proof.Machine.execLdc o m s
  | .ldw o m => Sys2Proof.Machine.execLdw o m s
  | .ldv o m => Sys2Proof.Machine.execLdv o m s
  | .stv o m => Sys2Proof.Machine.execStv o m s
  | .ldlv o m => Sys2Proof.Machine.execLdlv o m s
  | .stlv o m => Sys2Proof.Machine.execStlv o m s
  | .cfill o m => Sys2Proof.Machine.execCfill o m s
  | .cfillRing o m => Sys2Proof.Machine.execCfillRing o m s
  | .crel o m => Sys2Proof.Machine.execCrel o m s
  | .pref o m => Sys2Proof.Machine.execPref o m s
  | .residNear o m => Sys2Proof.Machine.execResidNear o m s
  | .residHbm o m => Sys2Proof.Machine.execResidHbm o m s
  | .residCold o m => Sys2Proof.Machine.execResidCold o m s
  | .seal o m => Sys2Proof.Machine.execSeal o m s
  | .unseal o m => Sys2Proof.Machine.execUnseal o m s
  | .sealComplete g => Sys2Proof.Machine.execSealComplete g s
  | .sealTimeout g => Sys2Proof.Machine.execSealTimeout g s
  | .atom o m => Sys2Proof.Machine.execAtom o m s
  | .atomr o m => Sys2Proof.Machine.execAtomr o m s
  | .cas o m => Sys2Proof.Machine.execCas o m s
  | .atoml o m => Sys2Proof.Machine.execAtoml o m s
  | .casl o m => Sys2Proof.Machine.execCasl o m s
  | .fence o m => Sys2Proof.Machine.execFence o m s
  | .fencex o m => Sys2Proof.Machine.execFencex o m s
  | .fencexComplete n => Sys2Proof.Machine.execFencexComplete n s
  | .msend o m => Sys2Proof.Machine.execMsend o m s
  | .mrecv o m => Sys2Proof.Machine.execMrecv o m s
  | .mprobe o m => Sys2Proof.Machine.execMprobe o m s
  | .frgo o m => Sys2Proof.Machine.execFrgo o m s
  | .fradv o m => Sys2Proof.Machine.execFradv o m s
  | .fradvClose o m => Sys2Proof.Machine.execFradvClose o m s
  | .frwait o m => Sys2Proof.Machine.execFrwait o m s
  | .frstat o m => Sys2Proof.Machine.execFrstat o m s
  | .bra o m => Sys2Proof.Machine.execBra o m s
  | .brx o m => Sys2Proof.Machine.execBrx o m s
  | .call o m => Sys2Proof.Machine.execCall o m s
  | .callx o m => Sys2Proof.Machine.execCallx o m s
  | .ret o m => Sys2Proof.Machine.execRet o m s
  | .exit o m => Sys2Proof.Machine.execExit o m s
  | .mset o m => Sys2Proof.Machine.execMset o m s
  | .msetR o m => Sys2Proof.Machine.execMsetR o m s
  | .mrd o m => Sys2Proof.Machine.execMrd o m s
  | .mclr o m => Sys2Proof.Machine.execMclr o m s
  | .yield o m => Sys2Proof.Machine.execYield o m s
  | .sleep o m => Sys2Proof.Machine.execSleep o m s
  | .sleepExpiry g l => Sys2Proof.Machine.execSleepExpiry g l s
  | .shfl o m => Sys2Proof.Machine.execShfl o m s
  | .vote o m => Sys2Proof.Machine.execVote o m s
  | .ballot o m => Sys2Proof.Machine.execBallot o m s
  | .lscan o m => Sys2Proof.Machine.execLscan o m s
  | .lred o m => Sys2Proof.Machine.execLred o m s
  | .matchL o m => Sys2Proof.Machine.execMatchL o m s
  | .tbar o m => Sys2Proof.Machine.execTbar o m s
  | .cbar o m => Sys2Proof.Machine.execCbar o m s
  | .bcarm o m => Sys2Proof.Machine.execBcarm o m s
  | .bcwait o m => Sys2Proof.Machine.execBcwait o m s
  | .bcwaitTimeout n => Sys2Proof.Machine.execBcwaitTimeout n s
  | .fbwait o m => Sys2Proof.Machine.execFbwait o m s
  | .fbwaitRel o m => Sys2Proof.Machine.execFbwaitRel o m s
  | .expertFillComplete n => Sys2Proof.Machine.execExpertFillComplete n s
  | .fillNoroomTimeout n => Sys2Proof.Machine.execFillNoroomTimeout n s
  | .fillSourceTimeout n => Sys2Proof.Machine.execFillSourceTimeout n s
  | .gangset o m => Sys2Proof.Machine.execGangset o m s
  | .gangclr o m => Sys2Proof.Machine.execGangclr o m s
  | .gangStallTimeout g => Sys2Proof.Machine.execGangStallTimeout g s
  | .gangPartnerEnded g => Sys2Proof.Machine.execGangPartnerEnded g s
  | .accal o m => Sys2Proof.Machine.execAccal o m s
  | .accalGrant core => Sys2Proof.Machine.execAccalGrant core s
  | .accfree o m => Sys2Proof.Machine.execAccfree o m s
  | .launch o m => Sys2Proof.Machine.execLaunch o m s
  | .scall o m => Sys2Proof.Machine.execScall o m s
  | .scallRingTimeout n => Sys2Proof.Machine.execScallRingTimeout n s
  | .scallReplyTimeout n => Sys2Proof.Machine.execScallReplyTimeout n s
  | .stewardReply w => Sys2Proof.Machine.execStewardReply w s
  | .scwait o m => Sys2Proof.Machine.execScwait o m s
  | .trapI o m => Sys2Proof.Machine.execTrapI o m s
  | .trapVec o m => Sys2Proof.Machine.execTrapVec o m s
  | .tret o m => Sys2Proof.Machine.execTret o m s
  | .hpc o m => Sys2Proof.Machine.execHpc o m s
  | .hmeet o m => Sys2Proof.Machine.execHmeet o m s
  | .hparkClr o m => Sys2Proof.Machine.execHparkClr o m s
  | .hparkSet o m => Sys2Proof.Machine.execHparkSet o m s
  | .hparkExit o m => Sys2Proof.Machine.execHparkExit o m s
  | .hrd o m => Sys2Proof.Machine.execHrd o m s
  | .trapEntry g => Sys2Proof.Machine.execTrapEntry g s
  | .ptwait o m => Sys2Proof.Machine.execPtwait o m s
  | .tlbprb o m => Sys2Proof.Machine.execTlbprb o m s
  | .walk o m => Sys2Proof.Machine.execWalk o m s
  | .aliasq o m => Sys2Proof.Machine.execAliasq o m s
  | .aliasqClr o m => Sys2Proof.Machine.execAliasqClr o m s
  | .ctxfrz o m => Sys2Proof.Machine.execCtxfrz o m s
  | .ctxrst o m => Sys2Proof.Machine.execCtxrst o m s
  | .contextResetDone c => Sys2Proof.Machine.execContextResetDone c s
  | .partrst o m => Sys2Proof.Machine.execPartrst o m s
  | .qset o m => Sys2Proof.Machine.execQset o m s
  | .qsetDef o m => Sys2Proof.Machine.execQsetDef o m s
  | .qosset o m => Sys2Proof.Machine.execQosset o m s
  | .wset o m => Sys2Proof.Machine.execWset o m s
  | .wsetRd o m => Sys2Proof.Machine.execWsetRd o m s
  | .eqpopSys o m => Sys2Proof.Machine.execEqpopSys o m s
  | .eqpopMig o m => Sys2Proof.Machine.execEqpopMig o m s
  | .pair x y => Sys2Proof.Machine.execPair x y s
  | .ill l => Sys2Proof.Machine.execIll l s
  | .formationTick => Sys2Proof.Machine.execFormationTick s
  | .meetingTimeout g a => Sys2Proof.Machine.execMeetingTimeout g a s
  | .crossLaneStall g a => Sys2Proof.Machine.execCrossLaneStall g a s
  | .queueStall g => Sys2Proof.Machine.execQueueStall g s
  | .messageStall g => Sys2Proof.Machine.execMessageStall g s
  | .mrecvTimeout n => Sys2Proof.Machine.execMrecvTimeout n s
  | .barrierStall g => Sys2Proof.Machine.execBarrierStall g s
  | .issueSelect core => Sys2Proof.Machine.execIssueSelect core s
  | .longLatencyResult n => Sys2Proof.Machine.execLongLatencyResult n s
  | .registerLineWriteback g r => Sys2Proof.Machine.execRegisterLineWriteback g r s
  | .qnotifyWrite q v => Sys2Proof.Machine.execQnotifyWrite q v s
  | .queuePoll q => Sys2Proof.Machine.execQueuePoll q s
  | .clusterPlacement k => Sys2Proof.Machine.execClusterPlacement k s
  | .gridComplete n => Sys2Proof.Machine.execGridComplete n s
  | .preemption k => Sys2Proof.Machine.execPreemption k s
  | .spill t => Sys2Proof.Machine.execSpill t s
  | .resumeC k => Sys2Proof.Machine.execResumeC k s
  | .homeAccess n => Sys2Proof.Machine.execHomeAccess n s
  | .dieBeacon d => Sys2Proof.Machine.execDieBeacon d s
  | .hostCxlRequest r => Sys2Proof.Machine.execHostCxlRequest r s
  | .snoopTimeout pa => Sys2Proof.Machine.execSnoopTimeout pa s
  | .hostSnoop pa => Sys2Proof.Machine.execHostSnoop pa s
  | .countedFill n => Sys2Proof.Machine.execCountedFill n s
  | .ringFill n => Sys2Proof.Machine.execRingFill n s
  | .consumingRead n => Sys2Proof.Machine.execConsumingRead n s
  | .countedRelease n => Sys2Proof.Machine.execCountedRelease n s
  | .translationMiss m => Sys2Proof.Machine.execTranslationMiss m s
  | .missRepresent n => Sys2Proof.Machine.execMissRepresent n s
  | .pageWalk die c va k => Sys2Proof.Machine.execPageWalk die c va k s
  | .tableWrite n => Sys2Proof.Machine.execTableWrite n s
  | .sharerInvalidate line sharer => Sys2Proof.Machine.execSharerInvalidate line sharer s
  | .tableWriteComplete line => Sys2Proof.Machine.execTableWriteComplete line s
  | .wake die c page outcome detail => Sys2Proof.Machine.execWake die c page outcome detail s
  | .waiterTimeout die c page n => Sys2Proof.Machine.execWaiterTimeout die c page n s
  | .gleanerFaultRecord n => Sys2Proof.Machine.execGleanerFaultRecord n s
  | .fieldMapReply n e => Sys2Proof.Machine.execFieldMapReply n e s
  | .lookupTimeout n => Sys2Proof.Machine.execLookupTimeout n s
  | .gleanerWaitExpiry n => Sys2Proof.Machine.execGleanerWaitExpiry n s
  | .pageFetchReply n p => Sys2Proof.Machine.execPageFetchReply n p s
  | .fetchTimeout n => Sys2Proof.Machine.execFetchTimeout n s
  | .gleanerServiceExpired n => Sys2Proof.Machine.execGleanerServiceExpired n s
  | .stewardWake w => Sys2Proof.Machine.execStewardWake w s
  | .gleanerEvict p => Sys2Proof.Machine.execGleanerEvict p s
  | .leaseRenew key => Sys2Proof.Machine.execLeaseRenew key s
  | .leaseEnd key => Sys2Proof.Machine.execLeaseEnd key s
  | .leaseReleaseRequest key source => Sys2Proof.Machine.execLeaseReleaseRequest key source s
  | .leasePageReceived key e p => Sys2Proof.Machine.execLeasePageReceived key e p s
  | .leaseWaitExpiry n => Sys2Proof.Machine.execLeaseWaitExpiry n s
  | .ptpSync x o d => Sys2Proof.Machine.execPtpSync x o d s
  | .timeUnsafe => Sys2Proof.Machine.execTimeUnsafe s
  | .timeSafe => Sys2Proof.Machine.execTimeSafe s
  | .heartbeatSend => Sys2Proof.Machine.execHeartbeatSend s
  | .heartbeatReceive m inc seq timeBad => Sys2Proof.Machine.execHeartbeatReceive m inc seq timeBad s
  | .heartbeatLoss m => Sys2Proof.Machine.execHeartbeatLoss m s
  | .fenceReceive m inc => Sys2Proof.Machine.execFenceReceive m inc s
  | .harrowExpiryWalk => Sys2Proof.Machine.execHarrowExpiryWalk s
  | .messageDelivery n => Sys2Proof.Machine.execMessageDelivery n s
  | .messageDropTimeout n => Sys2Proof.Machine.execMessageDropTimeout n s
  | .drillAdmit core f => Sys2Proof.Machine.execDrillAdmit core f s
  | .copyNode core f n => Sys2Proof.Machine.execCopyNode core f n s
  | .indirectGatherNode core f n => Sys2Proof.Machine.execIndirectGatherNode core f n s
  | .scatterNode core f n => Sys2Proof.Machine.execScatterNode core f n s
  | .sendNode core f n => Sys2Proof.Machine.execSendNode core f n s
  | .countedFillNode core f n => Sys2Proof.Machine.execCountedFillNode core f n s
  | .releaseNode core f n => Sys2Proof.Machine.execReleaseNode core f n s
  | .nearMemoryTopkNode core f n => Sys2Proof.Machine.execNearMemoryTopkNode core f n s
  | .matrixDispatchNode core f n => Sys2Proof.Machine.execMatrixDispatchNode core f n s
  | .loopNode core f n => Sys2Proof.Machine.execLoopNode core f n s
  | .conditionNode core f n => Sys2Proof.Machine.execConditionNode core f n s
  | .signalNode core f n => Sys2Proof.Machine.execSignalNode core f n s
  | .nodeFinish core f n => Sys2Proof.Machine.execNodeFinish core f n s
  | .watchEngineTrap g => Sys2Proof.Machine.execWatchEngineTrap g s
  | .contextLoss c reason core va pa => Sys2Proof.Machine.execContextLoss c reason core va pa s
  | .moduleFatal => Sys2Proof.Machine.execModuleFatal s
  | .patrolScrub pa bad => Sys2Proof.Machine.execPatrolScrub pa bad s
  | .counterHalving => Sys2Proof.Machine.execCounterHalving s
  | .migrationRescan => Sys2Proof.Machine.execMigrationRescan s
  | .linkPeriodicCheck k lane failed => Sys2Proof.Machine.execLinkPeriodicCheck k lane failed s
  | .flitCrcError k => Sys2Proof.Machine.execFlitCrcError k s
  | .scaleupPortLoss p => Sys2Proof.Machine.execScaleupPortLoss p s
  | .scaleupTraining g far => Sys2Proof.Machine.execScaleupTraining g far s
  | .checkpointDirty hold => Sys2Proof.Machine.execCheckpointDirty hold s
  | .checkpointFull hold => Sys2Proof.Machine.execCheckpointFull hold s
  | .handOver => Sys2Proof.Machine.execHandOver s
  | .jobAbort => Sys2Proof.Machine.execJobAbort s
  | .handoverConfirmTimeout => Sys2Proof.Machine.execHandoverConfirmTimeout s
  | .handoverSpillDeadline => Sys2Proof.Machine.execHandoverSpillDeadline s
  | .handoverAck => Sys2Proof.Machine.execHandoverAck s
  | .checkpointTargetTimeout => Sys2Proof.Machine.execCheckpointTargetTimeout s
  | .routeDrainComplete => Sys2Proof.Machine.execRouteDrainComplete s
  | .corePowerGate core => Sys2Proof.Machine.execCorePowerGate core s
  | .powerLimitStretch n => Sys2Proof.Machine.execPowerLimitStretch n s
  | .auxRise => Sys2Proof.Machine.execAuxRise s
  | .auxLoss => Sys2Proof.Machine.execAuxLoss s
  | .pwrEnRise => Sys2Proof.Machine.execPwrEnRise s
  | .pwrEnFall => Sys2Proof.Machine.execPwrEnFall s
  | .bringupStepDone => Sys2Proof.Machine.execBringupStepDone s
  | .bringupStepTimeout code ch => Sys2Proof.Machine.execBringupStepTimeout code ch s
  | .mrstN => Sys2Proof.Machine.execMrstN s
  | .vfFlr vf port => Sys2Proof.Machine.execVfFlr vf port s
  | .cxlLinkReset port => Sys2Proof.Machine.execCxlLinkReset port s
  | .pohoursUpdate => Sys2Proof.Machine.execPohoursUpdate s
  | .i3cTransfer h w n => Sys2Proof.Machine.execI3cTransfer h w n s
  | .registerWrite r v => Sys2Proof.Machine.execRegisterWrite r v s
  | .shardRequest r => Sys2Proof.Machine.execShardRequest r s
  | .peerPageRead key source => Sys2Proof.Machine.execPeerPageRead key source s
  | .handoverRequest pmask img => Sys2Proof.Machine.execHandoverRequest pmask img s
  | .handoverConfirm ok => Sys2Proof.Machine.execHandoverConfirm ok s
  | .checkpointTargetAccept => Sys2Proof.Machine.execCheckpointTargetAccept s
  | .harrowRestoreNotice key => Sys2Proof.Machine.execHarrowRestoreNotice key s
  | .debuggerHalt core => Sys2Proof.Machine.execDebuggerHalt core s
  | .debuggerResume core => Sys2Proof.Machine.execDebuggerResume core s
  | .corePowerUngate core => Sys2Proof.Machine.execCorePowerUngate core s
  | .periodicRetraining => Sys2Proof.Machine.execPeriodicRetraining s

end Sys2Proof.Machine
end

