-- ==== Sys2Proof/Machine/Fetch.lean ====
section
/-! DEFINITION. Fetching (02 R23 to R25 checks 1 and 2; 13 R339; 16 R397, R398): the fetch block is translated, the
instruction is read from it and decoded; and how a program is loaded, which `State.withFetchWord` stands for (log 5).
What rests on the model rather than on the plain words of the manual: log 5 (DESIGN CHOICE). -/

namespace Sys2Proof.Machine

/-- Opcodes that R64 and R65 restrict. -/
def rightsOf (opc : BitVec 8) : Rights :=
  if 0xE8 ≤ opc.toNat ∧ opc.toNat ≤ 0xF2 then .system
  else if 0xE1 ≤ opc.toNat ∧ opc.toNat ≤ 0xE5 then .handler
  else .all

/-- The code of a word that decoding rejects, with what depends on the group (03 R72). -/
def State.rejectCode (s : State) (g : Group) (opc : BitVec 8) (c : IllegalCode) : IllegalCode :=
  match c with
  | .lengthBits => .lengthBits
  | .unassigned => .unassigned
  | c => (s.rightsCode g (rightsOf opc)).getD c

/-- What fetching answers: an instruction, or what happens instead of one. -/
inductive Fetched
  | run (s : State) (i : Instr)
  | done (s : State)

/-- Bytes of the fetch block from the PC up. -/
def State.blockBytes (s : State) (pa : Nat) : List Byte := s.homeRead pa (32 - pa % 32)

/-- Decode what has been fetched; a word that crosses the block takes the fetch-alignment trap (02 R24). -/
def State.decoded (s : State) (u : Cur) (g : Group) (bs : List Byte) : Fetched :=
  let lane := (lanesOf u.lanes).headD 0
  match decode bs with
  | .ok (i, _) => .run s i
  | .error .short => .done (s.raise u.gid ⟨2, 0, lane, u.pc, u.pc, 0, u.lanes⟩)
  | .error (.illegal opc c) =>
    .done (s.raise u.gid ⟨1, (s.rejectCode g opc c).num, lane, u.pc, 0, 0, u.lanes⟩)

/-- Fetch for a bundle. -/
def State.fetch (s : State) (u : Cur) (g : Group) : Fetched :=
  let lanes := lanesOf u.lanes
  let lane := lanes.headD 0
  let e : Env := { s := s, u := u, g := g, lanes := lanes, act := lanes, next := u.pc, winOver := 0, a := fun _ => 0, b := fun _ => 0,
                   c := fun _ => 0 }
  let stay := fun (o : Out) => match o with | .next s => Fetched.done s | _ => Fetched.done s
  if !canonical u.pc then .done (s.raise u.gid ⟨3, 8, lane, u.pc, u.pc, 0, u.lanes⟩)
  else
    match s.translate e.asker u.pc .fetch with
    | (s, .ok pa _ _) =>
      if s.home pa == .none then .done (s.raise u.gid ⟨0xB, 0, lane, u.pc, u.pc, BitVec.ofNat 64 pa, u.lanes⟩)
      -- the fetch is a read at its home (13 R346; 07 R178)
      else if s.lineHeld pa || s.hostWaits false pa (32 - pa % 32) then
        stay (e.blockAt (s.ask false pa (32 - pa % 32)) .tick)
      -- poison is consumed, that of a retired frame too (17 R434; log 29)
      else if s.poisoned pa (32 - pa % 32) then .done { (s.reportBad pa 0).lose g.ctx 1 g.core u.pc pa with cur := none }
      else s.decoded u g (s.blockBytes pa)
    | (s, .miss lvl en epa) => stay (e.park s ⟨lane, u.lanes, u.pc, 32, .fetch⟩ lvl en epa)
    | (s, .prot d) => .done (s.raise u.gid ⟨3, d, lane, u.pc, u.pc, 0, u.lanes⟩)
    | (s, .wait) => stay (e.blockAt s .tick)
    | (s, .stop) => .done { s with cur := none }

/-! ### Loading a program (log 5) -/

/-- Page tables of context 0 that map 64 KiB at virtual 0x10000 to physical 0x20000, readable, writable, executable:
(physical address, entry). -/
def loadTables : List (Nat × Nat) :=
  [(0x100000, 0x101000 / 4096 * 1024 + 1), (0x101000, 0x102000 / 4096 * 1024 + 1), (0x102000, 0x103000 / 4096 * 1024 + 1),
   (0x103000, 0x104000 / 4096 * 1024 + 1)] ++
  (List.range 16).map fun i => (0x104080 + 8 * i, 2 ^ 63 + 0x28000 / 4096 * 1024 + 0xDF)

/-- The lane of a launched group at the entry. -/
def Lane.atEntry (pc : W64) : Lane := { Lane.off with pc := pc, stat := .live }

/-- A group of 32 live lanes at the entry. -/
def loadGroup : Group where
  ctx := 0
  grid := 0
  cluster := 0
  team := 0
  core := 0
  slot := 0
  gix := 0
  nv := 256
  ns := 64
  compat := false
  lanes := allLanes.map fun l => (l, Lane.atEntry 0x10000)
  v := []
  vEmpty := []
  sreg := []
  sEmpty := []
  astat := 0
  seed := 0
  gang := 0
  hvec := 0
  inh := false
  trap := TrapRec.zero
  owed := []
  pend := none
  deferred := []
  trapAt := 0
  stopAt := 0
  hold := none
  retry := none
  queues := []
  heads := []
  awaited := []
  due := []
  meets := []
  bundles := []
  watch := []

def loadTeam : Team where
  ctx := 0
  grid := 0
  cluster := 0
  core := 0
  teamix := 0
  lmSize := 65536
  need := 1024
  lm := []
  coreLate := []
  engineLate := []
  bad := []
  boxes := []
  msgLost := 0
  groups := [0]
  ended := false
  spilled := false

def loadGrid : Grid where
  ctx := 0
  queue := 0
  die := 0
  ncl := 1
  llm1 := 31
  w := 1
  h := 1
  dieMask := 0
  prio := 0
  fscope := .modul
  rel := false
  seed := 0
  arg := 0
  save := 0x1000
  donea := 0
  entry := 0x10000
  lmKib := 64
  tg := 1
  ns := 64
  nv := 256
  compat := false
  image := []
  winSize := []
  win := []
  quota0 := defqReset
  quota := []
  acq := []
  pass := []
  started := 1
  finished := 0
  completed := false

def loadCluster : Cluster := { grid := 0, ix := 0, phase := .resident, die := 0, x0 := 0, y0 := 0, teams := [0] }

/-- What system software does before a program's first instruction: context 0 live with its root, its tables and the
words at the entry in memory, and one team of one group, whose bundle issues next. -/
def State.loadProgram (s : State) (bs : List Byte) : State :=
  let mem := loadTables.foldl (fun m e => Memory.setBytes m e.1 (leBytes 8 e.2)) s.mem
  { s with
    agenda := []
    power := .on
    mem := Memory.setBytes mem 0x20000 bs
    desc := Tab.write 0 (Tab.write 0 s.desc 0 0x7) 8 0xA000000000000100
    frame := Tab.write 0 (Tab.write 0 s.frame 2 1) 16 1
    tlb := []
    tableWrites := []
    poison := []
    retired := []
    counted := []
    grids := Tab.set s.grids 0 loadGrid
    clusters := Tab.set s.clusters 0 loadCluster
    teams := Tab.set s.teams 0 loadTeam
    groups := Tab.set s.groups 0 loadGroup
    cur := some { gid := 0, lanes := BitVec.allOnes 32, pc := 0x10000, fresh := true } }

end Sys2Proof.Machine
end

