-- ==== Sys2Proof/Machine/Schedule.lean ====
section
/-! DEFINITION. Which event happens next when the environment names none (log 4): the first, in a fixed order, that changes the
state. What only the outside can bring about (hosts, stewards, other modules, pins, errors) is never among them.
What rests on the model rather than on the plain words of the manual: log 4 (DESIGN CHOICE), log 33 (DEDUCED). -/

namespace Sys2Proof.Machine

/-- The meaning of an event, its arguments given. -/
abbrev Meaning : Type := State → Out

/-- The first of some events that changes the state: what it leads to. -/
def State.firstChange (s : State) : List Meaning → Option State
  | [] => none
  | f :: fs =>
    match f s with
    | .next t => if t = s then s.firstChange fs else some t
    | _ => s.firstChange fs

def indices {α : Type} (l : List α) : List Nat := List.range l.length

/-- Results and accesses on their way. -/
def State.fabricEvents (s : State) : List Meaning :=
  (indices s.results).map execLongLatencyResult ++
  s.fabric.zipIdx.map (fun r =>
    if s.isTableWrite r.1 then execTableWrite r.2
    else match r.1.kind with
      | .fill _ => execCountedFill r.2
      | .ringFill _ => execRingFill r.2
      | .consume => execConsumingRead r.2
      | .release => execCountedRelease r.2
      | _ => execHomeAccess r.2) ++
  s.tableWrites.flatMap (fun t => t.waits.map fun d => execSharerInvalidate t.line d) ++
  s.tableWrites.map (fun t => execTableWriteComplete t.line) ++
  s.snoops.map (fun l => execHostSnoop (64 * l)) ++
  (s.hostSt.filter fun e => s.waitsRecall (e.1 / 2) || Tab.has s.recalls (e.1 / 2)).map fun e => execSnoopTimeout (32 * e.1)

/-- The start of a node, by its kind. -/
def nodeEvent (core slot ix kind : Nat) : Meaning :=
  match kind with
  | 0 => execCopyNode core slot ix
  | 1 => execIndirectGatherNode core slot ix
  | 2 => execScatterNode core slot ix
  | 3 => execSendNode core slot ix
  | 4 => execCountedFillNode core slot ix
  | 5 => execReleaseNode core slot ix
  | 6 => execNearMemoryTopkNode core slot ix
  | 7 => execMatrixDispatchNode core slot ix
  | 8 => execLoopNode core slot ix
  | 9 => execConditionNode core slot ix
  | _ => execSignalNode core slot ix

/-- Furrows, messages, pools and calls. -/
def State.engineEvents (s : State) : List Meaning :=
  (s.furrows.filter fun f => f.2.opened).flatMap (fun f =>
    execDrillAdmit (f.1 / 16) (f.1 % 16) ::
    f.2.nodes.flatMap fun n =>
      [execNodeFinish (f.1 / 16) (f.1 % 16) n.ix, nodeEvent (f.1 / 16) (f.1 % 16) n.ix n.kind]) ++
  (indices s.sends).flatMap (fun n => [execMessageDelivery n, execMessageDropTimeout n]) ++
  (indices s.pendings).flatMap (fun n => [execMrecvTimeout n, execBcwaitTimeout n]) ++
  (indices s.fences).map execFencexComplete ++
  (indices s.fills).flatMap (fun n => [execExpertFillComplete n, execFillNoroomTimeout n, execFillSourceTimeout n]) ++
  (indices s.calls).flatMap (fun n => [execScallRingTimeout n, execScallReplyTimeout n]) ++
  (s.accReqs.map fun r => execAccalGrant r.core)

/-- What a group waits for. -/
def State.groupEvents (s : State) : List Meaning :=
  s.groups.flatMap fun e =>
    let g := e.2
    (if g.pend.isSome then [execTrapEntry e.1] else []) ++
    (if g.watch.isEmpty then [] else [execWatchEngineTrap e.1]) ++
    (match g.hold with
      | some h =>
        match h.kind with
        | .barrier _ _ => [execBarrierStall e.1]
        | .gang _ => ((s.groups.filter fun x => x.2.ended).map fun x => execGangPartnerEnded x.1) ++ [execGangStallTimeout e.1]
        | .msend => [execMessageStall e.1]
        | .seal => [execSealComplete e.1, execSealTimeout e.1]
        | _ => []
      | none => []) ++
    (g.liveLanes.flatMap fun l =>
      let x := g.lane l
      (if x.held then [execMeetingTimeout e.1 x.meet] else []) ++
      (match x.block with
        | some (.sleep _) => [execSleepExpiry e.1 l]
        | some (.cross _) => [execCrossLaneStall e.1 (g.epc l)]
        | some (.queue _ _) => [execQueueStall e.1]
        | _ => []))

/-- Placement, launch and completion. -/
def State.workEvents (s : State) : List Meaning :=
  s.resets.map execContextResetDone ++
  (((List.range 1024).filter fun c => s.rstBusy c).map execContextResetDone) ++
  (s.grids.map fun e => execGridComplete e.1) ++
  (s.queue.map fun e => execQueuePoll e.1) ++
  (s.grids.map fun e => execPreemption e.1) ++
  (s.teams.map fun e => execSpill e.1) ++
  (s.clusters.map fun e => execResumeC e.1) ++
  ([3, 2, 1, 0].flatMap fun k => (s.grids.filter fun e => e.2.cls == k).map fun e => execClusterPlacement e.1)

/-- Misses, the Gleaner and leases. -/
def State.gleanerEvents (s : State) : List Meaning :=
  (indices s.represent).flatMap (fun n => [execMissRepresent n, execWaiterTimeout 0 0 0 (n + 2 ^ 20)]) ++
  s.fmt.flatMap (fun e => (indices e.waiters).map fun n => execWaiterTimeout e.die e.ctx e.page n) ++
  (indices s.ringWait).map (fun n => execWaiterTimeout 0 0 0 (n + 64)) ++
  (indices s.faultIn).map execGleanerFaultRecord ++
  s.ringWait.map (fun w => execGleanerFaultRecord (w.miss.ctx + 2 ^ 16)) ++
  s.services.zipIdx.flatMap (fun v =>
    (if s.ownShard v.1.key then [execFieldMapReply v.2 none] else []) ++
    [execLookupTimeout v.2, execGleanerWaitExpiry v.2, execFetchTimeout v.2, execLeaseWaitExpiry v.2, execGleanerServiceExpired v.2]) ++
  ((s.installs.map (·.part)).eraseDups.map execGleanerEvict) ++
  s.leases.flatMap (fun l => [execLeaseRenew l.key, execLeaseEnd l.key]) ++
  (s.seals.map fun x => execSealComplete x.gid)

/-- Clocks of the module. -/
def State.clockEvents (s : State) : List Meaning :=
  [execTimeUnsafe, execTimeSafe, execHeartbeatSend, execHarrowExpiryWalk, execCounterHalving, execMigrationRescan, execPohoursUpdate,
    execHandoverConfirmTimeout, execHandoverSpillDeadline, execCheckpointTargetTimeout] ++
  s.watched.map fun w => execHeartbeatLoss w.1

/-- Cores that have a bundle to issue. -/
def State.issueEvents (s : State) : List Meaning :=
  ((s.groups.filter fun e => !e.2.bundles.isEmpty).map fun e => e.2.core).eraseDups.map execIssueSelect

/-- What the next event leads to: none leaves the formation tick. -/
def State.work? (s : State) : Option State :=
  s.firstChange (s.clockEvents ++ s.fabricEvents ++ s.groupEvents ++ s.engineEvents ++ s.gleanerEvents ++ s.workEvents ++
    s.issueEvents)

/-- Only machine steps may stand on the agenda; an encoded instruction runs where a bundle fetched it. -/
def isEvent (i : Instr) : Bool :=
  match i with
  | .pair _ _ | .ill _ => false
  | i => i.ops?.isNone

/-- May the event happen in the module's power state (19 R467, R473)? Outside ON only its pins, bring-up, time and the identity store's
bus are live. -/
def State.livesFor (s : State) (i : Instr) : Bool :=
  match i with
  | .auxRise | .auxLoss | .pwrEnRise | .pwrEnFall | .mrstN | .bringupStepDone | .bringupStepTimeout _ _ | .formationTick
  | .i3cTransfer _ _ _ => true
  | _ => s.power == .on

end Sys2Proof.Machine
end

