-- ==== Sys2Proof/Machine/Step.lean ====
section
/-! DEFINITION. One step: the next event of the agenda, else the instruction of the bundle that issues, else the next
event of the default order (log 4).
What rests on the model rather than on the plain words of the manual: log 4 (DESIGN CHOICE), log 5 (DESIGN CHOICE). -/

namespace Sys2Proof.Machine

/-- A step of the module. -/
def step (s : State) : Host.Outcome State Fault Refusal :=
  match s.agenda with
  | i :: rest => if isEvent i && s.livesFor i then exec i { s with agenda := rest } else .next { s with agenda := rest }
  | [] =>
    if s.power != .on then exec .formationTick s else
    match s.cur with
    | some u =>
      match s.group? u.gid with
      | some g =>
        match s.fetch u g with
        | .run s i => exec i s
        | .done s => .next s
      | none => .next { s with cur := none }
    | none =>
      match s.work? with
      | some t => .next t
      | none => exec .formationTick s

/-- `s` with an instruction stored where the next step fetches: system software has loaded a program whose first words
these are (log 5). -/
def State.withFetchWord (s : State) (nbits w : Nat) : State := s.loadProgram (natBytes 32 (w % 2 ^ nbits))

end Sys2Proof.Machine
end

