-- ==== Sys2Proof/Safety.lean ====
section
/-! DEFINITION. What a safe run is, and the words that the statements of Certificates/Slice0 use: the parts of an
instruction, when an instruction begins, what a bundle's group holds afterwards, and what it leaves as it was.
What rests on the model rather than on the plain words of the manual: log 9 (DESIGN CHOICE). -/

namespace Sys2Proof

namespace Machine

/-! ### Safe runs -/

/-- The invariant of every step: memory, counted data, operand buffers and the identity store in canonical form. -/
def State.memWf (s : State) : Bool :=
  s.mem.wf && s.countedData.wf && s.obMem.wf && s.idStore.wf

end Machine

/-- `k` steps from a state all answer a next state whose memories are canonical. -/
def SafeRun : Nat → Machine.State → Prop
  | 0, s => s.memWf = true
  | k + 1, s => s.memWf = true ∧ ∃ s', Machine.step s = .next s' ∧ SafeRun k s'

namespace Machine

/-! ### When an instruction begins (02 R25, R42, R43) -/

/-- Who may issue the instruction (03 R64, R65). -/
def needs : Instr → Rights
  | .ptwait _ _ | .tlbprb _ _ | .walk _ _ | .aliasq _ _ | .aliasqClr _ _ | .ctxfrz _ _ | .ctxrst _ _ | .partrst _ _
  | .qset _ _ | .qsetDef _ _ | .qosset _ _ | .wset _ _ | .wsetRd _ _ | .eqpopSys _ _ | .eqpopMig _ _ => .system
  | .tret _ _ | .hpc _ _ | .hmeet _ _ | .hparkClr _ _ | .hparkSet _ _ | .hparkExit _ _ | .hrd _ _ => .handler
  | _ => .all

/-- Who asks for the translation of a bundle's fetch block: no walk starts while reads of its threads are on their way. -/
def fetchAsker (s : State) (u : Cur) (g : Group) : Asker :=
  ⟨coreDie g.core, g.ctx, 0, g.core, u.pc, (s.inFlight u.gid (maskOf (lanesOf u.lanes))).any fun r => r.kind.reads⟩

/-- The operations whose operands an instruction word carries: one, or two for a pair word. SPRD's source A holds an
index (R47); LDW reads the window its modifier names (08 R216). -/
def partsOf : Instr → List Part
  | .pair x y =>
    match halfOf x, halfOf y with
    | some hx, some hy => [{ o := hx.alu.o, sg := hx.alu.sg }, { o := hy.alu.o, sg := hy.alu.sg }]
    | _, _ => []
  | .sprd o m => [{ o := o, sg := { (Instr.sprd o m).sig with a := none } }]
  | .ldw o m => [{ o := o, sg := (Instr.ldw o m).sig, win := some (m.opf.extractLsb' 0 4).toNat }]
  | .st o m => [{ o := o, sg := (Instr.st o m).sig, data := some 1 }]
  | .stv o m => [{ o := o, sg := (Instr.stv o m).sig, data := some 1 }]
  | .cfill o m => [{ o := o, sg := (Instr.cfill o m).sig, data := some 1 }]
  | .cfillRing o m => [{ o := o, sg := (Instr.cfillRing o m).sig, data := some 1 }]
  | i =>
    match i.ops? with
    | some o => [{ o := o, sg := i.sig }]
    | none => []

/-- The operations as the instruction begins with them in a state: MMAG spans vB+1 where its descriptor says so (06 R140, R153). -/
def partsAt (s : State) : Instr → List Part
  | .mmag o m => [{ o := o, sg := (Instr.mmag o m).sig, reg := s.mmagSpan o (Instr.mmag o m).sig }]
  | i => partsOf i

/-- The instruction begins: a bundle issues, no check of 02 R25 stops it, `e` is what it sees, with at least one lane that is not
blocked, and it consumes no poison of the register cache (17 R432). -/
def Begins (i : Instr) (s : State) (e : Env) : Prop :=
  s.cur = some e.u ∧
  ∃ g, s.group? e.u.gid = some g ∧ s.stopOf e.u g (needs i) (partsAt s i) = none ∧
    e = s.issueEnv i.len (partsAt s i) e.u g ∧ e.lanes ≠ [] ∧ g.readsBad (partsAt s i) e.lanes = false

/-- It begins, and the guard of some lane is true. -/
def BeginsActive (i : Instr) (s : State) (e : Env) : Prop := Begins i s e ∧ e.act ≠ []

/-- No shadow mismatch is pending (04 R104; the input `shadow` of log 9). -/
def NoShadow (s : State) : Prop := s.shadow = 0

/-- Every lane of the group that a rule waits for has arrived at this tick (11 R302). -/
def Meets (e : Env) (mask : W32) : Prop := e.u.fresh = true ∧ e.arrived mask = true

/-! ### What a bundle's group holds afterwards -/

/-- The instruction answers a next state in which the bundle's group is `g'`. -/
def Leaves (i : Instr) (s : State) (e : Env) (g' : Group) : Prop :=
  ∃ t, exec i s = .next t ∧ t.group? e.u.gid = some g'

/-- The instruction answers a next state in which each active lane's destination register holds `f` of the lane, and
the sticky flags are those before it, WIN_OVR of a window source read past its bound (02 R38), and `fl`. -/
def Gives (i : Instr) (o : Ops) (s : State) (e : Env) (f : Nat → W32) (fl : W32) : Prop :=
  ∃ g', Leaves i s e g' ∧ (∀ l ∈ e.act, g'.vr o.dst.toNat l = f l) ∧ g'.astat = e.g.astat ||| e.winOver ||| fl

/-- The instruction answers a next state in which each active lane's destination predicate is true exactly where `f`
holds of the lane (p7 always), with WIN_OVR of a window source and the sticky flags `fl` of the active lanes added. -/
def Tests (i : Instr) (o : Ops) (s : State) (e : Env) (f : Nat → Prop) (fl : Nat → W32) : Prop :=
  ∃ g', Leaves i s e g' ∧ (∀ l ∈ e.act, (g'.lane l).pred o.dst.toNat = true ↔ o.dst.toNat = 7 ∨ f l) ∧
    g'.astat = e.act.foldl (fun a l => a ||| fl l) (e.g.astat ||| e.winOver)

/-- The instruction answers a next state in which each element of each active lane's destination is the integer `f` of
lane and element, modulo 2^W, or under `sat` clamped to the type's range with ISAT where that changes it (04 R80). -/
def IntElems (i : Instr) (o : Ops) (t : IntTy) (s : State) (e : Env) (sat : Bool) (f : Nat → Nat → Int) : Prop :=
  ∃ g', Leaves i s e g' ∧
    (∀ l ∈ e.act, ∀ k < (Ty.i t).elems, elemOf t.width (g'.vrs o.dst.toNat l (Ty.i t).regs) k =
      t.wrap (if sat then t.clamp (f l k) else f l k)) ∧
    g'.astat = e.act.foldl (fun a l => a |||
      if sat = true ∧ ∃ k ∈ List.range (Ty.i t).elems, t.fits (f l k) = false then fISAT else 0) (e.g.astat ||| e.winOver)

/-- A destination that is a vector register and no queue port (02 R52). -/
def VecDst (i : Instr) (o : Ops) (e : Env) : Prop :=
  (∃ n a, i.sig.dst = .vec n a) ∧ e.g.isPort o.dst.toNat = false

/-! ### What is left as it was -/

/-- Every byte of physical memory reads as before. -/
def SameMem (s t : State) : Prop := ∀ a, Memory.byte t.mem a = Memory.byte s.mem a

/-- Every byte of local memory of every team reads as before. -/
def SameLocal (s t : State) : Prop := ∀ k a n, t.lmNum k a n = s.lmNum k a n

/-- Every other group is as before. -/
def OtherGroups (s t : State) (gid : Nat) : Prop := ∀ k, k ≠ gid → t.group? k = s.group? k

/-- Vector registers but those that `d` names, scalar registers but those that `c` names, predicates but those that `p`
names, are as before. -/
def SameRegs (g g' : Group) (d : Nat → Nat → Prop) (c : Nat → Prop) (p : Nat → Nat → Prop) : Prop :=
  (∀ r l, ¬ d r l → g'.vr r l = g.vr r l) ∧ (∀ r, ¬ c r → g'.sr r = g.sr r) ∧
  ∀ l k, ¬ p l k → (g'.lane l).pred k = (g.lane l).pred k

/-- SEED, GANG, the handler vector, the trap registers and the handler flag are as before, and so are every lane's MEET,
LSTAT, PARK and handler mark (01 R17, R18; 16 R400). -/
def SameSystem (g g' : Group) : Prop :=
  g'.seed = g.seed ∧ g'.gang = g.gang ∧ g'.hvec = g.hvec ∧ g'.trap = g.trap ∧ g'.inh = g.inh ∧
  ∀ l, (g'.lane l).meet = (g.lane l).meet ∧ (g'.lane l).stat = (g.lane l).stat ∧ (g'.lane l).park = (g.lane l).park ∧
    (g'.lane l).exitMark = (g.lane l).exitMark

/-- Of the bundle's group, every vector register outside `d`, scalar register outside `c`, predicate outside `p` and
full/empty bit outside `m` is as it was, and so are its special registers; so are every other group and every byte of
memory. -/
def Keeps (s t : State) (e : Env) (d : Nat → Nat → Prop) (c : Nat → Prop) (p : Nat → Nat → Prop) (m : DReg → Prop) : Prop :=
  (∃ g g', s.group? e.u.gid = some g ∧ t.group? e.u.gid = some g' ∧ SameRegs g g' d c p ∧ SameSystem g g' ∧
    ∀ x, ¬ m x → g'.isEmpty x = g.isEmpty x) ∧
  OtherGroups s t e.u.gid ∧ SameMem s t

/-- Every other field of the state: descriptors, partitions, translations, engines, the Gleaner, links. -/
def SameRest (s t : State) : Prop :=
  t.mem = s.mem ∧ t.teams = s.teams ∧ t.clusters = s.clusters ∧ t.desc = s.desc ∧ t.part = s.part ∧ t.frame = s.frame ∧
  t.fabric = s.fabric ∧ t.results = s.results ∧ t.tlb = s.tlb ∧ t.ob = s.ob ∧ t.obMem = s.obMem ∧ t.acc = s.acc ∧
  t.banks = s.banks ∧ t.furrows = s.furrows ∧ t.pool = s.pool ∧ t.calls = s.calls ∧ t.sends = s.sends ∧
  t.sysQueue = s.sysQueue ∧ t.power = s.power ∧ t.cycle = s.cycle ∧ t.gtime = s.gtime

/-- In `t` the active lanes of the bundle run on at `dest`, the other lanes that ran after the instruction. -/
def Jumps (e : Env) (t : State) (dest : Nat → W64) : Prop :=
  ∃ g', t.group? e.u.gid = some g' ∧ ∀ l ∈ e.lanes, g'.epc l = if l ∈ e.act then dest l else e.next

/-- In `t` the destination pair of each active lane holds the address after the instruction. -/
def Links (e : Env) (t : State) (o : Ops) : Prop :=
  ∃ g', t.group? e.u.gid = some g' ∧ ∀ l ∈ e.act, g'.vrs o.dst.toNat l 2 = e.next.toNat

/-! ### Instructions that compute in each lane -/

/-- The instructions of chapters 02, 05 and 06 that compute from their sources alone, with what they compute. -/
def aluFor : Instr → Option Alu
  | .mov o m => some (aluMov o m) | .sel o m => some (aluSel o m) | .plop o m => some (aluPlop o m)
  | .ppack o m => some (aluPpack o m) | .punpk o m => some (aluPunpk o m)
  | .iadd o m => some (aluIadd o m) | .isub o m => some (aluIsub o m) | .iaddc o m => some (aluIaddc o m)
  | .isubb o m => some (aluIsubb o m) | .imul o m => some (aluImul o m) | .imulh o m => some (aluImulh o m)
  | .imad o m => some (aluImad o m) | .imadw o m => some (aluImadw o m) | .idiv o m => some (aluIdiv o m)
  | .irem o m => some (aluIrem o m) | .imin o m => some (aluImin o m) | .imax o m => some (aluImax o m)
  | .iabs o m => some (aluIabs o m) | .ineg o m => some (aluIneg o m) | .isad o m => some (aluIsad o m)
  | .iavg o m => some (aluIavg o m) | .idot2 o m => some (aluIdot2 o m) | .idot4 o m => some (aluIdot4 o m)
  | .iclamp o m => some (aluIclamp o m) | .icmp o m => some (aluIcmp o m) | .iset o m => some (aluIset o m)
  | .itest o m => some (aluItest o m) | .lea o m => some (aluLea o m) | .leax o m => some (aluLeax o m)
  | .canon o m => some (aluCanon o m) | .pdiff o m => some (aluPdiff o m)
  | .and o m => some (aluAnd o m) | .or o m => some (aluOr o m) | .xor o m => some (aluXor o m)
  | .not o m => some (aluNot o m) | .andn o m => some (aluAndn o m) | .orn o m => some (aluOrn o m)
  | .lop3 o m => some (aluLop3 o m) | .shl o m => some (aluShl o m) | .shr o m => some (aluShr o m)
  | .shra o m => some (aluShra o m) | .rotl o m => some (aluRotl o m) | .rotr o m => some (aluRotr o m)
  | .fshl o m => some (aluFshl o m) | .fshr o m => some (aluFshr o m) | .prmt o m => some (aluPrmt o m)
  | .bswap o m => some (aluBswap o m) | .popc o m => some (aluPopc o m) | .clz o m => some (aluClz o m)
  | .ctz o m => some (aluCtz o m) | .brev o m => some (aluBrev o m) | .bfx o m => some (aluBfx o m)
  | .bfi o m => some (aluBfi o m) | .bmsk o m => some (aluBmsk o m)
  | .fadd o m => some (aluFadd o m) | .fsub o m => some (aluFsub o m) | .fmul o m => some (aluFmul o m)
  | .fma o m => some (aluFma o m) | .fms o m => some (aluFms o m) | .fnma o m => some (aluFnma o m)
  | .fmin o m => some (aluFmin o m) | .fmax o m => some (aluFmax o m) | .fminm o m => some (aluFminm o m)
  | .fmaxm o m => some (aluFmaxm o m) | .fabs o m => some (aluFabs o m) | .fneg o m => some (aluFneg o m)
  | .fcsgn o m => some (aluFcsgn o m) | .fclamp o m => some (aluFclamp o m) | .fdot2 o m => some (aluFdot2 o m)
  | .fsum o m => some (aluFsum o m) | .fcmp o m => some (aluFcmp o m) | .fset o m => some (aluFset o m)
  | .fclass o m => some (aluFclass o m) | .frndi o m => some (aluFrndi o m) | .fscale o m => some (aluFscale o m)
  | .fxexp o m => some (aluFxexp o m) | .fxman o m => some (aluFxman o m)
  | .cvt o m => some (aluCvt o m) | .cvtfi o m => some (aluCvtfi o m) | .cvtif o m => some (aluCvtif o m)
  | .pack2 o m => some (aluPack2 o m) | .pack4 o m => some (aluPack4 o m) | .unpk o m => some (aluUnpk o m)
  | .exts o m => some (aluExts o m) | .extz o m => some (aluExtz o m)
  | .rcp o m => some (aluRcp o m) | .rsq o m => some (aluRsq o m) | .sqrt o m => some (aluSqrt o m)
  | .fdiv o m => some (aluFdiv o m) | .exp2 o m => some (aluExp2 o m) | .log2 o m => some (aluLog2 o m)
  | .exp o m => some (aluExp o m) | .log o m => some (aluLog o m) | .sin o m => some (aluSin o m)
  | .cos o m => some (aluCos o m) | .tanh o m => some (aluTanh o m) | .sigm o m => some (aluSigm o m)
  | .erf o m => some (aluErf o m) | .gelu o m => some (aluGelu o m) | .splus o m => some (aluSplus o m)
  | .ixset o m => some (aluOf (.ixset o m) o .b32 fun _ a b _ => { val := indexEntry a b })
  | .dqnt o m => some (aluOf (.dqnt o m) o .b32 fun _ a b _ => dqntLane (ModX.vty m) a b)
  | .qscl o m => some (aluOf (.qscl o m) o .b32 fun _ a _ _ => qsclLane (ModX.qt m) a)
  | .qamax o m => some (aluOf (.qamax o m) o .b32 fun _ a _ _ => qamaxLane (ModX.vty m) a)
  | _ => none

/-- Instructions of the matrix path that compute in each lane (06 R141). -/
def onPath : Instr → Bool
  | .ixset _ _ | .qnt _ _ | .dqnt _ _ | .qscl _ _ | .qamax _ _ => true
  | _ => false

/-- No FENCEX of the team holds the matrix path back, where the instruction takes it (09 R259). -/
def PathFree (i : Instr) (s : State) (e : Env) : Prop := onPath i = true → s.fenced e.g.team 4 = false

end Machine

end Sys2Proof
end

