-- ==== Sys2Proof/Certificates/Slice0/Obligations.lean ====
section
/-! DEFINITION. The statements about the machine, one definition each; OBLIGATIONS.json lists them in this order. -/

section Statements

open Sys2Proof Sys2Proof.Machine

/-- With no event pending, power ON and a bundle chosen, where the fetch block translates, its line is not held, its
home need recall no host copy and no byte of it is poisoned (log 29), and its bytes from the PC decode to i, a step
is exec of i in the state after the translation; nothing else is done around it. An event at the head of the agenda
that the power state lets live is run by a step, and leaves the agenda (the agenda is the model's own, log 4); one
that it does not leaves the agenda without effect. With neither, and no other event that changes the state, or
outside ON, a step is the formation tick. -/
def Obligations.StepRunsDecodedInstruction : Prop :=
  (∀ (s s' : State) (u : Cur) (g : Group) (pa lf : Nat) (en : List Nat) (i : Instr) (rest : List Byte),
    s.agenda = [] → s.power = .on → s.cur = some u → s.group? u.gid = some g → canonical u.pc = true →
    s.translate (fetchAsker s u g) u.pc .fetch = (s', .ok pa lf en) → s'.home pa ≠ .none → s'.lineHeld pa = false →
    s'.hostWaits false pa (32 - pa % 32) = false → s'.poisoned pa (32 - pa % 32) = false →
    decode (s'.blockBytes pa) = .ok (i, rest) → step s = exec i s') ∧
  (∀ (s : State) (i : Instr) (rest : List Instr), s.agenda = i :: rest →
    (isEvent i = true → s.livesFor i = true → step s = exec i { s with agenda := rest }) ∧
    (isEvent i = true → s.livesFor i = false → step s = .next { s with agenda := rest })) ∧
  (∀ s : State, s.agenda = [] → (s.power ≠ .on ∨ s.cur = none ∧ s.work? = none) → step s = exec .formationTick s)

/-- A PC that is not canonical, and a fetch block whose translation answers a fault, raise the instruction-fetch fault
(cause 3) with detail 8 or the one named, a block at no home the physical-range fault 0xB; TADDR is the PC. Where
the fetch block translates and is read, free of poison: an instruction whose length takes it past the end of the
aligned 32-byte block raises the fetch-alignment trap (cause 2, TADDR the PC) whatever its other fields hold; length
bits 0b11 raise the illegal-instruction trap with code 1; bytes that decoding rejects with code c raise it with code
c, or with code 3 or 4 where the opcode is restricted for the group and c is 5 or more; no instruction runs. The
block is cut at the next multiple of 32, so no byte beyond it is fetched. -/
def Obligations.BadFetchesTrap : Prop :=
  (∀ (s : State) (u : Cur) (g : Group), s.agenda = [] → s.power = .on → s.cur = some u → s.group? u.gid = some g →
    let lane := (lanesOf u.lanes).headD 0
    (canonical u.pc = false → step s = .next (s.raise u.gid ⟨3, 8, lane, u.pc, u.pc, 0, u.lanes⟩)) ∧
    (∀ s' d, canonical u.pc = true → s.translate (fetchAsker s u g) u.pc .fetch = (s', .prot d) →
      step s = .next (s'.raise u.gid ⟨3, d, lane, u.pc, u.pc, 0, u.lanes⟩)) ∧
    (∀ s' pa lf en, canonical u.pc = true → s.translate (fetchAsker s u g) u.pc .fetch = (s', .ok pa lf en) → s'.home pa = .none →
      step s = .next (s'.raise u.gid ⟨0xB, 0, lane, u.pc, u.pc, BitVec.ofNat 64 pa, u.lanes⟩))) ∧
  (∀ (s s' : State) (u : Cur) (g : Group) (pa lf : Nat) (en : List Nat) (b : Byte),
    s.agenda = [] → s.power = .on → s.cur = some u → s.group? u.gid = some g → canonical u.pc = true →
    s.translate (fetchAsker s u g) u.pc .fetch = (s', .ok pa lf en) → s'.home pa ≠ .none → s'.lineHeld pa = false →
    s'.hostWaits false pa (32 - pa % 32) = false → s'.poisoned pa (32 - pa % 32) = false →
    (s'.blockBytes pa).head? = some b →
    (∀ n : Len, Len.ofBits? (b.extractLsb' 0 2) = some n → 32 < pa % 32 + n.bytes →
      step s = .next (s'.raise u.gid ⟨2, 0, (lanesOf u.lanes).headD 0, u.pc, u.pc, 0, u.lanes⟩)) ∧
    (b.extractLsb' 0 2 = 3 →
      step s = .next (s'.raise u.gid ⟨1, 1, (lanesOf u.lanes).headD 0, u.pc, 0, 0, u.lanes⟩)) ∧
    (∀ opc c, decode (s'.blockBytes pa) = .error (.illegal opc c) →
      ∃ n, step s = .next (s'.raise u.gid ⟨1, n, (lanesOf u.lanes).headD 0, u.pc, 0, 0, u.lanes⟩) ∧
        n = (if c.num ≤ 2 then c.num
          else if 0xE8 ≤ opc.toNat ∧ opc.toNat ≤ 0xF2 ∧ s'.sysAttr g.ctx = false then 3
          else if 0xE1 ≤ opc.toNat ∧ opc.toNat ≤ 0xE5 ∧ g.inh = false then 4 else c.num)))

/-- For every well-formed instruction of every family, pair words and ILL among them, with every field at every value
its encoding admits, decoding the bytes of its encoding gives the instruction and no bytes are left. -/
def Obligations.DecodingGivesBackTheInstruction : Prop :=
  ∀ i : Instr, WellFormed i = true → decode (encode i) = .ok (i, [])

/-- If a word of length l, with its length bits and zero bits above its length, decodes to i, then i is well formed and
of length l. Unless i is ILL, whose other bits may hold anything, encoding i gives the word back: every reserved bit
and every field that the instruction does not use has been checked. -/
def Obligations.DecodedWordsAreWellFormed : Prop :=
  ∀ (l : Len) (w : BitVec 128) (i : Instr), w.extractLsb' 0 2 = l.code → w.toNat < 2 ^ (8 * l.bytes) →
    decodeWord l w = .ok i → WellFormed i = true ∧ i.len = l ∧ ((∀ n, i ≠ .ill n) → i.word = w)

/-- For the instructions of opcodes 0xE8 to 0xF2 in a group whose context lacks SYS, and for TRET, HPC, HMEET, HPARK and
HRD in a group that runs no handler, exec takes the illegal-instruction trap with code 3 or 4 at the instruction and
does nothing else. With the attribute, or in a handler, this check does not stop them. The two opcode sets are
exactly those. -/
def Obligations.RestrictedOpcodesAreRefused : Prop :=
  (∀ (i : Instr) (s : State) (u : Cur) (g : Group), s.cur = some u → s.group? u.gid = some g →
    (needs i = .system → s.sysAttr g.ctx = false →
      exec i s = .next (s.raise u.gid ⟨1, 3, (lanesOf u.lanes).headD 0, u.pc, 0, 0, u.lanes⟩)) ∧
    (needs i = .handler → g.inh = false →
      exec i s = .next (s.raise u.gid ⟨1, 4, (lanesOf u.lanes).headD 0, u.pc, 0, 0, u.lanes⟩)) ∧
    (needs i = .system → s.sysAttr g.ctx = true → s.rightsCode g (needs i) = none) ∧
    (needs i = .handler → g.inh = true → s.rightsCode g (needs i) = none)) ∧
  (∀ (i : Instr) (f : Fields), i.fields? = some f →
    (needs i = .system ↔ 0xE8 ≤ f.opc.toNat ∧ f.opc.toNat ≤ 0xF2) ∧
    (needs i = .handler ↔ 0xE1 ≤ f.opc.toNat ∧ f.opc.toNat ≤ 0xE5))

/-- For every encoded instruction with one operation, outside compatibility mode and past the checks before it: if a
vector register with number at or above NV, or a scalar register at or above NS, is named by any source or by the
destination (the high register of a pair and the second register that MMAG spans for more than 32 rows included),
exec takes the register-bound fault (cause 4) with such a register's number as detail, and the instruction has no
other effect; if none is named, this check does not stop it. The guard is not looked at. -/
def Obligations.RegisterBoundsAreChecked : Prop :=
  ∀ (i : Instr) (p : Part) (s : State) (u : Cur) (g : Group), partsAt s i = [p] → s.cur = some u →
    s.group? u.gid = some g → g.compat = false → s.rightsCode g (needs i) = none →
    let named := (p.o.sources p.reg).flatMap (fun e => e.2.1.names e.2.2) ++ dstNames p.o.dst p.sg.dst
    ((∃ n ∈ named, if n.1 = 0 then g.nv ≤ n.2 else g.ns ≤ n.2) →
      ∃ n ∈ named, (if n.1 = 0 then g.nv ≤ n.2 else g.ns ≤ n.2) ∧
        exec i s = .next (s.raise u.gid ⟨4, n.2, (lanesOf u.lanes).headD 0, u.pc, 0, 0, u.lanes⟩)) ∧
    ((∀ n ∈ named, if n.1 = 0 then n.2 < g.nv else n.2 < g.ns) → g.firstBeyond [p] = none)

/-- In the environment of an instruction with one operation, source A gives lane l: the vector register named, or for a
64-bit type the pair with the named register in bits 31:0; the scalar register named, its bits 31:0 where the type
is 32 bits wide or narrower, the same for every lane; in the 64-bit format the literal, for the 32-bit and 64-bit
integer types its value sign-extended. Ports of compatibility mode are stated elsewhere. -/
def Obligations.OperandsOfSources : Prop :=
  ∀ (s : State) (g : Group) (o : Ops) (sg : Sig) (q : SrcSig) (i l : Nat) (x : Src),
    (x.kind = .vec → g.isPort x.val.toNat = false → q.n = 1 →
      s.value g o sg i x q l = (g.vr x.val.toNat l).toNat) ∧
    (x.kind = .vec → g.isPort x.val.toNat = false → q.n = 2 →
      s.value g o sg i x q l = (g.vr (x.val.toNat + 1) l ++ g.vr x.val.toNat l).toNat) ∧
    (x.kind = .scal → q.sn = 1 → q.ty.width = 64 → s.value g o sg i x q l = (g.sr x.val.toNat).toNat) ∧
    (x.kind = .scal → q.sn = 1 → q.ty.width ≤ 32 →
      s.value g o sg i x q l = ((g.sr x.val.toNat).extractLsb' 0 32).toNat) ∧
    (x.kind = .lit → o.len = .w64 → q.ty = .i .s32 → s.value g o sg i x q l = (x.val.signExtend 32).toNat) ∧
    (x.kind = .lit → o.len = .w64 → q.ty = .i .s64 → s.value g o sg i x q l = (x.val.signExtend 64).toNat)

/-- For an instruction with one operation that no earlier check stops, outside compatibility mode: (1) an empty register
in a source in trap mode, for a lane whose guard is true, takes the empty-register trap (cause 6); (2) otherwise
lanes with a true guard that read an empty register, or whose destination is empty, leave the bundle and are blocked
until those registers are full, and every other lane runs; (3) where every lane is blocked the instruction does
nothing but block them. Lanes with a false guard are never blocked. -/
def Obligations.EmptySourcesBlockOrTrap : Prop :=
  ∀ (i : Instr) (p : Part) (s : State) (u : Cur) (g : Group), partsAt s i = [p] → s.cur = some u →
    s.group? u.gid = some g → g.compat = false → s.rightsCode g (needs i) = none → g.firstBeyond [p] = none →
    s.unbound g (lanesOf u.lanes) p = none →
    let reads := fun l => (p.o.sources p.sg).flatMap fun e => g.emptyOf e.2.1 e.2.2 l
    let waits := fun l => reads l ++ g.emptyDst p.o.dst p.sg.dst l
    ((∃ e ∈ p.o.sources p.sg, e.2.1.trap = true ∧ ∃ l ∈ lanesOf u.lanes, g.guard p.o l = true ∧
        g.emptyOf e.2.1 e.2.2 l ≠ []) →
      ∃ n l, l ∈ lanesOf u.lanes ∧ g.guard p.o l = true ∧ reads l ≠ [] ∧
        exec i s = .next (s.raise u.gid ⟨6, n, l, u.pc, 0, 0, u.lanes⟩)) ∧
    ((∀ e ∈ p.o.sources p.sg, e.2.1.trap = true → ∀ l ∈ lanesOf u.lanes, g.guard p.o l = true →
        g.emptyOf e.2.1 e.2.2 l = []) →
      let e := s.issueEnv i.len [p] u g
      (∀ l, l ∈ e.lanes ↔ l ∈ lanesOf u.lanes ∧ (g.guard p.o l = true → waits l = [])) ∧
      (∀ l ∈ lanesOf u.lanes, l ∉ e.lanes → (e.g.lane l).block = some (.regs (waits l))) ∧
      (e.lanes = [] → ∃ g', exec i s = .next ((s.setGroup u.gid g').retire u) ∧ g'.v = g.v ∧ g'.sreg = g.sreg ∧
        ∀ l ∈ lanesOf u.lanes, g'.lane l = { g.lane l with block := some (.regs (waits l)), since := s.cycle }))

/-- MOV, SEL, PLOP, PPACK, PUNPK; IADD, ISUB, IADDC, ISUBB, IMUL, IMULH, IMAD, IMADW, IDIV, IREM, IMIN, IMAX, IABS,
INEG, ISAD, IAVG, IDOT2, IDOT4, ICLAMP, ICMP, ISET, ITEST, LEA, LEAX, CANON, PDIFF; AND, OR, XOR, NOT, ANDN, ORN,
LOP3, SHL, SHR, SHRA, ROTL, ROTR, FSHL, FSHR, PRMT, BSWAP, POPC, CLZ, CTZ, BREV, BFX, BFI, BMSK; FADD, FSUB, FMUL,
FMA, FMS, FNMA, FMIN, FMAX, FMINM, FMAXM, FABS, FNEG, FCSGN, FCLAMP, FDOT2, FSUM, FCMP, FSET, FCLASS, FRNDI, FSCALE,
FXEXP, FXMAN; CVT, CVTFI, CVTIF, PACK2, PACK4, UNPK, EXTS, EXTZ; RCP, RSQ, SQRT, FDIV, EXP2, LOG2, EXP, LOG, SIN,
COS, TANH, SIGM, ERF, GELU, SPLUS; IXSET, DQNT, QSCL, QAMAX: in every form (vector, scalar, predicate and queue-port
destinations; every source kind), one that begins with no shadow mismatch pending (IXSET, DQNT, QSCL and QAMAX: and
no FENCEX holding the matrix path back) answers the state in which the results of the active lanes are written,
their flags are set, and every lane of the bundle that ran stands past it. The results are stated next. -/
def Obligations.ComputingInstructionsComplete : Prop :=
  ∀ (i : Instr) (x : Alu) (s : State) (e : Env), aluFor i = some x → Begins i s e → PathFree i s e → NoShadow s →
    exec i s = .next (e.after s (x.write e.act (x.outs e) e.g) fun _ => e.next)

/-- For every instruction of ComputingInstructionsComplete under its conditions, with f(l) the function of its operands
in lane l. A vector destination that is no port holds f(l) in each active lane. A port destination gains one entry
with f(l) in the active lanes' slots and zero in the others, and no register changes. A scalar destination holds the
result of the lowest active lane, once, and only that result's flags are added. A predicate destination holds
whether f(l) is not zero; p7 stays true. The flags are the OR of those before it, of WIN_OVR where a window source
was read past its bound, and of all results delivered. -/
def Obligations.ComputingInstructionsWriteTheirResults : Prop :=
  ∀ (i : Instr) (x : Alu) (s : State) (e : Env), aluFor i = some x → Begins i s e → PathFree i s e → NoShadow s →
    let f := fun l => x.f (e.g.lane l) (e.a l) (e.b l) (e.c l)
    ∃ g', Leaves i s e g' ∧
      (∀ n a, x.sg.dst = .vec n a → e.g.isPort x.o.dst.toNat = false →
        ∀ l ∈ e.act, g'.vrs x.o.dst.toNat l n = (f l).val % 2 ^ (32 * n)) ∧
      (∀ n a, x.sg.dst = .vec n a → e.g.isPort x.o.dst.toNat = true → e.act ≠ [] →
        ∃ q, g'.queue (x.o.dst.toNat - 248) = e.g.queue (x.o.dst.toNat - 248) ++ [q] ∧
          ∀ l, Tab.read 0 q l = if l ∈ e.act then BitVec.ofNat 32 (f l).val else 0) ∧
      (∀ n l, x.sg.dst = .scal n → e.act.head? = some l → g'.sr x.o.dst.toNat = scalarOf x.rty (f l).val) ∧
      (∀ n, x.sg.dst = .scal n → g'.astat = (e.act.take 1).foldl (fun a l => a ||| (f l).flags) (e.g.astat ||| e.winOver)) ∧
      (x.sg.dst = .pred → ∀ l ∈ e.act, (g'.lane l).pred x.o.dst.toNat =
        if x.o.dst.toNat = 7 then true else if x.o.dst.toNat < 7 then (f l).val != 0 else (e.g.lane l).pred x.o.dst.toNat) ∧
      ((∀ n, x.sg.dst ≠ .scal n) → g'.astat = e.act.foldl (fun a l => a ||| (f l).flags) (e.g.astat ||| e.winOver))

/-- For every instruction of ComputingInstructionsComplete under its conditions that answers t: outside the destination
registers of active lanes every vector register is as before, a lane whose guard is false included; every scalar
register but the destination; every predicate of every lane but the destination predicate and those the instruction
names beside it (carry out, PUNPK's) in active lanes; every full/empty bit; MEET, LSTAT, PARK, SEED, GANG, HVEC and
the trap registers; every other group; every byte of memory and the rest of the machine. Only sticky flags are
added. -/
def Obligations.ComputingInstructionsKeepTheRest : Prop :=
  ∀ (i : Instr) (x : Alu) (s t : State) (e : Env), aluFor i = some x → Begins i s e → PathFree i s e → NoShadow s → exec i s = .next t →
    Keeps s t e
      (fun r l => l ∈ e.act ∧ e.g.isPort x.o.dst.toNat = false ∧
        ∃ n a, x.sg.dst = .vec n a ∧ x.o.dst.toNat ≤ r ∧ r < x.o.dst.toNat + n)
      (fun r => r = x.o.dst.toNat ∧ ∃ n, x.sg.dst = .scal n)
      (fun l k => l ∈ e.act ∧ ((x.sg.dst = .pred ∧ k = x.o.dst.toNat) ∨
        ∃ p ∈ (x.f (e.g.lane l) (e.a l) (e.b l) (e.c l)).preds, k = p.1))
      (fun _ => False) ∧
    SameRest s t ∧
    (∀ g', t.group? e.u.gid = some g' → ∀ k, e.g.astat.getLsbD k = true → g'.astat.getLsbD k = true)

/-- For IADD, ISUB, IMUL, IMULH, IMAD, IMADW, IMIN, IMAX, IABS, INEG, ISAD, IAVG, ICLAMP, IDOT2 and IDOT4 with a vector
destination that is no port: every element of every active lane's destination is the exact result of Table 1 on the
elements of the sources read in ITY, delivered modulo 2^W, or with SAT (where the instruction has it) clamped to the
type's range. c and the result of IMADW are S64 or N64, those of IDOT2 and IDOT4 S32 or N32. Scalar and port forms
are stated in ComputingInstructionsWriteTheirResults. -/
def Obligations.IntegerArithmeticResults : Prop :=
  ∀ (o : Ops) (m : ModI) (s : State) (e : Env), NoShadow s →
    let w := m.ity.width
    let x := fun l k => m.ity.val (elemOf w (e.a l) k)
    let y := fun l k => m.ity.val (elemOf w (e.b l) k)
    let z := fun l k => m.ity.val (elemOf w (e.c l) k)
    let high := fun (v : Int) => v / 2 ^ w
    (Begins (.iadd o m) s e → VecDst (.iadd o m) o e →
      IntElems (.iadd o m) o m.ity s e m.sat fun l k => x l k + y l k) ∧
    (Begins (.isub o m) s e → VecDst (.isub o m) o e →
      IntElems (.isub o m) o m.ity s e m.sat fun l k => x l k - y l k) ∧
    (Begins (.imul o m) s e → VecDst (.imul o m) o e →
      IntElems (.imul o m) o m.ity s e m.sat fun l k => x l k * y l k) ∧
    (Begins (.imulh o m) s e → VecDst (.imulh o m) o e →
      IntElems (.imulh o m) o m.ity s e false fun l k => high (x l k * y l k)) ∧
    (Begins (.imad o m) s e → VecDst (.imad o m) o e →
      IntElems (.imad o m) o m.ity s e m.sat fun l k => x l k * y l k + z l k) ∧
    (Begins (.imin o m) s e → VecDst (.imin o m) o e →
      IntElems (.imin o m) o m.ity s e false fun l k => if x l k ≤ y l k then x l k else y l k) ∧
    (Begins (.imax o m) s e → VecDst (.imax o m) o e →
      IntElems (.imax o m) o m.ity s e false fun l k => if x l k ≤ y l k then y l k else x l k) ∧
    (Begins (.iabs o m) s e → VecDst (.iabs o m) o e →
      IntElems (.iabs o m) o m.ity s e m.sat fun l k => if x l k < 0 then -(x l k) else x l k) ∧
    (Begins (.ineg o m) s e → VecDst (.ineg o m) o e →
      IntElems (.ineg o m) o m.ity s e m.sat fun l k => -(x l k)) ∧
    (Begins (.isad o m) s e → VecDst (.isad o m) o e →
      IntElems (.isad o m) o m.ity s e false fun l k => if x l k < y l k then y l k - x l k else x l k - y l k) ∧
    (Begins (.iavg o m) s e → VecDst (.iavg o m) o e →
      IntElems (.iavg o m) o m.ity s e false fun l k => (x l k + y l k + 1) / 2) ∧
    (Begins (.iclamp o m) s e → VecDst (.iclamp o m) o e →
      IntElems (.iclamp o m) o m.ity s e false fun l k =>
        if z l k < (if x l k < y l k then y l k else x l k) then z l k else if x l k < y l k then y l k else x l k) ∧
    (∀ t : IntTy, m.ity = .s32 ∧ t = .s64 ∨ m.ity = .n32 ∧ t = .n64 → Begins (.imadw o m) s e → VecDst (.imadw o m) o e →
      IntElems (.imadw o m) o t s e m.sat fun l _ => x l 0 * y l 0 + t.val (e.c l)) ∧
    (∀ t : IntTy, m.ity = .s16 ∧ t = .s32 ∨ m.ity = .n16 ∧ t = .n32 → Begins (.idot2 o m) s e → VecDst (.idot2 o m) o e →
      IntElems (.idot2 o m) o t s e m.sat fun l _ => t.val (e.c l) + x l 0 * y l 0 + x l 1 * y l 1) ∧
    (∀ t : IntTy, m.ity = .s8 ∧ t = .s32 ∨ m.ity = .n8 ∧ t = .n32 → Begins (.idot4 o m) s e → VecDst (.idot4 o m) o e →
      IntElems (.idot4 o m) o t s e m.sat fun l _ =>
        t.val (e.c l) + x l 0 * y l 0 + x l 1 * y l 1 + x l 2 * y l 2 + x l 3 * y l 3)

/-- For a 32- or 64-bit type of width W and a vector destination that is no port: in each active lane the carry-in is
p[CI] before the instruction, or 0 with CZ (p7 reads 1). IADDC writes the W low bits of a + b + carry and carry out
whether the sum reaches 2^W; ISUBB writes a − b − carry modulo 2^W and carry out whether a < b + carry. The carry
goes to p[CO], a write to p7 being discarded; CI may equal CO. No flag is set but WIN_OVR by a window source. -/
def Obligations.CarriesPassThroughPredicates : Prop :=
  ∀ (o : Ops) (m : ModI) (s : State) (e : Env), NoShadow s → (m.ity.width = 32 ∨ m.ity.width = 64) →
    let w := m.ity.width
    let ci := (m.opf.extractLsb' 12 3).toNat
    let co := (m.opf.extractLsb' 9 3).toNat
    let cin := fun l => if m.opf.getLsbD 8 then 0 else if (e.g.lane l).pred ci then 1 else 0
    (Begins (.iaddc o m) s e → VecDst (.iaddc o m) o e → ∃ g', Leaves (.iaddc o m) s e g' ∧ g'.astat = e.g.astat ||| e.winOver ∧
      ∀ l ∈ e.act, g'.vrs o.dst.toNat l (w / 32) = (e.a l % 2 ^ w + e.b l % 2 ^ w + cin l) % 2 ^ w ∧
        (g'.lane l).pred co = if co = 7 then true else decide (2 ^ w ≤ e.a l % 2 ^ w + e.b l % 2 ^ w + cin l)) ∧
    (Begins (.isubb o m) s e → VecDst (.isubb o m) o e → ∃ g', Leaves (.isubb o m) s e g' ∧ g'.astat = e.g.astat ||| e.winOver ∧
      ∀ l ∈ e.act, (g'.vrs o.dst.toNat l (w / 32) : Int) =
          ((e.a l % 2 ^ w : Nat) - (e.b l % 2 ^ w : Nat) - (cin l : Nat) : Int) % 2 ^ w ∧
        (g'.lane l).pred co = if co = 7 then true else decide (e.a l % 2 ^ w < e.b l % 2 ^ w + cin l))

/-- For 32- and 64-bit types and a vector destination that is no port, x and y the dividend and divisor of a lane. y =
0: IDIV writes all ones and IREM writes a, with DZ where x ≠ 0 and NV where x = 0. y ≠ 0: the quotient is truncated
toward zero and delivered by wrap or SAT, and the remainder is x − y × quotient; neither raises DZ or NV there, and
only a saturated quotient raises ISAT. The most negative value divided by −1 falls under the same delivery. -/
def Obligations.DivisionResults : Prop :=
  ∀ (o : Ops) (m : ModI) (s : State) (e : Env), NoShadow s → (m.ity.width = 32 ∨ m.ity.width = 64) →
    let w := m.ity.width
    let x := fun l => m.ity.val (e.a l)
    let y := fun l => m.ity.val (e.b l)
    let q := fun l => if (x l < 0 ↔ y l < 0) then (((x l).natAbs / (y l).natAbs : Nat) : Int) else -(((x l).natAbs / (y l).natAbs : Nat) : Int)
    let fl := fun l => if y l = 0 then (if x l = 0 then 0x1#32 else 0x2#32) else 0
    (Begins (.idiv o m) s e → VecDst (.idiv o m) o e → ∃ g', Leaves (.idiv o m) s e g' ∧
      (∀ l ∈ e.act, g'.vrs o.dst.toNat l (w / 32) =
        if y l = 0 then 2 ^ w - 1 else m.ity.wrap (if m.sat then m.ity.clamp (q l) else q l)) ∧
      g'.astat = e.act.foldl (fun a l => a ||| fl l |||
        if y l ≠ 0 ∧ m.sat = true ∧ m.ity.fits (q l) = false then 0x40#32 else 0) (e.g.astat ||| e.winOver)) ∧
    (Begins (.irem o m) s e → VecDst (.irem o m) o e → ∃ g', Leaves (.irem o m) s e g' ∧
      (∀ l ∈ e.act, g'.vrs o.dst.toNat l (w / 32) =
        if y l = 0 then e.a l % 2 ^ w else m.ity.wrap (x l - y l * q l)) ∧
      g'.astat = e.act.foldl (fun a l => a ||| fl l) (e.g.astat ||| e.winOver))

/-- ICMP writes Cond(a, b) of the operands read in ITY to the destination predicate of each active lane; ITEST whether
(a AND b) is zero (EQ) or not (NE); FCMP, where an operand is a NaN, true exactly for NE, NAN, ULT, ULE, UGT, UGE
and UEQ, and NV is set for a signalling NaN and for any NaN under LT, LE, GT and GE. No integer compare sets a flag
(WIN_OVR by a window source apart). p7 keeps reading true. -/
def Obligations.CompareResults : Prop :=
  (∀ (o : Ops) (m : ModCI) (s : State) (e : Env), NoShadow s → o.dst.toNat < 8 →
    let x := fun l => m.ity.val (e.a l)
    let y := fun l => m.ity.val (e.b l)
    (Begins (.icmp o m) s e → Tests (.icmp o m) o s e (fun l => match m.cc with
      | .eq => x l = y l | .ne => x l ≠ y l | .lt => x l < y l | .le => x l ≤ y l | .gt => y l < x l | .ge => y l ≤ x l
      | .ult => x l < y l | .ule => x l ≤ y l | .ugt => y l < x l | .uge => y l ≤ x l | .ueq => x l = y l
      | .one => x l ≠ y l | .num => True | .nan => False) fun _ => 0) ∧
    (Begins (.itest o m) s e → (m.cc = .eq ∨ m.cc = .ne) → Tests (.itest o m) o s e (fun l =>
      ((e.a l &&& e.b l) % 2 ^ m.ity.width = 0) = (m.cc = .eq)) fun _ => 0)) ∧
  (∀ (o : Ops) (m : ModCF) (s : State) (e : Env), NoShadow s → o.dst.toNat < 8 → Begins (.fcmp o m) s e →
    (∀ l ∈ e.act, (m.fty.read (e.a l)).isNan = true ∨ (m.fty.read (e.b l)).isNan = true) →
    Tests (.fcmp o m) o s e (fun _ => m.cc = .ne ∨ m.cc = .nan ∨ m.cc = .ult ∨ m.cc = .ule ∨ m.cc = .ugt ∨ m.cc = .uge ∨ m.cc = .ueq)
      fun l => if (m.fty.read (e.a l)).isSig = true ∨ (m.fty.read (e.b l)).isSig = true ∨
        m.cc = .lt ∨ m.cc = .le ∨ m.cc = .gt ∨ m.cc = .ge then 0x1#32 else 0)

/-- On N32 operands a and b and a vector destination that is no port, with no flag but WIN_OVR by a window source: MOV
a; AND, OR, XOR, NOT, ANDN, ORN bit by bit; SHL, SHR and SHRA by b, a count of 32 or more giving 0, 0 and copies of
the sign bit; ROTL and ROTR by b modulo 32; POPC the number of ones; BREV the bits in reverse order; BSWAP the bytes
in reverse order; SEL a where the select predicate, inverted under SN, is true, else b. -/
def Obligations.LogicAndShiftResults : Prop :=
  ∀ (o : Ops) (m : ModI) (s : State) (e : Env), NoShadow s → m.ity = .n32 → m.sat = false →
    let a := fun l => BitVec.ofNat 32 (e.a l)
    let b := fun l => BitVec.ofNat 32 (e.b l)
    let n := fun l => e.b l % 2 ^ 32
    (Begins (.mov o m) s e → VecDst (.mov o m) o e → Gives (.mov o m) o s e a 0) ∧
    (Begins (.and o m) s e → VecDst (.and o m) o e → Gives (.and o m) o s e (fun l => a l &&& b l) 0) ∧
    (Begins (.or o m) s e → VecDst (.or o m) o e → Gives (.or o m) o s e (fun l => a l ||| b l) 0) ∧
    (Begins (.xor o m) s e → VecDst (.xor o m) o e → Gives (.xor o m) o s e (fun l => a l ^^^ b l) 0) ∧
    (Begins (.not o m) s e → VecDst (.not o m) o e → Gives (.not o m) o s e (fun l => ~~~ a l) 0) ∧
    (Begins (.andn o m) s e → VecDst (.andn o m) o e → Gives (.andn o m) o s e (fun l => a l &&& ~~~ b l) 0) ∧
    (Begins (.orn o m) s e → VecDst (.orn o m) o e → Gives (.orn o m) o s e (fun l => a l ||| ~~~ b l) 0) ∧
    (Begins (.shl o m) s e → VecDst (.shl o m) o e → Gives (.shl o m) o s e (fun l => a l <<< n l) 0) ∧
    (Begins (.shr o m) s e → VecDst (.shr o m) o e → Gives (.shr o m) o s e (fun l => a l >>> n l) 0) ∧
    (Begins (.shra o m) s e → VecDst (.shra o m) o e → Gives (.shra o m) o s e (fun l => (a l).sshiftRight (n l)) 0) ∧
    (Begins (.rotl o m) s e → VecDst (.rotl o m) o e → Gives (.rotl o m) o s e (fun l => (a l).rotateLeft (n l)) 0) ∧
    (Begins (.rotr o m) s e → VecDst (.rotr o m) o e → Gives (.rotr o m) o s e (fun l => (a l).rotateRight (n l)) 0) ∧
    (Begins (.popc o m) s e → VecDst (.popc o m) o e → Gives (.popc o m) o s e (fun l =>
      BitVec.ofNat 32 ((List.range 32).filter fun k => (a l).getLsbD k).length) 0) ∧
    (Begins (.brev o m) s e → VecDst (.brev o m) o e → Gives (.brev o m) o s e (fun l => (a l).reverse) 0) ∧
    (Begins (.bswap o m) s e → VecDst (.bswap o m) o e → Gives (.bswap o m) o s e (fun l =>
      (a l).extractLsb' 0 8 ++ (a l).extractLsb' 8 8 ++ (a l).extractLsb' 16 8 ++ (a l).extractLsb' 24 8) 0) ∧
    (Begins (.sel o m) s e → VecDst (.sel o m) o e → Gives (.sel o m) o s e (fun l =>
      if (e.g.lane l).pred (m.opf.extractLsb' 12 3).toNat != m.opf.getLsbD 11 then a l else b l) 0)

/-- On F32 operands with a vector destination that is no port and no shadow mismatch pending: FABS clears the sign bit,
FNEG inverts it and FCSGN takes it from b, of any pattern, NaNs included, and no flag is set. FMIN and FMAX with one
NaN operand deliver the other operand's pattern, and with two the canonical NaN; FMINM and FMAXM with any NaN
operand deliver the canonical NaN 0x7FC00000; FADD, FSUB and FMUL with a NaN operand in a lane deliver the canonical
NaN there. -/
def Obligations.FloatSignAndMinimumResults : Prop :=
  ∀ (o : Ops) (m : ModF) (s : State) (e : Env), NoShadow s → m.fty = .f32 →
    let a := fun l => BitVec.ofNat 32 (e.a l)
    let b := fun l => BitVec.ofNat 32 (e.b l)
    let nanA := fun l => (FloatTy.f32.read (e.a l)).isNan = true
    let nanB := fun l => (FloatTy.f32.read (e.b l)).isNan = true
    (Begins (.fabs o m) s e → VecDst (.fabs o m) o e → Gives (.fabs o m) o s e (fun l => a l &&& 0x7FFFFFFF#32) 0) ∧
    (Begins (.fneg o m) s e → VecDst (.fneg o m) o e → Gives (.fneg o m) o s e (fun l => a l ^^^ 0x80000000#32) 0) ∧
    (Begins (.fcsgn o m) s e → VecDst (.fcsgn o m) o e →
      Gives (.fcsgn o m) o s e (fun l => (a l &&& 0x7FFFFFFF#32) ||| (b l &&& 0x80000000#32)) 0) ∧
    (∀ i ∈ [Instr.fmin o m, Instr.fmax o m], Begins i s e → VecDst i o e → ∃ g', Leaves i s e g' ∧ ∀ l ∈ e.act,
      (nanA l → ¬ nanB l → g'.vr o.dst.toNat l = b l) ∧ (¬ nanA l → nanB l → g'.vr o.dst.toNat l = a l) ∧
      (nanA l → nanB l → g'.vr o.dst.toNat l = 0x7FC00000#32)) ∧
    (∀ i ∈ [Instr.fminm o m, Instr.fmaxm o m, Instr.fadd o m, Instr.fsub o m, Instr.fmul o m], Begins i s e → VecDst i o e →
      ∃ g', Leaves i s e g' ∧ ∀ l ∈ e.act, (nanA l ∨ nanB l) → g'.vr o.dst.toNat l = 0x7FC00000#32)

/-- On F32 with a vector destination that is no port and no shadow mismatch pending, in each active lane: a NaN gives
the canonical NaN; EXP2, EXP and COS of a zero are 1; SIN, TANH, ERF and GELU of a zero are that zero; RCP of +0 is
+∞ with DZ among the flags; LOG2 and LOG of a zero are −∞ with DZ; SIN and COS of an infinity are the canonical NaN
with NV; TANH of ±∞ is ±1. The value elsewhere is free within its bound (log 3), and no clause here rests on it. -/
def Obligations.SpecialFunctionFixedInputs : Prop :=
  ∀ (o : Ops) (m : ModS) (s : State) (e : Env), NoShadow s → m.fty = .f32 → e.act ≠ [] →
    let a := fun l => BitVec.ofNat 32 (e.a l)
    let isZero := fun l => a l &&& 0x7FFFFFFF#32 = 0
    let isInf := fun l => a l &&& 0x7FFFFFFF#32 = 0x7F800000#32
    let at_ := fun (i : Instr) (c : Nat → Prop) (r : Nat → W32) (fl : W32) => Begins i s e → VecDst i o e →
      (∀ l ∈ e.act, c l) → ∃ g', Leaves i s e g' ∧ (∀ l ∈ e.act, g'.vr o.dst.toNat l = r l) ∧
        g'.astat = e.g.astat ||| e.winOver ||| fl
    (∀ i ∈ [Instr.rcp o m, .rsq o m, .sqrt o m, .exp2 o m, .log2 o m, .exp o m, .log o m, .sin o m, .cos o m, .tanh o m,
        .sigm o m, .erf o m, .gelu o m, .splus o m],
      Begins i s e → VecDst i o e → ∃ g', Leaves i s e g' ∧
        ∀ l ∈ e.act, (FloatTy.f32.read (e.a l)).isNan = true → g'.vr o.dst.toNat l = 0x7FC00000#32) ∧
    at_ (.exp2 o m) isZero (fun _ => 0x3F800000#32) 0 ∧ at_ (.exp o m) isZero (fun _ => 0x3F800000#32) 0 ∧
    at_ (.cos o m) isZero (fun _ => 0x3F800000#32) 0 ∧ at_ (.sin o m) isZero a 0 ∧ at_ (.tanh o m) isZero a 0 ∧
    at_ (.erf o m) isZero a 0 ∧ at_ (.gelu o m) isZero a 0 ∧ at_ (.rcp o m) (fun l => a l = 0) (fun _ => 0x7F800000#32) 0x2#32 ∧
    at_ (.log2 o m) isZero (fun _ => 0xFF800000#32) 0x2#32 ∧ at_ (.log o m) isZero (fun _ => 0xFF800000#32) 0x2#32 ∧
    at_ (.sin o m) isInf (fun _ => 0x7FC00000#32) 0x1#32 ∧ at_ (.cos o m) isInf (fun _ => 0x7FC00000#32) 0x1#32 ∧
    at_ (.tanh o m) isInf (fun l => 0x3F800000#32 ||| (a l &&& 0x80000000#32)) 0

/-- NOP, SPRD and SPWR complete whenever they begin (SPWR with an active lane). NOP only passes. SPRD into a vector
register that is no port gives each active lane bits 31:0 of the special register of Table 5 that its index names,
LANEID (the lane) to QLEVEL (4 bits for each queue's entries, zero in native mode); into a scalar register, with an
active lane, its 64 bits, for every index but LANEID, which has no such form. SPWR of ASTAT clears exactly the bits
set in its source (no encoding gives it a window source, which would add WIN_OVR); SPWR of any other index replaces
SEED. Other registers, memory and the rest of the machine are kept. -/
def Obligations.SpecialRegistersReadAndWrite : Prop :=
  (∀ (o : Ops) (m : BitVec 20) (s : State) (e : Env),
    let table := [(1, e.g.gix), (2, s.teamIx e.g), (3, s.clusterIx e.g), (4, e.g.core), (5, e.g.ctx), (6, e.g.liveMask.toNat),
      (7, s.teamSize e.g), (8, e.g.astat.toNat), (9, e.g.seed.toNat), (10, s.cycle), (11, s.gtime), (12, if e.g.compat then 1 else 0)]
    let level := fun q => BitVec.ofNat 4 (if e.g.compat then (e.g.queue q).length else 0)
    (Begins (.nop o m) s e → ∃ t, exec (.nop o m) s = .next t ∧ SameRest s t ∧
      Keeps s t e (fun _ _ => False) (fun _ => False) (fun _ _ => False) (fun _ => False)) ∧
    (Begins (.sprd o m) s e → m.getLsbD 0 = false → e.g.isPort o.dst.toNat = false →
      ∃ t g', exec (.sprd o m) s = .next t ∧ t.group? e.u.gid = some g' ∧ SameRest s t ∧
        (∀ l ∈ e.act, (o.a.val.toNat = 0 → g'.vr o.dst.toNat l = BitVec.ofNat 32 l) ∧
          (∀ x ∈ table, o.a.val.toNat = x.1 → g'.vr o.dst.toNat l = BitVec.ofNat 32 x.2) ∧
          (o.a.val.toNat = 13 → ∀ q < 8, (g'.vr o.dst.toNat l).extractLsb' (4 * q) 4 = level q)) ∧
        Keeps s t e (fun r l => l ∈ e.act ∧ r = o.dst.toNat) (fun _ => False) (fun _ _ => False) (fun _ => False)) ∧
    (Begins (.sprd o m) s e → m.getLsbD 0 = true → e.act ≠ [] →
      ∃ t g', exec (.sprd o m) s = .next t ∧ t.group? e.u.gid = some g' ∧ SameRest s t ∧
        (∀ x ∈ table, o.a.val.toNat = x.1 → g'.sr o.dst.toNat = BitVec.ofNat 64 x.2) ∧
        (o.a.val.toNat = 13 → (g'.sr o.dst.toNat).extractLsb' 32 32 = 0 ∧ ∀ q < 8, (g'.sr o.dst.toNat).extractLsb' (4 * q) 4 = level q) ∧
        Keeps s t e (fun _ _ => False) (fun r => r = o.dst.toNat) (fun _ _ => False) (fun _ => False)) ∧
    (BeginsActive (.spwr o m) s e →
      ∃ t g', exec (.spwr o m) s = .next t ∧ t.group? e.u.gid = some g' ∧ SameRest s t ∧ g'.v = e.g.v ∧ g'.sreg = e.g.sreg ∧
        (o.dst = 8 → g'.seed = e.g.seed ∧ ∀ k < 32, g'.astat.getLsbD k =
          ((e.g.astat.getLsbD k && !(e.a e.first).testBit k) || e.winOver.getLsbD k)) ∧
        (o.dst ≠ 8 → g'.astat = e.g.astat ||| e.winOver ∧ g'.seed = BitVec.ofNat 64 (e.a e.first))))

/-- BRA and CALL to the PC plus their offset, BRX, CALLX and RET to the value of source A in each lane. With every
active lane's target canonical and a multiple of 4, the instruction completes: active lanes run on at their targets
and the other lanes at the address after it (the handler PC in a handler); CALL and CALLX put that address into the
destination pair of each active lane; every other register, predicate, flag, and all memory is as before. If the
lowest active lane with a bad target has a target that is not canonical (detail 1) or no multiple of 4 (detail 2),
the branch-target fault is taken and no lane moves. -/
def Obligations.BranchesGoToTheirTargets : Prop :=
  ∀ (o : Ops) (m : BitVec 20) (s : State) (e : Env),
    let rel := e.u.pc + relOffset o m.toNat 20
    let good := fun (a : W64) => canonical a = true ∧ a.toNat % 4 = 0
    (Begins (.bra o m) s e → (e.act ≠ [] → good rel) → ∃ t, exec (.bra o m) s = .next t ∧
      Jumps e t (fun _ => rel) ∧ SameRest s t ∧
      Keeps s t e (fun _ _ => False) (fun _ => False) (fun _ _ => False) (fun _ => False)) ∧
    (∀ i ∈ [Instr.brx o m, .ret o m], Begins i s e → (∀ l ∈ e.act, good (BitVec.ofNat 64 (e.a l))) →
      ∃ t, exec i s = .next t ∧ Jumps e t (fun l => BitVec.ofNat 64 (e.a l)) ∧ SameRest s t ∧
      Keeps s t e (fun _ _ => False) (fun _ => False) (fun _ _ => False) (fun _ => False)) ∧
    (Begins (.call o m) s e → (e.act ≠ [] → good rel) → ∃ t, exec (.call o m) s = .next t ∧
      Jumps e t (fun _ => rel) ∧ Links e t o ∧ SameRest s t ∧
      Keeps s t e (fun r l => l ∈ e.act ∧ (r = o.dst.toNat ∨ r = o.dst.toNat + 1)) (fun _ => False) (fun _ _ => False)
        (fun _ => False)) ∧
    (Begins (.callx o m) s e → (∀ l ∈ e.act, good (BitVec.ofNat 64 (e.a l))) → ∃ t, exec (.callx o m) s = .next t ∧
      Jumps e t (fun l => BitVec.ofNat 64 (e.a l)) ∧ Links e t o ∧ SameRest s t ∧
      Keeps s t e (fun r l => l ∈ e.act ∧ (r = o.dst.toNat ∨ r = o.dst.toNat + 1)) (fun _ => False) (fun _ _ => False)
        (fun _ => False)) ∧
    (∀ i ∈ [Instr.brx o m, .ret o m, .callx o m], Begins i s e → ∀ l d, l ∈ e.act →
      badTarget (BitVec.ofNat 64 (e.a l)) = some d → (∀ k ∈ e.act, k < l → good (BitVec.ofNat 64 (e.a k))) →
      (d = 1 ↔ canonical (BitVec.ofNat 64 (e.a l)) = false) ∧
      exec i s = .next (s.raise e.u.gid ⟨0x16, d, l, e.u.pc, 0, 0, e.bundle⟩)) ∧
    (∀ i ∈ [Instr.bra o m, .call o m], BeginsActive i s e → ∀ d, badTarget rel = some d →
      exec i s = .next (s.raise e.u.gid ⟨0x16, d, e.first, e.u.pc, 0, 0, e.bundle⟩))

/-- Each completes whenever it begins. MSET gives active lanes' MEET the PC plus the offset, its register form the value
of source A, MCLR all ones; MRD writes MEET to the destination pair. YIELD, with an active lane, blocks every lane
of the bundle until the next tick. SLEEP blocks each active lane until the cycle that lies its count of cycles
ahead, or the next tick for 0, and then the bundle's other lanes as YIELD does. EXIT makes the active lanes exited;
the lanes that remain stand past it, and the group lives on while one is live. No other register, scalar or memory
byte changes. -/
def Obligations.MeetingAndPauseInstructions : Prop :=
  ∀ (o : Ops) (m : BitVec 20) (s : State) (e : Env),
    let meets := fun (i : Instr) (v : Nat → W64) => Begins i s e → ∃ t g', exec i s = .next t ∧
      t.group? e.u.gid = some g' ∧ g'.v = e.g.v ∧ g'.sreg = e.g.sreg ∧ SameRest s t ∧
      ∀ l, (g'.lane l).meet = if l ∈ e.act then v l else (e.g.lane l).meet
    meets (.mset o m) (fun _ => e.u.pc + relOffset o (m.toNat / 2) 19) ∧
    meets (.msetR o m) (fun l => BitVec.ofNat 64 (e.a l)) ∧
    meets (.mclr o m) (fun _ => BitVec.allOnes 64) ∧
    (Begins (.mrd o m) s e → ∃ t g', exec (.mrd o m) s = .next t ∧ t.group? e.u.gid = some g' ∧ SameRest s t ∧
      (∀ l ∈ e.act, g'.vrs o.dst.toNat l 2 = (e.g.lane l).meet.toNat) ∧
      Keeps s t e (fun r l => l ∈ e.act ∧ (r = o.dst.toNat ∨ r = o.dst.toNat + 1)) (fun _ => False) (fun _ _ => False)
        (fun _ => False)) ∧
    (BeginsActive (.yield o m) s e → ∃ t g', exec (.yield o m) s = .next t ∧ t.group? e.u.gid = some g' ∧
      g'.v = e.g.v ∧ g'.sreg = e.g.sreg ∧ SameRest s t ∧ (∀ l ∈ e.lanes, (g'.lane l).block = some .tick) ∧
      ∀ l ∈ e.lanes, g'.epc l = e.next) ∧
    (Begins (.sleep o m) s e → ∃ t g', exec (.sleep o m) s = .next t ∧ t.group? e.u.gid = some g' ∧
      g'.v = e.g.v ∧ g'.sreg = e.g.sreg ∧ SameRest s t ∧
      (∀ l ∈ e.act, (g'.lane l).block =
        some (if e.a l % 2 ^ 32 = 0 then .tick else .sleep (s.cycle + e.a l % 2 ^ 32))) ∧
      ((∃ k ∈ e.act, e.a k % 2 ^ 32 = 0) → ∀ k ∈ e.lanes, k ∉ e.act → (g'.lane k).block = some .tick)) ∧
    (Begins (.exit o m) s e → (∃ l < 32, l ∉ e.act ∧ e.g.live l = true) → ∃ t g', exec (.exit o m) s = .next t ∧
      t.group? e.u.gid = some g' ∧ g'.v = e.g.v ∧ g'.sreg = e.g.sreg ∧ SameRest s t ∧
      (∀ l ∈ e.act, e.g.live l = true → (g'.lane l).stat = .exited) ∧
      (∀ l, l ∉ e.act → (g'.lane l).stat = (e.g.lane l).stat) ∧
      ∀ l ∈ e.lanes, l ∉ e.act → g'.epc l = e.next)

/-- Where EXIT's active lanes are all the group's live lanes, it completes with every lane exited or never launched: the
group has ended, it has no bundles and no hold, and takes no deferred trap. Where no group of its team is then left
open, the team has ended: no accumulator bank of any core is the team's, no live operand-buffer record is the
team's, and no mailbox wait of it remains. Memory is as before. -/
def Obligations.LastExitEndsTheGroup : Prop :=
  ∀ (o : Ops) (m : BitVec 20) (s : State) (e : Env), Begins (.exit o m) s e →
    (∀ l < 32, e.g.live l = true → l ∈ e.act) → ∃ t g', exec (.exit o m) s = .next t ∧
      t.group? e.u.gid = some g' ∧ g'.ended = true ∧ g'.bundles = [] ∧ g'.hold = none ∧ g'.deferred = [] ∧ t.mem = s.mem ∧
      (t.openGroups e.g.team = [] →
        (∀ x ∈ t.banks, x.2 ≠ e.g.team) ∧ (∀ x ∈ t.ob, x.2.live = true → x.2.team ≠ e.g.team) ∧
        (∀ p ∈ t.pendings, p.team ≠ e.g.team) ∧
        ∀ x, Tab.get? t.teams e.g.team = some x → x.ended = true ∧ x.boxes = [])

/-- SHFL, VOTE, BALLOT, MATCH, LSCAN and LRED that begin in a bundle formed at this tick, with no lane active or with
every lane of the mask in the bundle, exited or never launched, complete in every form, a port destination included.
A lane contributes if it is active and in the mask. SHFL gives lane l source A of lane v mod 32, l − v, l + v or l
xor (v mod 32), v its source B, or 0 where that lane does not contribute. VOTE writes whether some, all, or all or
none of the mask's lanes contribute with p ⊕ n true. BALLOT gives the contributing lanes with p ⊕ n true; MATCH
those with l's value. LSCAN and LRED give each lane the ascending fold of Table 3 over the contributing lanes up to
it, below it, or all. Into a destination that is no port: SHFL.IDX gives source A of lane b mod 32 if it
contributes, else 0; VOTE.ANY is true if p ⊕ n is true in a contributing lane; LRED.ADD of integers is the sum of
the contributing lanes' values and LSCAN.ADD that over those up to l; no other register, predicate, special register
or memory byte changes. In a bundle not formed at this tick the active lanes wait at the instruction and nothing is
written. -/
def Obligations.CrossLaneInstructionsExchange : Prop :=
  (∀ (o : Ops) (m : BitVec 20) (s : State) (e : Env), e.g.isPort o.dst.toNat = false →
    let on := fun (mask : W32) j => j ∈ e.act ∧ hasLane mask j = true
    let ma := BitVec.ofNat 32 (e.a e.first)
    let mb := BitVec.ofNat 32 (e.b e.first)
    let mc := BitVec.ofNat 32 (e.c e.first)
    let c := fun j => (e.g.lane j).pred (m.extractLsb' 2 3).toNat != m.getLsbD 5
    let gives := fun (i : Instr) (f : Nat → Nat) => ∃ t g', exec i s = .next t ∧ t.group? e.u.gid = some g' ∧
      SameRest s t ∧ (∀ l ∈ e.act, g'.vr o.dst.toNat l = BitVec.ofNat 32 (f l)) ∧
      Keeps s t e (fun r l => l ∈ e.act ∧ r = o.dst.toNat) (fun _ => False) (fun _ _ => False) (fun _ => False)
    let maskWhere := fun (p : Nat → Bool) => ((List.range 32).filter p).foldl (fun a j => a + 2 ^ j) 0
    (Begins (.shfl o m) s e → Meets e mc → m.extractLsb' 0 2 = 0 →
      gives (.shfl o m) fun l => if on mc (e.b l % 32) then e.a (e.b l % 32) else 0) ∧
    (Begins (.ballot o m) s e → Meets e ma → gives (.ballot o m) fun _ => maskWhere fun j => decide (on ma j) && c j) ∧
    (Begins (.matchL o m) s e → Meets e mb → gives (.matchL o m) fun l =>
      maskWhere fun j => decide (on mb j) && e.a j % 2 ^ 32 == e.a l % 2 ^ 32) ∧
    (Begins (.lred o m) s e → Meets e mb → m = 0 → gives (.lred o m) fun _ =>
      ((List.range 32).filter fun j => decide (on mb j)).foldl (fun n j => n + e.a j) 0) ∧
    (Begins (.lscan o m) s e → Meets e mb → m = 0 → gives (.lscan o m) fun l =>
      ((List.range 32).filter fun j => decide (on mb j) && decide (j ≤ l)).foldl (fun n j => n + e.a j) 0) ∧
    (Begins (.vote o m) s e → Meets e ma → m.extractLsb' 0 2 = 0 → o.dst.toNat < 7 → ∃ t g', exec (.vote o m) s = .next t ∧
      t.group? e.u.gid = some g' ∧ SameRest s t ∧
      (∀ l ∈ e.act, (g'.lane l).pred o.dst.toNat = true ↔ ∃ j, on ma j ∧ c j = true) ∧
      Keeps s t e (fun _ _ => False) (fun _ => False) (fun l k => l ∈ e.act ∧ k = o.dst.toNat) (fun _ => False)) ∧
    (∀ i ∈ [Instr.shfl o m, .ballot o m, .matchL o m, .lred o m, .lscan o m, .vote o m], BeginsActive i s e → e.u.fresh = false →
      ∃ t g', exec i s = .next t ∧ t.group? e.u.gid = some g' ∧ SameRest s t ∧
        (∀ g, s.group? e.u.gid = some g → g'.v = g.v ∧ g'.sreg = g.sreg) ∧
        ∀ l ∈ e.lanes, (g'.lane l).block = some (.cross i))) ∧
  (∀ (o : Ops) (m : BitVec 20) (s : State) (e : Env),
    let ma := BitVec.ofNat 32 (e.a e.first)
    let mb := BitVec.ofNat 32 (e.b e.first)
    let mc := BitVec.ofNat 32 (e.c e.first)
    let on := fun (mask : W32) => e.act.filter fun j => hasLane mask j
    let yes := fun j => (e.g.lane j).pred (m.extractLsb' 2 3).toNat != m.getLsbD 5
    let runs := fun (i : Instr) (mask : W32) (g' : Group → Group) => Begins i s e → e.u.fresh = true →
      (e.act = [] ∨ e.arrived mask = true) → exec i s = .next (e.awake.after s (g' e.awake.g) fun _ => e.next)
    let scans := fun (i : Instr) (red : Bool) => runs i mb fun g =>
      (aluOf i o .b32 fun _ _ _ _ => { val := 0 }).write e.act (e.act.map fun l => (l, scanLane red m (on mb) e.a l)) g
    (runs (.shfl o m) mc fun g => g.putVecs o 1 e.act fun l =>
      let v := e.b l % 2 ^ 32
      let j : Int := match (m.extractLsb' 0 2).toNat with
        | 0 => (v % 32 : Nat)
        | 1 => (l : Int) - (v : Nat)
        | 2 => (l : Int) + (v : Nat)
        | _ => (l ^^^ (v % 32) : Nat)
      if 0 ≤ j ∧ j.toNat ∈ on mc then e.a j.toNat % 2 ^ 32 else 0) ∧
    (runs (.vote o m) ma fun g => e.act.foldl (fun g l => g.modLane l fun x => x.setPred o.dst.toNat
      (match (m.extractLsb' 0 2).toNat with
        | 0 => decide (∃ j ∈ lanesOf ma, j ∈ on ma ∧ yes j = true)
        | 1 => decide (∀ j ∈ lanesOf ma, j ∈ on ma ∧ yes j = true)
        | _ => decide ((∀ j ∈ lanesOf ma, j ∈ on ma ∧ yes j = true) ∨ ∀ j ∈ lanesOf ma, ¬ (j ∈ on ma ∧ yes j = true)))) g) ∧
    (runs (.ballot o m) ma fun g => g.putVecs o 1 e.act fun _ => (maskOf ((on ma).filter yes)).toNat) ∧
    (runs (.matchL o m) mb fun g => g.putVecs o 1 e.act fun l =>
      (maskOf ((on mb).filter fun j => e.a j % 2 ^ 32 == e.a l % 2 ^ 32)).toNat) ∧
    scans (.lscan o m) false ∧ scans (.lred o m) true)

/-- For a group with no trap pending, nothing it issued on its way, a context that is not frozen and a team that is not
spilled. With HVEC not 0 and outside a handler: the trap registers take the record, INH is set, every live lane's
handler PC is HVEC and no live lane stays blocked; program PCs, MEET, PARK, predicates, registers, full/empty bits,
ASTAT, SEED, GANG and HVEC, every other group and memory are as before. With HVEC 0 or in a handler: every lane is
exited or was never launched, the group has ended with the record kept (the record of an ended group is the model's
reading, log 11), and, where the context's error queue has room in a frame it may use no record waits before it, and
the slot's line has no translation sharer, held write, host copy or counted state, the record of Table 6 stands in
its next slot. -/
def Obligations.TrapStartsTheHandler : Prop :=
  ∀ (s : State) (gid : Nat) (g : Group) (r : TrapRec), s.group? gid = some g → g.pend = none →
    s.groupDrained gid = true → s.frozen g.ctx = false → (∀ x, Tab.get? s.teams g.team = some x → x.spilled = false) →
    let t := s.raise gid r
    (g.hvec ≠ 0 → g.inh = false → ∃ g', t.group? gid = some g' ∧ g'.inh = true ∧ g'.trap = r ∧ g'.pend = none ∧
      g'.bundles = [] ∧ g'.hvec = g.hvec ∧ g'.v = g.v ∧ g'.vEmpty = g.vEmpty ∧ g'.sreg = g.sreg ∧ g'.sEmpty = g.sEmpty ∧
      g'.astat = g.astat ∧ g'.seed = g.seed ∧ g'.gang = g.gang ∧
      (∀ l, (g'.lane l).pc = (g.lane l).pc ∧ (g'.lane l).meet = (g.lane l).meet ∧ (g'.lane l).park = (g.lane l).park ∧
        (g'.lane l).p = (g.lane l).p ∧ (g'.lane l).stat = (g.lane l).stat) ∧
      (∀ l < 32, g.live l = true → (g'.lane l).hpc = g.hvec ∧ (g'.lane l).block = none) ∧
      OtherGroups s t gid ∧ t.mem = s.mem) ∧
    (g.hvec = 0 ∨ g.inh = true → ∃ g', t.group? gid = some g' ∧ g'.ended = true ∧ g'.trap = r ∧ g'.bundles = [] ∧
      ∀ a, s.eqSlot g.ctx = some a → s.structOk g.ctx a = true → s.isTableLine a = false → s.lineHeld a = false →
        s.hostWaits true a 32 = false → s.isCounted a = false → s.pendRecords g.ctx 0 = 0 →
        (s.field g.ctx 2 384 32 + 2 ^ 32 - s.field g.ctx 2 352 32) % 2 ^ 32 < 2 ^ ringLog (s.field g.ctx 2 416 5) 16 →
        ∃ w : BitVec 256, Memory.bytes t.mem a 32 = leBytes 32 w.toNat ∧ w.extractLsb' 0 8 = 4 ∧
          w.extractLsb' 72 8 = BitVec.ofNat 8 r.cause ∧ w.extractLsb' 80 16 = BitVec.ofNat 16 r.detail ∧
          w.extractLsb' 96 32 = r.mask ∧ w.extractLsb' 128 64 = r.pc ∧ w.extractLsb' 192 64 = r.addr ∧
          w.getLsbD 48 = g.inh ∧ w.extractLsb' 30 10 = BitVec.ofNat 10 g.ctx ∧ w.extractLsb' 20 10 = BitVec.ofNat 10 g.core)

/-- For a group with no trap pending whose accesses or results are still on their way, or whose context is frozen: a
trap stops issue and is pending; INH, the trap registers, registers and every lane stay as they were. While a trap
is pending another trap changes nothing. TRAP_ENTRY completes: once the group is drained, its context not frozen and
its team not spilled, and with HVEC not 0 outside a handler, the pending trap's record is saved and every live
lane's handler PC is HVEC; before that it changes nothing. -/
def Obligations.TrapWaitsForWhatWasIssued : Prop :=
  ∀ (s : State) (gid : Nat) (g : Group), s.group? gid = some g →
    (∀ r, g.pend = none → (s.groupDrained gid = false ∨ s.frozen g.ctx = true) → ∃ g', (s.raise gid r).group? gid = some g' ∧
      g'.pend = some r ∧ g'.bundles = [] ∧ g'.inh = g.inh ∧ g'.trap = g.trap ∧ g'.lanes = g.lanes ∧ g'.v = g.v ∧
      g'.sreg = g.sreg ∧ g'.astat = g.astat) ∧
    (∀ r q, g.pend = some q → s.raise gid r = s) ∧
    (s.groupDrained gid = false ∨ s.frozen g.ctx = true → exec (.trapEntry gid) s = .next s) ∧
    (∀ r, g.pend = some r → s.groupDrained gid = true → s.frozen g.ctx = false →
      (∀ x, Tab.get? s.teams g.team = some x → x.spilled = false) → g.hvec ≠ 0 → g.inh = false →
      ∃ t g', exec (.trapEntry gid) s = .next t ∧ t.group? gid = some g' ∧ g'.inh = true ∧ g'.trap = r ∧ g'.pend = none ∧
        g'.v = g.v ∧ g'.sreg = g.sreg ∧ ∀ l < 32, g.live l = true → (g'.lane l).hpc = g.hvec ∧ (g'.lane l).pc = (g.lane l).pc)

/-- Each begins with an active lane. TRAP #code takes the software trap 0x1F with detail CODE and TPC at the TRAP, its
lanes past it. TRAP.VEC sets HVEC to its target, a target of 0 changing nothing; a bad target gives the branch-
target fault. TRET of a handler whose accesses and results are all complete, with no deferred wake and no strike
pending: INH 0, marked lanes exited, the others at their program PCs, MEET and PARK as edited, registers kept. HPC,
HMEET and HPARK edit program PC, MEET, PARK or the exit mark of exactly the live lanes of the mask. HRD writes what
its selector names: TSTAT, TPC, TADDR, TAUX, TMASK, HVEC, a lane's PC, MEET or lane word (predicates, state, PARK,
and the exit mark in bit 11). -/
def Obligations.TrapInstructionsComplete : Prop :=
  ∀ (o : Ops) (m : BitVec 20) (s : State) (e : Env),
    let mask := BitVec.ofNat 32 (e.a e.first)
    let target := e.u.pc + relOffset o (m.toNat / 2) 19
    let edits := fun (i : Instr) (ok : Group → Nat → Prop) => BeginsActive i s e → ∃ g', Leaves i s e g' ∧ g'.v = e.g.v ∧
      g'.sreg = e.g.sreg ∧ g'.inh = e.g.inh ∧ ∀ l < 32, ok g' l ∧ (g'.lane l).stat = (e.g.lane l).stat
    let named := fun l => e.g.live l = true ∧ mask.getLsbD l = true
    (BeginsActive (.trapI o m) s e → exec (.trapI o m) s = .next ((e.after s e.g fun _ => e.next).raise e.u.gid
      ⟨0x1F, (m.extractLsb' 4 16).toNat, e.first, e.u.pc, 0, 0, e.bundle⟩)) ∧
    (BeginsActive (.trapVec o m) s e → badTarget target = none → ∃ g', Leaves (.trapVec o m) s e g' ∧
      g'.hvec = (if target = 0 then e.g.hvec else target) ∧ g'.v = e.g.v ∧ g'.sreg = e.g.sreg ∧ g'.inh = e.g.inh) ∧
    (∀ d, BeginsActive (.trapVec o m) s e → badTarget target = some d →
      exec (.trapVec o m) s = .next (s.raise e.u.gid ⟨0x16, d, e.first, e.u.pc, 0, 0, e.bundle⟩)) ∧
    (BeginsActive (.tret o m) s e → s.handlerDone e.u.gid e.g = true → e.g.deferred = [] → e.g.watch = [] → ∃ g', Leaves (.tret o m) s e g' ∧
      g'.inh = false ∧ g'.v = e.g.v ∧ g'.sreg = e.g.sreg ∧ ∀ l < 32, e.g.live l = true →
        ((e.g.lane l).exitMark = true → (g'.lane l).stat = .exited) ∧
        ((e.g.lane l).exitMark = false → (g'.lane l).stat = .live ∧ (g'.lane l).pc = (e.g.lane l).pc ∧
          (g'.lane l).meet = (e.g.lane l).meet ∧ (g'.lane l).park = (e.g.lane l).park)) ∧
    (badTarget (BitVec.ofNat 64 (e.b e.first)) = none → edits (.hpc o m) fun g' l =>
      (named l → (g'.lane l).pc = BitVec.ofNat 64 (e.b e.first)) ∧ (¬ named l → (g'.lane l).pc = (e.g.lane l).pc)) ∧
    (∀ d, BeginsActive (.hpc o m) s e → badTarget (BitVec.ofNat 64 (e.b e.first)) = some d →
      exec (.hpc o m) s = .next (s.raise e.u.gid ⟨0x16, d, e.first, e.u.pc, 0, 0, e.bundle⟩)) ∧
    edits (.hmeet o m) (fun g' l =>
      (named l → (g'.lane l).meet = BitVec.ofNat 64 (e.b e.first)) ∧ (¬ named l → (g'.lane l).meet = (e.g.lane l).meet)) ∧
    edits (.hparkClr o m) (fun g' l =>
      (named l → (g'.lane l).park = false) ∧ (¬ named l → (g'.lane l).park = (e.g.lane l).park)) ∧
    edits (.hparkSet o m) (fun g' l =>
      (named l → (g'.lane l).park = true) ∧ (¬ named l → (g'.lane l).park = (e.g.lane l).park)) ∧
    edits (.hparkExit o m) (fun g' l =>
      (named l → (g'.lane l).exitMark = true) ∧ (¬ named l → (g'.lane l).exitMark = (e.g.lane l).exitMark)) ∧
    (BeginsActive (.hrd o m) s e → ∃ g', Leaves (.hrd o m) s e g' ∧ g'.v = e.g.v ∧
      (m.extractLsb' 0 4 = 0 → (g'.sr o.dst.toNat).extractLsb' 0 8 = BitVec.ofNat 8 e.g.trap.cause ∧
        (g'.sr o.dst.toNat).extractLsb' 32 16 = BitVec.ofNat 16 e.g.trap.detail ∧ (g'.sr o.dst.toNat).getLsbD 63 = true) ∧
      (m.extractLsb' 0 4 = 1 → g'.sr o.dst.toNat = e.g.trap.pc) ∧ (m.extractLsb' 0 4 = 2 → g'.sr o.dst.toNat = e.g.trap.addr) ∧
      (m.extractLsb' 0 4 = 3 → g'.sr o.dst.toNat = e.g.trap.aux) ∧
      (m.extractLsb' 0 4 = 4 → g'.sr o.dst.toNat = e.g.trap.mask.setWidth 64) ∧
      (m.extractLsb' 0 4 = 5 → g'.sr o.dst.toNat = e.g.hvec) ∧
      (m.extractLsb' 0 4 = 6 → g'.sr o.dst.toNat = (e.g.lane (e.a e.first % 32)).pc) ∧
      (m.extractLsb' 0 4 = 7 → g'.sr o.dst.toNat = (e.g.lane (e.a e.first % 32)).meet) ∧
      (m.extractLsb' 0 4 = 8 → let x := e.g.lane (e.a e.first % 32)
        g'.sr o.dst.toNat = BitVec.ofNat 64 (x.p.toNat + 2 ^ 8 * (match x.stat with | .live => 0 | .exited => 1 | .never => 2) +
          (if x.park then 2 ^ 10 else 0) + if x.exitMark then 2 ^ 11 else 0)))

/-- A word of any permitted length bits with opcode 0xFF decodes to ILL whatever its other bits hold, and ILL takes the
illegal-instruction trap (cause 1, detail 2) at the instruction in every group, in a handler or not. The word
0x0000000000001FFC is ILL. -/
def Obligations.IllTrapsAlways : Prop :=
  (∀ (n : Len) (w : BitVec 128), w.extractLsb' 0 2 = n.code → w.extractLsb' 2 8 = 0xFF → decodeWord n w = .ok (.ill n)) ∧
  (Instr.ill .w64).word = 0x1FFC ∧
  ∀ (n : Len) (s : State) (u : Cur) (g : Group), s.cur = some u → s.group? u.gid = some g →
    exec (.ill n) s = .next (s.raise u.gid ⟨1, 2, (lanesOf u.lanes).headD 0, u.pc, 0, 0, u.lanes⟩)

/-- For an instruction whose result a shadow unit checks, with an active lane. With one mismatch pending it completes
with the same results and flags as without, and SHD_RETRY (bit 13 of ASTAT) is set beside them. With two it takes
the shadow trap (cause 0x15): no destination, flag or SEED of the group changes, one record of kind 7 goes to the
context's error queue and one to the system event queue, and TAUX holds its low 64 bits. That mismatches are an
input of the model is log 9. -/
def Obligations.ShadowMismatchesRetryOnceThenTrap : Prop :=
  ∀ (i : Instr) (x : Alu) (s : State) (e : Env), aluFor i = some x → x.unit?.isSome = true → BeginsActive i s e →
    (s.shadow = 1 → ∃ g', Leaves i s e g' ∧ g'.v = (x.write e.act (x.outs e) e.g).v ∧
      g'.sreg = (x.write e.act (x.outs e) e.g).sreg ∧ g'.seed = e.g.seed ∧
      g'.astat = (x.write e.act (x.outs e) e.g).astat ||| 0x2000#32 ||| e.winOver) ∧
    (2 ≤ s.shadow → ∃ (r : BitVec 256) (l : Nat), l ∈ e.act ∧ r.extractLsb' 0 8 = 7 ∧ r.extractLsb' 64 64 = e.u.pc ∧
      exec i s = .next (((({ s with freeCount := s.freeCount + 1, shadow := 0 }).postEq e.g.ctx r).postSys r).raise e.u.gid
        ⟨0x15, 0, l, e.u.pc, 0, r.setWidth 64, e.bundle⟩))

/-- For two pairable operations that begin with no shadow mismatch pending, neither naming a port in compatibility mode:
where every scan among them may execute, the word completes with the results of both, each computed from the
registers before the word, in the lanes whose own guard is true. Where a scan may not execute yet, neither operation
runs and the lanes wait. In compatibility mode an operation that names v248 to v255 makes the word illegal (code
11). -/
def Obligations.PairWordsRunBothOperations : Prop :=
  ∀ (x y : Instr) (hx hy : Half) (s : State) (e : Env) (g : Group), halfOf x = some hx → halfOf y = some hy →
    (∀ u, s.cur = some u → s.group? u.gid = some g → g.compat = true → (hx.namesPort = true ∨ hy.namesPort = true) →
      exec (.pair x y) s = .next (s.raise u.gid ⟨1, 11, (lanesOf u.lanes).headD 0, u.pc, 0, 0, u.lanes⟩)) ∧
    (s.group? e.u.gid = some g → (g.compat = true → hx.namesPort = false ∧ hy.namesPort = false) → NoShadow s →
      Begins (.pair x y) s e →
      let ex := e.half g hx
      let ey := e.half g hy
      (∀ l, l ∈ ex.act ↔ l ∈ e.lanes ∧ g.guard hx.alu.o l = true) ∧
      (ex.halfReady hx = true → ey.halfReady hy = true → ∃ g', Leaves (.pair x y) s e g' ∧
        let w := hy.alu.write ey.act (ey.halfOuts hy) (hx.alu.write ex.act (ex.halfOuts hx) e.g)
        g'.v = w.v ∧ g'.sreg = w.sreg ∧ g'.astat = w.astat ||| e.winOver ∧ g'.queues = w.queues ∧ (∀ l, (g'.lane l).p = (w.lane l).p) ∧
        ∀ l ∈ e.lanes, g'.epc l = e.next) ∧
      ((ex.halfReady hx && ey.halfReady hy) = false → ∃ g', Leaves (.pair x y) s e g' ∧ g'.v = g.v ∧ g'.sreg = g.sreg ∧
        ∀ l ∈ e.lanes, (g'.lane l).block = some (.cross (.pair x y))))

/-- Where the checks of Table 2 pass, giving the state s' (in which A and D bits may have been set) and physical
addresses ps, no watchpoint is struck, and for a write the die may send that many: the instruction completes. One
access for each active lane (or for the bundle, with SCL) joins the fabric in lane order, at A plus the offset (with
SCL the A of the lowest active lane), with its kind, registers and data: source B for ST and the atomics, C with B
to compare for CAS. Registers to be loaded are empty (a port's entry awaits them: that it is pushed at issue and
filled later is the model's reading, log 48); no register value, scalar or byte of memory changes, and no flag but
WIN_OVR of a window source, which waits for the results where there are any. -/
def Obligations.GlobalAccessesAreSent : Prop :=
  ∀ (o : Ops) (m : ModM) (s s' : State) (e : Env) (ps : List Placed),
    let n := m.sz.bytes
    let checked := fun (scl : Bool) (k : AccKind) =>
      s.check e.asker (e.accs o scl n k) (basesOf (e.accs o scl n k)) n = .ok s' ps
    let sent := fun (i : Instr) (kind : ReqKind) (scl : Bool) (data cmp : Nat → Option Nat) (ds : Nat → List DReg) =>
      ∃ t g', exec i s = .next t ∧ t.group? e.u.gid = some g' ∧ t.mem = s'.mem ∧
        t.fabric.take s'.fabric.length = s'.fabric ∧ t.fabric.length = s'.fabric.length + ps.length ∧
        (ps.map (fun p => (p.acc.lane, p.acc.va)) = (if scl then e.act.take 1 else e.act).map fun l => (l, Ops.globalEa o (e.a l))) ∧
        (∀ (k : Nat) (p : Placed), ps[k]? = some p → ∃ r : Req, (t.fabric.drop s'.fabric.length)[k]? = some r ∧ r.kind = kind ∧ r.pa = p.pa ∧
          r.va = p.acc.va ∧ r.size = p.acc.size ∧ r.lanes = p.acc.lanes ∧ r.gid = e.u.gid ∧ r.ctx = e.g.ctx ∧
          r.ord = m.ord ∧ r.scope = m.scope ∧ r.dests = (ds p.acc.lane).map e.g.into ∧ (∀ x, data p.acc.lane = some x → r.data = leBytes r.size x) ∧
          ∀ x, cmp p.acc.lane = some x → r.cmp = leBytes r.size x) ∧
        g'.v = e.g.v ∧ g'.sreg = e.g.sreg ∧
        g'.astat = (e.g.astat ||| if ∀ p ∈ ps, ds p.acc.lane = [] then e.winOver else 0) ∧
        (∀ p ∈ ps, ∀ d ∈ ds p.acc.lane, g'.isEmpty (e.g.into d) = true ∧ (e.winOver ≠ 0 → (e.g.into d, e.winOver) ∈ g'.due)) ∧
        ∀ l ∈ e.lanes, g'.epc l = e.next
    let room := s'.mayWrite (coreDie e.g.core) ps.length = true ∧ s'.strikes e.g.ctx 0 (ps.map writeOf) = []
    (Begins (.ld o m) s e → checked m.scl .read →
      sent (.ld o m) .read m.scl (fun _ => none) (fun _ => none) (destRegs o m.sz m.scl)) ∧
    (Begins (.ldc o m) s e → checked false .read →
      sent (.ldc o m) .consume false (fun _ => none) (fun _ => none) (destRegs o m.sz false)) ∧
    (Begins (.st o m) s e → checked m.scl .write → room →
      sent (.st o m) .write m.scl (fun l => some (e.b l)) (fun _ => none) fun _ => []) ∧
    (Begins (.atom o m) s e → checked false .both → room →
      sent (.atom o m) (.atom m.aop (m.aop == 9)) false (fun l => some (e.b l)) (fun _ => none) fun _ => []) ∧
    (Begins (.atomr o m) s e → checked false .both → room →
      sent (.atomr o m) (.atom m.aop (m.aop == 9)) false (fun l => some (e.b l)) (fun _ => none) (destRegs o m.sz false)) ∧
    (Begins (.cas o m) s e → checked false .both → room →
      sent (.cas o m) .cas false (fun l => some (e.c l)) (fun l => some (e.b l)) (destRegs o m.sz false))

/-- For LD, ST (without SCL), LDC, ATOM, ATOMR and CAS: the lowest active lane whose address is not canonical takes the
address fault with detail 1; where all are canonical, the lowest lane whose address is no multiple of the size takes
the alignment fault with log2 of the size. For LDL, STL (without SCL), ATOML and CASL: the lowest lane that reaches
beyond LMSIZE takes the address fault with detail 2; else the lowest misaligned lane the alignment fault. TADDR is
that lane's address, and no access is sent. -/
def Obligations.MemoryAccessesTrapInOrder : Prop :=
  ∀ (o : Ops) (m : ModM) (s : State) (e : Env) (l d : Nat), m.scl = false → m.sz.bytes = 2 ^ d → l ∈ e.act →
    let n := m.sz.bytes
    let ga := fun k => Ops.globalEa o (e.a k)
    let la := fun k => Ops.localEa o (e.a k)
    (∀ i ∈ [Instr.ld o m, .st o m, .ldc o m, .atom o m, .atomr o m, .cas o m], Begins i s e →
      (canonical (ga l) = false → (∀ k ∈ e.act, k < l → canonical (ga k) = true) →
        exec i s = .next (s.raise e.u.gid ⟨7, 1, l, e.u.pc, ga l, 0, e.bundle⟩)) ∧
      ((∀ k ∈ e.act, canonical (ga k) = true) → (ga l).toNat % n ≠ 0 → (∀ k ∈ e.act, k < l → (ga k).toNat % n = 0) →
        exec i s = .next (s.raise e.u.gid ⟨8, d, l, e.u.pc, ga l, 0, e.bundle⟩))) ∧
    (∀ i ∈ [Instr.ldl o m, .stl o m, .atoml o m, .casl o m], Begins i s e →
      (s.lmSize e.g.team < la l + n → (∀ k ∈ e.act, k < l → la k + n ≤ s.lmSize e.g.team) →
        exec i s = .next (s.raise e.u.gid ⟨7, 2, l, e.u.pc, BitVec.ofNat 64 (la l), 0, e.bundle⟩)) ∧
      ((∀ k ∈ e.act, la k + n ≤ s.lmSize e.g.team) → la l % n ≠ 0 → (∀ k ∈ e.act, k < l → la k % n = 0) →
        exec i s = .next (s.raise e.u.gid ⟨8, d, l, e.u.pc, BitVec.ofNat 64 (la l), 0, e.bundle⟩)))

/-- For LD, ST, LDC, ATOM, ATOMR and CAS without SCL. Where the checks answer a miss, outside a handler, the bundle's
lanes take PARK and stay at the instruction, no access joins the fabric, no register or flag changes and no trap is
pending. Where they answer a trap (a protection, seal or physical-range fault), that trap is taken in the lane
named. Where the die holds a translation that no table write, held or on its way, removes (log 44), no flush for a
new CROOT goes on, and whose leaf has V and U but no W, a store's check answers the protection fault with detail 1. -/
def Obligations.MissesParkAndProtectionTraps : Prop :=
  (∀ (o : Ops) (m : ModM) (s s' : State) (e : Env) (a : Acc) (lvl en epa : Nat), m.scl = false →
    let n := m.sz.bytes
    let checks := fun (k : AccKind) => s.check e.asker (e.accs o false n k) (basesOf (e.accs o false n k)) n
    ∀ x ∈ [(Instr.ld o m, AccKind.read), (.ldc o m, .read), (.st o m, .write), (.atom o m, .both), (.atomr o m, .both),
        (.cas o m, .both)], Begins x.1 s e →
      (checks x.2 = .miss s' a lvl en epa → e.g.inh = false → s'.groups = s.groups → s'.structOk e.g.ctx (s'.frSlot e.g.ctx (s'.frNext e.g.ctx)) = true →
        ∃ t g', exec x.1 s = .next t ∧ t.group? e.u.gid = some g' ∧ t.fabric = s'.fabric ∧
          (∀ g, s.group? e.u.gid = some g → g'.v = g.v ∧ g'.sreg = g.sreg ∧ g'.astat = g.astat ∧ g'.pend = g.pend ∧
            ∀ l, (g'.lane l).pc = (g.lane l).pc) ∧
          ∀ l ∈ e.lanes, (g'.lane l).park = true) ∧
      (∀ c d l ad ax, checks x.2 = .trap s' c d l ad ax →
        exec x.1 s = .next (s'.raise e.u.gid ⟨c, d, l, e.u.pc, ad, ax, e.bundle⟩))) ∧
  (∀ (s : State) (q : Asker) (a : Acc) (t : Tlb), canonical a.va = true → a.va.toNat % a.size = 0 → a.kind = .write →
    s.lookup q.die q.ctx a.va = some t → (s.tableWrites.any fun w => w.hits t.ents) = false →
    s.entryWrites t.ents = false → Tab.has s.rootPend q.ctx = false → bitsOf t.leaf.toNat 4 1 = 1 → bitsOf t.leaf.toNat 2 1 = 0 →
    s.check q [a] [(a.lane, a.va)] a.size = .trap s 9 1 a.lane a.va 0)

/-- For a request of up to 32 bytes from this module that its home may serve, to bytes that no control atom, counted
line, shared table line, poison or retired frame covers: HOME_ACCESS completes. A read's value, where it has not
looked ahead, is the bytes of memory lowest first; it sets out for the destination registers, and memory is as
before. A write puts exactly its data at its physical address. An atomic sends the old value and writes the new one
of Table 3; a CAS sends the old value and writes only where it equals the compare value. Every other byte of memory
is as before. -/
def Obligations.HomesServeAccesses : Prop :=
  ∀ (s : State) (n : Nat) (r : Req), s.fabric[n]? = some r → s.servable n = true → s.isTableLine r.pa = false →
    r.remote = none → 1 ≤ r.size → r.size ≤ 32 → r.data.length = r.size →
    (∀ a, r.pa ≤ a → a < r.pa + r.size → s.special? (a / 32) = none ∧ s.queueOfAtom (a / 32) = none ∧
      s.isCounted a = false ∧ s.poisonedAt a = false) →
    let old := Memory.num s.mem r.pa r.size
    let inside := fun a => r.pa ≤ a ∧ a < r.pa + r.size
    let answers := fun (t : State) => r.dests ≠ [] → t.results = s.results ++ [⟨r.gid, writesOf r.sz old r.dests, true⟩]
    let holds := fun (t : State) (x : Nat) => Memory.num t.mem r.pa r.size = x % 256 ^ r.size ∧
      ∀ a, ¬ inside a → Memory.byte t.mem a = Memory.byte s.mem a
    (r.kind = .read → r.seen = none → ∃ t, exec (.homeAccess n) s = .next t ∧ answers t ∧ t.mem = s.mem ∧ t.groups = s.groups ∧ r ∉ t.fabric) ∧
    (r.kind = .write → s.mates r = [r] → ∃ t, exec (.homeAccess n) s = .next t ∧ holds t (leNat r.data) ∧
      t.results = s.results ∧ t.groups = s.groups ∧ r ∉ t.fabric) ∧
    (∀ op f, r.kind = .atom op f → ∃ t, exec (.homeAccess n) s = .next t ∧ answers t ∧
      holds t (atomNew op r.size old (leNat r.data)) ∧ t.groups = s.groups) ∧
    (r.kind = .cas → ∃ t, exec (.homeAccess n) s = .next t ∧ answers t ∧
      holds t (if old = leNat r.cmp then leNat r.data else old) ∧ t.groups = s.groups)

/-- LONG_LATENCY_RESULT of a group whose image is not in its save area completes: every register of the result is full;
a result of one vector register of a live lane puts its 32 bits there, one of a lane that is not live changes no
register, and one of a scalar register of a group that has not ended puts its 64 bits there. No other register, no
lane and no byte of memory changes, and no flag but those that its instruction left to be set with the result. -/
def Obligations.ResultsArriveAndFillRegisters : Prop :=
  ∀ (s : State) (n : Nat) (r : Result) (g : Group), s.results[n]? = some r → s.group? r.gid = some g → s.away r.gid = false →
    ∃ t g', exec (.longLatencyResult n) s = .next t ∧ t.group? r.gid = some g' ∧ t.results = s.results.eraseIdx n ∧
      (∀ w ∈ r.writes, g'.isEmpty w.1 = false) ∧ g'.lanes = g.lanes ∧ t.mem = s.mem ∧ t.teams = s.teams ∧
      OtherGroups s t r.gid ∧ ((∀ w ∈ r.writes, ∀ d ∈ g.due, d.1 ≠ w.1) → g'.astat = g.astat) ∧
      (∀ k l v f, r.writes = [(.vec k l, v)] → g.due = [(.vec k l, f)] →
        g'.due = [] ∧ g'.astat = if g.live l then g.astat ||| f else g.astat) ∧
      (∀ k l v, r.writes = [(.vec k l, v)] → g'.sreg = g.sreg ∧
        (g.live l = true → g'.vr k l = v.setWidth 32 ∧ ∀ j i, 32 * j + i ≠ 32 * k + l → g'.vr j i = g.vr j i) ∧
        (g.live l = false → g'.v = g.v)) ∧
      (∀ k v, r.writes = [(.scal k, v)] → g'.v = g.v ∧ (g.ended = false → g'.sr k = v ∧ ∀ j, j ≠ k → g'.sr j = g.sr j))

/-- For accesses below LMSIZE, aligned, of clean words, with no earlier access of the threads on its way, each
completes. LDL and LDLV send each lane's bytes, as the core path sees them (the newest, where no engine write is
hidden), to its registers, empty until then, and change no byte. STL leaves the bytes of source B at its lanes'
addresses, the highest lane's where they meet; STLV each lane's elements; every local byte outside the lanes'
addresses, and all other memory, is as before. ATOML and CASL of one active lane return the old value and write the
new one. LDW sends the window's bytes, zeros past its bound, with which WIN_OVR is set. -/
def Obligations.LocalAccessesCompleteAtOnce : Prop :=
  ∀ (o : Ops) (m : ModM) (s : State) (e : Env),
    let n := m.sz.bytes
    let la := fun l => Ops.localEa o (e.a l)
    let byte := fun (t : State) a => t.lmNum e.g.team a 1
    let quiet := s.inFlight e.u.gid e.mask = [] ∧ (Tab.get? s.teams e.g.team).isSome = true
    let good := fun a k => a + k ≤ s.lmSize e.g.team ∧ a % k = 0 ∧ s.lmBad e.g.team a k = false
    let ran := fun (i : Instr) (t : State) => ∃ g', exec i s = .next t ∧ t.group? e.u.gid = some g' ∧ g'.v = e.g.v ∧
      g'.sreg = e.g.sreg ∧ t.mem = s.mem ∧ t.fabric = s.fabric ∧ (∀ l ∈ e.lanes, g'.epc l = e.next) ∧
      ∀ x ∈ t.results.drop s.results.length, ∀ w ∈ x.writes, g'.isEmpty w.1 = true
    let into := fun (ws : List (DReg × W64)) => ws.map fun w => (e.g.into w.1, w.2)
    let look := s.lmLook true e.g.team
    let seen := fun a k => Memory.num look.2 a k
    let loads := fun (i : Instr) (ts : Tab Team) (ws : List (DReg × W64)) => ∃ t, ran i t ∧ t.teams = ts ∧
      (∀ a, byte t a = byte s a) ∧ t.results = s.results ++ (if ws = [] then [] else [⟨e.u.gid, into ws, false⟩])
    let el := fun i j => la e.first + lineOffset m i j
    let lines := la e.first % lineAlign m = 0 ∧ ∀ i ∈ e.act, ∀ j < m.lineCount,
      el i j + n ≤ s.lmSize e.g.team ∧ s.lmBad e.g.team (el i j) n = false
    (Begins (.ldl o m) s e → quiet → m.scl = false → (∀ l ∈ e.act, good (la l) n) →
      loads (.ldl o m) look.1.teams (e.act.flatMap fun l => writesOf m.sz (seen (la l) n) (destRegs o m.sz false l))) ∧
    (∀ x, Tab.get? s.teams e.g.team = some x → x.engineLate = [] → look.2 = x.lm) ∧
    (BeginsActive (.ldl o m) s e → quiet → m.scl = true → good (la e.first) n →
      loads (.ldl o m) look.1.teams (writesOf m.sz (seen (la e.first) n) [.scal o.dst.toNat])) ∧
    (Begins (.ldlv o m) s e → quiet → lines → loads (.ldlv o m) look.1.teams (e.act.flatMap fun i =>
      (List.range m.lineCount).flatMap fun j => writesOf m.sz (seen (el i j) n) (lineRegs o m i j))) ∧
    (Begins (.stl o m) s e → quiet → m.scl = false → (∀ l ∈ e.act, good (la l) n) → ∃ t, ran (.stl o m) t ∧
      t.results = s.results ∧ (∀ a, (∀ l ∈ e.act, a < la l ∨ la l + n ≤ a) → byte t a = byte s a) ∧
      ∀ l ∈ e.act, (∀ k ∈ e.act, l < k → la k + n ≤ la l ∨ la l + n ≤ la k) →
        t.lmNum e.g.team (la l) n = e.b l % 256 ^ n) ∧
    (BeginsActive (.stl o m) s e → quiet → m.scl = true → good (la e.first) n → ∃ t, ran (.stl o m) t ∧
      t.results = s.results ∧ (∀ a, a < la e.first ∨ la e.first + n ≤ a → byte t a = byte s a) ∧
      t.lmNum e.g.team (la e.first) n = e.b e.first % 256 ^ n) ∧
    (Begins (.stlv o m) s e → quiet → lines → ∃ t, ran (.stlv o m) t ∧ t.results = s.results ∧
      (∀ a, (∀ i ∈ e.act, ∀ j < m.lineCount, a < el i j ∨ el i j + n ≤ a) → byte t a = byte s a) ∧
      ∀ i ∈ e.act, ∀ j < m.lineCount, t.lmNum e.g.team (el i j) n = lineData m (e.b i) j) ∧
    (∀ l, Begins (.atoml o m) s e → quiet → e.act = [l] → good (la l) n → ∃ t, ran (.atoml o m) t ∧
      t.results = s.results ++ [⟨e.u.gid, writesOf m.sz (s.lmNum e.g.team (la l) n) (destRegs o m.sz false l), false⟩] ∧
      t.lmNum e.g.team (la l) n = atomNew m.aop n (s.lmNum e.g.team (la l) n) (e.b l) % 256 ^ n ∧
      ∀ a, a < la l ∨ la l + n ≤ a → byte t a = byte s a) ∧
    (∀ l, Begins (.casl o m) s e → quiet → e.act = [l] → good (la l) n → ∃ t, ran (.casl o m) t ∧
      t.results = s.results ++ [⟨e.u.gid, writesOf m.sz (s.lmNum e.g.team (la l) n) (destRegs o m.sz false l), false⟩] ∧
      t.lmNum e.g.team (la l) n = (if s.lmNum e.g.team (la l) n = e.b l then e.c l else s.lmNum e.g.team (la l) n) % 256 ^ n ∧
      ∀ a, a < la l ∨ la l + n ≤ a → byte t a = byte s a) ∧
    (Begins (.ldw o m) s e → loads (.ldw o m) s.teams (e.act.flatMap fun l => writesOf m.sz
      (s.winRead e.g (m.opf.extractLsb' 0 4).toNat (la l % 2 ^ 32) n) (destRegs o m.sz false l))) ∧
    (Begins (.ldw o m) s e → (∃ l ∈ e.act, s.winSize e.g (m.opf.extractLsb' 0 4).toNat < la l % 2 ^ 32 + n) →
      ∃ g', Leaves (.ldw o m) s e g' ∧ g'.astat = e.g.astat ∧
        ∀ l ∈ e.act, ∀ d ∈ destRegs o m.sz false l, (e.g.into d, e.winOver ||| fWIN) ∈ g'.due)

/-- Where the checks pass, giving s' and ps, no watchpoint is struck and the die may send the writes, each completes and
no register value, scalar or byte of memory changes (WIN_OVR of a window source is set where no result is awaited).
LDV and STV send one access for each active lane i and register j, at the base plus (i·n + j)·w with TR or (j·32 +
i)·w without. CFILL, with an active lane, sends one fill of 128 bytes with lane i's word at byte 4i and zeros for
inactive lanes, its count, and its scalar empty; CFILL.RING the same to a ring control atom. CREL of one lane sends
one release of the line that holds its address. -/
def Obligations.LinesAndCountedAccessesAreSent : Prop :=
  ∀ (o : Ops) (m : ModM) (s s' : State) (e : Env) (ps : List Placed),
    let base := Ops.globalEa o (e.a e.first)
    let room := s'.mayWrite (coreDie e.g.core) ps.length = true ∧ s'.strikes e.g.ctx 0 (ps.map writeOf) = []
    let ran := fun (i : Instr) (t : State) => ∃ g', exec i s = .next t ∧ t.group? e.u.gid = some g' ∧ g'.v = e.g.v ∧
      g'.sreg = e.g.sreg ∧ t.mem = s'.mem ∧ t.teams = s'.teams ∧
      g'.astat = (e.g.astat ||| if ∀ r ∈ t.fabric.drop s'.fabric.length, r.dests = [] then e.winOver else 0) ∧
      t.fabric.take s'.fabric.length = s'.fabric ∧ t.fabric.length = s'.fabric.length + ps.length ∧
      ∀ r ∈ t.fabric.drop s'.fabric.length, ∀ d ∈ r.dests, g'.isEmpty d = true
    let kth := fun (t : State) (k : Nat) => (t.fabric.drop s'.fabric.length)[k]?
    let word : Nat → W32 := fun l => if l ∈ e.act then BitVec.ofNat 32 (e.b l) else 0
    let fills := fun (i : Instr) (sz al : Nat) (kind : Nat → ReqKind) => BeginsActive i s e →
      (let a : Acc := ⟨e.first, e.mask, BitVec.ofNat 64 (e.a e.first), sz, .write⟩
       s.check e.asker [a] [(a.lane, a.va)] al = .ok s' ps) → room → ∃ (t : State) (r : Req), ran i t ∧ kth t 0 = some r ∧
        r.kind = kind (cfillCount o m) ∧ ps.map (·.pa) = [r.pa] ∧ r.dests = [.scal o.dst.toNat] ∧ r.data.length = 128 ∧
        ∀ l < 32, ∀ k < 4, r.data.getD (4 * l + k) 0 = (word l).extractLsb' (8 * k) 8
    (BeginsActive (.ldv o m) s e →
      s.check e.asker (e.lineAccs o m .read) [(e.first, base)] (lineAlign m) = .ok s' ps → ∃ t, ran (.ldv o m) t ∧
        ∀ (k : Nat) (p : Placed) (x : Nat × Nat), ps[k]? = some p → (e.elems m)[k]? = some x → p.acc.lane = x.1 ∧
          p.acc.va = base + BitVec.ofNat 64 (lineOffset m x.1 x.2) ∧
          ∃ r : Req, kth t k = some r ∧ r.kind = .read ∧ r.pa = p.pa ∧ r.dests = (lineRegs o m x.1 x.2).map e.g.into) ∧
    (BeginsActive (.stv o m) s e →
      s.check e.asker (e.lineAccs o m .write) [(e.first, base)] (lineAlign m) = .ok s' ps → room → ∃ t, ran (.stv o m) t ∧
        ∀ (k : Nat) (p : Placed) (x : Nat × Nat), ps[k]? = some p → (e.elems m)[k]? = some x → p.acc.lane = x.1 ∧
          p.acc.va = base + BitVec.ofNat 64 (lineOffset m x.1 x.2) ∧
          ∃ r : Req, kth t k = some r ∧ r.kind = .write ∧ r.pa = p.pa ∧ r.data = leBytes m.sz.bytes (lineData m (e.b x.1) x.2)) ∧
    (∀ i j, lineOffset m i j = (if m.opf.getLsbD 3 then i * m.lineCount + j else j * 32 + i) * m.sz.bytes) ∧
    fills (.cfill o m) 128 128 .fill ∧ fills (.cfillRing o m) 32 32 .ringFill ∧
    (∀ l p, Begins (.crel o m) s e → e.act = [l] → ps = [p] → s.check e.asker (e.accs o false 1 .write) [] 1 = .ok s' ps →
      s'.mayWrite (coreDie e.g.core) 1 = true → ∃ (t : State) (r : Req), ran (.crel o m) t ∧ kth t 0 = some r ∧ r.kind = .release ∧
        r.pa = p.pa / 128 * 128 ∧ r.dests = [])

/-- Each event completes for a request of its kind that its home may serve. COUNTED_FILL with status 0, of a line in a
frame that is not retired, makes the line counted by its context with its count, its data the line's data, CL_HELD
one more, and returns 0; with another status it returns that status and the line is as it was. CONSUMING_READ of a
counted line with count above 1 lowers it by one; at 1 the line is counted no more. COUNTED_RELEASE by the owner
makes it uncounted; by another context it changes no count. RING_FILL of a registered ring with a free slot that may
be filled fills the slot at TAIL as a counted line, returns TAIL, and moves TAIL, FREE and FILLS; of an atom that is
no registered ring it returns status 6. Fills and reads leave memory as before. -/
def Obligations.CountedLinesFillAndDrain : Prop :=
  ∀ (s : State) (n : Nat) (r : Req), s.fabric[n]? = some r → s.servable n = true → r.node = none →
    let line := r.pa / 128
    let st := s.fillStatus r.ctx line false
    (∀ c, r.kind = .fill c → s.isTableWrite r = false → r.data.length = 128 → r.bad = [] → r.dests ≠ [] →
      ∃ t, exec (.countedFill n) s = .next t ∧ t.mem = s.mem ∧
      t.results = s.results ++ [⟨r.gid, writesOf r.sz st r.dests, true⟩] ∧
      (st = 0 → s.retiredAt r.pa = false → t.clHeld r.ctx = s.clHeld r.ctx + 1 ∧ Tab.get? t.counted line = some (r.ctx, c) ∧ Memory.bytes t.countedData (128 * line) 128 = r.data) ∧
      (st ≠ 0 → t.counted = s.counted ∧ t.countedData = s.countedData)) ∧
    (∀ c k, r.kind = .consume → Tab.get? s.counted line = some (c, k) → s.poisoned r.pa r.size = false →
      s.mates r = [r] →
      ∃ t, exec (.consumingRead n) s = .next t ∧ t.mem = s.mem ∧
        Tab.get? t.counted line = if k ≤ 1 then none else some (c, k - 1)) ∧
    (∀ c k, r.kind = .release → Tab.get? s.counted line = some (c, k) → ∃ t, exec (.countedRelease n) s = .next t ∧
      (c = r.ctx → Tab.get? t.counted line = none) ∧
      (c ≠ r.ctx → t.counted = s.counted ∧ t.mem = s.mem)) ∧
    (∀ c, r.kind = .ringFill c → s.ringOfAtom (r.pa / 32) = none → s.isTableLine 0 = false → s.lineHeld 0 = false →
      r.dests ≠ [] → ∃ t, exec (.ringFill n) s = .next t ∧ t.counted = s.counted ∧ t.mem = s.mem ∧
        t.results = s.results ++ [⟨r.gid, writesOf r.sz 6 r.dests, true⟩]) ∧
    (∀ c k, r.kind = .ringFill c → s.ringOfAtom (r.pa / 32) = some k →
      let v := Tab.read (0, 0, 0, 0) s.ring k
      let slot := s.ringFirst k + v.1
      v.2.1 ≠ 0 → s.fillStatus r.ctx slot true = 0 → s.ringOfLine slot = some k → s.isTableLine (128 * slot) = false →
      s.lineHeld (128 * slot) = false → s.retiredAt (128 * slot) = false → r.data.length = 128 → r.bad = [] → r.dests ≠ [] →
      ∃ t, exec (.ringFill n) s = .next t ∧ t.mem = s.mem ∧ Tab.get? t.counted slot = some (r.ctx, c) ∧
        Memory.bytes t.countedData (128 * slot) 128 = r.data ∧ t.clHeld r.ctx = s.clHeld r.ctx + 1 ∧
        t.results = s.results ++ [⟨r.gid, writesOf r.sz (v.1 * 2 ^ 16) r.dests, true⟩] ∧
        Tab.read (0, 0, 0, 0) t.ring k = ((v.1 + 1) % s.ringLines k, v.2.1 - 1, (v.2.2.1 + 1) % 2 ^ 32, v.2.2.2))

/-- FENCE.ACQ blocks its active threads until their reads are performed, FENCE.AR until all their accesses are,
FENCE.REL leaves a mark behind all their earlier accesses, and relaxed at THREAD scope does nothing. FENCEX records
a fence; with Y = CORE the group is held until FENCEX_COMPLETE, which ends it once its accesses are performed. PREF
and RESID, none of whose walks waits or stops the context, complete with no register or local byte changed;
RESID.HBM of a page homed in LPDDR6 owes one tier-migration notification. No form changes a register, a scalar or a
flag but WIN_OVR of a window source. -/
def Obligations.FencesAndHints : Prop :=
  ∀ (o : Ops) (m : ModM) (s : State) (e : Env),
    let ran := fun (i : Instr) (t : State) (g' : Group) => exec i s = .next t ∧ t.group? e.u.gid = some g' ∧ g'.v = e.g.v ∧
      g'.sreg = e.g.sreg ∧ g'.astat = e.g.astat ||| e.winOver ∧ t.teams = s.teams
    let blocks := fun (g' : Group) (r w : Bool) => ∀ l ∈ e.act, (g'.lane l).block = some (.drain r w (farScope m.scope))
    let hinted := fun (i : Instr) (fetch : Bool) (f : State → Nat → State) (vas : List W64) =>
      let r := s.translateAll e.asker ((vas.filter canonical).map fun va => ⟨e.first, e.mask, va, 1, .read⟩)
      let h := r.1.hints e.asker e.u.gid e.mask fetch f vas
      Begins i s e → (∀ t ∈ r.2, t.2 ≠ .wait) → h.cur.isSome = true → h.teams = s.teams →
        ∃ t g', ran i t g' ∧ t.mem = h.mem ∧ ∀ l ∈ e.lanes, g'.epc l = e.next
    let pages := if e.act = [] then [] else residPages (Ops.globalEa o (e.a e.first)) (e.b e.first % 2 ^ 32)
    (Begins (.fence o m) s e → ∃ t g', ran (.fence o m) t g' ∧ t.mem = s.mem ∧ (∀ l ∈ e.lanes, g'.epc l = e.next) ∧
      (m.ord = .acq → blocks g' true false) ∧ (m.ord = .ar → blocks g' true true) ∧
      (m.ord = .rlx → m.scope ≠ .thread → blocks g' true true) ∧
      (m.ord = .rlx → m.scope = .thread → t.fabric = s.fabric ∧ ∀ l, (g'.lane l).block = (e.g.lane l).block) ∧
      (m.ord = .rel → e.act ≠ [] → ∃ r, t.fabric = s.fabric ++ [r] ∧ r.kind = .fence ∧ r.gid = e.u.gid ∧ r.lanes = e.mask)) ∧
    (BeginsActive (.fencex o m) s e → ∃ t g' f, ran (.fencex o m) t g' ∧ t.mem = s.mem ∧ t.fences = s.fences ++ [f] ∧
      f.gid = e.u.gid ∧ f.x = (m.opf.extractLsb' 0 3).toNat ∧ f.y = (m.opf.extractLsb' 3 3).toNat ∧ f.id = s.nextId ∧
      (f.y = 0 → ∃ h, g'.hold = some h ∧ h.kind = .fencex f.id) ∧ (f.y ≠ 0 → ∀ l ∈ e.lanes, g'.epc l = e.next)) ∧
    (∀ n f g h, s.fences[n]? = some f → s.fenceDone f = true → s.group? f.gid = some g → g.hold = some h →
      h.kind = .fencex f.id → ∃ t, exec (.fencexComplete n) s = .next t ∧ t.fences = s.fences.eraseIdx n ∧
        t.group? f.gid = some { g with hold := none }) ∧
    hinted (.pref o m) true (fun s _ => s) (e.act.map fun l => Ops.globalEa o (e.a l)) ∧
    hinted (.residNear o m) true (fun s _ => s) pages ∧ hinted (.residCold o m) false (fun s _ => s) pages ∧
    hinted (.residHbm o m) true
      (fun s pa => if isLocal pa && !isHbm pa then s.migrate 1 e.g.ctx (pa / 65536) else s) pages ∧
    (∀ (x : State) (f : Nat), 1 ≤ bitsOf (x.frameW (f * 65536)).toNat 0 7 → bitsOf (x.frameW (f * 65536)).toNat 0 7 ≤ 64 →
      bitsOf (x.frameW (f * 65536)).toNat 26 1 = 0 → x.migQueue.length < 4096 →
      ∃ r, (x.migrate 1 e.g.ctx f).migQueue = x.migQueue ++ [r] ∧ r.extractLsb' 0 8 = 0x30 ∧ r.extractLsb' 40 8 = 1)

/-- With a bundle formed at this tick that holds every live lane: where no guard is true the instruction does nothing,
else the group is held at barrier ID of its team or cluster, with its lanes at the instruction and no register
changed. With fewer lanes the lanes wait and the group is not held. When every group of the team (or cluster) that
has not ended is held at the barrier, with its accesses performed, the release at a tick ends the hold of each such
group on its core and its live lanes stand past the instruction. -/
def Obligations.BarriersHoldAndRelease : Prop :=
  (∀ (o : Ops) (m : BitVec 20) (s : State) (e : Env) (c : Bool),
    let i := if c then Instr.cbar o m else .tbar o m
    let all := BitVec.allOnes 32
    (BeginsActive i s e → Meets e all → ∃ t g' h, exec i s = .next t ∧ t.group? e.u.gid = some g' ∧ g'.hold = some h ∧
      h.kind = .barrier c (m.extractLsb' 0 2).toNat ∧ h.next = e.next ∧ h.pc = e.u.pc ∧ g'.v = e.g.v ∧ g'.sreg = e.g.sreg ∧
      t.mem = s.mem ∧ OtherGroups s t e.u.gid ∧ ∀ l, (g'.lane l).pc = (e.g.lane l).pc) ∧
    (Begins i s e → e.act = [] → Meets e all → ∃ t, exec i s = .next t ∧ SameRest s t ∧
      Keeps s t e (fun _ _ => False) (fun _ => False) (fun _ _ => False) (fun _ => False)) ∧
    (Begins i s e → (e.u.fresh && e.arrived all) = false → ∃ g', Leaves i s e g' ∧
      (∀ g, s.group? e.u.gid = some g → g'.hold = g.hold ∧ g'.v = g.v) ∧ ∀ l ∈ e.lanes, (g'.lane l).block = some (.cross i))) ∧
  (∀ (s : State) (gid : Nat) (g : Group) (h : Hold) (c : Bool) (id : Nat), s.group? gid = some g → g.hold = some h →
    h.kind = .barrier c id → s.onCore g = true → s.barrierDone c id g = true → ∃ g', s.releaseBarriers.group? gid = some g' ∧
      g'.hold = none ∧ g'.v = g.v ∧ g'.sreg = g.sreg ∧ ∀ l ∈ lanesOf h.lanes, g.live l = true → g'.epc l = h.next)

/-- MSEND that may be queued adds a send of its bytes of local memory as the message engine sees them when it issues
(the newest, where no core-path store is hidden; that they are read at the issue is the model's reading, log 8).
MPROBE gives the mailbox's count of records. MRECV with a record takes the oldest as its result; with none it waits,
its scalar empty. BCARM arms the mailbox with its target, and a BCWAIT that waits for no more is served. BCWAIT of a
mailbox that is not armed gives bit 62 and the count; one whose count has reached its target gives the count,
subtracts the target and disarms. Delivery to an armed mailbox writes the bytes and adds to the count, to another it
also appends a record. After 2^26 cycles MRECV gives bit 63, and BCWAIT bit 63 and the count, or the count where it
has reached the target. -/
def Obligations.MessagesAndByteCounts : Prop :=
  (∀ (o : Ops) (m : BitVec 20) (s : State) (e : Env) (x : Team), Tab.get? s.teams e.g.team = some x →
    let b := (m.extractLsb' 0 4).toNat
    let box := x.box b
    let n := ((m.extractLsb' 8 12).toNat + 1) * 16
    let src := Ops.localBase o (e.a e.first)
    let look := s.lmLook false e.g.team
    let gets := fun (i : Instr) (v : W64) (t : State) => exec i s = .next t ∧
      t.results = s.results ++ [⟨e.u.gid, [(.scal o.dst.toNat, v)], false⟩] ∧ t.mem = s.mem ∧
      ∃ g', t.group? e.u.gid = some g' ∧ g'.isEmpty (.scal o.dst.toNat) = true ∧ g'.v = e.g.v ∧ g'.sreg = e.g.sreg
    (∀ dest, BeginsActive (.msend o m) s e → (s.clusterTeams e.g.cluster)[(m.extractLsb' 0 4).toNat]? = some dest →
      src + n ≤ s.lmSize e.g.team → src % 16 = 0 → (e.b e.first % 2 ^ 32) % 16 = 0 → s.sendsOf e.g.team < 16 →
      s.fenced e.g.team 3 = false → s.lmBad e.g.team src n = false → ∃ t y, exec (.msend o m) s = .next t ∧
        t.sends = s.sends ++ [y] ∧ y.dst = dest ∧ y.box = (m.extractLsb' 4 4).toNat ∧ y.daddr = e.b e.first % 2 ^ 32 ∧
        y.data = Memory.bytes look.2 src n ∧ y.src = e.g.team ∧ t.teams = look.1.teams ∧ t.mem = s.mem) ∧
    (x.coreLate = [] → look.2 = x.lm) ∧
    (BeginsActive (.mprobe o m) s e → ∃ g', Leaves (.mprobe o m) s e g' ∧
      g'.sr o.dst.toNat = BitVec.ofNat 64 box.recs.length ∧ g'.v = e.g.v) ∧
    (BeginsActive (.mrecv o m) s e → s.pendings = [] →
      (∀ r rs, box.recs = r :: rs → ∃ t, gets (.mrecv o m) r t ∧ (t.boxOf e.g.team b).recs = rs) ∧
      (box.recs = [] → ∃ t p g', exec (.mrecv o m) s = .next t ∧ t.pendings = [p] ∧ p.kind = .mrecv b ∧
        p.since = s.cycle ∧ t.results = s.results ∧ t.group? e.u.gid = some g' ∧
        g'.isEmpty (.scal o.dst.toNat) = true)) ∧
    (BeginsActive (.bcarm o m) s e → ∃ t, exec (.bcarm o m) s = .next t ∧ t.mem = s.mem ∧
      (s.pendings = [] → t.boxOf e.g.team b = { box with armed := true, tgt := BitVec.ofNat 32 (e.a e.first) }) ∧
      ∀ p, s.pendings = [p] → p.kind = .bcwait b → p.team = e.g.team → e.a e.first % 2 ^ 32 ≤ box.bcnt.toNat →
        t.pendings = [] ∧ t.results = s.results ++ [⟨p.gid, [(.scal p.dst, box.bcnt.setWidth 64)], false⟩]) ∧
    (BeginsActive (.bcwait o m) s e → box.armed = false →
      ∃ t, gets (.bcwait o m) (BitVec.ofNat 64 (2 ^ 62 + box.bcnt.toNat)) t ∧ t.teams = s.teams) ∧
    (BeginsActive (.bcwait o m) s e → box.armed = true → s.pendings = [] →
      (box.tgt.toNat ≤ box.bcnt.toNat → ∃ t, gets (.bcwait o m) (box.bcnt.setWidth 64) t ∧
        t.boxOf e.g.team b = { box with armed := false, bcnt := box.bcnt - box.tgt }) ∧
      (box.bcnt.toNat < box.tgt.toNat → ∃ t p, exec (.bcwait o m) s = .next t ∧ t.pendings = [p] ∧ p.kind = .bcwait b ∧
        t.results = s.results ∧ t.teams = s.teams))) ∧
  (∀ (s : State) (n : Nat) (y : Send) (x : Team), s.sends[n]? = some y → s.sendBehind n y = false → s.frozen y.ctx = false →
    Tab.get? s.teams y.dst = some x → x.ended = false → x.spilled = false → s.pendings = [] →
    y.daddr + y.data.length ≤ x.lmSize → (x.box y.box).armed = true ∨ (x.box y.box).recs.length < 8 →
    ∃ t x', exec (.messageDelivery n) s = .next t ∧ t.sends = s.sends.eraseIdx n ∧ Tab.get? t.teams y.dst = some x' ∧
      Memory.bytes x'.lm y.daddr y.data.length = y.data ∧
      (x'.box y.box).bcnt.toNat = min (2 ^ 32 - 1) ((x.box y.box).bcnt.toNat + y.data.length) ∧
      (x'.box y.box).recs.length = (x.box y.box).recs.length + if (x.box y.box).armed then 0 else 1) ∧
  (∀ (s : State) (n : Nat) (p : Pending) (b : Nat), s.pendings[n]? = some p → s.pendingOver p = true →
    let box := s.boxOf p.team b
    let kept := fun (t : State) => SameLocal s t ∧ ∀ k j, t.boxOf k j = s.boxOf k j
    (p.kind = .mrecv b → ∃ t, exec (.mrecvTimeout n) s = .next t ∧ kept t ∧
      t.results = s.results ++ [⟨p.gid, [(.scal p.dst, 0x8000000000000000)], false⟩]) ∧
    (p.kind = .bcwait b → s.pendings = [p] → box.bcnt.toNat < box.tgt.toNat → ∃ t, exec (.bcwaitTimeout n) s = .next t ∧
      kept t ∧ t.results = s.results ++ [⟨p.gid, [(.scal p.dst, BitVec.ofNat 64 (2 ^ 63 + box.bcnt.toNat))], false⟩]) ∧
    (p.kind = .bcwait b → s.pendings = [p] → box.tgt.toNat ≤ box.bcnt.toNat → ∃ t, exec (.bcwaitTimeout n) s = .next t ∧
      t.pendings = [] ∧ t.results = s.results ++ [⟨p.gid, [(.scal p.dst, box.bcnt.setWidth 64)], false⟩]))

/-- From a bundle that holds every live lane, GANGSET of a legal mask (2 to 6 groups below TEAMSIZE, its own among them)
sets GANG to it and GANGCLR to 0; of an illegal one it takes the gang-mismatch trap 7; from a partial bundle both
take detail 2. ACCAL of 0 or of more than ACCB (or 16) takes its trap; else its request waits and the group is held.
ACCAL_GRANT of the next request, the oldest of the core that its kernel's ACCB permits (the order is the model's
reading, log 23), gives its team the lowest run of free banks (no run that begins below is free), every element
zero, puts the lowest bank into the destination and lets the group go on. ACCFREE of banks the team holds frees
exactly them; else it takes the accumulator-access fault 3. -/
def Obligations.GangsAndBanks : Prop :=
  (∀ (o : Ops) (m : BitVec 20) (s : State) (e : Env),
    let whole := e.g.liveLanes.all (fun l => e.lanes.contains l) = true
    let mask := BitVec.ofNat 32 (e.a e.first)
    let n := e.a e.first % 2 ^ 32
    let k := e.b e.first % 2 ^ 32
    let traps := fun (i : Instr) (c d : Nat) => exec i s = .next (s.raise e.u.gid ⟨c, d, e.first, e.u.pc, 0, 0, e.bundle⟩)
    let held := fun i => Tab.get? s.banks (16 * e.g.core + n + i) = some e.g.team
    (BeginsActive (.gangset o m) s e → whole → gangMaskOk mask (s.teamSize e.g) e.g.gix = true → ∃ g',
      Leaves (.gangset o m) s e g' ∧ g'.gang = mask ∧ g'.v = e.g.v ∧ g'.sreg = e.g.sreg) ∧
    (BeginsActive (.gangset o m) s e → whole → gangMaskOk mask (s.teamSize e.g) e.g.gix = false → traps (.gangset o m) 0x10 7) ∧
    (BeginsActive (.gangclr o m) s e → whole → ∃ g', Leaves (.gangclr o m) s e g' ∧ g'.gang = 0 ∧ g'.v = e.g.v ∧
      g'.sreg = e.g.sreg) ∧
    (∀ i ∈ [Instr.gangset o m, .gangclr o m], BeginsActive i s e → ¬ whole → traps i 0x10 2) ∧
    (BeginsActive (.accal o m) s e → n = 0 → traps (.accal o m) 0x13 2) ∧
    (BeginsActive (.accal o m) s e → n > 16 ∨ n > s.accb e.g.grid e.g.core → traps (.accal o m) 0x13 1) ∧
    (BeginsActive (.accal o m) s e → 1 ≤ n → n ≤ 16 → n ≤ s.accb e.g.grid e.g.core → ∃ t g' h, exec (.accal o m) s = .next t ∧
      t.accReqs = s.accReqs ++ [⟨e.g.core, e.u.gid, n, o.dst.toNat⟩] ∧ t.group? e.u.gid = some g' ∧ g'.hold = some h ∧
      h.kind = .accal n ∧ t.banks = s.banks) ∧
    (BeginsActive (.accfree o m) s e → 1 ≤ k → k ≤ 16 → n + k ≤ 16 → (∀ i < k, held i) → ∃ t, exec (.accfree o m) s = .next t ∧
      ∀ b, Tab.get? t.banks b = if 16 * e.g.core + n ≤ b ∧ b < 16 * e.g.core + n + k then none else Tab.get? s.banks b) ∧
    (BeginsActive (.accfree o m) s e → k = 0 ∨ 16 < k ∨ 16 < n + k ∨ (∃ i < k, ¬ held i) → traps (.accfree o m) 0xF 3)) ∧
  (∀ (s : State) (core b : Nat) (r : AccReq) (g : Group) (h : Hold), s.accNext core = some (r, b) → s.group? r.gid = some g →
    g.hold = some h → r.core = core ∧ s.accPermitted r = true ∧ b + r.n ≤ 16 ∧
      (∃ k : Nat, s.accReqs[k]? = some r ∧ ∀ j < k, ∀ q, s.accReqs[j]? = some q → q.core = core → s.accPermitted q = false) ∧
      (∀ i < r.n, Tab.get? s.banks (16 * core + b + i) = none) ∧
      (∀ c < b, ∃ i < r.n, Tab.get? s.banks (16 * core + c + i) ≠ none) ∧
      ∃ t g', exec (.accalGrant core) s = .next t ∧ t.group? r.gid = some g' ∧ g'.hold = none ∧
        g'.sr r.dst = BitVec.ofNat 64 b ∧ g'.v = g.v ∧ (∀ i < r.n, Tab.get? t.banks (16 * core + b + i) = some g.team) ∧
        (∀ tile row col, 2 * b ≤ tile → tile < 2 * (b + r.n) → row < 64 → col < 64 →
          Tab.read 0 t.acc (accKey core tile row col) = 0) ∧
        ∀ l ∈ lanesOf h.lanes, g.live l = true → g'.epc l = h.next)

/-- For a group on its core: BARRIER_STALL after 2^26 cycles at an incomplete barrier that it alone is held at (cause
0x18, detail 1 team, 2 cluster), GANG_STALL_TIMEOUT after 2^22 cycles at a latch (0x12, 2), GANG_PARTNER_ENDED when
a listed group has ended (0x12, 1), MESSAGE_STALL after 2^22 cycles (0x1B), CROSS_LANE_STALL and QUEUE_STALL after
2^22 cycles of the lowest such lane, unless TRET has given the handler's waits up (0x17; 0x19 with detail 0 pop, 1
push) take their traps at the instruction. MEETING_TIMEOUT after 4096 cycles releases the threads held at the
meeting. SLEEP_EXPIRY makes a thread whose cycles have passed ready. -/
def Obligations.WaitsEndInTheirTraps : Prop :=
  ∀ (s : State) (gid : Nat) (g : Group), s.group? gid = some g →
    let ends := fun (i : Instr) (h : Hold) (c d : Nat) => exec i s = .next ((s.setGroup gid { g with hold := none, retry := none }).raise gid
      ⟨c, d, (lanesOf h.lanes).headD 0, h.pc, 0, 0, h.lanes⟩)
    let waits := fun (k : Block → Bool) => g.liveLanes.filter fun l => (g.lane l).block.any k && decide ((g.lane l).since + 2 ^ 22 ≤ s.cycle)
    (∀ h c id, g.hold = some h → h.kind = .barrier c id → s.onCore g = true → h.since + 2 ^ 26 ≤ s.cycle →
      s.barrierDone c id g = false → ((s.barrierPeers c g).filter fun e => e.2.heldAt h.kind) = [(gid, g)] →
      ends (.barrierStall gid) h 0x18 (if c then 2 else 1)) ∧
    (∀ h p, g.hold = some h → h.kind = .gang p → s.onCore g = true → h.since + 2 ^ 22 ≤ s.cycle →
      ends (.gangStallTimeout gid) h 0x12 2) ∧
    (∀ h k x, g.hold = some h → s.group? k = some x → x.ended = true → s.abandoned x = [(gid, g)] →
      ends (.gangPartnerEnded k) h 0x12 1) ∧
    (∀ h, g.hold = some h → h.kind = .msend → s.onCore g = true → h.since + 2 ^ 22 ≤ s.cycle → ends (.messageStall gid) h 0x1B 0) ∧
    (∀ l ls, waits isCross = l :: ls → s.onCore g = true → g.pend = none → g.returning = false → exec (.crossLaneStall gid (g.epc l)) s =
      .next (s.stallLanes gid g 0x17 0 l (g.epc l) isCross)) ∧
    (∀ l ls push q, waits isQueue = l :: ls → (g.lane l).block = some (.queue push q) → s.onCore g = true → g.pend = none →
      g.returning = false → exec (.queueStall gid) s = .next (s.stallLanes gid g 0x19 (if push then 1 else 0) l (g.epc l) isQueue)) ∧
    (∀ a l, s.onCore g = true → g.inh = false → l < 32 → g.live l = true → (g.lane l).held = true → (g.lane l).meet = a →
      Tab.read 0 g.meets a.toNat + 4096 ≤ s.cycle → ∃ t g', exec (.meetingTimeout gid a) s = .next t ∧ t.group? gid = some g' ∧
        (g'.lane l).held = false ∧ (g'.lane l).pc = (g.lane l).pc ∧ g'.v = g.v) ∧
    (∀ l till, s.onCore g = true → (g.lane l).block = some (.sleep till) → till ≤ s.cycle → ∃ t g', exec (.sleepExpiry gid l) s = .next t ∧
      t.group? gid = some g' ∧ (g'.lane l).block = none ∧ ∀ k, k ≠ l → g'.lane k = g.lane k)

/-- Each begins with an active lane. FRGO with no free slot of its core gives 2^63 + 1, with a bad descriptor 2^63 + 2;
else the lowest free slot opens for the team with the descriptor's base, length and completion word, TAIL B, CUR and
SEQ 0, the completion word is 0 and the handle is 16·generation + slot. FRADV of an open slot adds B to TAIL; with
CLOSE the new TAIL becomes its limit; a stale handle traps with detail 1, a TAIL beyond HEAD + LEN with detail 2.
FRWAIT goes on, with no engine write of its team hidden any more, where SEQ has reached its value and else holds the
group, or traps at a halted slot. FRSTAT's result is the slot's word, 0xFF for a stale handle. That code 1 comes
before code 2, and that another team's handle is stale, is the model's reading (log 12). -/
def Obligations.FurrowInstructionsComplete : Prop :=
  ∀ (o : Ops) (m : BitVec 20) (s : State) (e : Env),
    let d := e.a e.first % 2 ^ 64
    let b := e.b e.first % 2 ^ 32
    let slot := fun i => (Tab.get? s.furrows (16 * e.g.core + i)).getD Furrow.init
    let handle := e.a e.first % 2 ^ 64
    let traps := fun (i : Instr) (c n : Nat) (w : W64) => exec i s = .next (s.raise e.u.gid ⟨c, n, e.first, e.u.pc, 0, w, e.bundle⟩)
    let sets := fun (i : Instr) (v : W64) (t : State) => exec i s = .next t ∧ t.mem = s.mem ∧ ∃ g', t.group? e.u.gid = some g' ∧
      g'.sr o.dst.toNat = v ∧ g'.v = e.g.v
    (BeginsActive (.frgo o m) s e → (∀ i < 16, (slot i).opened = true) → ∃ t, sets (.frgo o m) 0x8000000000000001 t ∧
      t.furrows = s.furrows) ∧
    (∀ i < 16, BeginsActive (.frgo o m) s e → (slot i).opened = false → (∀ j < i, (slot j).opened = true) →
      (frgoBad d b (s.lmSize e.g.team) = true → ∃ t, sets (.frgo o m) 0x8000000000000002 t ∧ t.furrows = s.furrows) ∧
      (frgoBad d b (s.lmSize e.g.team) = false → (Tab.get? s.teams e.g.team).isSome = true → ∃ t f,
        sets (.frgo o m) (BitVec.ofNat 64 (16 * (slot i).gen + i)) t ∧ Tab.get? t.furrows (16 * e.g.core + i) = some f ∧
        f.opened = true ∧ f.gen = (slot i).gen ∧ f.team = e.g.team ∧ f.base = bitsOf d 0 22 ∧ f.len = bitsOf d 22 13 ∧ f.tail = b ∧
        f.cur = 0 ∧ f.seq = 0 ∧ f.state = 0 ∧ f.nodes = [] ∧ t.lmNum e.g.team (8 * bitsOf d 35 19) 8 = 0)) ∧
    (∀ i ∈ [Instr.fradv o m, .fradvClose o m], BeginsActive i s e →
      (s.furrowOf e.g.core e.g.team handle = none → traps i 0x1C 1 0) ∧
      (∀ k f, s.furrowOf e.g.core e.g.team handle = some (k, f) → f.len < f.tail + b - f.head → traps i 0x1C 2 0)) ∧
    (∀ k f, s.furrowOf e.g.core e.g.team handle = some (k, f) → f.tail + b - f.head ≤ f.len → f.ending = false → f.limit = none →
      (BeginsActive (.fradv o m) s e → ∃ t f', exec (.fradv o m) s = .next t ∧ Tab.get? t.furrows k = some f' ∧
        f'.tail = f.tail + b ∧ f'.limit = none ∧ f'.seq = f.seq ∧ f'.nodes = f.nodes ∧ t.mem = s.mem ∧ SameLocal s t) ∧
      (BeginsActive (.fradvClose o m) s e → f.cur < f.tail + b → f.state = 0 →
        ({ f with tail := f.tail + b, limit := some (f.tail + b) } : Furrow).stalls = false → ∃ t f',
        exec (.fradvClose o m) s = .next t ∧ Tab.get? t.furrows k = some f' ∧ f'.tail = f.tail + b ∧
        f'.limit = some (f.tail + b) ∧ f'.opened = true) ∧
      (BeginsActive (.fradvClose o m) s e → f.nodes = [] → f.state = 0 → f.cur = f.tail + b →
        (Tab.get? s.teams f.team).isSome = true → ∃ t f', exec (.fradvClose o m) s = .next t ∧
        Tab.get? t.furrows k = some f' ∧ f'.opened = false ∧ t.lmNum f.team (8 * f.cw) 8 = f.seq % 2 ^ 63 + 2 ^ 63)) ∧
    (BeginsActive (.frwait o m) s e → let v := e.b e.first % 2 ^ 64
      (s.furrowOf e.g.core e.g.team handle = none → traps (.frwait o m) 0x1D 0xFF 0xFF) ∧
      ∀ k f, s.furrowOf e.g.core e.g.team handle = some (k, f) →
        (v ≤ f.seq → ∃ t, exec (.frwait o m) s = .next t ∧ SameLocal s t ∧ t.furrows = s.furrows ∧ t.results = s.results ∧
          (∀ x, Tab.get? t.teams e.g.team = some x → x.engineLate = []) ∧
          Keeps s t e (fun _ _ => False) (fun _ => False) (fun _ _ => False) (fun _ => False)) ∧
        (f.seq < v → f.state = 2 ∨ f.state = 4 → traps (.frwait o m) 0x1D f.state (s.frstat f)) ∧
        (f.seq < v → f.state ≠ 2 → f.state ≠ 4 → ∃ t g' h, exec (.frwait o m) s = .next t ∧ t.group? e.u.gid = some g' ∧
          g'.hold = some h ∧ h.kind = .frwait (BitVec.ofNat 64 handle) (BitVec.ofNat 64 v) ∧ t.furrows = s.furrows)) ∧
    (BeginsActive (.frstat o m) s e → ∃ t, exec (.frstat o m) s = .next t ∧ t.furrows = s.furrows ∧ t.results = s.results ++
      [⟨e.u.gid, [(.scal o.dst.toNat, match s.furrowOf e.g.core e.g.team handle with
        | some (_, f) => s.frstat f
        | none => 0xFF)], false⟩])

/-- DRILL_ADMIT of a slot that may admit (open, running, CUR below TAIL) makes a legal entry, as the drill sees it, a
waiting node with its kind and words, CUR one more, and the nodes of which it is a successor hear of it; an illegal
entry halts the furrow (STATE 2) with STATUS 1 in its entry. NODE_FINISH of a running node with nothing unread,
nothing buffered and nothing on its way takes it out of the slot, raises SEQ by one, writes SEQ to the completion
word, and decrements its successor, or holds the decrement for one not admitted yet. MESSAGE_DROP_TIMEOUT of a send
undelivered for 2^26 cycles drops it and counts it in its team. (Slots without CLOSE.) That an entry's words are
read once, at admission, and kept by the node is the model's reading (log 12), as it is that the bound of a send
runs from its issue (log 8). -/
def Obligations.DrillAdmitsAndNodesFinish : Prop :=
  (∀ (s : State) (core i : Nat) (f : Furrow) (x : Team), Tab.get? s.furrows (16 * core + i) = some f →
    Tab.get? s.teams f.team = some x → f.admits = true → s.frozen x.ctx = false → f.limit = none →
    let y : Team := { x with lm := (s.lmLook false f.team).2 }
    let en := y.entry f f.cur
    ∃ t f', exec (.drillAdmit core i) s = .next t ∧ Tab.get? t.furrows (16 * core + i) = some f' ∧ t.mem = s.mem ∧
      (∀ m ∈ f.nodes, y.entryOk f en f.cur = true → m.ix < f.cur →
        (f.cur - m.ix = Words4.succ0 m.ent ∨ f.cur - m.ix = Words4.succ1 m.ent) → (∀ q ∈ m.succAt, q.1 ≠ f.cur - m.ix) →
        { m with succAt := (f.cur - m.ix, some f.admitted) :: m.succAt } ∈ f'.nodes) ∧
      (y.entryOk f en f.cur = true → f'.cur = f.cur + 1 ∧ SameLocal s t ∧ ∃ n,
        f'.nodes = (f.tell f.cur (some f.admitted)).nodes ++ [n] ∧ n.ix = f.cur ∧ n.num = f.admitted ∧
        n.phase = .waiting ∧ n.kind = Words4.kind en ∧ n.ent = en ∧
        n.live = bitsOf en.w0.toNat 8 8 - Tab.read 0 f.heldDec f.cur) ∧
      (y.entryOk f en f.cur = false → f'.state = 2 ∧ f'.hidx = f.cur % f.len ∧ f'.cur = f.cur ∧ f'.nodes = f.nodes ∧
        t.lmNum f.team (f.base + f.cur % f.len * 32 + 4) 1 = 1)) ∧
  (∀ (s : State) (core i ix : Nat) (f : Furrow) (x : Team) (n : Node), Tab.get? s.furrows (16 * core + i) = some f →
    Tab.get? s.teams f.team = some x → f.nodes.find? (fun m => m.ix == ix) = some n → n.phase = .running → n.buf = [] →
    n.unread = 0 → s.nodeOut (16 * core + i) ix = false → f.opened = true → f.limit = none → f.ending = false →
    ∃ t f', exec (.nodeFinish core i ix) s = .next t ∧ Tab.get? t.furrows (16 * core + i) = some f' ∧
      f'.seq = (f.seq + 1) % 2 ^ 64 ∧ (∀ m ∈ f'.nodes, m.ix ≠ ix) ∧ t.lmNum f.team (8 * f.cw) 8 = f'.seq ∧ t.mem = s.mem ∧
      (n.fin.go = true → Words4.succ1 n.ent = 0 → Words4.succ0 n.ent ≠ 0 →
        let d := Words4.succ0 n.ent
        (∀ j, n.succAt.find? (fun q => q.1 == d) = some (d, some j) → ∀ m ∈ f.nodes, m.ix ≠ ix → m.num = j →
          { m with live := m.live - 1 } ∈ f'.nodes) ∧
        (n.succAt.find? (fun q => q.1 == d) = none →
          Tab.read 0 f'.heldDec (n.ix + d) = Tab.read 0 f.heldDec (n.ix + d) + 1))) ∧
  (∀ (s : State) (n : Nat) (y : Send) (x d : Team), s.sends[n]? = some y → y.node = none → s.deliverSend n = none →
    s.sendBehind n y = false → Tab.get? s.teams y.dst = some d →
    (Tab.get? s.clusters d.cluster).any (fun c => c.phase == .resident) = true → y.since + 2 ^ 26 ≤ s.cycle →
    Tab.get? s.teams y.src = some x → ∃ t x', exec (.messageDropTimeout n) s = .next t ∧ t.sends = s.sends.eraseIdx n ∧
      Tab.get? t.teams y.src = some x' ∧ x'.msgLost = min 255 (x.msgLost + 1) ∧ x'.lm = x.lm)

/-- For a node of each kind that the drill may start, whose pages all translate with nothing to wait for, no watchpoint
struck by an atomic, no poison read and room in the write buffer: the node runs. A local copy of ranges that do not
meet leaves the source's bytes, as the engine sees them, at the destination; a copy from or to global memory has
moved its first 4096 bytes at most, a gather or top-k has read its first row, that of a gather standing in local
memory, and scatters and copies to global memory hold their bytes back, so that memory is as the translations left
it. A send joins the engine. Fills and releases hold one entry for each line. A loop goes back by its BODY while
iterations remain; a condition skips its entries where it fails; a local signal stores its word. A fault in a page
halts the furrow with the STATUS of the cause. The pieces, the reads at the start and the held writes are the
model's reading (log 12), as is the moment at which a send's bytes are read (log 8). -/
def Obligations.NodesStart : Prop :=
  ∀ (s : State) (core i ix : Nat) (x₀ : Nd), x₀.startable = true →
    let x := x₀.look
    let en := x.n.ent
    let is := fun k => s.nd? core i ix k = some x₀
    let runs := fun (t : State) (p : Node → Prop) => ∃ f n, Tab.get? t.furrows x.k = some f ∧ n ∈ f.nodes ∧ n.ix = ix ∧
      n.phase = .running ∧ p n
    let passes := fun (accs : List Acc) (s' : State) (ps : List Placed) => x.s.check x.asker accs [] 1 = .ok s' ps ∧
      ∀ p ∈ ps, s'.waitsAt x.die (AccKind.isWrite p.acc.kind) p = false
    let quiet := fun (s' : State) (ps : List Placed) => s'.strikes x.t.ctx 1 (writesAt ps) = []
    let rows := (x.indices.zipIdx.filter fun i => !skips en i.1).map fun i => (x.rowVa i.1, gRowb en)
    let left := copyLen en - x.n.res
    let piece := min 4096 left
    let rest := fun (k : AccKind) (a : W64) => nodeAccs k [(a + BitVec.ofNat 64 x.n.res, left)]
    let used := s.bufUsed core
    (is 0 → isL en.w1 = true → isL en.w2 = true → let n := copyLen en
      (lAddr en.w1 + n ≤ lAddr en.w2 ∨ lAddr en.w2 + n ≤ lAddr en.w1) → ∃ t x', exec (.copyNode core i ix) s = .next t ∧
        runs t (fun n => n.buf = x.n.buf ∧ n.unread = 0) ∧ Tab.get? t.teams x.f.team = some x' ∧
        Memory.bytes x'.lm (lAddr en.w2) n = Memory.bytes x.t.lm (lAddr en.w1) n ∧ t.mem = s.mem) ∧
    (∀ a s' ps, is 0 → isL en.w1 = false → gAddr? en.w1 = some a → isL en.w2 = true → used ≤ 65536 →
      passes (rest .read a) s' ps → ∃ t, exec (.copyNode core i ix) s = .next t ∧
        runs t (fun n => n.sent = true ∧ n.res = x.n.res + piece) ∧ t.mem = s'.mem) ∧
    (∀ a s' ps, is 0 → isL en.w1 = true → isL en.w2 = false → gAddr? en.w2 = some a → used + copyLen en ≤ 65536 →
      passes (rest .write a) s' ps → ∃ t, exec (.copyNode core i ix) s = .next t ∧
        runs t (fun n => n.res = x.n.res + piece ∧
          n.buf = x.n.buf ++ chunksOf (s'.clockOf x.die) (takePlaced ps piece) (x.t.pullMarked (lAddr en.w1 + x.n.res) piece)) ∧ t.mem = s'.mem) ∧
    (∀ s' ps, is 1 → canonical en.w1 = true → Words4.flag en 4 = false → s.lmBad x.f.team (gList en) (4 * gRows en) = false →
      passes (nodeAccs .read rows) s' ps → s'.badPlace ps = none → ∃ t, exec (.indirectGatherNode core i ix) s = .next t ∧
        runs t (fun n => n.res = 1 ∧ n.index = x.indices) ∧ t.mem = s'.mem ∧
        (1 ≤ gRows en → skips en (x.indices.getD 0 0) = false → ∃ x', Tab.get? t.teams x.f.team = some x' ∧
          Memory.bytes x'.lm (gLocal en) (gRowb en) = s'.pull (takePlaced ps (gRowb en)))) ∧
    (∀ s' ps, is 2 → canonical en.w1 = true → s.lmBad x.f.team (gList en) (4 * gRows en) = false →
      used + gRows en * gRowb en ≤ 65536 → passes (nodeAccs .write rows) s' ps → ∃ t, exec (.scatterNode core i ix) s = .next t ∧
        runs t (fun n => n.buf = chunksOf (s'.clockOf x.die) ps ((x.indices.zipIdx.filter fun i => !skips en i.1).flatMap fun i =>
          x.t.pullMarked (gLocal en + i.2 * gRowb en) (gRowb en))) ∧
        t.mem = s'.mem) ∧
    (∀ dest, is 3 → (s.clusterTeams x.t.cluster)[bitsOf en.w1.toNat 44 4]? = some dest → s.sendsOf x.f.team < 16 →
      s.lmBad x.f.team (lAddr en.w1) (sendBytes en) = false → ∃ t y, exec (.sendNode core i ix) s = .next t ∧
        t.sends = s.sends ++ [y] ∧ y.dst = dest ∧ y.node = some (x.k, ix) ∧
        y.data = Memory.bytes x.t.lm (lAddr en.w1) (sendBytes en) ∧ runs t (fun n => n.sent = true)) ∧
    (∀ s' ps, is 4 → passes ((List.range (fillLines en)).map fun j =>
        ⟨0, 0, if Words4.flag en 4 then en.w1 else en.w1 + BitVec.ofNat 64 (128 * j), (fillKind en).2, .write⟩) s' ps →
      ∃ t, exec (.countedFillNode core i ix) s = .next t ∧ runs t (fun n => n.buf.length = fillLines en)) ∧
    (∀ s' ps, is 5 → passes ((List.range (relLines en)).map fun j =>
        ⟨0, 0, en.w1 + BitVec.ofNat 64 (128 * j), 128, .write⟩) s' ps →
      ∃ t, exec (.releaseNode core i ix) s = .next t ∧ runs t (fun n => n.buf.length = relLines en)) ∧
    (∀ s' ps, is 6 → canonical en.w1 = true →
      passes (nodeAccs .read ((List.range (nRows en)).map fun m => (nRow en m, 4 * nCols en))) s' ps →
      (∀ p ∈ ps, isHbm p.pa = true) → s'.badPlace ps = none → ∃ t, exec (.nearMemoryTopkNode core i ix) s = .next t ∧
        runs t (fun n => n.sent = true ∧ n.res = 1) ∧ t.mem = s'.mem) ∧
    (is 7 → let p := dispatchOf en
      x.s.productBad core x.f.team p = none → (p.uses.any (x.s.exhausted core p.uses)) = false →
      x.s.productPoison core p = false → s.shadow ≤ 1 → ∃ t,
        exec (.matrixDispatchNode core i ix) s = .next t ∧ runs t (fun n => n.sent = true) ∧ t.mem = s.mem ∧
        t.acc = ((x.s.passed core).writeProduct core p (x.s.product core x.t.lm p)).acc) ∧
    (is 8 → let left := if en.w3.getLsbD 16 then bitsOf en.w3.toNat 0 16 else bitsOf en.w1.toNat 0 16 - 1
      ∃ t f, exec (.loopNode core i ix) s = .next t ∧ Tab.get? t.furrows x.k = some f ∧
        f.cur = (if left = 0 then ix + 1 else ix - bitsOf en.w1.toNat 16 6) ∧ runs t (fun n => n.fin.go = decide (left = 0) ∧
          n.fin.w3 = some (BitVec.ofNat 64 (if left = 0 then 0 else left - 1 + 2 ^ 16)))) ∧
    (is 9 → s.lmBad x.f.team (lAddr en.w1) 8 = false →
      let ok := condHolds (bitsOf en.w1.toNat 22 4) (Memory.num x.t.lm (lAddr en.w1) 8) en.w2.toNat
      ∃ t f, exec (.conditionNode core i ix) s = .next t ∧ Tab.get? t.furrows x.k = some f ∧
        f.cur = ix + 1 + (if ok then 0 else bitsOf en.w1.toNat 26 6) ∧ runs t (fun _ => True)) ∧
    (is 10 → isL en.w1 = true → Words4.flag en 4 = false → ∃ t, exec (.signalNode core i ix) s = .next t ∧
      runs t (fun _ => True) ∧ t.lmNum x.f.team (lAddr en.w1) 8 = en.w2.toNat ∧ t.mem = s.mem) ∧
    (∀ a s' p, is 10 → isL en.w1 = false → gAddr? en.w1 = some a → used + 8 ≤ 65536 →
      passes [⟨0, 0, a, 8, if Words4.flag en 4 then .both else .write⟩] s' [p] → (Words4.flag en 4 = true → quiet s' [p]) →
      ∃ t, exec (.signalNode core i ix) s = .next t ∧ runs t (fun _ => True) ∧ t.mem = s'.mem) ∧
    (∀ a s' c d l ad ax, is 0 → isL en.w1 = false → gAddr? en.w1 = some a → isL en.w2 = true → used ≤ 65536 →
      x.s.check x.asker (rest .read a) [] 1 = .trap s' c d l ad ax →
      exec (.copyNode core i ix) s = .next (s'.haltNode x.k ix (statusOf c) c d))

/-- Each begins with an active lane in a team that no FENCEX of the matrix path holds. OBRES gives 2^63 + 3 or 4 for a
bad size or format, + 1 with no free record, + 2 with no free range; else the lowest free record takes the lowest
free range, its bytes zero, and the handle is 32·generation + record. OBFILL puts local bytes, as the matrix path
sees them (the newest, where no core-path store is hidden), into the record. OBDROP frees an own record and gives
its COUNT, or all ones. OBQRY gives Table 7's word, or 0. IXGATH puts each entry's local row (zeros under ZROW) into
its row and leaves rows of inactive lanes. MLD, MLD.SCA and MLDT put the bytes of their segments into the record and
give their number. A handle that is stale, free or another team's traps (cause 0xD) with the handle in TAUX. -/
def Obligations.OperandBufferInstructionsComplete : Prop :=
  ∀ (o : Ops) (m : ModX) (s : State) (e : Env), s.fenced e.g.team 4 = false →
    let core := e.g.core
    let team := e.g.team
    let A := e.a e.first
    let B := e.b e.first
    let r := s.obRec core A
    let look := s.lmLook false team
    let sets := fun (i : Instr) (v : W64) (t : State) => exec i s = .next t ∧ t.mem = s.mem ∧ t.teams = s.teams ∧
      ∃ g', t.group? e.u.gid = some g' ∧ g'.sr o.dst.toNat = v ∧ g'.v = e.g.v ∧ g'.astat = e.g.astat ||| e.winOver
    (∀ x, Tab.get? s.teams team = some x → x.coreLate = [] → look.2 = x.lm) ∧
    (BeginsActive (.obres o m) s e →
      let size := A % 2 ^ 32
      let x := obNew team 0 size m.afmt.code.toNat B
      let fails := fun n => ∃ t, sets (.obres o m) (BitVec.ofNat 64 (2 ^ 63 + n)) t ∧ t.ob = s.ob ∧ t.obMem = s.obMem
      (∀ n, obresBad x size B = n → n ≠ 0 → fails n) ∧
      (obresBad x size B = 0 → (∀ i < 32, (s.obRec core i).live = true) → fails 1) ∧
      ∀ i < 32, obresBad x size B = 0 → (s.obRec core i).live = false → (∀ j < i, (s.obRec core j).live = true) →
        (s.freeRange core size = none → fails 2) ∧
        ∀ a, s.freeRange core size = some a → ∃ t, sets (.obres o m) (BitVec.ofNat 64 ((s.obRec core i).gen * 32 + i)) t ∧
          t.obRec core i = { x with gen := (s.obRec core i).gen, start := a } ∧
          (∀ k, k ≠ core * 32 + i → Tab.get? t.ob k = Tab.get? s.ob k) ∧
          ∀ off < size * 1024, Memory.byte t.obMem (core * 524288 + a * 1024 + off) = 0) ∧
    (∀ x, BeginsActive (.obfill o m) s e → Tab.get? s.teams team = some x → s.handleBad core team A = none →
      let n := (m.opf.toNat + 1) * 64
      let off := bitsOf A 16 19
      let lm := B % 2 ^ 22
      A < 2 ^ 35 → bitsOf B 22 10 = 0 → off + n ≤ r.size * 1024 → off % 64 = 0 → lm % 16 = 0 → lm + n ≤ x.lmSize →
      s.lmBad team lm n = false → ∃ t, exec (.obfill o m) s = .next t ∧ t.ob = s.ob ∧ t.mem = s.mem ∧
        t.teams = look.1.teams ∧ Memory.bytes t.obMem (obAddr core r off) n = Memory.bytes look.2 lm n ∧
        ∀ a, a < obAddr core r off ∨ obAddr core r off + n ≤ a → Memory.byte t.obMem a = Memory.byte s.obMem a) ∧
    (A < 2 ^ 16 →
      (BeginsActive (.obdrop o m) s e →
        (s.ownRecord core team A = false → ∃ t, sets (.obdrop o m) (BitVec.allOnes 64) t ∧ t.ob = s.ob) ∧
        (s.ownRecord core team A = true →
          ∃ t, sets (.obdrop o m) (BitVec.ofNat 64 (r.count + if r.unc then 2 ^ 16 else 0)) t ∧
            (t.obRec core A).live = false ∧ (t.obRec core A).gen = (if r.gen ≥ 2047 then 1 else r.gen + 1) ∧
            ∀ k, k ≠ core * 32 + A % 32 → Tab.get? t.ob k = Tab.get? s.ob k)) ∧
      (BeginsActive (.obqry o m) s e →
        ∃ t, sets (.obqry o m) (if s.ownRecord core team A then r.word else 0) t ∧ t.ob = s.ob)) ∧
    (∀ x, BeginsActive (.ixgath o m) s e → Tab.get? s.teams team = some x → s.handleBad core team A = none →
      let rows := m.rowCount
      let es := e.entries e.b o.b.val.toNat rows
      let lo := 4 * refK0 A * r.ty.width
      let n := r.pitch - lo
      let at_ := fun k => obAddr core r ((refRow A + k) * r.pitch + lo)
      refReserved A = none → entReserved es = none → s.refRange core A rows 0 = none → entAlign es = none →
      (∀ y, some y ∈ es → y / 2 ^ 31 ≠ 1 → y % 2 ^ 22 + n ≤ x.lmSize) → (∀ y ∈ es, s.rowBad team n y = false) →
      ∃ t, exec (.ixgath o m) s = .next t ∧ t.ob = s.ob ∧ t.mem = s.mem ∧ t.teams = look.1.teams ∧ ∀ k < rows,
        (∀ y, es[k]? = some (some y) → Memory.bytes t.obMem (at_ k) n =
          if y / 2 ^ 31 = 1 then List.replicate n 0 else Memory.bytes look.2 (y % 2 ^ 22) n) ∧
        (es[k]? = some none → Memory.bytes t.obMem (at_ k) n = Memory.bytes s.obMem (at_ k) n)) ∧
    (∀ q ∈ [(Instr.mld o m, false, false), (.mldSca o m, true, false), (.mldt o m, false, true)], BeginsActive q.1 s e →
      s.handleBad core team A = none →
      let sca := q.2.1
      let tr := q.2.2
      let p := IntTy.s32.val (B / 2 ^ 64)
      let w := r.ty.width / 8
      let segs := mldSegs r A (B % 2 ^ 64) m.rowCount p sca tr
      ∀ (s' : State) (ps : List Placed), refReserved A = none → B / 2 ^ 64 < 2 ^ 32 → s.refRange core A m.rowCount 0 = none →
        (sca = true → r.ty = .q4) → (tr = true → r.ty ≠ .q4 ∧ B % 2 ^ 64 % w = 0 ∧ p.natAbs % w = 0) →
        s.check e.asker (rangeAccs e.first e.mask .read (segs.map fun g => (g.1, g.2.1))) [] 1 = .ok s' ps →
        let read := s'.touchRead (coreDie core) ps
        (∀ y ∈ ps, s'.waitsAt (coreDie core) false y = false) → read.badPlace ps = none →
        ∃ t g', exec q.1 s = .next t ∧ t.group? e.u.gid = some g' ∧ t.mem = s'.mem ∧ t.ob = s'.ob ∧
          t.obMem = (read.fillSegs core r segs (read.pull ps)).obMem ∧ g'.isEmpty (.scal o.dst.toNat) = true ∧
          t.results = s'.results ++ [⟨e.u.gid, [(.scal o.dst.toNat, BitVec.ofNat 64 ((segs.map fun g => g.2.1).sum))], false⟩]) ∧
    (∀ i ∈ [Instr.obfill o m, .ixgath o m, .mld o m, .mldSca o m, .mldt o m], BeginsActive i s e →
      ∀ b, s.handleBad core team A = some b → b.cause = 0xD ∧
        exec i s = .next (s.raise e.u.gid ⟨0xD, b.detail, e.first, e.u.pc, 0, BitVec.ofNat 64 (A % 65536), e.bundle⟩))

/-- Each begins with an active lane in a team that no FENCEX of the matrix path holds, with its tile's bank owned, its
ranges in local memory, no poison (none in accumulator memory) and no shadow mismatch. ACCLD sends each lane its
element; ACCST stores each lane's B (the highest lane last); ACCZ zeroes rows 0 to M − 1 and columns 0 to N − 1;
ACCLM.IN fills them from local memory as the matrix path sees it; ACCCVT converts them in place; ACCLM.OUT and MTOPK
store their rows in local memory (rows that do not overlap); MST stores its rows at the translated places. Flags of
conversions are sticky; no other element changes. QNT writes five registers for each lane and SEED moves on by its
draws. -/
def Obligations.AccumulatorAndQuantiseInstructionsComplete : Prop :=
  ∀ (o : Ops) (m : ModX) (s : State) (e : Env), s.fenced e.g.team 4 = false → NoShadow s → s.accBad = [] →
    let core := e.g.core
    let team := e.g.team
    let d := e.a e.first % 2 ^ 32
    let B := e.b e.first
    let T := descT d
    let M := descM d
    let N := descN d
    let a := B % 2 ^ 32
    let look := s.lmLook false team
    let tile := fun (i : Instr) (fl : W32) (f : Nat → Nat → W32) => ∃ t g', exec i s = .next t ∧ t.group? e.u.gid = some g' ∧
      (∀ j < M, ∀ k < N, t.elem core T j k = f j k) ∧
      (∀ x, (∀ j < M, ∀ k < N, x ≠ accKey core T j k) → Tab.read 0 t.acc x = Tab.read 0 s.acc x) ∧
      g'.v = e.g.v ∧ g'.sreg = e.g.sreg ∧ g'.astat = e.g.astat ||| fl ||| e.winOver ∧ t.mem = s.mem ∧ SameLocal s t ∧ t.ob = s.ob
    let rows := fun (i : Instr) (fl : W32) (p n : Nat) (f : Nat → List Byte) => ∃ t g' x', exec i s = .next t ∧
      t.group? e.u.gid = some g' ∧ Tab.get? t.teams team = some x' ∧
      (∀ j < M, Memory.bytes x'.lm (a + j * p) n = f j) ∧
      (∀ c, (∀ j < M, c < a + j * p ∨ a + j * p + n ≤ c) → Memory.byte x'.lm c = BitVec.ofNat 8 (s.lmNum team c 1)) ∧
      g'.v = e.g.v ∧ g'.sreg = e.g.sreg ∧ g'.astat = e.g.astat ||| fl ||| e.winOver ∧ t.mem = s.mem ∧ t.acc = s.acc ∧ t.ob = s.ob
    let fits := fun p n => ∀ j < M, a + j * p + n ≤ s.lmSize team
    (∀ i ∈ [Instr.accld o m, .accst o m], BeginsActive i s e →
      (∀ l ∈ e.act, bitsOf (e.a l) 17 15 = 0 ∧ s.tileBad core team (e.a l % 32) = none) →
      let key := fun l => let x := accElem m (e.a l) l; accKey core x.1 x.2.1 x.2.2
      (i = .accld o m → ∃ t g', exec i s = .next t ∧ t.group? e.u.gid = some g' ∧ t.acc = s.acc ∧ t.mem = s.mem ∧
        (∀ l ∈ e.act, g'.isEmpty (e.g.into (.vec o.dst.toNat l)) = true) ∧ t.results = s.results ++
          [⟨e.u.gid, e.act.map fun l => (e.g.into (.vec o.dst.toNat l), (Tab.read 0 s.acc (key l)).setWidth 64), false⟩]) ∧
      (i = .accst o m → ∃ t, exec i s = .next t ∧ t.mem = s.mem ∧ t.teams = s.teams ∧
        (∀ l ∈ e.act, (∀ k ∈ e.act, l < k → key k ≠ key l) → Tab.read 0 t.acc (key l) = BitVec.ofNat 32 (e.b l)) ∧
        ∀ x, (∀ l ∈ e.act, x ≠ key l) → Tab.read 0 t.acc x = Tab.read 0 s.acc x)) ∧
    (d < 2 ^ 30 → s.tileBad core team T = none →
      (bitsOf d 17 13 = 0 →
        (BeginsActive (.accz o m) s e → tile (.accz o m) 0 fun _ _ => 0) ∧
        let cvt := fun (i : Instr) (f : Nat → Int → Res) =>
          let c : Cells := (tileRegion M N).map fun x => (x.1, x.2, f (s.elem core T x.1 x.2).toNat (IntTy.s32.val B))
          BeginsActive i s e → tile i (cellFlags c) fun j k =>
            BitVec.ofNat 32 (f (s.elem core T j k).toNat (IntTy.s32.val B)).bits
        cvt (.acccvtI2f o m) (fun x sc => FloatTy.f32.round (ModX.cvtRm m) false (scaleBy (.ofInt (IntTy.s32.val x)) sc)) ∧
        cvt (.acccvtF2i o m) fun x sc => cvtFI .s32 (ModX.cvtRm m) (scaleBy (FloatTy.f32.read x) sc)) ∧
      (let p := rowPitch d 4;
        a % 4 = 0 → fits p (N * 4) → (∀ j < M, s.lmBad team (a + j * p) (N * 4) = false) →
        BeginsActive (.acclmIn o m) s e →
        tile (.acclmIn o m) 0 fun j k => BitVec.ofNat 32 (Memory.num look.2 (a + j * p + 4 * k) 4)) ∧
      (let w := ofmtBytes (ModX.ofmt m)
        let p := rowPitch d w
        let c := e.outCells m d;
        (a % w = 0 → fits p (N * w) → N * w ≤ p → (Tab.get? s.teams team).isSome = true →
          BeginsActive (.acclmOut o m) s e → rows (.acclmOut o m) (cellFlags c) p (N * w) fun j =>
            (List.range N).flatMap fun k =>
              leBytes w (ofmtElem (ModX.ofmt m) (m.opf.getLsbD 5) (s.elem core T j k).toNat).bits) ∧
        ∀ (s' : State) (ps : List Placed), BeginsActive (.mst o m) s e → B % 2 ^ 64 % w = 0 →
          s.check e.asker (rangeAccs e.first e.mask .write ((List.range M).map fun j =>
            (BitVec.ofNat 64 B + BitVec.ofNat 64 (j * p), N * w))) [] 1 = .ok s' ps →
          (∀ y ∈ ps, s'.waitsAt (coreDie core) true y = false) → s'.shadow = 0 →
          let pushed := (s'.touch ps).push (coreDie core) e.g.ctx ps ((List.range M).flatMap (rowBytes c w))
          pushed.strikes e.g.ctx 1 (writesAt ps) = [] → ∃ t g', exec (.mst o m) s = .next t ∧
            t.group? e.u.gid = some g' ∧ t.mem = pushed.mem ∧ t.teams = pushed.teams ∧ t.acc = pushed.acc ∧
            g'.v = e.g.v ∧ g'.sreg = e.g.sreg ∧ g'.astat = e.g.astat ||| cellFlags c ||| e.winOver)) ∧
    (BeginsActive (.mtopk o m) s e → d < 2 ^ 17 → s.tileBad core team T = none → bitsOf B 22 10 = 0 → a % 4 = 0 →
      let k := m.rowCount
      let val := m.opf.getLsbD 7
      let n := k * if val then 8 else 4
      a + M * n ≤ s.lmSize team → (Tab.get? s.teams team).isSome = true →
      (m.opf.getLsbD 8 = true → s.lmBad team a (M * n) = false) →
      rows (.mtopk o m) 0 n n fun j => s.topkRow core look.2 T N j (a + j * n) k (B / 2 ^ 32) val (m.opf.getLsbD 8)
        (m.opf.getLsbD 9) (m.opf.getLsbD 6)) ∧
    (BeginsActive (.qnt o m) s e → VecDst (.qnt o m) o e →
      let f := fun l qs => qntLane (ModX.qt m) (ModX.vty m) (Rm.ofBits (m.opf.extractLsb' 2 2))
        (if m.expl then some (e.b l) else none) qs (m.opf.getLsbD 4) (e.a l)
      let out := qntLanes (m.opf.getLsbD 4) f e.g.seed e.act
      ∃ t g', exec (.qnt o m) s = .next t ∧ t.group? e.u.gid = some g' ∧ g'.seed = out.1 ∧ g'.sreg = e.g.sreg ∧
        (∀ x ∈ out.2, g'.vrs o.dst.toNat x.1 5 = x.2.val % 2 ^ 160) ∧
        (∀ q l, l ∉ e.act ∨ q < o.dst.toNat ∨ o.dst.toNat + 5 ≤ q → l < 32 → g'.vr q l = e.g.vr q l) ∧
        g'.astat = e.g.astat ||| out.2.foldl (fun w x => w ||| x.2.flags) 0 ||| e.winOver ∧ t.mem = s.mem ∧ t.acc = s.acc)

/-- For a product that begins with an active lane, unfenced, with no poison among its operands and no shadow mismatch: a
failed check traps with its cause and detail. Issued alone with enough COUNT, element (m, n) of tile T (and T + 1
for MMAW, bits 63:32) becomes the sum over A's row m and B's row n from its start, every other element stays, the
records give their claims, the flags are sticky; with too little COUNT it traps 0xD detail 4. With GANG, a bad GANG
register traps 0x10 detail 1, a missing live lane detail 2; with no other member at the latch the group is held
there; when it completes a legal gang whose members' banks are still the team's, the joint operation runs at once:
every member's tile holds its product, computed from the state before, and no member is held. -/
def Obligations.ProductsComplete : Prop :=
  ∀ (o : Ops) (m : ModX) (s : State) (e : Env), s.fenced e.g.team 4 = false → NoShadow s →
    let core := e.g.core
    let team := e.g.team
    let nrows := descM (e.c e.first % 2 ^ 32)
    let look := s.lmLook false team
    ∀ x ∈ [(Instr.mma o m, 0), (.mmaw o m, 1), (.mdist o m, 2), (.mmag o m, 3)], BeginsActive x.1 s e →
      (x.2 = 3 → ∀ l ∈ e.act, l + 32 < nrows → e.g.isEmpty (.vec (o.a.val.toNat + 1) l) = false) →
      let p := e.productOf m x.2 (if x.2 = 3 then e.entries e.a o.a.val.toNat nrows else [])
        (if x.2 = 3 then (e.g.popped o (Instr.mmag o m).sig).head? else none)
      let T := descT p.desc
      let cell := fun (q : Product) j k => q.cell (s.aRow core look.2 q j) (s.obRow core q.b k q.k) (s.start core q j k)
      (∀ b, s.productBad core team p = some b → exec x.1 s =
        .next (s.raise e.u.gid ⟨b.cause, b.detail, e.first, e.u.pc, BitVec.ofNat 64 b.addr, BitVec.ofNat 64 b.aux, e.bundle⟩)) ∧
      (s.productBad core team p = none → (∀ y ∈ p.ents, s.rowBad team (p.k * p.af.width / 8) y = false) →
        s.productPoison core p = false →
        (m.opf.getLsbD 0 = false →
          (∀ h, p.uses.find? (s.exhausted core p.uses) = some h → exec x.1 s =
            .next (s.raise e.u.gid ⟨0xD, 4, e.first, e.u.pc, 0, BitVec.ofNat 64 h, e.bundle⟩)) ∧
          ((∀ h ∈ p.uses, s.exhausted core p.uses h = false) → ∃ t g', exec x.1 s = .next t ∧ t.group? e.u.gid = some g' ∧
            (∀ j < descM p.desc, ∀ k < descN p.desc, t.elem core T j k = BitVec.ofNat 32 (cell p j k).bits ∧
              (x.2 = 1 → t.elem core (T + 1) j k = BitVec.ofNat 32 ((cell p j k).bits / 2 ^ 32))) ∧
            (∀ y, (∀ q ∈ p.tiles, ∀ j < descM p.desc, ∀ k < descN p.desc, y ≠ accKey core q j k) →
              Tab.read 0 t.acc y = Tab.read 0 s.acc y) ∧
            t.ob = (s.claim core p.uses).ob ∧ t.obMem = s.obMem ∧ t.mem = s.mem ∧ t.teams = look.1.teams ∧
            g'.astat = e.g.astat ||| cellFlags (s.product core look.2 p) ||| e.winOver ∧ g'.v = e.g.v ∧ g'.sreg = e.g.sreg)) ∧
        (m.opf.getLsbD 0 = true →
          let trapped := fun n => exec x.1 s = .next (s.raise e.u.gid ⟨0x10, n, e.first, e.u.pc, 0, 0, e.bundle⟩)
          let all := ∀ l ∈ e.g.liveLanes, l ∈ e.lanes
          let unique := ∀ y ∈ s.teamGroups team, y.1 = e.u.gid → s.group? e.u.gid = some y.2
          (hasLane e.g.gang e.g.gix = false ∨ (lanesOf e.g.gang).length < 2 → trapped 1) ∧
          (hasLane e.g.gang e.g.gix = true → 2 ≤ (lanesOf e.g.gang).length →
            (¬ all → trapped 2) ∧
            (all → unique →
              ((∀ y ∈ s.teamGroups team, y.1 ≠ e.u.gid → ∀ h, y.2.hold = some h → h.kind.isGang = false) →
                ∃ t g' h, exec x.1 s = .next t ∧ t.group? e.u.gid = some g' ∧ g'.hold = some h ∧ h.kind = .gang p ∧
                  h.pc = e.u.pc ∧ t.acc = s.acc ∧ t.ob = s.ob ∧ t.mem = s.mem) ∧
              ∀ (u : State) (y : Member) (ys : List Member), e.holdFor s (.gang p) = .next u →
                u.members team e.g.gang = some (y :: ys) → (∀ z ∈ y :: ys, u.bankLost core team z = none ∧ u.productPoison core z.p = false) →
                gangCode y (y :: ys) = 0 →
                (∀ h ∈ jointUses (y :: ys), s.exhausted core (jointUses (y :: ys)) h = false) → ∃ t, exec x.1 s = .next t ∧
                  (∀ z ∈ y :: ys, x.2 ≠ 1 → ∀ j < descM z.p.desc, ∀ k < descN z.p.desc,
                    t.elem core (descT z.p.desc) j k = BitVec.ofNat 32 (cell z.p j k).bits) ∧
                  (∀ z ∈ y :: ys, ∃ g', t.group? z.gid = some g' ∧ g'.hold = none) ∧
                  t.ob = (s.claim core (jointUses (y :: ys))).ob ∧ t.mem = s.mem))))

/-- Both translate A as a load does. FBWAIT: no atom of the context gives status 3; a resident expert gives its buffer's
address and 0 and is pinned; an absent one begins to fill with this waiter, a filling one takes the waiter, both
registers empty. FBWAIT.REL, its group's accesses performed: status 3 with no atom, 4 with no pin, else 1 and one
pin less. A fill with a buffer, whose source and buffer translate with nothing to wait for, copies the bytes, makes
the expert resident with a pin for each waiter and gives each the address and 0. With no buffer for 1 ms the fill
fails with status 2, unfinished after 50 ms with 5: the expert is absent, its buffer free. -/
def Obligations.FillWaitsAndFillsComplete : Prop :=
  (∀ (o : Ops) (m : BitVec 20) (s s' : State) (e : Env) (p : Placed),
    s.check e.asker [⟨e.first, e.mask, BitVec.ofNat 64 (e.a e.first), 1, .read⟩] [] 1 = .ok s' [p] →
    let d := o.dst.toNat
    let d1 := d + 1
    let gives := fun (i : Instr) (v : W64) (st : Nat) (t : State) => exec i s = .next t ∧ t.mem = s'.mem ∧
      t.results = s'.results ++ [⟨e.u.gid, [(.scal d, v), (.scal d1, BitVec.ofNat 64 st)], false⟩] ∧
      ∃ g', t.group? e.u.gid = some g' ∧ g'.isEmpty (.scal d) = true ∧ g'.isEmpty (.scal d1) = true ∧ g'.sreg = e.g.sreg ∧
        g'.v = e.g.v
    let found := s'.atomFor e.g.ctx p.pa
    let listed := fun k i => ∃ l, Tab.get? s'.pool k = some l ∧ i < l.length
    (BeginsActive (.fbwait o m) s e →
      (found = none → ∃ t, gives (.fbwait o m) 0 3 t ∧ t.pool = s'.pool ∧ t.fills = s'.fills) ∧
      ∀ k i, found = some (k, i) → listed k i →
        let a := s'.atomOf k i
        let w := (e.u.gid, d, e.b e.first % 2 ^ 32)
        (a.state = 2 → ∃ t, gives (.fbwait o m) a.bufa 0 t ∧ t.atomOf k i = { a with pins := a.pins + 1, used := s'.nextId }) ∧
        (a.state = 0 → ∃ t g', exec (.fbwait o m) s = .next t ∧ t.atomOf k i = { a with state := 1 } ∧
          t.fills = s'.fills ++ [⟨k, i, s'.gtime, none, [w]⟩] ∧ t.results = s'.results ∧ t.group? e.u.gid = some g' ∧
          g'.isEmpty (.scal d) = true ∧ g'.isEmpty (.scal d1) = true) ∧
        (a.state = 1 → ∃ t, exec (.fbwait o m) s = .next t ∧ t.pool = s'.pool ∧ t.results = s'.results ∧
          ∀ f ∈ s'.fills, f.pool = k → f.atom = i → { f with waiters := f.waiters ++ [w] } ∈ t.fills)) ∧
    (BeginsActive (.fbwaitRel o m) s e → s'.inFlight e.u.gid (BitVec.allOnes 32) = [] →
      (found = none → ∃ t, gives (.fbwaitRel o m) 0 3 t ∧ t.pool = s'.pool) ∧
      ∀ k i, found = some (k, i) → listed k i →
        ((s'.atomOf k i).pins = 0 → ∃ t, gives (.fbwaitRel o m) 0 4 t ∧ t.pool = s'.pool) ∧
        ((s'.atomOf k i).pins ≠ 0 → ∃ t, gives (.fbwaitRel o m) 0 1 t ∧
          t.atomOf k i = { (s'.atomOf k i) with pins := (s'.atomOf k i).pins - 1 }))) ∧
  (∀ (s : State) (n : Nat) (f : Fill), s.fills[n]? = some f → s.frozen (s.poolCtx f.pool) = false →
    let a := s.atomOf f.pool f.atom
    let rd := rangeAccs 0 0 .read [(a.src, a.len)]
    (∀ (b : Nat) (s' : State) (ps : List Placed), f.buf = some b →
      s.check (gleanerAsker (s.poolCtx f.pool)) (rd ++ rangeAccs 0 0 .write [(s.bufferVa f.pool b, a.len)]) [] 1 = .ok s' ps →
      let src := ps.take rd.length
      let dst := ps.drop rd.length
      (∀ p ∈ src, s'.waitsAt 8 false p = false) → (∀ p ∈ dst, s'.waitsAt 8 true p = false) →
      let u := ((s'.learnFrom 8 src).push 8 (s.poolCtx f.pool) dst (s'.pull src)).copyPoison src dst
      let y := u.atomOf f.pool f.atom
      let va := u.bufferVa f.pool b
      (∃ l, Tab.get? u.pool f.pool = some l ∧ f.atom < l.length) →
      ∃ t, exec (.expertFillComplete n) s = .next t ∧ t.mem = u.mem ∧ f ∉ t.fills ∧
        t.atomOf f.pool f.atom = { y with state := 2, buf := b, bufa := va, pins := y.pins + f.waiters.length, used := u.nextId } ∧
        t.results = u.results ++ f.waiters.map fun w => ⟨w.1, [(.scal w.2.1, va), (.scal (w.2.1 + 1), 0)], false⟩) ∧
    let fails := fun (i : Instr) (st : Nat) => ∃ t, exec i s = .next t ∧ f ∉ t.fills ∧ (t.atomOf f.pool f.atom).state = 0 ∧
      (∀ b, f.buf = some b → Tab.get? t.bufOwner (256 * f.pool + b) = none) ∧ t.mem = s.mem ∧
      t.results = s.results ++ f.waiters.map fun w => ⟨w.1, [(.scal w.2.1, 0), (.scal (w.2.1 + 1), BitVec.ofNat 64 st)], false⟩
    (f.buf = none → s.chooseBuffer f.pool = none → f.t0 + 1000000 ≤ s.gtime → fails (.fillNoroomTimeout n) 2) ∧
    (f.t0 + 50000000 ≤ s.gtime → fails (.fillSourceTimeout n) 5))

/-- SCALL with fewer than eight calls outstanding adds the call with its arguments, sD and sD+1 empty, and goes on; it
is posted as soon as it may: its packet to the ring slot, or a full ring's clock starts. A ninth holds the group.
SCWAIT goes on with no call outstanding, else holds. A reply gives both its words, a ring full for 1 ms all ones but
one, no reply in 100 ms all ones. LAUNCH, made in one step (the model's reading, log 15), whose block, ring and
packet pass every check gives 1 at a full ring, else fills the slot, notifies and gives 0 (under a wide FSCOPE with
no write of its past in flight). SEAL marks every 4 KiB page of its region sealed, drops their cached translations
and holds the group; UNSEAL only holds it. When done the group goes on (an UNSEAL's pages no longer sealed); after
50 ms it traps 0xC detail 3. That seals are marks on physical pages under unchanged leaves, and what UNSEAL
completes with, is the model's reading (log 27). -/
def Obligations.CallsLaunchesAndSealsComplete : Prop :=
  (∀ (o : Ops) (m : BitVec 20) (s : State) (e : Env),
    let d := o.dst.toNat
    let c : Call := ⟨s.nextId, e.u.gid, e.g.ctx, s.tag, (m.extractLsb' 0 12).toNat, m.getLsbD 12, BitVec.ofNat 64 (e.a e.first),
      BitVec.ofNat 64 (e.b e.first), e.u.pc, d, none, none⟩
    let holds := fun (i : Instr) (k : HoldKind) => ∃ t g' h, exec i s = .next t ∧ t.group? e.u.gid = some g' ∧ g'.hold = some h ∧
      h.kind = k ∧ t.calls = s.calls ∧ t.mem = s.mem
    (BeginsActive (.scall o m) s e →
      (8 ≤ (s.callsOf e.u.gid).length → holds (.scall o m) .scall) ∧
      ((s.callsOf e.u.gid).length < 8 → ∃ (u : State) (g' : Group), exec (.scall o m) s = .next (u.postCall c) ∧ u.calls = s.calls ++ [c] ∧
        u.tag = (s.tag + 1) % 2 ^ 32 ∧ u.mem = s.mem ∧ u.results = s.results ∧ u.group? e.u.gid = some g' ∧
        g'.isEmpty (.scal d) = true ∧ g'.isEmpty (.scal (d + 1)) = true ∧ g'.sreg = e.g.sreg)) ∧
    (BeginsActive (.scwait o m) s e →
      (s.callsOf e.u.gid = [] → ∃ t, exec (.scwait o m) s = .next t ∧ SameRest s t ∧
        Keeps s t e (fun _ _ => False) (fun _ => False) (fun _ _ => False) (fun _ => False)) ∧
      (s.callsOf e.u.gid ≠ [] → holds (.scwait o m) .scwait))) ∧
  (∀ (u : State) (c : Call) (g : Group), c ∈ u.calls → u.callReady c = true → u.group? c.gid = some g →
    (u.crFull c.ctx = true → c.since = none → { c with since := some u.gtime } ∈ (u.postCall c).calls) ∧
    (u.crFull c.ctx = false → u.structOk c.ctx (u.crSlot c.ctx) = true →
      let v := { u with calls := u.calls.map fun (x : Call) => if x.id = c.id then { c with posted := some u.gtime } else x }
      (u.postCall c).mem = (v.writeRecord (coreDie g.core) c.ctx 2 (u.crSlot c.ctx) (callPacket c g.core g.gix)).mem)) ∧
  (∀ (s : State) (c : Call),
    let ends := fun (t : State) (x y : W64) => t = { s with
      calls := (s.calls.filter fun (z : Call) => z.id != c.id),
      results := s.results ++ [⟨c.gid, [(.scal c.dst, x), (.scal (c.dst + 1), y)], false⟩] }
    s.frozen c.ctx = false →
      (∀ n since, s.calls[n]? = some c → c.since = some since → c.posted = none → since + 1000000 ≤ s.gtime →
        s.crFull c.ctx = true → ∃ t, exec (.scallRingTimeout n) s = .next t ∧ ends t 0 0xFFFFFFFFFFFFFFFE) ∧
      (∀ n at_, s.calls[n]? = some c → c.posted = some at_ → at_ + 100000000 ≤ s.gtime →
        ∃ t, exec (.scallReplyTimeout n) s = .next t ∧ ends t 0 0xFFFFFFFFFFFFFFFF) ∧
      (∀ w : Words4, (s.calls.find? fun z => z.posted.isSome && z.tag == bitsOf w.w0.toNat 32 32 &&
          z.ctx == bitsOf w.w0.toNat 0 10) = some c → ∃ u, exec (.stewardReply w) s = .next u.postCalls ∧ ends u w.w1 w.w2)) ∧
  (∀ (o : Ops) (m : BitVec 20) (s s1 s2 : State) (e : Env) (p r q : Placed) (ring : List Placed),
    BeginsActive (.launch o m) s e → s.inFlight e.u.gid (BitVec.allOnes 32) = [] →
    let a := BitVec.ofNat 64 (e.a e.first)
    let b := e.b e.first % 2 ^ 32
    let d := coreDie e.g.core
    b + 64 ≤ s.lmSize e.g.team → a.toNat % 64 = 0 → b % 16 = 0 →
    s.check e.asker [⟨e.first, e.mask, a, 64, .both⟩] [] 1 = .ok s1 [p] →
    let blk := s1.homeRead p.pa 64
    s1.waitsAt d true p = false → s1.poisoned p.pa 64 = false → wordOf blk 2 % (64 * blockSlots blk) = 0 →
    s1.check e.asker (launchAccs e.first e.mask blk)
      [(e.first, BitVec.ofNat 64 (wordOf blk 1)), (e.first, BitVec.ofNat 64 (wordOf blk 3))] 8 = .ok s2 (r :: q :: ring) →
    (∀ y ∈ r :: q :: ring, s2.waitsAt d true y = false) → s2.lmBad e.g.team b 64 = false → s2.poisoned r.pa r.acc.size = false →
    let v := s2.lmLook true e.g.team
    let used := (wordOf blk 0 + 2 ^ 64 - leNat (s2.homeRead r.pa 8)) % 2 ^ 64
    let sets := fun (v : W64) (t : State) => exec (.launch o m) s = .next t ∧ ∃ g', t.group? e.u.gid = some g' ∧
      g'.sr o.dst.toNat = v ∧ g'.v = e.g.v
    (blockSlots blk ≤ used → ∃ t, sets 1 t ∧ t.mem = s2.mem) ∧
    (used < blockSlots blk →
      let packet := Memory.bytes v.2 b 64
      let slot := pieceAt ring (wordOf blk 0 % blockSlots blk * 64)
      let s3 := ((((v.1.countAccess p.pa 8).learn d (v.1.clockAt p.pa 8)).touchRead d [r]).countAccess slot.1 64).countAccess q.pa 8
      (farScope (fscopeOf (bitsOf (wordOf packet 0) 4 2)) = true →
        v.1.tellsOf (joinClock (v.1.clockOf d) (joinClock (v.1.clockAt p.pa 8) (v.1.clockAt r.pa 8))) = false) →
      ∃ t, sets 0 t ∧ t.mem = (s3.fillSlot d e.g.ctx (p.pa, p.ents) slot (q.pa, q.ents) (wordOf blk 0) packet).mem)) ∧
  (∀ (o : Ops) (m : ModM) (s s' : State) (e : Env) (ps : List Placed),
    let ea := Ops.globalEa o (e.a e.first)
    let b := e.b e.first % 2 ^ 32
    let as := rangeAccs e.first e.mask .write [(ea, 65536 * b)]
    canonical ea = true → ea.toNat % 65536 = 0 → 1 ≤ b → b ≤ 4096 → (∀ a ∈ as, canonical a.va = true) →
    s.checkTranslated e.asker as false = .ok s' ps → s'.groups = s.groups →
    (∀ a ∈ as, ∀ t, s'.lookup (coreDie e.g.core) e.g.ctx a.va = some t → bitsOf t.leaf.toNat 8 1 = 0) →
    let pages := ps.map fun p => p.pa / 4096
    let waits := fun (i : Instr) (undo : Bool) (t : State) => exec i s = .next t ∧
      t.seals = s'.seals ++ [⟨e.u.gid, undo, pages, ea, s'.gtime⟩] ∧
      ∃ g' h, t.group? e.u.gid = some g' ∧ g'.hold = some h ∧ h.kind = .seal ∧ h.next = e.next
    (BeginsActive (.seal o m) s e → ∃ t, waits (.seal o m) false t ∧
      (∀ p, p ∈ t.sealed ↔ p ∈ s'.sealed ∨ p ∈ pages) ∧
      ∀ x ∈ t.tlb, x.die < 10 → ∀ p ∈ pages,
        ¬ (leafPa x.leaf.toNat x.bits 0 / 4096 ≤ p ∧ p < leafPa x.leaf.toNat x.bits 0 / 4096 + 2 ^ (x.bits - 12))) ∧
    (BeginsActive (.unseal o m) s e → ∃ t, waits (.unseal o m) true t ∧ t.sealed = s'.sealed ∧ t.tlb = s'.tlb ∧ t.mem = s'.mem)) ∧
  (∀ (s : State) (gid : Nat) (x : SealOp) (g : Group) (h : Hold), s.group? gid = some g → g.hold = some h → h.kind = .seal →
    ((s.seals.find? fun y => y.gid == gid) = some x → s.sealDone x = true →
      (∀ y ∈ s.seals.erase x, y.gid ≠ gid) → ∃ t g', exec (.sealComplete gid) s = .next t ∧ t.seals = s.seals.erase x ∧
        t.group? gid = some g' ∧ g'.hold = none ∧ (∀ l ∈ lanesOf h.lanes, g.live l = true → g'.epc l = h.next) ∧
        (x.undo = true → ∀ p, p ∈ t.sealed ↔ p ∈ s.sealed ∧ p ∉ x.pages)) ∧
    ((s.seals.filter fun y => y.gid == gid).getLast? = some x → s.onCore g = true → x.t0 + 50000000 ≤ s.gtime →
      exec (.sealTimeout gid) s = .next (s.stallAt gid 0xC 3 x.ea 0)))

/-- For a group of a context that is not frozen, its earlier accesses performed: each command with nothing to wait for
(resets, a new CROOT's flush, a watchpoint's walk) puts the controller's answer into its destination registers and
leaves the controller's state. CTXFRZ freezes and gives 0; 1 if frozen already, 2^63 + 4 during a reset, 2^63 + 1
without reach. CTXRST and PARTRST set RSTBUSY and FROZEN and hold the group until the resets end; PARTRST of a
partition with no live context gives 0. QSET gives the number of quotas it sets, pairs of core and kernel, and
status 2 for a core of 512 or more but 0x3FF (the model's reading, log 19); QSET.DEF sets quota word 3 of the
partition; QOSSET and WSET give the old word and a status, and write only with status 0 (VFEN then shows the host's
VF Enable); with status 1 or 2 the old word reads 0 (the model's reading, log 18). EQPOP takes the oldest record, or
gives zeros. CONTEXT_RESET_DONE, once the context's accesses are gone, ends the reset: nothing of the context is
left and it is neither frozen nor lost. -/
def Obligations.PrivilegedCommandsComplete : Prop :=
  (∀ (o : Ops) (m : BitVec 20) (s : State) (e : Env), s.inFlight e.u.gid (BitVec.allOnes 32) = [] → s.frozen e.g.ctx = false →
    let A := e.a e.first
    let B := e.b e.first
    let d := o.dst.toNat
    let cmd := fun op opf b => (⟨op, opf, A, b, some e.g.ctx⟩ : Command)
    let put := fun (i : Instr) (ws : List W64) (t : State) => exec i s = .next t ∧ ∃ g', t.group? e.u.gid = some g' ∧
      (∀ k w, ws[k]? = some w → g'.sr (d + k) = w) ∧ g'.v = e.g.v ∧ g'.astat = e.g.astat ||| e.winOver
    let same := fun (t : State) => t.desc = s.desc ∧ t.part = s.part ∧ t.frame = s.frame ∧ t.mem = s.mem ∧ t.fabric = s.fabric
    let adm := s.adm e.g.ctx
    let reach := fun c => adm = true ∨ s.partOf e.g.ctx = s.partOf c
    (∀ x ∈ [(Instr.ctxfrz o m, cmd 0xEC 0 0), (.qset o m, cmd 0xEF 0 B), (.qsetDef o m, cmd 0xEF 1 B), (.qosset o m, cmd 0xF0 0 B),
        (.wset o m, cmd 0xF1 0 B), (.wsetRd o m, cmd 0xF1 1 0)], BeginsActive x.1 s e →
      let r := s.command x.2
      r.s.frozen e.g.ctx = false → r.s.resetsOver r.waits = true → ∃ t, put x.1 r.out t ∧ t.desc = r.s.desc ∧ t.part = r.s.part ∧ t.frame = r.s.frame ∧
        t.mem = r.s.mem ∧ t.tabPool = r.s.tabPool ∧ t.tabRing = r.s.tabRing ∧ t.tabQueue = r.s.tabQueue) ∧
    (BeginsActive (.ctxfrz o m) s e → let c := A % 1024
      (¬ reach c → ∃ t, put (.ctxfrz o m) [0x8000000000000001] t ∧ same t) ∧
      (reach c → s.rstBusy c = true → ∃ t, put (.ctxfrz o m) [0x8000000000000004] t ∧ same t) ∧
      (reach c → s.rstBusy c = false → s.frozen c = true → ∃ t, put (.ctxfrz o m) [1] t ∧ same t) ∧
      (reach c → s.rstBusy c = false → s.frozen c = false → c ≠ e.g.ctx → ∃ t, put (.ctxfrz o m) [0] t ∧ t.frozen c = true)) ∧
    (let ends := fun (i : Instr) (n : Nat) (cs : List Nat) => ∃ t g' h, exec i s = .next t ∧ t.group? e.u.gid = some g' ∧
        g'.hold = some h ∧ h.kind = .reset d [BitVec.ofNat 64 n] cs ∧ ∀ c ∈ cs, t.rstBusy c = true ∧ t.frozen c = true;
      (BeginsActive (.ctxrst o m) s e → let c := A % 1024
        (¬ reach c → ∃ t, put (.ctxrst o m) [0x8000000000000001] t ∧ same t) ∧
        (reach c → c ≠ e.g.ctx → ends (.ctxrst o m) 0 [c])) ∧
      (BeginsActive (.partrst o m) s e → let cs := s.liveOf (A % 64)
        (adm = false → ∃ t, put (.partrst o m) [0x8000000000000001] t ∧ same t) ∧
        (adm = true → cs = [] → ∃ t, put (.partrst o m) [0] t ∧ same t) ∧
        (adm = true → cs ≠ [] → e.g.ctx ∉ cs → ends (.partrst o m) cs.length cs))) ∧
    (BeginsActive (.qset o m) s e → let core := A % 1024
      let c := bitsOf A 16 10
      (¬ reach c → ∃ t, put (.qset o m) [0x8000000000000001] t ∧ same t) ∧
      (reach c → 512 ≤ core → core ≠ 0x3FF → ∃ t, put (.qset o m) [0x8000000000000002] t ∧ same t) ∧
      (reach c → core < 512 → ∃ t, put (.qset o m) [BitVec.ofNat 64 (s.kernelsOn c core).length] t ∧ same t ∧
        ∀ k ∈ s.kernelsOn c core, ∀ y, Tab.get? s.grids k = some y → ∃ z, Tab.get? t.grids k = some z ∧
          z.quotaAt core = BitVec.ofNat 64 (B &&& quotaRw))) ∧
    (BeginsActive (.qsetDef o m) s e →
      (adm = false → ∃ t, put (.qsetDef o m) [0x8000000000000001] t ∧ same t) ∧
      (adm = true → ∃ t, put (.qsetDef o m) [0] t ∧ t.partW (A % 64) 3 = BitVec.ofNat 64 (B &&& quotaRw))) ∧
    (BeginsActive (.qosset o m) s e → let p := A % 64
      let w := bitsOf A 8 2
      let new := BitVec.ofNat 64 (mergeWord (partRw w) 0 (s.partW p w).toNat B)
      (adm = false → ∃ t, put (.qosset o m) [0, 1] t ∧ same t) ∧
      (adm = true → (s.setPartW p w new).qosBad p = true → ∃ t, put (.qosset o m) [s.partW p w, 3] t ∧ same t) ∧
      (adm = true → (s.setPartW p w new).qosBad p = false →
        ∃ t, put (.qosset o m) [s.partW p w, 0] t ∧ t.partW p w = if w = 0 then BitVec.ofNat 64 (setBitsOf new.toNat 11 1
          (if Tab.read false s.vfOn (64 * bitsOf new.toNat 12 1 + p) then 1 else 0)) else new)) ∧
    (∀ i ∈ [Instr.wset o m, .wsetRd o m], BeginsActive i s e →
      let c := bitsOf A 32 28
      let w := A % 64
      let old := s.descNow c w
      let new := mergeWord (descRw w) (descW1c w) old.toNat B
      (bitsOf A 6 26 ≠ 0 ∨ 4 < bitsOf A 60 4 → ∃ t, put i [0, 2] t ∧ same t) ∧
      (bitsOf A 6 26 = 0 → bitsOf A 60 4 = 0 → c < 1024 →
        (¬ reach c → ∃ t, put i [0, 1] t ∧ same t) ∧
        (reach c → i = .wsetRd o m → ∃ t, put i [old, 0] t ∧ same t) ∧
        (∀ st, reach c → i = .wset o m → s.descBar c w adm old.toNat new B = some st →
          ∃ t, put i [old, BitVec.ofNat 64 st] t ∧ same t) ∧
        (reach c → i = .wset o m → s.descBar c w adm old.toNat new B = none → w ≠ 8 → w < 32 ∨ 48 ≤ w ∨ w % 2 = 1 →
          ∃ t, put i [old, 0] t ∧ t.descW c w = BitVec.ofNat 64 new))) ∧
    (∀ x ∈ [(Instr.eqpopSys o m, s.sysQueue), (.eqpopMig o m, s.migQueue)], BeginsActive x.1 s e →
      let out := if adm = true then x.2.headD 0 else 0
      ∃ t, exec x.1 s = .next t ∧ t.results = s.results ++ [⟨e.u.gid, (List.range 4).map fun k =>
          (.scal (d + k), out.extractLsb' (64 * k) 64), false⟩] ∧
        t.sysQueue = (if x.1 = .eqpopSys o m ∧ adm = true then s.sysQueue.drop 1 else s.sysQueue) ∧
        t.migQueue = (if x.1 = .eqpopMig o m ∧ adm = true then s.migQueue.drop 1 else s.migQueue) ∧ t.mem = s.mem)) ∧
  (∀ (s : State) (c : Nat), c < 1024 → s.rstBusy c = true → s.resetReady c = true →
    ∃ t, exec (.contextResetDone c) s = .next t ∧ t.frozen c = false ∧ t.lost c = false ∧ t.rstBusy c = false ∧
      (∀ x ∈ t.tlb, x.ctx ≠ c) ∧ (∀ x ∈ t.groups, x.2.ctx ≠ c) ∧ (∀ x ∈ t.teams, x.2.ctx ≠ c) ∧ (∀ x ∈ t.fabric, x.ctx ≠ c) ∧
      (∀ x ∈ t.calls, x.ctx ≠ c) ∧ ∀ x ∈ t.pool, t.poolCtx x.1 ≠ c)

/-- PTWAIT, its address translated, goes on where no table write of that line is held and no snoop of it pending, else
holds the group for those writes and the snoop. TLBPRB gives Table 12's word of the die's translation of A in
context B, or 0, for an address that is not canonical too (the model's reading, log 17). WALK, with nothing of its
group on its way that it must follow, gives the last entry read and the word with its level, address and status, (0,
6) for a context that is not live and (0, 7) for an address that is not canonical, changing no memory. ALIASQ gives
bit 63 and the alias bits of a frame of this module, 0 for any other address; .CLR clears them too. PAGE_WALK leaves
what translating leaves; a miss joins the entry of its page, begins one with a record to the Gleaner, or goes to the
fault ring. -/
def Obligations.TranslationInstructionsComplete : Prop :=
  (∀ (o : Ops) (m : BitVec 20) (s : State) (e : Env),
    let A := e.a e.first
    let va := BitVec.ofNat 64 A
    let c := e.b e.first % 2 ^ 32
    let d := o.dst.toNat
    let pa := A % 2 ^ 56
    let gives := fun (i : Instr) (ws : List (DReg × W64)) (t : State) => exec i s = .next t ∧ t.mem = s.mem ∧
      t.results = s.results ++ [⟨e.u.gid, ws, false⟩] ∧ ∃ g', t.group? e.u.gid = some g' ∧ g'.v = e.g.v ∧ g'.sreg = e.g.sreg ∧
        ∀ w ∈ ws, g'.isEmpty w.1 = true
    (∀ (s' : State) (p : Placed), BeginsActive (.ptwait o m) s e →
      s.check e.asker [⟨e.first, e.mask, Ops.globalEa o A, 1, .read⟩] [] 1 = .ok s' [p] → s'.groups = s.groups →
      let held := (s'.tableWrites.filter fun t => t.line == p.pa / 128).map (·.id)
      let snoop := s'.snoops.contains (p.pa / 64)
      (held = [] → snoop = false → ∃ t g', exec (.ptwait o m) s = .next t ∧ t.mem = s'.mem ∧ t.group? e.u.gid = some g' ∧ g'.v = e.g.v ∧
        g'.sreg = e.g.sreg ∧ ∀ l ∈ e.lanes, g'.epc l = e.next) ∧
      (held ≠ [] ∨ snoop = true → ∃ t g' h, exec (.ptwait o m) s = .next t ∧ t.group? e.u.gid = some g' ∧ g'.hold = some h ∧
        h.kind = .ptwait held (if snoop then some (p.pa / 64) else none))) ∧
    (BeginsActive (.tlbprb o m) s e → ∃ t, gives (.tlbprb o m) [(.scal d, match s.lookup (coreDie e.g.core) c va with
      | some x => if s.live c && canonical va then x.word else 0
      | none => 0)] t ∧ t.tlb = s.tlb) ∧
    (BeginsActive (.walk o m) s e →
      (s.live c = false → ∃ t, gives (.walk o m) [(.scal d, 0), (.scal (d + 1), 6)] t) ∧
      (s.live c = true → canonical va = false → ∃ t, gives (.walk o m) [(.scal d, 0), (.scal (d + 1), 7)] t) ∧
      (s.live c = true → canonical va = true → let w := s.walk (coreDie e.g.core) c va false
        (∀ r ∈ s.inFlight e.u.gid (BitVec.allOnes 32), r.kind.reads = false ∧ ∀ x ∈ w.reads, rangesMeet r.pa r.size x.2.1 8 = false) →
        (∀ p, w.fin ≠ .poison p) → (∀ p, w.fin ≠ .held p) → let r := walkResult w
        ∃ t, gives (.walk o m) [(.scal d, r.1), (.scal (d + 1), r.2)] t ∧ t.tlb = s.tlb)) ∧
    (let w := if isLocal pa then BitVec.ofNat 64 (2 ^ 63 + (Tab.read 0 s.aliasBits (pa / 65536)).toNat) else 0;
      (BeginsActive (.aliasq o m) s e → ∃ t, gives (.aliasq o m) [(.scal d, w)] t ∧ t.aliasBits = s.aliasBits) ∧
      (BeginsActive (.aliasqClr o m) s e → ∃ t, gives (.aliasqClr o m) [(.scal d, w)] t ∧
        (isLocal pa = true → ∀ k, Tab.read 0 t.aliasBits k = if k = pa / 65536 then 0 else Tab.read 0 s.aliasBits k) ∧
        (isLocal pa = false → t.aliasBits = s.aliasBits)))) ∧
  (∀ (s : State) (die c : Nat) (va : W64) (k : AccKind), s.live c = true → s.frozen c = false → canonical va = true →
    exec (.pageWalk die c va k) s = .next (s.translate ⟨die, c, 0, 0x3FF, 0, false⟩ va k).1) ∧
  (∀ (s : State) (x : MissArg), s.live x.ctx = true → s.frozen x.ctx = false →
    let page := pageOf x.va
    let w : WaiterRec := ⟨x, s.gtime⟩
    let entry := s.fmt.find? fun f => f.die == x.die && f.ctx == x.ctx && f.page == page
    ∃ t, exec (.translationMiss x) s = .next t ∧
      (∀ f, entry = some f → f.waiters.length < 64 → { f with waiters := f.waiters ++ [w] } ∈ t.fmt ∧ t.faultIn = s.faultIn) ∧
      (∀ ix, entry = none → s.freeFmt x.die = some ix → t.fmt = s.fmt ++ [⟨x.die, ix, x.ctx, page, [w], false⟩] ∧
        t.faultIn = s.faultIn ++ [s.faultRecord x false ix]) ∧
      ((∀ f, entry = some f → 64 ≤ f.waiters.length) → (entry = none → s.freeFmt x.die = none) →
        (s.frSpace x.ctx = false → t.represent = s.represent ++ [⟨x, s.gtime, s.gtime + 1000, false⟩] ∧ t.fmt = s.fmt) ∧
        (s.frSpace x.ctx = true → s.structOk x.ctx (s.frSlot x.ctx (s.frNext x.ctx)) = true →
          t.ringWait = s.ringWait ++ [⟨x, s.gtime, 0, false⟩] ∧ t.fmt = s.fmt)))

/-- WAKE takes the entry of its page away and wakes its waiters in order: with outcome 0 a parked group's named lanes
lose PARK. After 50 ms a waiter leaves its entry with the outcome 0xC, 1, a ring waiter and a miss presented every
µs likewise. MISS_REPRESENT completes: after its 1 µs it presents the miss again. TABLE_WRITE makes a write in the
fabric, with those served together with it, wait for the line's sharers; SHARER_INVALIDATE takes the named sharer's
derived translations and its name off, and the write then follows that die's; TABLE_WRITE_COMPLETE, all sharers
answered, everything translated through the line landed, no host's copy and no earlier record of a ring waited for,
applies the write: the line is as written, its directory holds those that still have a translation. HOST_SNOOP
completes: it takes every translation derived from its 64 bytes; the line is given up once nothing translated
through it is on its way, until when the snoop stays pending. -/
def Obligations.WakesAndTableWritesComplete : Prop :=
  (∀ (s : State) (die c page oc dt : Nat) (f : FmtEntry), s.frozen c = false →
    (s.fmt.find? fun y => y.die == die && y.ctx == c && y.page == page) = some f →
    let x := wakeCause oc dt
    (exec (.wake die c page oc dt) s = .next ({ s with fmt := s.fmt.filter fun y => y != f }.wakeAll x.1 x.2 f.waiters [])) ∧
    (∀ gid ls w g, f.waiters = [w] → w.miss.waiter = .group gid ls false → oc = 0 → s.group? gid = some g →
      ∃ t g', exec (.wake die c page oc dt) s = .next t ∧ f ∉ t.fmt ∧ t.group? gid = some g' ∧ g'.pend = g.pend ∧ g'.v = g.v ∧
        (∀ l ∈ lanesOf ls, g.live l = true → (g'.lane l).park = false) ∧
        ∀ l, l ∉ lanesOf ls → g'.lane l = g.lane l) ∧
    (∀ n w, f.waiters[n]? = some w → n < 64 → f.declined = false → s.overdue c w.since = true →
      ∃ u : State, exec (.waiterTimeout die c page n) s = .next (u.wakeWaiter w.miss 0xC 1 []) ∧ f ∉ u.fmt ∧ u.groups = s.groups ∧
        (f.waiters.eraseIdx n ≠ [] → { f with waiters := f.waiters.eraseIdx n } ∈ u.fmt))) ∧
  (∀ (s : State) (die c page n : Nat),
    (∀ w, s.ringWait[n]? = some w → n + 64 < 2 ^ 20 → w.declined = false → s.overdue w.miss.ctx w.since = true →
      exec (.waiterTimeout die c page (n + 64)) s = .next (s.wakeRing w 0xC 1)) ∧
    (∀ w, s.represent[n]? = some w → s.overdue w.miss.ctx w.since = true →
      exec (.waiterTimeout die c page (n + 2 ^ 20)) s =
        .next ({ s with represent := s.represent.eraseIdx n }.wakeWaiter w.miss 0xC 1 [])) ∧
    (∀ w, s.represent[n]? = some w → w.next ≤ s.gtime → s.frozen w.miss.ctx = false →
      exec (.missRepresent n) s = .next ({ s with represent := s.represent.eraseIdx n }.present w.miss w.since))) ∧
  (∀ (s : State) (pa : Nat), ∃ t, exec (.hostSnoop pa) s = .next t ∧
    (∀ x, x ∈ t.tlb ↔ x ∈ s.tlb ∧ ¬ (x.die < 10 ∧ ∃ y ∈ x.ents, y / 64 = pa / 64)) ∧
    ((∃ r ∈ t.fabric, ∃ y ∈ r.ents, y / 64 = pa / 64) → pa / 64 ∈ t.snoops) ∧
    ((∀ r ∈ t.fabric, ∀ y ∈ r.ents, y / 64 ≠ pa / 64) →
      (∀ w ∈ t.tableWrites, (∀ r, w.who = .core r → ∀ y ∈ r.ents, y / 64 ≠ pa / 64) ∧
        ∀ c es, w.who = .own c es → ∀ y ∈ es, y / 64 ≠ pa / 64) →
      pa / 64 ∉ t.snoops ∧ Tab.get? t.cxlLines (pa / 64) = none)) ∧
  (∀ (s : State) (line : Nat) (w : TableWrite),
    (∀ sharer, (s.tableWrites.find? fun t => t.line == line && t.waits.contains sharer) = some w → sharer ≤ 9 →
      ∃ t, exec (.sharerInvalidate line sharer) s = .next t ∧
        { w with waits := w.waits.erase sharer, clock := joinClock w.clock (t.clockOf (min sharer 8)) } ∈ t.tableWrites ∧
        ∀ x, x ∈ t.tlb ↔ x ∈ s.tlb ∧ ¬ (x.die = sharer ∧ w.hits x.ents = true)) ∧
    ((s.tableWrites.find? fun t => t.line == line) = some w → w.waits = [] → s.stays w = false →
      (∀ r, w.who = .core r → ∃ t, exec (.tableWriteComplete line) s = .next t ∧ t = s.applyTable w) ∧
      (∀ b bs, w.who = .other → w.bytes = b :: bs → ∃ t, exec (.tableWriteComplete line) s = .next t ∧
        (∀ x ∈ t.tableWrites, x.id ≠ w.id) ∧ Tab.read [] t.dir w.line = s.holders w.line))) ∧
  (∀ (s : State) (n : Nat) (r : Req), s.fabric[n]? = some r → s.isTableWrite r = true → s.servable n = true →
    ∃ t ys, exec (.tableWrite n) s = .next t ∧ t.tableWrites = s.tableWrites ++ ys ∧ t.mem = s.mem ∧
      ys.map (fun y => y.who) = (s.mates r).map WriteBy.core ∧
      ∀ y ∈ ys, y.line = r.pa / 128 ∧ y.waits = Tab.read [] s.dir (r.pa / 128))

/-- In ON, FORMATION_TICK: four cycles pass, and GTIME moves with them (log 37, the model's choice); each bundle's lanes
are ready, or stand at a cross-lane instruction, and share its PC; where no grid has completed every ready lane of a
running core is in one. ISSUE_SELECT takes a bundle that no other comes before. CLUSTER_PLACEMENT starts the next
cluster on the first fitting rectangle, every team with the image and groups whose launched lanes are live at the
entry. PREEMPTION takes its victims off their cores; SPILL writes the teams' images, a whole cluster's at once
(victims and whole clusters: log 22); RESUME of a pre-empted cluster makes it resident. QNOTIFY_WRITE notifies and
serves; a legal packet starts a grid. GRID_COMPLETE marks a finished grid completed, RIDX and DONEA translated
before anything is written (log 21). WATCH_ENGINE_TRAP takes the lowest watchpoint's trap, with TAUX of the earliest
strike. REGISTER_LINE_WRITEBACK changes nothing, as registers stand once in the model (log 42). -/
def Obligations.SchedulingEventsComplete : Prop :=
  (∀ s : State, s.power = .on → ∃ t, exec .formationTick s = .next t ∧ t.cycle = s.cycle + 4 ∧ t.slots = [] ∧
    t.gtime = s.gtime + (nsAt s.stretch (s.cycle + 4) - nsAt s.stretch s.cycle) ∧
    (∀ x ∈ t.groups, ∀ b ∈ x.2.bundles, ∀ l ∈ lanesOf b.lanes, (x.2.ready l = true ∨ (x.2.waitsAt l).isSome = true) ∧ x.2.epc l = b.pc) ∧
    ((∀ y ∈ s.grids, y.2.completed = false) → ∀ x ∈ t.groups, t.onCore x.2 = true → t.coreRuns x.2.core = true →
      ∀ l < 32, x.2.ready l = true → ∃ b ∈ x.2.bundles, hasLane b.lanes l = true)) ∧
  (∀ (s : State) (core n : Nat) (c : Cand), s.cur = none → s.coreRuns core = true → Tab.read 0 s.slots core < 16 →
    s.select core = some (c, n) → (∃ k < 4, c ∈ s.cands core k ∧ ∀ x ∈ s.cands core k, x.before c = false) ∧
    ∃ t, exec (.issueSelect core) s = .next t ∧
      t.cur = some ⟨c.gid, c.b.lanes, c.b.pc, c.b.fresh⟩ ∧ t.mem = s.mem ∧ t.teams = s.teams) ∧
  (∀ (s : State) (k : Nat) (g : Grid) (r : Nat × Nat × Nat), Tab.get? s.grids k = some g → s.waitingGrid g = true →
    (∀ x ∈ s.resumable, x.2.2.cls < g.cls) → s.firstFit Suppose.none k g = some r →
    ∃ t c g', exec (.clusterPlacement k) s = .next t ∧ t.mem = s.mem ∧ Tab.get? t.clusters s.nextId = some c ∧ c.grid = k ∧
      c.ix = g.started ∧ c.phase = .resident ∧ (c.die, c.x0, c.y0) = r ∧ c.teams.length = g.w * g.h ∧
      Tab.get? t.grids k = some g' ∧ g'.started = g.started + 1 ∧
      ∀ i < g.w * g.h, ∃ x, c.teams[i]? = some (s.nextId + 1 + i * (g.tg + 1)) ∧
        Tab.get? t.teams (s.nextId + 1 + i * (g.tg + 1)) = some x ∧ x.lm = g.image ∧ x.teamix = i ∧
        (g.cores r)[i]? = some x.core ∧ ∀ j < g.tg, ∃ y, t.group? (s.nextId + 1 + i * (g.tg + 1) + 1 + j) = some y ∧
          y.gix = j ∧ y.seed = g.seed ^^^ (BitVec.ofNat 64 ((g.started * (g.w * g.h) + i) * g.tg + j) * 0x9E3779B97F4A7C15) ∧
          ∀ l < 32, (y.lane l).pc = g.entry ∧ ((y.lane l).stat = .live ↔ l < if j + 1 = g.tg then g.llm1 + 1 else 32)) ∧
  (∀ (s : State) (k : Nat) (g : Grid), Tab.get? s.grids k = some g → s.waitingGrid g = true →
    s.firstFit ⟨[], s.spillTeams⟩ k g = none → ∃ t, exec (.preemption k) s = .next t ∧ t.mem = s.mem ∧ t.teams = s.teams ∧
      ∀ v ∈ s.chooseVictims k g, t.phaseOf v.1 = .preempted) ∧
  (∀ (s s' : State) (u : Nat) (x : Team) (c : Cluster) (g : Grid) (ps : List Placed), Tab.get? s.teams u = some x →
    Tab.get? s.clusters x.cluster = some c → Tab.get? s.grids c.grid = some g → c.phase = .preempted → x.spilled = false →
    s.frozen x.ctx = false → s.spillable x.cluster = true → s.clusterQuiet x.cluster = true →
    s.spillWanted x.cluster = true →
    let ts := c.teams.filterMap fun y => Tab.get? s.teams y
    let saved := ts.map fun y => y.saved ((s.groupsOf y).map (·.2))
    s.check ⟨c.die, g.ctx, 3, 0x3FF, 0, false⟩ (rangeAccs 0 0 .write ((ts.zip saved).map fun y => (g.saveAt c.ix y.1.teamix, y.2.length)))
      [] 1 = .ok s' ps → (∀ p ∈ ps, s'.structOk g.ctx p.pa = true ∧ s'.waitsAt c.die true p = false) →
    ∃ t, exec (.spill u) s = .next t ∧ t.mem = (s'.push c.die g.ctx ps saved.flatten).mem ∧
      ∀ y ∈ c.teams, ∀ z, Tab.get? t.teams y = some z → z.spilled = true ∧ z.lm = []) ∧
  (∀ (s : State) (c : Nat) (x : Cluster) (g : Grid) (cores : List Nat) (r : Nat × Nat × Nat), Tab.get? s.clusters c = some x →
    Tab.get? s.grids x.grid = some g → (∀ y ∈ s.resumable, y.2.2.cls < g.cls ∨ y.2.2.cls = g.cls ∧ (x.grid < y.2.1 ∨ x.grid = y.2.1 ∧ c ≤ y.1)) →
    s.higherWaits g.cls = false → s.resumeOn x g = some (cores, r) →
    let put := fun (u : State) =>
      { u.learn r.1 (u.clockOf x.die) with clusters := Tab.modify u.clusters c fun y => { y with die := r.1, x0 := r.2.1, y0 := r.2.2 } }.seatCluster c x cores
    (x.phase = .spilled → exec (.resumeC c) s = .next (s.unspillAll x.ix put x.teams)) ∧
    (x.phase = .preempted → (∀ y ∈ s.groups, y.2.pend = none) → ∃ t, exec (.resumeC c) s = .next t ∧
      t.phaseOf c = .resident ∧ t.mem = s.mem)) ∧
  (∀ (s : State) (q : Nat) (v : W64), exec (.qnotifyWrite q v) s = .next ((s.notify q v).serveQueue q) ∧
    ∀ x, Tab.get? s.queue q = some x → ∃ y, Tab.get? (s.notify q v).queue q = some y ∧ y.notify.toNat = max x.notify.toNat v.toNat) ∧
  (∀ (s : State) (q : Nat) (slot : Placed), (Tab.read QueueState.init s.queue q).poll = none →
    (Tab.read QueueState.init s.queue q).owed = false → s.examines q = true →
    let x := Tab.read QueueState.init s.queue q
    let p := s.probe (s.queueAsker q)
      [⟨0, 0, s.queueW q 2 + BitVec.ofNat 64 (x.ridx.toNat % 2 ^ ((s.queueW q 0).toNat % 32) * 64), 64, .read⟩]
    p.stop = false → p.wait = false → p.fault = none → p.misses = [] → p.places = [slot] →
    let u := p.s
    let d := (u.queueAsker q).die
    let h := u.homeRead slot.pa 8
    x.packet = [] → u.poisoned slot.pa 64 = false →
    (pkW h 0 0 1 = 0 → exec (.queuePoll q) s =
      .next ((u.learnFrom d [slot]).modQueue q fun x => { x with slotFail := false, poll := some (u.gtime + 1000) })) ∧
    (pkW h 0 0 1 = 1 → let v := u.keepPacket q slot h (u.clockAt slot.pa 8)
      v.waitsAt d false slot = false →
      let b := h ++ (v.homeRead slot.pa 64).drop 8
      let y := v.keepPacket q slot b (Tab.read QueueState.init v.queue q).headClock
      pkW b 0 3 1 = 0 ∨ y.openGrids q = [] →
      let l := y.launchChecks q b
      let pr := l.s.probe (y.queueAsker q) [⟨0, 0, y.queueW q 3, 8, .write⟩]
      l.v = .status 0 → pr.stop = false → pr.wait = false → pr.misses = [] →
      (pr.s.readyWrites (y.queueAsker q) (slot :: if pr.fault.isSome then [] else pr.places)).isSome = true → ∃ t k g, exec (.queuePoll q) s = .next t ∧
        Tab.get? t.grids k = some g ∧ g.queue = q ∧ g.ncl = pkW b 0 32 32 ∧ g.started = 0 ∧ g.completed = false ∧
        g.entry = BitVec.ofNat 64 (wordOf l.kernel 0) ∧ g.seed = BitVec.ofNat 64 (wordOf b 3) ∧ g.arg = BitVec.ofNat 64 (wordOf b 4))) ∧
  (∀ (s : State) (n : Nat) (g : Grid), Tab.get? s.grids n = some g → g.completed = false → g.ncl ≤ g.finished →
    s.frozen g.ctx = false → s.scopeHeld g.ctx = false → (g.rel = true → s.gridPerformed n = true) →
    let done := fun (t : State) => ∃ g', Tab.get? t.grids n = some g' ∧ g'.completed = true
    (g.donea = 0 → ∃ t, exec (.gridComplete n) s = .next t ∧ done t ∧ t.mem = s.mem) ∧
    (g.donea ≠ 0 → (Tab.read QueueState.init s.queue g.queue).parked = false →
      let k : Asker := ⟨g.die, g.ctx, 2, 0x3FF, 0, false⟩
      let p := s.probe k [⟨0, 0, g.donea, 16, .write⟩]
      p.stop = false → p.wait = false → p.misses = [] → ∀ u : State,
      p.s.readyWrites k (if p.fault.isSome then [] else p.places) = some u → Tab.get? u.grids n = some g →
      ∃ t, exec (.gridComplete n) s = .next t ∧ done t ∧ t.mem = (u.complete k p g.donea 0).mem)) ∧
  (∀ (s : State) (gid : Nat) (g : Group), s.group? gid = some g → g.watch ≠ [] → g.inh = false → g.pend = none →
    g.ended = false → s.onCore g = true → ∃ w ∈ g.watch, (∀ y ∈ g.watch, w.detail ≤ y.detail) ∧
      exec (.watchEngineTrap gid) s = .next ((s.setGroup gid { g with watch := [] }).raise gid
        { w with tlane := g.liveLanes.headD 0, pc := (g.lane (g.liveLanes.headD 0)).pc, mask := g.liveMask,
                 aux := (g.watch.headD w).aux })) ∧
  ∀ (s : State) (a b : Nat), exec (.registerLineWriteback a b) s = .next s

/-- A record begins a service, in LOOKUP at the shard's holder. The answer declines an absent or forbidden page (one
with no holders is absent: log 25, the model's reading), waits in LEASE for another owner, or fetches from a holder,
taking the lease of a tracked page; of a shard held elsewhere the holder is asked to swap the entry, and its answer
says whether the change stands. Unanswered for 500 µs a request is made again three times, then rests or goes to the
next holder; a rest ends after 5 ms, the service after 50 ms. A page of the wanted version is installed in a free
frame, another goes to the next holder. Eviction picks a page of lowest COUNT. A lease is renewed, considered once
(log 26), or ends with OWNER none or its pages leaving. LEASE_PAGE_RECEIVED installs directly (log 26). A swap
stands only if the entry is as the request has it; a page read by a peer changes nothing but a report of poison.
STEWARD_WAKE wakes the waiters that it names, one wake per service (log 25). -/
def Obligations.GleanerEventsComplete : Prop :=
  (∀ (s : State) (n : Nat) (r : BitVec 256), n < 2 ^ 16 → s.faultIn[n]? = some r →
    let c := bitsOf r.toNat 54 10
    let page := bitsOf r.toNat 208 41
    (∀ x ∈ s.faultIn.take n, s.partOf (bitsOf x.toNat 54 10) ≠ s.partOf c) → s.frozen c = false →
    (∀ v ∈ s.services, ¬ (v.ctx = c ∧ v.page = page)) → bitsOf r.toNat 0 8 ≠ 0x11 → bitsOf r.toNat 128 3 = 0 →
    ∃ t v, exec (.gleanerFaultRecord n) s = .next t ∧ t.faultIn = s.faultIn.eraseIdx n ∧ v ∈ t.services ∧ v.ctx = c ∧ v.page = page ∧
      v.record = r ∧ (s.shardOf v.key ≠ noModule → v.state = .lookup ∧ v.hold = s.shardOf v.key) ∧
      (s.shardOf v.key = noModule → v.state = .waiting)) ∧
  (∀ (s : State) (n : Nat) (v : Service), s.services[n]? = some v →
    let gone := fun (t : State) => ∀ y ∈ t.services, ¬ (y.ctx = v.ctx ∧ y.page = v.page)
    let is := fun (t : State) (p : Service → Prop) => ∃ y ∈ t.services, y.ctx = v.ctx ∧ y.page = v.page ∧ p y
    let self := s.selfId v.part
    let looks := fun (t : State) => is t fun y => if s.shardOf v.key = noModule then y.state = .waiting
      else y.state = .lookup ∧ y.hold = s.shardOf v.key
    let nexts := fun (t : State) => is t fun y => match v.next with
      | [] => y.state = .waiting
      | h :: rest => y.state = .fetch ∧ y.hold = h ∧ y.next = rest
    (∀ e?, n < 2 ^ 16 → v.state = .lookup → let e := if v.hold = self then s.entry? v.key else e?
      v.entry = none ∨ v.entry ≠ e →
      (e = none → ∃ t, exec (.fieldMapReply n e?) s = .next t ∧ gone t) ∧
      ∀ x, e = some x →
        (entHolders x = [] ∨ entF x 272 16 ≠ s.tenant v.part ∨ v.asksWrite = true ∧ entF x 265 2 ≠ 0 →
          ∃ t, exec (.fieldMapReply n e?) s = .next t ∧ gone t) ∧
        (entHolders x ≠ [] → entF x 272 16 = s.tenant v.part → v.asksWrite = false ∨ entF x 265 2 = 0 →
          let first := (fetchOrder (v.hint % 65536) (entHolders x)).headD 0
          (entOwner x ≠ noModule → entOwner x ≠ self → ∃ t, exec (.fieldMapReply n e?) s = .next t ∧
            is t fun y => if v.hold = self then y.state = .lease else y.state = .lookup ∧ y.entry = some (entSet x 352 16 self)) ∧
          (entOwner x = noModule ∨ entOwner x = self → entTracked x = false → ∃ t, exec (.fieldMapReply n e?) s = .next t ∧
            is t fun y => y.state = .fetch ∧ y.hold = first) ∧
          (entOwner x = noModule ∨ entOwner x = self → entTracked x = true → s.timeBad = false → v.hold ≠ self →
            ∃ t, exec (.fieldMapReply n e?) s = .next t ∧ is t fun y => y.state = .lookup ∧ y.entry = some (s.leaseEntry v.part x)) ∧
          (entOwner x = noModule ∨ entOwner x = self → entTracked x = true → s.timeBad = false → v.hold = self →
            ∃ t x', exec (.fieldMapReply n e?) s = .next t ∧ t.hasLease v.key = true ∧ t.entry? v.key = some x' ∧
              entOwner x' = self ∧ entExpiry x' = (s.gtime + s.leaseNs v.part) % 2 ^ 64 ∧
              is t fun y => y.state = .fetch ∧ y.leased = true ∧ y.hold = first))) ∧
    (∀ x, n < 2 ^ 16 → v.state = .lookup → v.hold ≠ self → v.entry = some x →
      exec (.fieldMapReply n (some x)) s = .next (s.swapped v x)) ∧
    (v.state = .lookup → v.hold ≠ self → v.t + 500000 ≤ s.gtime → ∃ t, exec (.lookupTimeout n) s = .next t ∧
      is t fun y => if v.tries < 3 then y.state = .lookup ∧ y.tries = v.tries + 1 else y.state = .waiting) ∧
    (v.state = .waiting → v.t + 5000000 ≤ s.gtime → ∃ t, exec (.gleanerWaitExpiry n) s = .next t ∧ looks t) ∧
    (v.state = .fetch → v.t + 500000 ≤ s.gtime → ∃ t, exec (.fetchTimeout n) s = .next t ∧
      (v.tries < 3 → is t fun y => y.state = .fetch ∧ y.tries = v.tries + 1) ∧ (3 ≤ v.tries → nexts t)) ∧
    (∀ (p : PageImage) (e : BitVec 512), v.state = .fetch → s.isFenced v.hold = false → v.entry = some e →
      (entTracked e = true → p.version ≠ entVersion e → ∃ t, exec (.pageFetchReply n p) s = .next t ∧ nexts t) ∧
      (entTracked e = false ∨ p.version = entVersion e →
        (s.takeFrame v.part = none → ∃ t, exec (.pageFetchReply n p) s = .next t ∧ gone t) ∧
        ∀ u f, s.takeFrame v.part = some (u, f) → ∃ t i, exec (.pageFetchReply n p) s = .next t ∧ i ∈ t.installs ∧
          i.ctx = v.ctx ∧ i.page = v.page ∧ i.frame = f ∧ i.key = v.key)) ∧
    (v.state ≠ .install → v.t0 + 50000000 ≤ s.gtime → ∃ t, exec (.gleanerServiceExpired n) s = .next t ∧ gone t) ∧
    (∀ e x, v.state = .lease → v.entry = some e → entExpiry e + 50000 ≤ s.gtime → s.ownShard v.key = true →
      s.entry? v.key = some x → entOwner x = noModule → ∃ t, exec (.leaseWaitExpiry n) s = .next t ∧ looks t) ∧
    (∀ e, v.state = .lease → v.entry = some e → entExpiry e + 50000 ≤ s.gtime → s.ownShard v.key = false →
      ∃ t, exec (.leaseWaitExpiry n) s = .next t ∧ Tab.has t.watched (entOwner e) = true ∧ t.services = s.services)) ∧
  (∀ (s : State) (w : Words4), ∃ r : State, exec (.stewardWake w) s = .next r ∧
    let c := bitsOf w.w0.toNat 0 10
    let x := wakeCause (bitsOf w.w0.toNat 16 8) (bitsOf w.w0.toNat 32 16)
    let die := bitsOf w.w2.toNat 42 3
    (∀ y, s.ringNamed c die (pageOf w.w1) (recordWho w.w2.toNat) = some y → r = s.wakeRing y x.1 x.2) ∧
    (s.ringNamed c die (pageOf w.w1) (recordWho w.w2.toNat) = none → r = s.wakeEntry die c (pageOf w.w1) x.1 x.2)) ∧
  (∀ (s : State) (p : Nat), s.framesFree p < s.lowmark p →
    let may := fun (i : Install) => i ∈ s.installs ∧ i.part = p ∧ i.leaving = none ∧ s.frameStuck i.frame = false
    (∃ i, may i) → ∃ i, may i ∧ (∀ j, may j → s.frameCount i.frame ≤ s.frameCount j.frame) ∧
      exec (.gleanerEvict p) s = .next (s.beginLeave i .evict)) ∧
  (∀ (s : State) (key : Nat) (l : Lease), (s.leases.find? fun x => x.key == key) = some l →
    (∀ e, l.tried = false → l.expiry ≤ s.gtime + min 500000 (s.leaseNs l.part / 2) → s.entry? key = some e →
      let busy := (s.services.any fun v => v.key == key) || (s.pagesOf key).any fun i => s.frameCount i.frame != 0
      (entReq e = noModule → s.timeBad = false → busy = true → s.ownShard key = false → ∃ t, exec (.leaseRenew key) s = .next t ∧
        t.fieldMap = s.fieldMap ∧ ∀ x ∈ t.leases, x.key = key → x.asked = some (s.leaseEntry l.part e)) ∧
      (entReq e = noModule → s.timeBad = false → busy = true → s.ownShard key = true → ∃ t x, exec (.leaseRenew key) s = .next t ∧
        t.entry? key = some x ∧ entOwner x = s.selfId l.part ∧ entExpiry x = (s.gtime + s.leaseNs l.part) % 2 ^ 64) ∧
      (entReq e ≠ noModule ∨ s.timeBad = true ∨ busy = false → ∃ t, exec (.leaseRenew key) s = .next t ∧
        t.fieldMap = s.fieldMap ∧ ∀ x ∈ t.leases, x.key = key → x.tried = true)) ∧
    (∀ n e, s.leases[n]? = some l → l.asked = some e →
      exec (.fieldMapReply (2 ^ 16 + n) (some e)) s = .next (s.takeLease l.part key e)) ∧
    (l.expiry ≤ s.gtime + 10000 →
      (s.pagesOf key = [] → ∃ t, exec (.leaseEnd key) s = .next t ∧ t.hasLease key = false ∧
        ∀ x, t.entry? key = some x → entOwner x = noModule) ∧
      (s.pagesOf key ≠ [] → exec (.leaseEnd key) s = .next ((s.pagesOf key).foldl (fun u i => u.beginLeave i .evict) s)))) ∧
  (∀ (s : State) (key source : Nat) (e : BitVec 512), s.hasLease key = true → s.isFenced source = false → s.entry? key = some e →
    exec (.leaseReleaseRequest key source) s =
      .next ((s.pagesOf key).foldl (fun u i => u.beginLeave i (.give source)) (s.putEntry key (entSet e 352 16 source)))) ∧
  (∀ (s : State) (key : Nat) (e : BitVec 512) (p : PageImage) (v : Service) (vs : List Service),
    (s.services.filter fun x => x.key == key && x.state == .lease) = v :: vs → entOwner e = s.selfId v.part →
    (∀ o, v.entry.map entOwner = some o → s.isFenced o = false) →
    let u := s.takeLease v.part key e
    exec (.leasePageReceived key e p) s =
      .next (vs.foldl State.startLookup (u.install { v with entry := some e, leased := true } p))) ∧
  (∀ (s : State) (key : Nat), ∃ t, exec (.harrowRestoreNotice key) s = .next t ∧ t.mem = s.mem ∧
    ∀ y ∈ t.services, y.key = key → y.state ≠ .lease) ∧
  (∀ (s : State) (r : ShardReq) (old new e : BitVec 512), s.ownShard r.key = true → s.isFenced r.source = false →
    r.swap = some (old, new) → s.entry? r.key = some e →
      (e = old → ∃ t, exec (.shardRequest r) s = .next t ∧ t.entry? r.key = some new ∧
        ∀ k, k ≠ r.key → t.entry? k = s.entry? k) ∧
      (e ≠ old → exec (.shardRequest r) s = .next s)) ∧
  (∀ (s : State) (key source : Nat) (i : Install), s.isFenced source = false →
    (s.installs.find? fun x => x.key == key) = some i →
    ((∀ a < 2048, s.poisonedAt (i.frame * 65536 + 32 * a) = false) → exec (.peerPageRead key source) s = .next s) ∧
    ∀ a < 2048, s.poisonedAt (i.frame * 65536 + 32 * a) = true → ∃ b ≤ a,
      exec (.peerPageRead key source) s = .next (s.reportBad (i.frame * 65536 + 32 * b) 0))

/-- PTP_SYNC, accepted of the selected master, sets SYNCERR (its comparison of masters: log 20); above 25 µs the module
is time-unsafe, below 12.5 µs for a second safe again. Heartbeats go out every millisecond and are recorded; 3.1 ms
without one of a watched module, or a fence received, fences it: no entry of a shard held here names it as owner,
restored by a walk made in that step (log 28), and no request of it is left. The harrow's walk ends leases long
past. A loss sets LOST; a module fatal loses every live context and enters FAULT. The scrub reports or counts an
error as one of HBM4, MSC and LPDDR6 data (log 29); counters halve; a PENDING frame's record is posted, if a
partition owns it. A failing lane that carries data costs a spare, then half the link, then the module (log 30); a
CRC error costs a replay; a lost port costs a spray group its mode at the second, the first costing nothing (log
30). A beacon (log 40) and periodic retraining change nothing. -/
def Obligations.TimeFenceAndIntegrityEventsComplete : Prop :=
  (∀ (s : State) (x : PtpSync) (o d : Nat), (s.bestMaster = none → exec (.ptpSync x o d) s = .next s) ∧
    ∀ m, s.bestMaster = some m → let e := o + d + m.accuracy
      (s.acceptsSync m x = false → exec (.ptpSync x o d) s = .next s) ∧
      (s.acceptsSync m x = true → ∃ t, exec (.ptpSync x o d) s = .next t ∧ t.syncErr = e ∧
        (25000 < e → t.timeBad = true) ∧ (e ≤ 25000 → t.timeBad = s.timeBad ∧ t.mem = s.mem))) ∧
  (∀ s : State, 25000 < s.syncErr → s.timeBad = false → ∃ t, exec .timeUnsafe s = .next t ∧ t.timeBad = true) ∧
  (∀ (s : State) (k : Nat), s.safeSince = some k → s.timeBad = true → k + 1000000000 ≤ s.gtime →
    exec .timeSafe s = .next { s with timeBad := false }) ∧
  (∀ s : State, s.power = .on → s.hbStopped = false → s.hbLast + 1000000 ≤ s.gtime →
    exec .heartbeatSend s = .next { s with hbSeq := (s.hbSeq + 1) % 2 ^ 32, hbLast := s.gtime }) ∧
  (∀ (s : State) (m inc seq : Nat) (b : Bool) (w : Watched), Tab.get? s.watched m = some w →
    ∃ t, exec (.heartbeatReceive m inc seq b) s = .next t ∧ (∀ f ∈ t.fencedOut, f.1 = m → inc ≤ f.2) ∧
      Tab.get? t.watched m = some (if inc < w.inc then w else ⟨inc, seq, s.gtime, b, w.fenced && inc == w.inc⟩)) ∧
  (∀ (s : State) (m : Nat), m ≠ noModule →
    let fenced := fun (t : State) (inc : Nat) => (m, inc) ∈ t.fencedOut ∧
      (∀ r ∈ t.fabric, r.remote ≠ some m) ∧ ∀ x ∈ t.fieldMap, t.ownShard x.1 = true → entOwner x.2 ≠ m
    (∀ w, Tab.get? s.watched m = some w → s.watches m = true → w.fenced = false → w.last + 3100000 ≤ s.gtime →
      ∃ t, exec (.heartbeatLoss m) s = .next t ∧ fenced t w.inc) ∧
    (∀ inc, (∀ w, Tab.get? s.watched m = some w → w.inc ≤ inc) → (∀ f ∈ s.fencedOut, f.1 = m → f.2 < inc) →
      ∃ t, exec (.fenceReceive m inc) s = .next t ∧ fenced t inc)) ∧
  (∀ s : State, s.due 1 100000000 = true → s.timeBad = false → ∃ t, exec .harrowExpiryWalk s = .next t ∧
    ∀ x ∈ t.fieldMap, s.ownShard x.1 = true → entExpiry x.2 + 100000 < s.gtime → entOwner x.2 = noModule) ∧
  (∀ (s : State) (c reason core : Nat) (va : W64) (pa : Nat), s.live c = true → 1 ≤ reason → reason ≤ 5 →
    ∃ t, exec (.contextLoss c reason core va pa) s = .next t ∧ t.lost c = true ∧
      (s.lost c = false → t.frozen c = true ∧ (∀ x ∈ t.groups, x.2.ctx ≠ c) ∧ ∀ x ∈ t.fabric, x.ctx ≠ c)) ∧
  (∀ s : State, s.power = .on → ∃ t, exec .moduleFatal s = .next t ∧ t.power = .fault ∧ t.hbStopped = true ∧
    ∀ c, s.live c = true → t.lost c = true) ∧
  (∀ (s : State) (pa : Nat), isLocal pa = true →
    exec (.patrolScrub pa true) s = .next ((s.setPoison pa true).reportBad pa 0) ∧
    (s.poisonedAt pa = true → exec (.patrolScrub pa false) s = .next (s.reportBad pa 0)) ∧
    (s.poisonedAt pa = false → exec (.patrolScrub pa false) s = .next (s.countCorrected 0))) ∧
  (∀ s : State, s.due 0 1000000 = true → ∃ t, exec .counterHalving s = .next t ∧ ∀ f v, (f, v) ∈ t.frame ↔ v ≠ 0 ∧
    ∃ w, (f, w) ∈ s.frame ∧ v = BitVec.ofNat 64 (setBitsOf w.toNat 28 12 (bitsOf w.toNat 28 12 / 2))) ∧
  (∀ (s : State) (f : Nat) (v : W64), (s.frame.find? fun e => bitsOf e.2.toNat 27 1 == 1) = some (f, v) →
    s.migQueue.length < 4096 → let own := bitsOf v.toNat 0 7
    ∃ t, exec .migrationRescan s = .next t ∧ bitsOf (t.frameW (f * 65536)).toNat 27 1 = 0 ∧ t.mem = s.mem ∧
      (1 ≤ own → own ≤ 64 → ∃ r, t.migQueue = s.migQueue ++ [r]) ∧ (own = 0 ∨ 64 < own → t.migQueue = s.migQueue)) ∧
  (∀ (s : State) (k lane : Nat), k < 24 → lane < 64 → s.power = .on →
    let l := s.linkOf k
    l.down = false →
    (l.uses lane = true →
      (0 < l.spares → ∃ t, exec (.linkPeriodicCheck k lane true) s = .next t ∧ t.linkOf k = { l with spares := l.spares - 1 }) ∧
      (l.spares = 0 → l.half = false → ∃ t, exec (.linkPeriodicCheck k lane true) s = .next t ∧
        t.linkOf k = { l with half := true, failed := [lane] } ∧ t.power = s.power) ∧
      (l.spares = 0 → l.half = true → ∃ t, exec (.linkPeriodicCheck k lane true) s = .next t ∧
        (t.linkOf k).down = true ∧ t.power = .fault)) ∧
    exec (.linkPeriodicCheck k lane false) s = .next s ∧
    ∃ t, exec (.flitCrcError k) s = .next t ∧ t.linkOf k = { l with replays := l.replays + 1 } ∧ t.fabric = s.fabric) ∧
  (∀ (s : State) (p : Nat), p < 20 → let x := s.portGroup (p / 5)
    x.lost.contains p = false → ∃ t, exec (.scaleupPortLoss p) s = .next t ∧
      t.portGroup (p / 5) = { x with lost := p :: x.lost, mode := if x.lost = [] then x.mode else 0 }) ∧
  (∀ (s : State) (g : Nat) (far : List Bool), g < 4 → far.length = 5 → let x := s.portGroup g
    ∃ t, exec (.scaleupTraining g far) s = .next t ∧ (t.portGroup g).mode = x.mode ∧
      ((t.portGroup g).up = true ↔ ∀ f ∈ far, f = (x.mode == 1))) ∧
  ∀ (s : State) (d : Nat), exec (.dieBeacon d) s = .next s ∧ exec .periodicRetraining s = .next s

/-- A job begins with STATUS 1, DONE 0 and its scope, and ends with STATUS 2, 3 or 4 (its phases: log 31); an accepted
frame counts and is no longer dirty. A hand-over confirmed is pre-empted, spilled or lost, held, and at the
acknowledgement, its leases given, every context of its partitions is reset. Power goes OFF, STANDBY, BOOT, ON,
FAULT as the pins and steps say; of these the identity store outlives a loss of power; a module reset keeps memory,
the time and the module's identity (what stays: log 33). A step of bring-up that is late fails; step 3 is done only
with an image that the module accepts (log 49). Host requests move a line's state, but of a line at which a write is
held; a write-back of a line not owned is discarded; a snoop unanswered for twice the port's timeout counts as NONE
(its clock: log 34). A reset of a function or link resets its partitions. Halted and gated cores are listed, a gated
one emptied. Writes of the registers with no row of their own change their RW bits. A hand-over that fails after its
first step keeps the hold until ABORT. A storage error, a register write here (log 29), leaves its structure as 17
Table 1 says. A measurement is signed (the signature a free value) while the attestation key's tree has leaves, and
status 3 is answered after; a key fills only an empty slot (log 49). -/
def Obligations.RecoveryAndEdgeEventsComplete : Prop :=
  (∀ (s : State) (hold : Bool), ∀ x ∈ [(Instr.checkpointDirty hold, JobKind.ckptDirty), (.checkpointFull hold, .ckptFull)],
    (s.recStatus = 1 → exec x.1 s = .next s) ∧
    (s.recStatus ≠ 1 → ∃ t, exec x.1 s = .next t ∧ t.recDone = 0 ∧ t.mem = s.mem ∧
      (t.recStatus = 1 ∧ (∃ j, t.job = some j ∧ j.kind = x.2 ∧ j.hold = hold) ∨ t.recStatus = 2 ∧ t.job = none))) ∧
  (∀ s : State, s.recStatus ≠ 1 → ∃ t, exec .handOver s = .next t ∧ t.recStatus = 1 ∧ t.recDone = 0 ∧
    t.job = some ⟨.handOver, false, 0, [], s.gtime, s.gtime⟩ ∧ t.jobScope = s.recW 3) ∧
  (∀ s : State, ∃ t, exec .jobAbort s = .next t ∧ t.job = none ∧ t.kept = none ∧
    t.recStatus = (if s.recStatus = 1 then 4 else s.recStatus)) ∧
  (∀ (s : State) (j : Job), s.job = some j →
    let ends := fun (i : Instr) (st : Nat) => ∃ t, exec i s = .next t ∧ t.job = none ∧ t.recStatus = st
    (∀ f fs, j.kind ≠ .handOver → j.phase = 1 → j.frames = f :: fs → ∃ t, exec .checkpointTargetAccept s = .next t ∧
      f ∉ t.dirty ∧ t.recDone = (s.recDone + 1) % 2 ^ 32 ∧
      if fs = [] then t.job = none ∧ t.recStatus = 2 else t.job = some { j with frames := fs, last := s.gtime }) ∧
    (j.kind ≠ .handOver → j.phase ≠ 0 → j.last + 500000000 ≤ s.gtime → ends .checkpointTargetTimeout 3) ∧
    (j.kind = .handOver → j.phase = 0 →
      ends (.handoverConfirm false) 3 ∧ (j.t0 + 500000000 ≤ s.gtime → ends .handoverConfirmTimeout 3) ∧
      ∃ t, exec (.handoverConfirm true) s = .next t ∧ t.job = some { j with phase := 1 } ∧
        ∀ c ∈ s.scopeContexts, bitsOf (s.croot c) 59 1 = 1 → t.lost c = true) ∧
    (j.kind = .handOver → j.phase ≠ 0 → ∃ t, exec (.handoverConfirm false) s = .next t ∧ t.job = none ∧ t.recStatus = 3 ∧
      t.kept = some (s.scopeMask ||| s.kept.getD 0)) ∧
    (j.kind = .handOver → j.phase = 1 → s.unspilled = [] ∨ j.t0 + 10000000000 ≤ s.gtime →
      let u := s.unspilled.foldl (fun u c => u.lose c 5 0x3FF 0 0) s
      (u.clearParks (u.groups.filter fun e => u.inScope e.2.ctx)).toBool = true →
      ∃ t, exec .handoverSpillDeadline s = .next t ∧ t.job = some { j with hold := true, phase := 2, last := s.gtime } ∧
        ∀ c ∈ s.unspilled, t.lost c = true) ∧
    (j.kind = .handOver → j.phase = 2 → s.scopeQuiet = true → s.leasesGone = true → ∃ t, exec .handoverAck s = .next t ∧ t.job = none ∧
      t.recStatus = 2 ∧ ∀ p < 64, s.scopeMask.getLsbD p = true → ∀ c ∈ s.liveOf p, t.rstBusy c = true)) ∧
  (∀ (s : State) (r : BitVec 256), s.draining = some r → ∃ t, exec .routeDrainComplete s = .next t ∧ t.draining = none ∧
    t.drained = true ∧ (s.sysQueue.length < 1024 → t.sysQueue = s.sysQueue ++ [r])) ∧
  (∀ (s : State) (pm : W64) (img : HandImage), exec (.handoverRequest pm img) s =
    .next (if s.prepared pm img then s.takeImage img else s)) ∧
  (∀ s : State,
    let off := fun (t : State) => t.mem = [] ∧ t.groups = [] ∧ t.desc = [] ∧ t.idStore = s.idStore
    (s.power = .off → exec .auxRise s = .next { s with power := .standby }) ∧
    (s.power ≠ .off → ∃ t, exec .auxLoss s = .next t ∧ t.power = .off ∧ off t) ∧
    (s.power = .standby → ∃ t, exec .pwrEnRise s = .next t ∧ t.power = .boot ∧ t.bootStep = 2 ∧ t.pwrEn = true ∧ off t) ∧
    (s.power = .boot ∨ s.power = .on ∨ s.power = .fault → ∃ t, exec .pwrEnFall s = .next t ∧ t.power = .standby ∧ t.pwrEn = false ∧ off t) ∧
    (s.bootLate = true → ∃ t, exec .bringupStepDone s = .next t ∧ t.power = .fault ∧
      Memory.byte t.idStore 256 = BitVec.ofNat 8 (bootCode s.bootStep)) ∧
    (s.power = .boot → s.bootStep = 3 → s.bootLate = false →
      (s.accepts s.flash = true → exec .bringupStepDone s =
        .next { s.putFwver s.flash.version with bootStep := 4, bootSince := s.gtime, timeBad := true }) ∧
      (s.accepts s.flash = false → ∃ t, exec .bringupStepDone s = .next t ∧ t.power = .fault ∧ Memory.byte t.idStore 256 = 2)) ∧
    (s.power = .boot → s.bootStep < 9 → s.bootStep ≠ 3 → s.bootLate = false → exec .bringupStepDone s =
      .next { s with bootStep := s.bootStep + 1, bootSince := s.gtime, timeBad := true }) ∧
    (s.power = .boot → 9 ≤ s.bootStep → ∃ t, exec .bringupStepDone s = .next t ∧ t.power = .on ∧
      t.incarnation = s.incarnation + 1 ∧ t.mem = [] ∧ t.poison = [] ∧ Memory.byte t.idStore 256 = 1) ∧
    (∀ code ch, s.power = .boot → code = bootCode s.bootStep → code ≠ 0 → ∃ t, exec (.bringupStepTimeout code ch) s = .next t ∧
      t.power = .fault ∧ Memory.byte t.idStore 256 = BitVec.ofNat 8 code) ∧
    (s.power = .boot → exec .mrstN s = .next { s with bootStep := 3, bootSince := s.gtime }) ∧
    (s.power = .on → ∃ t, exec .mrstN s = .next t ∧ t.mem = s.mem ∧ t.gtime = s.gtime ∧ t.cycle = 0 ∧
      (∀ a, 4 ≤ a ∧ a < 8 ∨ 24 ≤ a ∧ a < 36 ∨ 40 ≤ a ∧ a < 48 → Memory.byte t.idStore a = Memory.byte s.idStore a) ∧
      (∀ a, 264 ≤ a → a < 272 → Memory.byte t.idStore a = 0) ∧
      t.groups = [] ∧ t.desc = [] ∧ t.counted = [] ∧ t.job = none) ∧
    (∀ n, exec (.powerLimitStretch n) s = .next { s with stretch := n }) ∧
    (s.power = .on → s.due 2 3600000000000 = true → ∃ t, exec .pohoursUpdate s = .next t ∧
      Memory.num t.idStore 264 8 = (Memory.num s.idStore 264 8 + 1) % 2 ^ 64) ∧
    ∀ h w n, (h.addr ≠ 0x50 + s.slotStrap → exec (.i3cTransfer h w n) s = .next s) ∧
      (h.addr = 0x50 + s.slotStrap → ∃ t, exec (.i3cTransfer h w n) s = .next t ∧ t.i3c.off = (h.off + w.length + n) % 1024 ∧
        t.i3c.out = (List.range n).map (fun i => Memory.byte t.idStore ((h.off + w.length + i) % 1024)) ∧
        (∀ a < 512, Memory.byte t.idStore a = Memory.byte s.idStore a) ∧
        ∀ b, w = [b] → 512 ≤ h.off % 1024 → Memory.byte t.idStore (h.off % 1024) = b)) ∧
  (∀ (s : State) (core : Nat),
    (s.gated.contains core = false → core < 512 → ∃ t, exec (.corePowerGate core) s = .next t ∧ t.gated = core :: s.gated ∧
      (∀ x ∈ t.banks, x.1 / 16 ≠ core) ∧ ∀ i < 32, (t.obRec core i).live = false) ∧
    (∃ t, exec (.corePowerUngate core) s = .next t ∧ core ∉ t.gated ∧ t.mem = s.mem) ∧
    (∃ t, exec (.debuggerHalt core) s = .next t ∧ t.halted.contains core = true ∧ t.groups = s.groups) ∧
    ∃ t, exec (.debuggerResume core) s = .next t ∧ core ∉ t.halted ∧ t.groups = s.groups) ∧
  (∀ (s : State) (r : HostReq), isLocal r.pa = true → s.power = .on →
    let line := r.pa / 64
    let becomes := fun h => ∃ t, exec (.hostCxlRequest r) s = .next t ∧ t.hostOf line = h
    (s.lineHeld r.pa = false → (r.kind = .readShared → s.hostOf line = .none → becomes .shared) ∧
      (r.kind = .readOwned → becomes .owned)) ∧
    (s.lineHeld r.pa = true → r.kind = .readShared ∨ r.kind = .readOwned → exec (.hostCxlRequest r) s = .next s) ∧
    (r.kind = .release → becomes .none) ∧ (r.kind = .writeBack → s.hostOf line = .owned → becomes .none) ∧
    (r.kind = .writeBack → s.hostOf line ≠ .owned → exec (.hostCxlRequest r) s = .next s)) ∧
  (∀ (s : State) (pa : Nat), isLocal pa = true → s.hostOf (pa / 64) ≠ .none →
    (Tab.get? s.recalls (pa / 64) = none → s.waitsRecall (pa / 64) = true → exec (.snoopTimeout pa) s =
      .next { s with recalls := Tab.set s.recalls (pa / 64) s.gtime }) ∧
    (∀ k, Tab.get? s.recalls (pa / 64) = some k → k + 2 * s.snoopNs (pa / 64) ≤ s.gtime → ∃ t, exec (.snoopTimeout pa) s = .next t ∧
      t.hostOf (pa / 64) = .none ∧ t.mem = s.mem)) ∧
  (∀ (s : State) (vf port : Nat), 1 ≤ vf → vf ≤ 64 → s.hostPort (vf - 1) = port →
    (∃ t, exec (.vfFlr vf port) s = .next t ∧ ∀ c ∈ s.liveOf (vf - 1), t.rstBusy c = true) ∧
    ∃ t, exec (.cxlLinkReset port) s = .next t ∧ ∀ c ∈ s.liveOf (vf - 1), t.rstBusy c = true) ∧
  (∀ (s : State) (v : W64), s.power = .on →
    (∀ p w, p < 64 → w < 4 → ∃ t, exec (.registerWrite (.gleanPart p w) v) s = .next t ∧
      t.gleanW p w = BitVec.ofNat 64 (mergeWord (gleanRw w) 0 (s.gleanW p w).toNat v.toNat)) ∧
    (∀ k, k < 4096 → ∃ t, exec (.registerWrite (.shardMap k) v) s = .next t ∧ Tab.read 0xFFFF#16 t.shardMap k = v.setWidth 16) ∧
    (∀ w, w = 2 ∨ w = 3 → ∃ t, exec (.registerWrite (.recovery w) v) s = .next t ∧ t.recW w = v) ∧
    (∀ vf port, 1 ≤ vf → vf ≤ 64 → port < 2 → s.hostPort (vf - 1) = port → ∃ t, exec (.registerWrite (.vfEnable vf port) v) s = .next t ∧
      t.partField (vf - 1) 11 1 = v.toNat % 2) ∧
    (∀ port, port < 2 → ∃ t, exec (.registerWrite (.snoopTimeout port) v) s = .next t ∧ Tab.read 1000000 t.snoopTime port = v.toNat) ∧
    (∀ m, let k := s.keys
      (k.attIndex < 2 ^ 15 → ∃ t, exec (.registerWrite (.attest m) v) s = .next t ∧ t.cmdOut = s.cmdOut ++ [[0]] ∧
        t.keys = { k with attIndex := k.attIndex + 1, attSig := some (Config.lmsSignature k.attKey k.attIndex m) }) ∧
      (2 ^ 15 ≤ k.attIndex → exec (.registerWrite (.attest m) v) s = .next { s with cmdOut := s.cmdOut ++ [[3]] })) ∧
    (∀ l c n, Tab.get? s.counted l = some (c, n) → ∃ t, exec (.registerWrite (.storageError (.readerCount l)) v) s = .next t ∧
      Tab.get? t.counted l = some (c, 1) ∧ ∀ i < 4, t.poisonedAt (128 * l + 32 * i) = true) ∧
    (∀ f, isLocal (f * 65536) = true → ∃ t, exec (.registerWrite (.storageError (.aliasBits f)) v) s = .next t ∧
      Tab.read 0 t.aliasBits f = 3 ∧ t.mem = s.mem) ∧
    (∀ n h, ∃ t, exec (.registerWrite (.keySlot n h) v) s = .next t ∧
      Tab.get? t.keys.slots n = if n < 4 ∧ Tab.has s.keys.slots n = false then some h else Tab.get? s.keys.slots n) ∧
    (∀ g, g < 4 → ∃ t, exec (.registerWrite (.scaleupMode g) v) s = .next t ∧ (t.portGroup g).mode = v.toNat % 2) ∧
    (∀ b, 512 ≤ b → b < 1024 → ∃ t, exec (.registerWrite (.idOwner b) v) s = .next t ∧
      Memory.byte t.idStore b = v.setWidth 8) ∧
    ∀ op opf a b, exec (.registerWrite (.command op opf a b) v) s = .next (s.portCommand op.toNat opf.toNat a.toNat b.toNat))

/-- The words of NOP, SPRD v0,LANEID, SPWR SEED,s2, SPWR SEED,#0x12345678 (96 bits), IADD.S32 v3,v1,v2, ST.B64.SCL
gm[s2],s4, FENCE.AR.MODULE, TLBPRB s8,s2,s3, QSET s8,s2,s3 and EQPOP.MIG s8, as the spec's tables write them, decode
to these instructions with every field as named there. The words 0x6008_0100_DD40 (reserved type), 0x1C18 (opcode
0x06), 0x0008_0101_5D4C (FMA in 64 bits), 0x0008_0101_5D4F (length bits 0b11) and 0x1FF8 (PAIR in 64 bits), which
Table 8 of 03_opcode_map calls illegal, decode to no instruction. -/
def Obligations.SpecWordsDecode : Prop :=
  let o : Ops := ⟨.w64, false, 7, 0, Src.zero, Src.zero, Src.zero, 0, 0, 0, 0⟩
  let s : BitVec 8 → Src := fun r => ⟨.scal, r, false⟩
  decodeTableWord 64 0x1C00 = some (.nop o 0) ∧
  decodeTableWord 64 0x00C01C30 = some (.sprd { o with a := ⟨.lit, 0, false⟩ } 0) ∧
  decodeTableWord 64 0x02425C34 = some (.spwr { o with dst := 9, a := s 2 } 0) ∧
  decodeTableWord 96 0x123456780000000000C25C35 =
    some (.spwr { o with len := .w96, dst := 9, a := ⟨.lit, 0, false⟩, lit := 0x12345678 } 0) ∧
  decodeTableWord 64 0x000000080100DC40 =
    some (.iadd { o with dst := 3, a := ⟨.vec, 1, false⟩, b := ⟨.vec, 2, false⟩ } ⟨false, 0, false, .s32⟩) ∧
  decodeTableWord 64 0x8000301102401E84 = some (.st { o with a := s 2, b := s 4 } ⟨0x800, .rlx, .thread, .b64⟩) ∧
  decodeTableWord 64 0x000E000000001ED4 = some (.fence o ⟨0, .ar, .modul, .b32⟩) ∧
  decodeTableWord 64 0x0000000D02421FA4 = some (.tlbprb { o with dst := 8, a := s 2, b := s 3 } 0) ∧
  decodeTableWord 64 0x0000000D02421FBC = some (.qset { o with dst := 8, a := s 2, b := s 3 } 0) ∧
  decodeTableWord 64 0x0000100000021FC8 = some (.eqpopMig { o with dst := 8 } 1) ∧
  decodeTableWord 64 0x000060080100DD40 = none ∧ decodeTableWord 64 0x1C18 = none ∧
  decodeTableWord 64 0x0000000801015D4C = none ∧ decodeTableWord 64 0x0000000801015D4F = none ∧
  decodeTableWord 64 0x1FF8 = none

/-- In State.reset, which is the module after a bring-up (R469), the memories keep their canonical form, every byte of
physical memory is zero and none is poisoned; every word of every context descriptor and FRAME entry is zero, and
every partition record holds DEFQ 0x0121_0008_0040_0000 and WGT 0x0101_0101 and is zero elsewhere. No context is
live, every operand-buffer record is free with GEN 1, no translation is cached, no group is resident, no bundle is
chosen, and the power state is ON. That a record fresh since module reset has GEN 1 is what the gang example of
06_matrix says; the accumulators' and buffers' contents are the model's choice (log 2) and are not stated. -/
def Obligations.ResetLeavesResetValues : Prop :=
  State.reset.memWf = true ∧ (∀ a, Memory.byte State.reset.mem a = 0) ∧ State.reset.poison = [] ∧
  (∀ c w, State.reset.descW c w = 0 ∧ State.reset.live c = false) ∧ (∀ a, State.reset.frameW a = 0) ∧
  (∀ p w, w < 4 → State.reset.partW p w = if w = 3 then 0x0121000800400000 else if w = 1 then 0x01010101 else 0) ∧
  (∀ c h, State.reset.obRec c h = ObRec.zero ∧ (State.reset.obRec c h).gen = 1) ∧
  State.reset.tlb = [] ∧ (∀ k, State.reset.group? k = none) ∧ State.reset.cur = none ∧ State.reset.power = .on

/-- For every state, those that no run reaches among them: if physical memory, the counted lines' held data, the operand
buffers' contents and the identity store are in canonical form (addresses strictly rising, no listed byte zero), and
a step answers a next state, then they are in canonical form there too. That form is the model's own representation
of memory, its choice (log 1), and no rule of the spec. So memories that read alike stay equal data, whatever
instruction, event or tick the step runs. -/
def Obligations.StepKeepsMemoriesCanonical : Prop :=
  ∀ s t : State, s.memWf = true → step s = .next t → t.memWf = true

end Statements
end

