-- ==== Sys2Proof/Laws/Sparse.lean ====
section
/-! SUPPORT. Laws of tables and memories: what is read after a write, and that every operation keeps the canonical form.
The reading laws hold of every list; only the canonical form has a premise. -/

namespace Sys2Proof.Machine

variable {α : Type}

/-! ### Reading after writing -/

@[simp] theorem Tab.get?_nil (k : Nat) : Tab.get? ([] : Tab α) k = none := rfl

theorem Tab.get?_cons (j : Nat) (v : α) (t : Tab α) (k : Nat) :
    Tab.get? ((j, v) :: t) k = if j = k then some v else Tab.get? t k := rfl

@[simp] theorem Tab.get?_set_self (t : Tab α) (k : Nat) (v : α) : Tab.get? (Tab.set t k v) k = some v := by
  induction t with
  | nil => simp [Tab.set, Tab.get?]
  | cons x t ih =>
    simp only [Tab.set]
    split
    · simp [Tab.get?]
    · split
      · simp [Tab.get?]
      · simp only [Tab.get?]
        split
        · rename_i h; omega
        · exact ih

theorem Tab.get?_set_ne (t : Tab α) {k j : Nat} (v : α) (h : j ≠ k) :
    Tab.get? (Tab.set t k v) j = Tab.get? t j := by
  induction t with
  | nil => simp [Tab.set, Tab.get?, Ne.symm h]
  | cons x t ih =>
    simp only [Tab.set]
    split
    · simp [Tab.get?, Ne.symm h]
    · split
      · rename_i hk
        simp only [Tab.get?]
        rw [if_neg (Ne.symm h), if_neg (hk ▸ Ne.symm h)]
      · simp only [Tab.get?, ih]

theorem Tab.get?_set (t : Tab α) (k j : Nat) (v : α) :
    Tab.get? (Tab.set t k v) j = if j = k then some v else Tab.get? t j := by
  split
  · subst_vars; simp
  · exact Tab.get?_set_ne t v ‹_›

theorem Tab.get?_erase (t : Tab α) (k j : Nat) :
    Tab.get? (Tab.erase t k) j = if j = k then none else Tab.get? t j := by
  induction t with
  | nil => simp [Tab.erase]
  | cons x t ih =>
    unfold Tab.erase at ih ⊢
    by_cases hx : x.1 = k
    · simp only [List.filter, hx, bne_self_eq_false, ih, Tab.get?]
      split
      · rfl
      · rw [if_neg]; omega
    · have : (x.1 != k) = true := by simpa using hx
      simp only [List.filter, this, Tab.get?, ih]
      split
      · subst_vars; rw [if_neg hx]
      · rfl

theorem Tab.get?_modify (t : Tab α) (k j : Nat) (f : α → α) :
    Tab.get? (Tab.modify t k f) j = if j = k then (Tab.get? t j).map f else Tab.get? t j := by
  induction t with
  | nil => simp [Tab.modify]
  | cons x t ih =>
    unfold Tab.modify at ih ⊢
    by_cases hx : x.1 = k
    · simp only [List.map, hx, if_true, Tab.get?, ih]
      by_cases hj : k = j
      · subst hj; simp
      · simp [hj, show ¬ j = k from fun h => hj h.symm]
    · simp only [List.map, hx, if_false, Tab.get?, ih]
      split
      · subst_vars; rw [if_neg hx]
      · rfl

@[simp] theorem Tab.get?_modify_ne (t : Tab α) {k j : Nat} (f : α → α) (h : j ≠ k) :
    Tab.get? (Tab.modify t k f) j = Tab.get? t j := by rw [Tab.get?_modify, if_neg h]

theorem Tab.read_write [DecidableEq α] (d : α) (t : Tab α) (k j : Nat) (v : α) :
    Tab.read d (Tab.write d t k v) j = if j = k then v else Tab.read d t j := by
  unfold Tab.read Tab.write
  split
  · rw [Tab.get?_erase]
    split
    · simp [*]
    · rfl
  · rw [Tab.get?_set]
    split <;> rfl

@[simp] theorem Tab.read_write_self [DecidableEq α] (d : α) (t : Tab α) (k : Nat) (v : α) :
    Tab.read d (Tab.write d t k v) k = v := by rw [Tab.read_write, if_pos rfl]

theorem Tab.read_write_ne [DecidableEq α] (d : α) (t : Tab α) {k j : Nat} (v : α) (h : j ≠ k) :
    Tab.read d (Tab.write d t k v) j = Tab.read d t j := by rw [Tab.read_write, if_neg h]

/-! ### Bytes -/

@[simp] theorem Memory.byte_setByte_self (m : Memory) (a : Nat) (b : Byte) :
    Memory.byte (Memory.setByte m a b) a = b := Tab.read_write_self 0 m a b

theorem Memory.byte_setByte_ne (m : Memory) {a c : Nat} (b : Byte) (h : c ≠ a) :
    Memory.byte (Memory.setByte m a b) c = Memory.byte m c := Tab.read_write_ne 0 m b h

/-- A byte outside the bytes written reads as before. -/
theorem Memory.byte_setBytes_out (m : Memory) (a : Nat) (bs : List Byte) (c : Nat) (h : c < a ∨ a + bs.length ≤ c) :
    Memory.byte (Memory.setBytes m a bs) c = Memory.byte m c := by
  induction bs generalizing m a with
  | nil => rfl
  | cons b bs ih =>
    simp only [List.length_cons] at h
    rw [Memory.setBytes, ih _ _ (by omega), Memory.byte_setByte_ne _ _ (by omega)]

/-- A byte that is written reads as written. -/
theorem Memory.byte_setBytes_in (m : Memory) (a : Nat) (bs : List Byte) (i : Nat) (h : i < bs.length) :
    Memory.byte (Memory.setBytes m a bs) (a + i) = bs[i] := by
  induction bs generalizing m a i with
  | nil => simp at h
  | cons b bs ih =>
    rw [Memory.setBytes]
    cases i with
    | zero => rw [Memory.byte_setBytes_out _ _ _ _ (by omega)]; simp
    | succ i =>
      have := ih (Memory.setByte m a b) (a + 1) i (by simpa using h)
      simpa [Nat.add_assoc, Nat.add_comm 1] using this

@[simp] theorem Memory.bytes_length (m : Memory) (a n : Nat) : (Memory.bytes m a n).length = n := by
  induction n generalizing a with
  | zero => rfl
  | succ n ih => simp [Memory.bytes, ih]

/-- Reading back what was written. -/
theorem Memory.bytes_setBytes (m : Memory) (a : Nat) (bs : List Byte) :
    Memory.bytes (Memory.setBytes m a bs) a bs.length = bs := by
  induction bs generalizing m a with
  | nil => rfl
  | cons b bs ih =>
    simp only [List.length_cons, Memory.bytes, Memory.setBytes]
    rw [ih, Memory.byte_setBytes_out _ _ _ _ (by omega)]
    simp

theorem Memory.byte_zero (m : Memory) (a n c : Nat) :
    Memory.byte (Memory.zero m a n) c = if a ≤ c ∧ c < a + n then 0 else Memory.byte m c := by
  unfold Memory.byte Memory.zero Tab.read Tab.keep
  induction m with
  | nil => simp
  | cons x m ih =>
    by_cases hx : a ≤ x.1 ∧ x.1 < a + n
    · have : (!(decide (a ≤ x.1) && decide (x.1 < a + n))) = false := by simp [hx]
      simp only [List.filter, this, ih, Tab.get?]
      split
      · rfl
      · rw [if_neg]; rintro rfl; exact ‹¬_› hx
    · have : (!(decide (a ≤ x.1) && decide (x.1 < a + n))) = true := by simp; omega
      simp only [List.filter, this, Tab.get?]
      split
      · subst_vars; rw [if_neg hx]
      · exact ih

/-! ### The canonical form -/

/-- The canonical form, entry by entry. -/
theorem Memory.wf_cons (a : Nat) (v : Byte) (m : Memory) :
    Memory.wf ((a, v) :: m) = true ↔ v ≠ 0 ∧ Memory.wf m = true ∧ ∀ x ∈ m.head?, a < x.1 := by
  cases m with
  | nil => simp [Memory.wf]
  | cons y m =>
    obtain ⟨b, w⟩ := y
    simp only [Memory.wf, Bool.and_eq_true, decide_eq_true_eq, bne_iff_ne, List.head?_cons, Option.mem_def,
      Option.some.injEq, forall_eq']
    tauto

/-- In canonical form every later address is larger. -/
theorem Memory.wf_lt {a : Nat} {v : Byte} {m : Memory} (h : Memory.wf ((a, v) :: m) = true) : ∀ x ∈ m, a < x.1 := by
  induction m generalizing a v with
  | nil => simp
  | cons y m ih =>
    obtain ⟨b, w⟩ := y
    have h1 := (Memory.wf_cons _ _ _).1 h
    have hb : a < b := h1.2.2 (b, w) rfl
    intro x hx
    rcases List.mem_cons.1 hx with rfl | hx
    · exact hb
    · exact Nat.lt_trans hb (ih h1.2.1 x hx)

/-- Entries in order of address, none zero. -/
theorem Memory.wf_iff (m : Memory) :
    Memory.wf m = true ↔ m.Pairwise (fun x y => x.1 < y.1) ∧ ∀ x ∈ m, x.2 ≠ 0 := by
  induction m with
  | nil => simp [Memory.wf]
  | cons x m ih =>
    obtain ⟨a, v⟩ := x
    constructor
    · intro h
      have h1 := (Memory.wf_cons _ _ _).1 h
      have h2 := ih.1 h1.2.1
      refine ⟨List.pairwise_cons.2 ⟨Memory.wf_lt h, h2.1⟩, ?_⟩
      intro y hy
      rcases List.mem_cons.1 hy with rfl | hy
      · exact h1.1
      · exact h2.2 y hy
    · rintro ⟨h1, h2⟩
      rw [List.pairwise_cons] at h1
      refine (Memory.wf_cons _ _ _).2 ⟨h2 _ List.mem_cons_self, ih.2 ⟨h1.2, fun y hy => h2 y (List.mem_cons_of_mem _ hy)⟩, ?_⟩
      intro y hy
      exact h1.1 y (List.mem_of_mem_head? hy)

theorem Tab.mem_set {t : Tab α} {k : Nat} {v : α} {x : Nat × α} (h : x ∈ Tab.set t k v) : x = (k, v) ∨ x ∈ t := by
  induction t with
  | nil => simpa [Tab.set] using h
  | cons y t ih =>
    simp only [Tab.set] at h
    split at h
    · simpa using h
    · split at h
      · rcases List.mem_cons.1 h with rfl | h
        · exact .inl rfl
        · exact .inr (List.mem_cons_of_mem _ h)
      · rcases List.mem_cons.1 h with rfl | h
        · exact .inr List.mem_cons_self
        · exact (ih h).imp id (List.mem_cons_of_mem _)

theorem Tab.pairwise_set {t : Tab α} (h : t.Pairwise fun x y => x.1 < y.1) (k : Nat) (v : α) :
    (Tab.set t k v).Pairwise fun x y => x.1 < y.1 := by
  induction t with
  | nil => simp [Tab.set]
  | cons y t ih =>
    rw [List.pairwise_cons] at h
    simp only [Tab.set]
    split
    · refine List.pairwise_cons.2 ⟨?_, List.pairwise_cons.2 h⟩
      intro z hz
      rcases List.mem_cons.1 hz with rfl | hz
      · assumption
      · exact Nat.lt_trans ‹k < y.1› (h.1 z hz)
    · split
      · exact List.pairwise_cons.2 ⟨fun z hz => by have := h.1 z hz; simp_all, h.2⟩
      · refine List.pairwise_cons.2 ⟨?_, ih h.2⟩
        intro z hz
        rcases Tab.mem_set hz with rfl | hz
        · simp; omega
        · exact h.1 z hz

/-- Writing a byte keeps the canonical form. -/
theorem Memory.setByte_wf {m : Memory} (h : Memory.wf m = true) (a : Nat) (b : Byte) :
    Memory.wf (Memory.setByte m a b) = true := by
  rw [Memory.wf_iff] at h ⊢
  unfold Memory.setByte Tab.write
  split
  · exact ⟨h.1.filter _, fun x hx => h.2 x (List.mem_of_mem_filter hx)⟩
  · refine ⟨Tab.pairwise_set h.1 a b, fun x hx => ?_⟩
    rcases Tab.mem_set hx with rfl | hx
    · assumption
    · exact h.2 x hx

/-- Writing bytes keeps it. -/
theorem Memory.setBytes_wf {m : Memory} (h : Memory.wf m = true) (a : Nat) (bs : List Byte) :
    Memory.wf (Memory.setBytes m a bs) = true := by
  induction bs generalizing m a with
  | nil => exact h
  | cons b bs ih => exact ih (Memory.setByte_wf h a b) _

/-- Zeroing a range keeps it. -/
theorem Memory.zero_wf {m : Memory} (h : Memory.wf m = true) (a n : Nat) : Memory.wf (Memory.zero m a n) = true := by
  rw [Memory.wf_iff] at h ⊢
  exact ⟨h.1.filter _, fun x hx => h.2 x (List.mem_of_mem_filter hx)⟩

/-- Writing bytes one list after another keeps it. -/
theorem Memory.foldl_setBytes_wf {β : Type} (f : β → Nat) (g : β → List Byte) (l : List β) {m : Memory}
    (h : Memory.wf m = true) : Memory.wf (l.foldl (fun m b => Memory.setBytes m (f b) (g b)) m) = true := by
  induction l generalizing m with
  | nil => exact h
  | cons x l ih => exact ih (Memory.setBytes_wf h _ _)

/-! ### Numbers and bytes -/

@[simp] theorem leBytes_length (n v : Nat) : (leBytes n v).length = n := by
  induction n generalizing v with
  | zero => rfl
  | succ n ih => simp [leBytes, ih]

/-- Bytes of a number, as a number again. -/
theorem leNat_leBytes (n v : Nat) : leNat (leBytes n v) = v % 256 ^ n := by
  induction n generalizing v with
  | zero => simp [leBytes, leNat, Nat.mod_one]
  | succ n ih =>
    have h : (256 : Nat) ^ (n + 1) = 256 * 256 ^ n := by rw [Nat.pow_succ, Nat.mul_comm]
    rw [h, Nat.mod_mul]
    simp [leBytes, leNat, ih]

/-- A number that was stored reads back. -/
theorem Memory.num_setBytes (m : Memory) (a n v : Nat) :
    Memory.num (Memory.setBytes m a (leBytes n v)) a n = v % 256 ^ n := by
  have h := Memory.bytes_setBytes m a (leBytes n v)
  rw [leBytes_length] at h
  rw [Memory.num, h, leNat_leBytes]

end Sys2Proof.Machine
end

