-- ==== Sys2Proof/Laws/Ops.lean ====
section
/-! SUPPORT. What the shared operations of Machine/Ops.lean and Machine/Operands.lean do, each said once: groups in a
state, lanes and registers of a group, how a bundle goes on, and how an instruction begins. -/

namespace Sys2Proof.Machine

/-! ### Groups in a state -/

@[simp] theorem State.group?_setGroup_self (s : State) (gid : Nat) (g : Group) :
    (s.setGroup gid g).group? gid = some g := Tab.get?_set_self _ _ _

theorem State.group?_setGroup_ne (s : State) {gid k : Nat} (g : Group) (h : k ≠ gid) :
    (s.setGroup gid g).group? k = s.group? k := Tab.get?_set_ne _ _ h

theorem State.group?_modGroup (s : State) (gid k : Nat) (f : Group → Group) :
    (s.modGroup gid f).group? k = if k = gid then (s.group? k).map f else s.group? k := Tab.get?_modify _ _ _ _

@[simp] theorem State.group?_charge (s : State) (g : Group) (k : Nat) : (s.charge g).group? k = s.group? k := rfl

theorem State.group?_retire (s : State) (u : Cur) (k : Nat) (h : k ≠ u.gid) :
    (s.retire u).group? k = s.group? k := by
  simp only [State.retire, State.group?, State.modGroup]
  exact Tab.get?_modify_ne _ _ h

/-! ### Lanes and registers of a group -/

@[simp] theorem Group.lane_setLane_self (g : Group) (l : Nat) (x : Lane) : (g.setLane l x).lane l = x :=
  Tab.read_write_self _ _ _ _

theorem Group.lane_setLane_ne (g : Group) {l k : Nat} (x : Lane) (h : k ≠ l) : (g.setLane l x).lane k = g.lane k :=
  Tab.read_write_ne _ _ _ h

theorem Group.lane_modLane (g : Group) (l k : Nat) (f : Lane → Lane) :
    (g.modLane l f).lane k = if k = l then f (g.lane k) else g.lane k := by
  unfold Group.modLane
  split
  · subst_vars; simp
  · exact Group.lane_setLane_ne _ _ ‹_›

/-- Changing lanes one after another changes each lane of the list, once for a list without repeats. -/
theorem Group.lane_modLanes (g : Group) (ls : List Nat) (f : Lane → Lane) (h : ls.Nodup) (k : Nat) :
    (g.modLanes ls f).lane k = if k ∈ ls then f (g.lane k) else g.lane k := by
  unfold Group.modLanes
  induction ls generalizing g with
  | nil => simp
  | cons l ls ih =>
    rw [List.nodup_cons] at h
    simp only [List.foldl_cons, ih _ h.2, Group.lane_modLane, List.mem_cons]
    by_cases hk : k = l
    · subst hk; simp [h.1]
    · simp [hk]

/-- `modLanes` changes lanes alone. -/
theorem Group.modLanes_eq (g : Group) (ls : List Nat) (f : Lane → Lane) :
    g.modLanes ls f = { g with lanes := (g.modLanes ls f).lanes } := by
  unfold Group.modLanes
  induction ls generalizing g with
  | nil => rfl
  | cons l ls ih =>
    simp only [List.foldl_cons]
    rw [ih]
    rfl

theorem allLanes_nodup : allLanes.Nodup := List.nodup_range
theorem lanesOf_nodup (m : W32) : (lanesOf m).Nodup := allLanes_nodup.filter _
theorem mem_lanesOf {m : W32} {l : Nat} : l ∈ lanesOf m ↔ l < 32 ∧ m.getLsbD l = true := by
  simp [lanesOf, allLanes, hasLane]

@[simp] theorem Group.vr_setVr_self (g : Group) (r l : Nat) (x : W32) : (g.setVr r l x).vr r l = x :=
  Tab.read_write_self _ _ _ _

theorem Group.vr_setVr_ne (g : Group) {r l r' l' : Nat} (x : W32) (h : 32 * r' + l' ≠ 32 * r + l) :
    (g.setVr r l x).vr r' l' = g.vr r' l' := Tab.read_write_ne _ _ _ h

@[simp] theorem Group.sr_setSr_self (g : Group) (r : Nat) (x : W64) : (g.setSr r x).sr r = x :=
  Tab.read_write_self _ _ _ _

theorem Group.sr_setSr_ne (g : Group) {r r' : Nat} (x : W64) (h : r' ≠ r) : (g.setSr r x).sr r' = g.sr r' :=
  Tab.read_write_ne _ _ _ h

/-! ### How a bundle goes on -/

/-- `go` changes one lane's addresses alone. -/
theorem Group.go_eq (g : Group) (a : W64) (l : Nat) : g.go a l = { g with lanes := (g.go a l).lanes } := rfl

theorem Group.lane_go (g : Group) (a : W64) (l k : Nat) :
    (g.go a l).lane k =
      if k = l then (if g.inh then { g.lane k with hpc := a } else (g.lane k).moveTo a) else g.lane k := by
  unfold Group.go
  rw [Group.lane_modLane]

/-- Going on changes lanes alone. -/
theorem Group.foldl_go_eq (g : Group) (dest : Nat → W64) (ls : List Nat) :
    ls.foldl (fun g l => g.go (dest l) l) g = { g with lanes := (ls.foldl (fun g l => g.go (dest l) l) g).lanes } := by
  induction ls generalizing g with
  | nil => rfl
  | cons l ls ih =>
    simp only [List.foldl_cons]
    rw [ih]
    rfl

/-- The lanes of a list without repeats go to their addresses, the others stay. -/
theorem Group.lane_foldl_go (g : Group) (dest : Nat → W64) (ls : List Nat) (h : ls.Nodup) (k : Nat) :
    (ls.foldl (fun g l => g.go (dest l) l) g).lane k =
      if k ∈ ls then (if g.inh then { g.lane k with hpc := dest k } else (g.lane k).moveTo (dest k)) else g.lane k := by
  induction ls generalizing g with
  | nil => simp
  | cons l ls ih =>
    rw [List.nodup_cons] at h
    simp only [List.foldl_cons, ih _ h.2, List.mem_cons, Group.lane_go]
    have hi : (g.go (dest l) l).inh = g.inh := rfl
    by_cases hk : k = l
    · subst hk; simp [h.1]
    · simp [hk, hi]

@[simp] theorem Lane.moveTo_pc (x : Lane) (a : W64) : (x.moveTo a).pc = a := rfl
theorem Lane.moveTo_eq (x : Lane) (a : W64) :
    x.moveTo a = { x with pc := a, held := (x.moveTo a).held, passed := (x.moveTo a).passed } := rfl

/-- Meeting clocks alone start again. -/
theorem Group.restart_eq (g : Group) (c : Nat) (ls : List Nat) :
    g.restart c ls = { g with meets := (g.restart c ls).meets } := by
  unfold Group.restart
  generalize (if g.inh then g.trapAt else c) = t
  induction ls generalizing g with
  | nil => rfl
  | cons l ls ih =>
    simp only [List.foldl_cons]
    split
    · exact ih g
    · rw [ih]

/-- Meeting clocks alone change as siblings progress. -/
theorem Group.progress_eq (g : Group) (c : Nat) (ls : List Nat) :
    g.progress c ls = { g with meets := (g.progress c ls).meets } := by
  unfold Group.progress
  split
  · rfl
  · exact g.restart_eq c ls

/-- What a step of a fold leaves alone, the fold leaves alone. -/
theorem foldl_keeps {σ β γ : Type} (f : σ → β) (step : σ → γ → σ) (h : ∀ s x, f (step s x) = f s) (l : List γ) (s : σ) :
    f (l.foldl step s) = f s := by
  induction l generalizing s with
  | nil => rfl
  | cons x l ih => rw [List.foldl_cons, ih, h]

/-- The group before the bundle's lanes have moved: its meeting clocks, no retry, and the flag of a window overrun. -/
def Env.clocked (e : Env) (s : State) (g : Group) : Group :=
  { (g.progress s.cycle e.lanes).flag e.winOver with retry := if g.inh then g.retry else none }

/-- The group in the state in which a bundle has gone on. -/
def Env.goneOn (e : Env) (s : State) (g : Group) (dest : Nat → W64) : Group :=
  let g := (e.lanes.foldl (fun g l => g.go (dest l) l) (e.clocked s g)).modLanes (lanesOf e.u.lanes) fun x =>
    { x with ready := s.cycle }
  { g with bundles := g.bundles ++ g.rest (lanesOf e.u.lanes) }

theorem Env.after_group (e : Env) (s : State) (g : Group) (dest : Nat → W64) :
    (e.after s g dest).group? e.u.gid = some (e.goneOn s g dest) := by
  simp only [Env.after, State.retire, State.group?, State.modGroup, State.charge, State.setGroup, Tab.get?_modify,
    if_true, Tab.get?_set_self, Option.map_some]
  rfl

theorem Env.after_other (e : Env) (s : State) (g : Group) (dest : Nat → W64) (k : Nat) (h : k ≠ e.u.gid) :
    (e.after s g dest).group? k = s.group? k := by
  unfold Env.after
  rw [State.group?_retire _ _ _ h, State.group?_charge, State.group?_setGroup_ne _ _ h]

theorem Env.clocked_eq (e : Env) (s : State) (g : Group) :
    e.clocked s g =
      { g with astat := g.astat ||| e.winOver, meets := (e.clocked s g).meets, retry := (e.clocked s g).retry } := by
  unfold Env.clocked
  rw [Group.progress_eq]
  rfl

/-- All that changes as a bundle goes on: the window flag, lanes, meeting clocks, the retry clock and bundles. -/
theorem Env.goneOn_eq (e : Env) (s : State) (g : Group) (dest : Nat → W64) :
    e.goneOn s g dest =
      { g with
        astat := g.astat ||| e.winOver, lanes := (e.goneOn s g dest).lanes, meets := (e.goneOn s g dest).meets,
        retry := (e.goneOn s g dest).retry, bundles := (e.goneOn s g dest).bundles } := by
  simp only [Env.goneOn]
  rw [Group.modLanes_eq, Group.foldl_go_eq, Env.clocked_eq]

@[simp] theorem Env.goneOn_ctx (e : Env) (s : State) (g : Group) (dest : Nat → W64) :
    (e.goneOn s g dest).ctx = g.ctx := congrArg (·.ctx) (e.goneOn_eq s g dest)
@[simp] theorem Env.goneOn_grid (e : Env) (s : State) (g : Group) (dest : Nat → W64) :
    (e.goneOn s g dest).grid = g.grid := congrArg (·.grid) (e.goneOn_eq s g dest)
@[simp] theorem Env.goneOn_cluster (e : Env) (s : State) (g : Group) (dest : Nat → W64) :
    (e.goneOn s g dest).cluster = g.cluster := congrArg (·.cluster) (e.goneOn_eq s g dest)
@[simp] theorem Env.goneOn_team (e : Env) (s : State) (g : Group) (dest : Nat → W64) :
    (e.goneOn s g dest).team = g.team := congrArg (·.team) (e.goneOn_eq s g dest)
@[simp] theorem Env.goneOn_core (e : Env) (s : State) (g : Group) (dest : Nat → W64) :
    (e.goneOn s g dest).core = g.core := congrArg (·.core) (e.goneOn_eq s g dest)
@[simp] theorem Env.goneOn_slot (e : Env) (s : State) (g : Group) (dest : Nat → W64) :
    (e.goneOn s g dest).slot = g.slot := congrArg (·.slot) (e.goneOn_eq s g dest)
@[simp] theorem Env.goneOn_gix (e : Env) (s : State) (g : Group) (dest : Nat → W64) :
    (e.goneOn s g dest).gix = g.gix := congrArg (·.gix) (e.goneOn_eq s g dest)
@[simp] theorem Env.goneOn_nv (e : Env) (s : State) (g : Group) (dest : Nat → W64) :
    (e.goneOn s g dest).nv = g.nv := congrArg (·.nv) (e.goneOn_eq s g dest)
@[simp] theorem Env.goneOn_ns (e : Env) (s : State) (g : Group) (dest : Nat → W64) :
    (e.goneOn s g dest).ns = g.ns := congrArg (·.ns) (e.goneOn_eq s g dest)
@[simp] theorem Env.goneOn_compat (e : Env) (s : State) (g : Group) (dest : Nat → W64) :
    (e.goneOn s g dest).compat = g.compat := congrArg (·.compat) (e.goneOn_eq s g dest)
@[simp] theorem Env.goneOn_v (e : Env) (s : State) (g : Group) (dest : Nat → W64) :
    (e.goneOn s g dest).v = g.v := congrArg (·.v) (e.goneOn_eq s g dest)
@[simp] theorem Env.goneOn_vEmpty (e : Env) (s : State) (g : Group) (dest : Nat → W64) :
    (e.goneOn s g dest).vEmpty = g.vEmpty := congrArg (·.vEmpty) (e.goneOn_eq s g dest)
@[simp] theorem Env.goneOn_sreg (e : Env) (s : State) (g : Group) (dest : Nat → W64) :
    (e.goneOn s g dest).sreg = g.sreg := congrArg (·.sreg) (e.goneOn_eq s g dest)
@[simp] theorem Env.goneOn_sEmpty (e : Env) (s : State) (g : Group) (dest : Nat → W64) :
    (e.goneOn s g dest).sEmpty = g.sEmpty := congrArg (·.sEmpty) (e.goneOn_eq s g dest)
@[simp] theorem Env.goneOn_seed (e : Env) (s : State) (g : Group) (dest : Nat → W64) :
    (e.goneOn s g dest).seed = g.seed := congrArg (·.seed) (e.goneOn_eq s g dest)
@[simp] theorem Env.goneOn_gang (e : Env) (s : State) (g : Group) (dest : Nat → W64) :
    (e.goneOn s g dest).gang = g.gang := congrArg (·.gang) (e.goneOn_eq s g dest)
@[simp] theorem Env.goneOn_hvec (e : Env) (s : State) (g : Group) (dest : Nat → W64) :
    (e.goneOn s g dest).hvec = g.hvec := congrArg (·.hvec) (e.goneOn_eq s g dest)
@[simp] theorem Env.goneOn_inh (e : Env) (s : State) (g : Group) (dest : Nat → W64) :
    (e.goneOn s g dest).inh = g.inh := congrArg (·.inh) (e.goneOn_eq s g dest)
@[simp] theorem Env.goneOn_trap (e : Env) (s : State) (g : Group) (dest : Nat → W64) :
    (e.goneOn s g dest).trap = g.trap := congrArg (·.trap) (e.goneOn_eq s g dest)
@[simp] theorem Env.goneOn_owed (e : Env) (s : State) (g : Group) (dest : Nat → W64) :
    (e.goneOn s g dest).owed = g.owed := congrArg (·.owed) (e.goneOn_eq s g dest)
@[simp] theorem Env.goneOn_pend (e : Env) (s : State) (g : Group) (dest : Nat → W64) :
    (e.goneOn s g dest).pend = g.pend := congrArg (·.pend) (e.goneOn_eq s g dest)
@[simp] theorem Env.goneOn_deferred (e : Env) (s : State) (g : Group) (dest : Nat → W64) :
    (e.goneOn s g dest).deferred = g.deferred := congrArg (·.deferred) (e.goneOn_eq s g dest)
@[simp] theorem Env.goneOn_trapAt (e : Env) (s : State) (g : Group) (dest : Nat → W64) :
    (e.goneOn s g dest).trapAt = g.trapAt := congrArg (·.trapAt) (e.goneOn_eq s g dest)
@[simp] theorem Env.goneOn_stopAt (e : Env) (s : State) (g : Group) (dest : Nat → W64) :
    (e.goneOn s g dest).stopAt = g.stopAt := congrArg (·.stopAt) (e.goneOn_eq s g dest)
@[simp] theorem Env.goneOn_hold (e : Env) (s : State) (g : Group) (dest : Nat → W64) :
    (e.goneOn s g dest).hold = g.hold := congrArg (·.hold) (e.goneOn_eq s g dest)
@[simp] theorem Env.goneOn_queues (e : Env) (s : State) (g : Group) (dest : Nat → W64) :
    (e.goneOn s g dest).queues = g.queues := congrArg (·.queues) (e.goneOn_eq s g dest)
@[simp] theorem Env.goneOn_heads (e : Env) (s : State) (g : Group) (dest : Nat → W64) :
    (e.goneOn s g dest).heads = g.heads := congrArg (·.heads) (e.goneOn_eq s g dest)
@[simp] theorem Env.goneOn_awaited (e : Env) (s : State) (g : Group) (dest : Nat → W64) :
    (e.goneOn s g dest).awaited = g.awaited := congrArg (·.awaited) (e.goneOn_eq s g dest)
@[simp] theorem Env.goneOn_due (e : Env) (s : State) (g : Group) (dest : Nat → W64) :
    (e.goneOn s g dest).due = g.due := congrArg (·.due) (e.goneOn_eq s g dest)
@[simp] theorem Env.goneOn_watch (e : Env) (s : State) (g : Group) (dest : Nat → W64) :
    (e.goneOn s g dest).watch = g.watch := congrArg (·.watch) (e.goneOn_eq s g dest)
@[simp] theorem Env.goneOn_astat (e : Env) (s : State) (g : Group) (dest : Nat → W64) :
    (e.goneOn s g dest).astat = g.astat ||| e.winOver := congrArg (·.astat) (e.goneOn_eq s g dest)

theorem Env.clocked_lane (e : Env) (s : State) (g : Group) (k : Nat) : (e.clocked s g).lane k = g.lane k := by
  rw [Env.clocked_eq]; rfl
theorem Env.clocked_inh (e : Env) (s : State) (g : Group) : (e.clocked s g).inh = g.inh := by
  rw [Env.clocked_eq]

/-- A lane after the bundle has gone on. -/
theorem Env.goneOn_lane (e : Env) (s : State) (g : Group) (dest : Nat → W64) (h : e.lanes.Nodup) (k : Nat) :
    (e.goneOn s g dest).lane k =
      let x := if k ∈ e.lanes then (if g.inh then { g.lane k with hpc := dest k } else (g.lane k).moveTo (dest k)) else g.lane k
      if k ∈ lanesOf e.u.lanes then { x with ready := s.cycle } else x := by
  have h2 := Group.lane_modLanes (e.lanes.foldl (fun g l => g.go (dest l) l) (e.clocked s g))
    (lanesOf e.u.lanes) (fun x => { x with ready := s.cycle }) (lanesOf_nodup _) k
  rw [Group.lane_foldl_go _ _ _ h, Env.clocked_lane, Env.clocked_inh] at h2
  exact h2

/-! ### How an instruction begins -/

/-- An instruction that begins runs its continuation in its environment. -/
theorem issue_of_begins {i : Instr} {s : State} {e : Env} (h : Begins i s e) (k : Env → Out) :
    issue (needs i) i.len (partsAt s i) s k = k e := by
  obtain ⟨hu, g, hg, hc, he, hl, hb⟩ := h
  unfold issue
  rw [hu]
  simp only [hg, hc, ← he]
  rw [if_neg (by simpa using hl), if_neg (by simp [hb])]

/-- The state that an environment was made from. -/
theorem Begins.env_s {i : Instr} {s : State} {e : Env} (h : Begins i s e) : e.s = s := by
  obtain ⟨_, _, _, _, he, _⟩ := h
  rw [he]; rfl

theorem Begins.lanes_nodup {i : Instr} {s : State} {e : Env} (h : Begins i s e) : e.lanes.Nodup := by
  obtain ⟨_, _, _, _, he, _⟩ := h
  rw [he]; exact (lanesOf_nodup _).filter _

/-- An instruction that a check stops takes the trap of that check. -/
theorem issue_of_stop {i : Instr} {s : State} {u : Cur} {g : Group} {t : Nat × Nat × Nat} (hu : s.cur = some u)
    (hg : s.group? u.gid = some g) (ht : s.stopOf u g (needs i) (partsAt s i) = some t) (k : Env → Out) :
    issue (needs i) i.len (partsAt s i) s k = .next (s.raise u.gid ⟨t.1, t.2.1, t.2.2, u.pc, 0, 0, u.lanes⟩) := by
  unfold issue
  rw [hu]
  simp only [hg, ht]

/-- With the matrix path free its computing instructions compute as all others do. -/
theorem Env.pathFree_of_free {e : Env} (h : e.s.fenced e.g.team 4 = false) (k : Unit → Out) : e.pathFree k = k () := by
  simp [Env.pathFree, h]

theorem runMatrixAlu_eq {i : Instr} {x : Alu} {s : State} {e : Env} (hb : Begins i s e) (hn : needs i = .all)
    (hl : i.len = x.o.len) (hq : partsAt s i = [{ o := x.o, sg := x.sg }]) (hu : x.unit? = none)
    (hp : s.fenced e.g.team 4 = false) : runMatrixAlu x s = runAlu x s := by
  unfold runMatrixAlu runAlu issue1
  rw [← hn, ← hl, ← hq, issue_of_begins hb, issue_of_begins hb, Env.pathFree_of_free (by rw [hb.env_s]; exact hp)]
  simp only [hu]

/-- An instruction that computes runs its operation, the matrix path being free where it takes it. -/
theorem exec_of_aluFor {i : Instr} {x : Alu} {s : State} {e : Env} (h : aluFor i = some x) (hb : Begins i s e)
    (hp : PathFree i s e) : exec i s = runAlu x s := by
  cases i <;> simp only [aluFor, reduceCtorEq, Option.some.injEq] at h <;> subst h <;> first
    | rfl
    | exact runMatrixAlu_eq hb rfl rfl rfl rfl (hp rfl)

end Sys2Proof.Machine
end

