-- ==== Sys2Proof/Laws/State.lean ====
section
/-! SUPPORT. What the record updates of the model leave alone: one law for each field and each named update, true by
definition. -/

namespace Sys2Proof.Machine

/-! ### State.setGroup -/

@[simp] theorem State.setGroup_agenda (s : State) (k : Nat) (g : Group) : (s.setGroup k g).agenda = s.agenda := rfl
@[simp] theorem State.setGroup_cur (s : State) (k : Nat) (g : Group) : (s.setGroup k g).cur = s.cur := rfl
@[simp] theorem State.setGroup_freeCount (s : State) (k : Nat) (g : Group) : (s.setGroup k g).freeCount = s.freeCount := rfl
@[simp] theorem State.setGroup_shadow (s : State) (k : Nat) (g : Group) : (s.setGroup k g).shadow = s.shadow := rfl
@[simp] theorem State.setGroup_nextId (s : State) (k : Nat) (g : Group) : (s.setGroup k g).nextId = s.nextId := rfl
@[simp] theorem State.setGroup_slots (s : State) (k : Nat) (g : Group) : (s.setGroup k g).slots = s.slots := rfl
@[simp] theorem State.setGroup_cycle (s : State) (k : Nat) (g : Group) : (s.setGroup k g).cycle = s.cycle := rfl
@[simp] theorem State.setGroup_gtime (s : State) (k : Nat) (g : Group) : (s.setGroup k g).gtime = s.gtime := rfl
@[simp] theorem State.setGroup_syncErr (s : State) (k : Nat) (g : Group) : (s.setGroup k g).syncErr = s.syncErr := rfl
@[simp] theorem State.setGroup_timeBad (s : State) (k : Nat) (g : Group) : (s.setGroup k g).timeBad = s.timeBad := rfl
@[simp] theorem State.setGroup_safeSince (s : State) (k : Nat) (g : Group) : (s.setGroup k g).safeSince = s.safeSince := rfl
@[simp] theorem State.setGroup_mem (s : State) (k : Nat) (g : Group) : (s.setGroup k g).mem = s.mem := rfl
@[simp] theorem State.setGroup_poison (s : State) (k : Nat) (g : Group) : (s.setGroup k g).poison = s.poison := rfl
@[simp] theorem State.setGroup_scrubSeen (s : State) (k : Nat) (g : Group) : (s.setGroup k g).scrubSeen = s.scrubSeen := rfl
@[simp] theorem State.setGroup_retired (s : State) (k : Nat) (g : Group) : (s.setGroup k g).retired = s.retired := rfl
@[simp] theorem State.setGroup_consumed (s : State) (k : Nat) (g : Group) : (s.setGroup k g).consumed = s.consumed := rfl
@[simp] theorem State.setGroup_dirty (s : State) (k : Nat) (g : Group) : (s.setGroup k g).dirty = s.dirty := rfl
@[simp] theorem State.setGroup_frame (s : State) (k : Nat) (g : Group) : (s.setGroup k g).frame = s.frame := rfl
@[simp] theorem State.setGroup_aliasBits (s : State) (k : Nat) (g : Group) : (s.setGroup k g).aliasBits = s.aliasBits := rfl
@[simp] theorem State.setGroup_hostSt (s : State) (k : Nat) (g : Group) : (s.setGroup k g).hostSt = s.hostSt := rfl
@[simp] theorem State.setGroup_recalls (s : State) (k : Nat) (g : Group) : (s.setGroup k g).recalls = s.recalls := rfl
@[simp] theorem State.setGroup_counted (s : State) (k : Nat) (g : Group) : (s.setGroup k g).counted = s.counted := rfl
@[simp] theorem State.setGroup_countedData (s : State) (k : Nat) (g : Group) : (s.setGroup k g).countedData = s.countedData := rfl
@[simp] theorem State.setGroup_dir (s : State) (k : Nat) (g : Group) : (s.setGroup k g).dir = s.dir := rfl
@[simp] theorem State.setGroup_tableWrites (s : State) (k : Nat) (g : Group) : (s.setGroup k g).tableWrites = s.tableWrites := rfl
@[simp] theorem State.setGroup_sealed (s : State) (k : Nat) (g : Group) : (s.setGroup k g).sealed = s.sealed := rfl
@[simp] theorem State.setGroup_dieClock (s : State) (k : Nat) (g : Group) : (s.setGroup k g).dieClock = s.dieClock := rfl
@[simp] theorem State.setGroup_homeClock (s : State) (k : Nat) (g : Group) : (s.setGroup k g).homeClock = s.homeClock := rfl
@[simp] theorem State.setGroup_fabric (s : State) (k : Nat) (g : Group) : (s.setGroup k g).fabric = s.fabric := rfl
@[simp] theorem State.setGroup_results (s : State) (k : Nat) (g : Group) : (s.setGroup k g).results = s.results := rfl
@[simp] theorem State.setGroup_pendings (s : State) (k : Nat) (g : Group) : (s.setGroup k g).pendings = s.pendings := rfl
@[simp] theorem State.setGroup_fences (s : State) (k : Nat) (g : Group) : (s.setGroup k g).fences = s.fences := rfl
@[simp] theorem State.setGroup_sends (s : State) (k : Nat) (g : Group) : (s.setGroup k g).sends = s.sends := rfl
@[simp] theorem State.setGroup_desc (s : State) (k : Nat) (g : Group) : (s.setGroup k g).desc = s.desc := rfl
@[simp] theorem State.setGroup_part (s : State) (k : Nat) (g : Group) : (s.setGroup k g).part = s.part := rfl
@[simp] theorem State.setGroup_tabQueue (s : State) (k : Nat) (g : Group) : (s.setGroup k g).tabQueue = s.tabQueue := rfl
@[simp] theorem State.setGroup_tabRing (s : State) (k : Nat) (g : Group) : (s.setGroup k g).tabRing = s.tabRing := rfl
@[simp] theorem State.setGroup_tabPool (s : State) (k : Nat) (g : Group) : (s.setGroup k g).tabPool = s.tabPool := rfl
@[simp] theorem State.setGroup_ring (s : State) (k : Nat) (g : Group) : (s.setGroup k g).ring = s.ring := rfl
@[simp] theorem State.setGroup_pool (s : State) (k : Nat) (g : Group) : (s.setGroup k g).pool = s.pool := rfl
@[simp] theorem State.setGroup_bufOwner (s : State) (k : Nat) (g : Group) : (s.setGroup k g).bufOwner = s.bufOwner := rfl
@[simp] theorem State.setGroup_sysQueue (s : State) (k : Nat) (g : Group) : (s.setGroup k g).sysQueue = s.sysQueue := rfl
@[simp] theorem State.setGroup_migQueue (s : State) (k : Nat) (g : Group) : (s.setGroup k g).migQueue = s.migQueue := rfl
@[simp] theorem State.setGroup_seqLost (s : State) (k : Nat) (g : Group) : (s.setGroup k g).seqLost = s.seqLost := rfl
@[simp] theorem State.setGroup_migOvf (s : State) (k : Nat) (g : Group) : (s.setGroup k g).migOvf = s.migOvf := rfl
@[simp] theorem State.setGroup_msi (s : State) (k : Nat) (g : Group) : (s.setGroup k g).msi = s.msi := rfl
@[simp] theorem State.setGroup_resets (s : State) (k : Nat) (g : Group) : (s.setGroup k g).resets = s.resets := rfl
@[simp] theorem State.setGroup_armed (s : State) (k : Nat) (g : Group) : (s.setGroup k g).armed = s.armed := rfl
@[simp] theorem State.setGroup_cmdOut (s : State) (k : Nat) (g : Group) : (s.setGroup k g).cmdOut = s.cmdOut := rfl
@[simp] theorem State.setGroup_cmdWait (s : State) (k : Nat) (g : Group) : (s.setGroup k g).cmdWait = s.cmdWait := rfl
@[simp] theorem State.setGroup_rootPend (s : State) (k : Nat) (g : Group) : (s.setGroup k g).rootPend = s.rootPend := rfl
@[simp] theorem State.setGroup_queue (s : State) (k : Nat) (g : Group) : (s.setGroup k g).queue = s.queue := rfl
@[simp] theorem State.setGroup_grids (s : State) (k : Nat) (g : Group) : (s.setGroup k g).grids = s.grids := rfl
@[simp] theorem State.setGroup_clusters (s : State) (k : Nat) (g : Group) : (s.setGroup k g).clusters = s.clusters := rfl
@[simp] theorem State.setGroup_teams (s : State) (k : Nat) (g : Group) : (s.setGroup k g).teams = s.teams := rfl
@[simp] theorem State.setGroup_ob (s : State) (k : Nat) (g : Group) : (s.setGroup k g).ob = s.ob := rfl
@[simp] theorem State.setGroup_obMem (s : State) (k : Nat) (g : Group) : (s.setGroup k g).obMem = s.obMem := rfl
@[simp] theorem State.setGroup_acc (s : State) (k : Nat) (g : Group) : (s.setGroup k g).acc = s.acc := rfl
@[simp] theorem State.setGroup_obBad (s : State) (k : Nat) (g : Group) : (s.setGroup k g).obBad = s.obBad := rfl
@[simp] theorem State.setGroup_accBad (s : State) (k : Nat) (g : Group) : (s.setGroup k g).accBad = s.accBad := rfl
@[simp] theorem State.setGroup_banks (s : State) (k : Nat) (g : Group) : (s.setGroup k g).banks = s.banks := rfl
@[simp] theorem State.setGroup_accReqs (s : State) (k : Nat) (g : Group) : (s.setGroup k g).accReqs = s.accReqs := rfl
@[simp] theorem State.setGroup_furrows (s : State) (k : Nat) (g : Group) : (s.setGroup k g).furrows = s.furrows := rfl
@[simp] theorem State.setGroup_gated (s : State) (k : Nat) (g : Group) : (s.setGroup k g).gated = s.gated := rfl
@[simp] theorem State.setGroup_halted (s : State) (k : Nat) (g : Group) : (s.setGroup k g).halted = s.halted := rfl
@[simp] theorem State.setGroup_tlb (s : State) (k : Nat) (g : Group) : (s.setGroup k g).tlb = s.tlb := rfl
@[simp] theorem State.setGroup_fmt (s : State) (k : Nat) (g : Group) : (s.setGroup k g).fmt = s.fmt := rfl
@[simp] theorem State.setGroup_ringWait (s : State) (k : Nat) (g : Group) : (s.setGroup k g).ringWait = s.ringWait := rfl
@[simp] theorem State.setGroup_represent (s : State) (k : Nat) (g : Group) : (s.setGroup k g).represent = s.represent := rfl
@[simp] theorem State.setGroup_cxlLines (s : State) (k : Nat) (g : Group) : (s.setGroup k g).cxlLines = s.cxlLines := rfl
@[simp] theorem State.setGroup_snoops (s : State) (k : Nat) (g : Group) : (s.setGroup k g).snoops = s.snoops := rfl
@[simp] theorem State.setGroup_faultIn (s : State) (k : Nat) (g : Group) : (s.setGroup k g).faultIn = s.faultIn := rfl
@[simp] theorem State.setGroup_gleanPart (s : State) (k : Nat) (g : Group) : (s.setGroup k g).gleanPart = s.gleanPart := rfl
@[simp] theorem State.setGroup_shardMap (s : State) (k : Nat) (g : Group) : (s.setGroup k g).shardMap = s.shardMap := rfl
@[simp] theorem State.setGroup_fieldMap (s : State) (k : Nat) (g : Group) : (s.setGroup k g).fieldMap = s.fieldMap := rfl
@[simp] theorem State.setGroup_services (s : State) (k : Nat) (g : Group) : (s.setGroup k g).services = s.services := rfl
@[simp] theorem State.setGroup_leases (s : State) (k : Nat) (g : Group) : (s.setGroup k g).leases = s.leases := rfl
@[simp] theorem State.setGroup_installs (s : State) (k : Nat) (g : Group) : (s.setGroup k g).installs = s.installs := rfl
@[simp] theorem State.setGroup_freeFrames (s : State) (k : Nat) (g : Group) : (s.setGroup k g).freeFrames = s.freeFrames := rfl
@[simp] theorem State.setGroup_seals (s : State) (k : Nat) (g : Group) : (s.setGroup k g).seals = s.seals := rfl
@[simp] theorem State.setGroup_fills (s : State) (k : Nat) (g : Group) : (s.setGroup k g).fills = s.fills := rfl
@[simp] theorem State.setGroup_calls (s : State) (k : Nat) (g : Group) : (s.setGroup k g).calls = s.calls := rfl
@[simp] theorem State.setGroup_tag (s : State) (k : Nat) (g : Group) : (s.setGroup k g).tag = s.tag := rfl
@[simp] theorem State.setGroup_watched (s : State) (k : Nat) (g : Group) : (s.setGroup k g).watched = s.watched := rfl
@[simp] theorem State.setGroup_incarnation (s : State) (k : Nat) (g : Group) : (s.setGroup k g).incarnation = s.incarnation := rfl
@[simp] theorem State.setGroup_hbSeq (s : State) (k : Nat) (g : Group) : (s.setGroup k g).hbSeq = s.hbSeq := rfl
@[simp] theorem State.setGroup_hbLast (s : State) (k : Nat) (g : Group) : (s.setGroup k g).hbLast = s.hbLast := rfl
@[simp] theorem State.setGroup_hbStopped (s : State) (k : Nat) (g : Group) : (s.setGroup k g).hbStopped = s.hbStopped := rfl
@[simp] theorem State.setGroup_periods (s : State) (k : Nat) (g : Group) : (s.setGroup k g).periods = s.periods := rfl
@[simp] theorem State.setGroup_recovery (s : State) (k : Nat) (g : Group) : (s.setGroup k g).recovery = s.recovery := rfl
@[simp] theorem State.setGroup_job (s : State) (k : Nat) (g : Group) : (s.setGroup k g).job = s.job := rfl
@[simp] theorem State.setGroup_kept (s : State) (k : Nat) (g : Group) : (s.setGroup k g).kept = s.kept := rfl
@[simp] theorem State.setGroup_jobScope (s : State) (k : Nat) (g : Group) : (s.setGroup k g).jobScope = s.jobScope := rfl
@[simp] theorem State.setGroup_drained (s : State) (k : Nat) (g : Group) : (s.setGroup k g).drained = s.drained := rfl
@[simp] theorem State.setGroup_draining (s : State) (k : Nat) (g : Group) : (s.setGroup k g).draining = s.draining := rfl
@[simp] theorem State.setGroup_link (s : State) (k : Nat) (g : Group) : (s.setGroup k g).link = s.link := rfl
@[simp] theorem State.setGroup_scaleup (s : State) (k : Nat) (g : Group) : (s.setGroup k g).scaleup = s.scaleup := rfl
@[simp] theorem State.setGroup_power (s : State) (k : Nat) (g : Group) : (s.setGroup k g).power = s.power := rfl
@[simp] theorem State.setGroup_bootStep (s : State) (k : Nat) (g : Group) : (s.setGroup k g).bootStep = s.bootStep := rfl
@[simp] theorem State.setGroup_bootSince (s : State) (k : Nat) (g : Group) : (s.setGroup k g).bootSince = s.bootSince := rfl
@[simp] theorem State.setGroup_pwrEn (s : State) (k : Nat) (g : Group) : (s.setGroup k g).pwrEn = s.pwrEn := rfl
@[simp] theorem State.setGroup_slotStrap (s : State) (k : Nat) (g : Group) : (s.setGroup k g).slotStrap = s.slotStrap := rfl
@[simp] theorem State.setGroup_stretch (s : State) (k : Nat) (g : Group) : (s.setGroup k g).stretch = s.stretch := rfl
@[simp] theorem State.setGroup_idStore (s : State) (k : Nat) (g : Group) : (s.setGroup k g).idStore = s.idStore := rfl
@[simp] theorem State.setGroup_i3c (s : State) (k : Nat) (g : Group) : (s.setGroup k g).i3c = s.i3c := rfl
@[simp] theorem State.setGroup_hdm (s : State) (k : Nat) (g : Group) : (s.setGroup k g).hdm = s.hdm := rfl
@[simp] theorem State.setGroup_mirrorBad (s : State) (k : Nat) (g : Group) : (s.setGroup k g).mirrorBad = s.mirrorBad := rfl
@[simp] theorem State.setGroup_vfOn (s : State) (k : Nat) (g : Group) : (s.setGroup k g).vfOn = s.vfOn := rfl
@[simp] theorem State.setGroup_snoopTime (s : State) (k : Nat) (g : Group) : (s.setGroup k g).snoopTime = s.snoopTime := rfl
@[simp] theorem State.setGroup_hostVia (s : State) (k : Nat) (g : Group) : (s.setGroup k g).hostVia = s.hostVia := rfl
@[simp] theorem State.setGroup_msiPend (s : State) (k : Nat) (g : Group) : (s.setGroup k g).msiPend = s.msiPend := rfl
@[simp] theorem State.setGroup_keys (s : State) (k : Nat) (g : Group) : (s.setGroup k g).keys = s.keys := rfl
@[simp] theorem State.setGroup_flash (s : State) (k : Nat) (g : Group) : (s.setGroup k g).flash = s.flash := rfl
@[simp] theorem State.setGroup_stewards (s : State) (k : Nat) (g : Group) : (s.setGroup k g).stewards = s.stewards := rfl
@[simp] theorem State.setGroup_ptp (s : State) (k : Nat) (g : Group) : (s.setGroup k g).ptp = s.ptp := rfl
@[simp] theorem State.setGroup_corrected (s : State) (k : Nat) (g : Group) : (s.setGroup k g).corrected = s.corrected := rfl
@[simp] theorem State.setGroup_shadowRetries (s : State) (k : Nat) (g : Group) : (s.setGroup k g).shadowRetries = s.shadowRetries := rfl
@[simp] theorem State.setGroup_fencedOut (s : State) (k : Nat) (g : Group) : (s.setGroup k g).fencedOut = s.fencedOut := rfl

/-! ### State.modGroup -/

@[simp] theorem State.modGroup_agenda (s : State) (k : Nat) (f : Group → Group) : (s.modGroup k f).agenda = s.agenda := rfl
@[simp] theorem State.modGroup_cur (s : State) (k : Nat) (f : Group → Group) : (s.modGroup k f).cur = s.cur := rfl
@[simp] theorem State.modGroup_freeCount (s : State) (k : Nat) (f : Group → Group) : (s.modGroup k f).freeCount = s.freeCount := rfl
@[simp] theorem State.modGroup_shadow (s : State) (k : Nat) (f : Group → Group) : (s.modGroup k f).shadow = s.shadow := rfl
@[simp] theorem State.modGroup_nextId (s : State) (k : Nat) (f : Group → Group) : (s.modGroup k f).nextId = s.nextId := rfl
@[simp] theorem State.modGroup_slots (s : State) (k : Nat) (f : Group → Group) : (s.modGroup k f).slots = s.slots := rfl
@[simp] theorem State.modGroup_cycle (s : State) (k : Nat) (f : Group → Group) : (s.modGroup k f).cycle = s.cycle := rfl
@[simp] theorem State.modGroup_gtime (s : State) (k : Nat) (f : Group → Group) : (s.modGroup k f).gtime = s.gtime := rfl
@[simp] theorem State.modGroup_syncErr (s : State) (k : Nat) (f : Group → Group) : (s.modGroup k f).syncErr = s.syncErr := rfl
@[simp] theorem State.modGroup_timeBad (s : State) (k : Nat) (f : Group → Group) : (s.modGroup k f).timeBad = s.timeBad := rfl
@[simp] theorem State.modGroup_safeSince (s : State) (k : Nat) (f : Group → Group) : (s.modGroup k f).safeSince = s.safeSince := rfl
@[simp] theorem State.modGroup_mem (s : State) (k : Nat) (f : Group → Group) : (s.modGroup k f).mem = s.mem := rfl
@[simp] theorem State.modGroup_poison (s : State) (k : Nat) (f : Group → Group) : (s.modGroup k f).poison = s.poison := rfl
@[simp] theorem State.modGroup_scrubSeen (s : State) (k : Nat) (f : Group → Group) : (s.modGroup k f).scrubSeen = s.scrubSeen := rfl
@[simp] theorem State.modGroup_retired (s : State) (k : Nat) (f : Group → Group) : (s.modGroup k f).retired = s.retired := rfl
@[simp] theorem State.modGroup_consumed (s : State) (k : Nat) (f : Group → Group) : (s.modGroup k f).consumed = s.consumed := rfl
@[simp] theorem State.modGroup_dirty (s : State) (k : Nat) (f : Group → Group) : (s.modGroup k f).dirty = s.dirty := rfl
@[simp] theorem State.modGroup_frame (s : State) (k : Nat) (f : Group → Group) : (s.modGroup k f).frame = s.frame := rfl
@[simp] theorem State.modGroup_aliasBits (s : State) (k : Nat) (f : Group → Group) : (s.modGroup k f).aliasBits = s.aliasBits := rfl
@[simp] theorem State.modGroup_hostSt (s : State) (k : Nat) (f : Group → Group) : (s.modGroup k f).hostSt = s.hostSt := rfl
@[simp] theorem State.modGroup_recalls (s : State) (k : Nat) (f : Group → Group) : (s.modGroup k f).recalls = s.recalls := rfl
@[simp] theorem State.modGroup_counted (s : State) (k : Nat) (f : Group → Group) : (s.modGroup k f).counted = s.counted := rfl
@[simp] theorem State.modGroup_countedData (s : State) (k : Nat) (f : Group → Group) : (s.modGroup k f).countedData = s.countedData := rfl
@[simp] theorem State.modGroup_dir (s : State) (k : Nat) (f : Group → Group) : (s.modGroup k f).dir = s.dir := rfl
@[simp] theorem State.modGroup_tableWrites (s : State) (k : Nat) (f : Group → Group) : (s.modGroup k f).tableWrites = s.tableWrites := rfl
@[simp] theorem State.modGroup_sealed (s : State) (k : Nat) (f : Group → Group) : (s.modGroup k f).sealed = s.sealed := rfl
@[simp] theorem State.modGroup_dieClock (s : State) (k : Nat) (f : Group → Group) : (s.modGroup k f).dieClock = s.dieClock := rfl
@[simp] theorem State.modGroup_homeClock (s : State) (k : Nat) (f : Group → Group) : (s.modGroup k f).homeClock = s.homeClock := rfl
@[simp] theorem State.modGroup_fabric (s : State) (k : Nat) (f : Group → Group) : (s.modGroup k f).fabric = s.fabric := rfl
@[simp] theorem State.modGroup_results (s : State) (k : Nat) (f : Group → Group) : (s.modGroup k f).results = s.results := rfl
@[simp] theorem State.modGroup_pendings (s : State) (k : Nat) (f : Group → Group) : (s.modGroup k f).pendings = s.pendings := rfl
@[simp] theorem State.modGroup_fences (s : State) (k : Nat) (f : Group → Group) : (s.modGroup k f).fences = s.fences := rfl
@[simp] theorem State.modGroup_sends (s : State) (k : Nat) (f : Group → Group) : (s.modGroup k f).sends = s.sends := rfl
@[simp] theorem State.modGroup_desc (s : State) (k : Nat) (f : Group → Group) : (s.modGroup k f).desc = s.desc := rfl
@[simp] theorem State.modGroup_part (s : State) (k : Nat) (f : Group → Group) : (s.modGroup k f).part = s.part := rfl
@[simp] theorem State.modGroup_tabQueue (s : State) (k : Nat) (f : Group → Group) : (s.modGroup k f).tabQueue = s.tabQueue := rfl
@[simp] theorem State.modGroup_tabRing (s : State) (k : Nat) (f : Group → Group) : (s.modGroup k f).tabRing = s.tabRing := rfl
@[simp] theorem State.modGroup_tabPool (s : State) (k : Nat) (f : Group → Group) : (s.modGroup k f).tabPool = s.tabPool := rfl
@[simp] theorem State.modGroup_ring (s : State) (k : Nat) (f : Group → Group) : (s.modGroup k f).ring = s.ring := rfl
@[simp] theorem State.modGroup_pool (s : State) (k : Nat) (f : Group → Group) : (s.modGroup k f).pool = s.pool := rfl
@[simp] theorem State.modGroup_bufOwner (s : State) (k : Nat) (f : Group → Group) : (s.modGroup k f).bufOwner = s.bufOwner := rfl
@[simp] theorem State.modGroup_sysQueue (s : State) (k : Nat) (f : Group → Group) : (s.modGroup k f).sysQueue = s.sysQueue := rfl
@[simp] theorem State.modGroup_migQueue (s : State) (k : Nat) (f : Group → Group) : (s.modGroup k f).migQueue = s.migQueue := rfl
@[simp] theorem State.modGroup_seqLost (s : State) (k : Nat) (f : Group → Group) : (s.modGroup k f).seqLost = s.seqLost := rfl
@[simp] theorem State.modGroup_migOvf (s : State) (k : Nat) (f : Group → Group) : (s.modGroup k f).migOvf = s.migOvf := rfl
@[simp] theorem State.modGroup_msi (s : State) (k : Nat) (f : Group → Group) : (s.modGroup k f).msi = s.msi := rfl
@[simp] theorem State.modGroup_resets (s : State) (k : Nat) (f : Group → Group) : (s.modGroup k f).resets = s.resets := rfl
@[simp] theorem State.modGroup_armed (s : State) (k : Nat) (f : Group → Group) : (s.modGroup k f).armed = s.armed := rfl
@[simp] theorem State.modGroup_cmdOut (s : State) (k : Nat) (f : Group → Group) : (s.modGroup k f).cmdOut = s.cmdOut := rfl
@[simp] theorem State.modGroup_cmdWait (s : State) (k : Nat) (f : Group → Group) : (s.modGroup k f).cmdWait = s.cmdWait := rfl
@[simp] theorem State.modGroup_rootPend (s : State) (k : Nat) (f : Group → Group) : (s.modGroup k f).rootPend = s.rootPend := rfl
@[simp] theorem State.modGroup_queue (s : State) (k : Nat) (f : Group → Group) : (s.modGroup k f).queue = s.queue := rfl
@[simp] theorem State.modGroup_grids (s : State) (k : Nat) (f : Group → Group) : (s.modGroup k f).grids = s.grids := rfl
@[simp] theorem State.modGroup_clusters (s : State) (k : Nat) (f : Group → Group) : (s.modGroup k f).clusters = s.clusters := rfl
@[simp] theorem State.modGroup_teams (s : State) (k : Nat) (f : Group → Group) : (s.modGroup k f).teams = s.teams := rfl
@[simp] theorem State.modGroup_ob (s : State) (k : Nat) (f : Group → Group) : (s.modGroup k f).ob = s.ob := rfl
@[simp] theorem State.modGroup_obMem (s : State) (k : Nat) (f : Group → Group) : (s.modGroup k f).obMem = s.obMem := rfl
@[simp] theorem State.modGroup_acc (s : State) (k : Nat) (f : Group → Group) : (s.modGroup k f).acc = s.acc := rfl
@[simp] theorem State.modGroup_obBad (s : State) (k : Nat) (f : Group → Group) : (s.modGroup k f).obBad = s.obBad := rfl
@[simp] theorem State.modGroup_accBad (s : State) (k : Nat) (f : Group → Group) : (s.modGroup k f).accBad = s.accBad := rfl
@[simp] theorem State.modGroup_banks (s : State) (k : Nat) (f : Group → Group) : (s.modGroup k f).banks = s.banks := rfl
@[simp] theorem State.modGroup_accReqs (s : State) (k : Nat) (f : Group → Group) : (s.modGroup k f).accReqs = s.accReqs := rfl
@[simp] theorem State.modGroup_furrows (s : State) (k : Nat) (f : Group → Group) : (s.modGroup k f).furrows = s.furrows := rfl
@[simp] theorem State.modGroup_gated (s : State) (k : Nat) (f : Group → Group) : (s.modGroup k f).gated = s.gated := rfl
@[simp] theorem State.modGroup_halted (s : State) (k : Nat) (f : Group → Group) : (s.modGroup k f).halted = s.halted := rfl
@[simp] theorem State.modGroup_tlb (s : State) (k : Nat) (f : Group → Group) : (s.modGroup k f).tlb = s.tlb := rfl
@[simp] theorem State.modGroup_fmt (s : State) (k : Nat) (f : Group → Group) : (s.modGroup k f).fmt = s.fmt := rfl
@[simp] theorem State.modGroup_ringWait (s : State) (k : Nat) (f : Group → Group) : (s.modGroup k f).ringWait = s.ringWait := rfl
@[simp] theorem State.modGroup_represent (s : State) (k : Nat) (f : Group → Group) : (s.modGroup k f).represent = s.represent := rfl
@[simp] theorem State.modGroup_cxlLines (s : State) (k : Nat) (f : Group → Group) : (s.modGroup k f).cxlLines = s.cxlLines := rfl
@[simp] theorem State.modGroup_snoops (s : State) (k : Nat) (f : Group → Group) : (s.modGroup k f).snoops = s.snoops := rfl
@[simp] theorem State.modGroup_faultIn (s : State) (k : Nat) (f : Group → Group) : (s.modGroup k f).faultIn = s.faultIn := rfl
@[simp] theorem State.modGroup_gleanPart (s : State) (k : Nat) (f : Group → Group) : (s.modGroup k f).gleanPart = s.gleanPart := rfl
@[simp] theorem State.modGroup_shardMap (s : State) (k : Nat) (f : Group → Group) : (s.modGroup k f).shardMap = s.shardMap := rfl
@[simp] theorem State.modGroup_fieldMap (s : State) (k : Nat) (f : Group → Group) : (s.modGroup k f).fieldMap = s.fieldMap := rfl
@[simp] theorem State.modGroup_services (s : State) (k : Nat) (f : Group → Group) : (s.modGroup k f).services = s.services := rfl
@[simp] theorem State.modGroup_leases (s : State) (k : Nat) (f : Group → Group) : (s.modGroup k f).leases = s.leases := rfl
@[simp] theorem State.modGroup_installs (s : State) (k : Nat) (f : Group → Group) : (s.modGroup k f).installs = s.installs := rfl
@[simp] theorem State.modGroup_freeFrames (s : State) (k : Nat) (f : Group → Group) : (s.modGroup k f).freeFrames = s.freeFrames := rfl
@[simp] theorem State.modGroup_seals (s : State) (k : Nat) (f : Group → Group) : (s.modGroup k f).seals = s.seals := rfl
@[simp] theorem State.modGroup_fills (s : State) (k : Nat) (f : Group → Group) : (s.modGroup k f).fills = s.fills := rfl
@[simp] theorem State.modGroup_calls (s : State) (k : Nat) (f : Group → Group) : (s.modGroup k f).calls = s.calls := rfl
@[simp] theorem State.modGroup_tag (s : State) (k : Nat) (f : Group → Group) : (s.modGroup k f).tag = s.tag := rfl
@[simp] theorem State.modGroup_watched (s : State) (k : Nat) (f : Group → Group) : (s.modGroup k f).watched = s.watched := rfl
@[simp] theorem State.modGroup_incarnation (s : State) (k : Nat) (f : Group → Group) : (s.modGroup k f).incarnation = s.incarnation := rfl
@[simp] theorem State.modGroup_hbSeq (s : State) (k : Nat) (f : Group → Group) : (s.modGroup k f).hbSeq = s.hbSeq := rfl
@[simp] theorem State.modGroup_hbLast (s : State) (k : Nat) (f : Group → Group) : (s.modGroup k f).hbLast = s.hbLast := rfl
@[simp] theorem State.modGroup_hbStopped (s : State) (k : Nat) (f : Group → Group) : (s.modGroup k f).hbStopped = s.hbStopped := rfl
@[simp] theorem State.modGroup_periods (s : State) (k : Nat) (f : Group → Group) : (s.modGroup k f).periods = s.periods := rfl
@[simp] theorem State.modGroup_recovery (s : State) (k : Nat) (f : Group → Group) : (s.modGroup k f).recovery = s.recovery := rfl
@[simp] theorem State.modGroup_job (s : State) (k : Nat) (f : Group → Group) : (s.modGroup k f).job = s.job := rfl
@[simp] theorem State.modGroup_kept (s : State) (k : Nat) (f : Group → Group) : (s.modGroup k f).kept = s.kept := rfl
@[simp] theorem State.modGroup_jobScope (s : State) (k : Nat) (f : Group → Group) : (s.modGroup k f).jobScope = s.jobScope := rfl
@[simp] theorem State.modGroup_drained (s : State) (k : Nat) (f : Group → Group) : (s.modGroup k f).drained = s.drained := rfl
@[simp] theorem State.modGroup_draining (s : State) (k : Nat) (f : Group → Group) : (s.modGroup k f).draining = s.draining := rfl
@[simp] theorem State.modGroup_link (s : State) (k : Nat) (f : Group → Group) : (s.modGroup k f).link = s.link := rfl
@[simp] theorem State.modGroup_scaleup (s : State) (k : Nat) (f : Group → Group) : (s.modGroup k f).scaleup = s.scaleup := rfl
@[simp] theorem State.modGroup_power (s : State) (k : Nat) (f : Group → Group) : (s.modGroup k f).power = s.power := rfl
@[simp] theorem State.modGroup_bootStep (s : State) (k : Nat) (f : Group → Group) : (s.modGroup k f).bootStep = s.bootStep := rfl
@[simp] theorem State.modGroup_bootSince (s : State) (k : Nat) (f : Group → Group) : (s.modGroup k f).bootSince = s.bootSince := rfl
@[simp] theorem State.modGroup_pwrEn (s : State) (k : Nat) (f : Group → Group) : (s.modGroup k f).pwrEn = s.pwrEn := rfl
@[simp] theorem State.modGroup_slotStrap (s : State) (k : Nat) (f : Group → Group) : (s.modGroup k f).slotStrap = s.slotStrap := rfl
@[simp] theorem State.modGroup_stretch (s : State) (k : Nat) (f : Group → Group) : (s.modGroup k f).stretch = s.stretch := rfl
@[simp] theorem State.modGroup_idStore (s : State) (k : Nat) (f : Group → Group) : (s.modGroup k f).idStore = s.idStore := rfl
@[simp] theorem State.modGroup_i3c (s : State) (k : Nat) (f : Group → Group) : (s.modGroup k f).i3c = s.i3c := rfl
@[simp] theorem State.modGroup_hdm (s : State) (k : Nat) (f : Group → Group) : (s.modGroup k f).hdm = s.hdm := rfl
@[simp] theorem State.modGroup_mirrorBad (s : State) (k : Nat) (f : Group → Group) : (s.modGroup k f).mirrorBad = s.mirrorBad := rfl
@[simp] theorem State.modGroup_vfOn (s : State) (k : Nat) (f : Group → Group) : (s.modGroup k f).vfOn = s.vfOn := rfl
@[simp] theorem State.modGroup_snoopTime (s : State) (k : Nat) (f : Group → Group) : (s.modGroup k f).snoopTime = s.snoopTime := rfl
@[simp] theorem State.modGroup_hostVia (s : State) (k : Nat) (f : Group → Group) : (s.modGroup k f).hostVia = s.hostVia := rfl
@[simp] theorem State.modGroup_msiPend (s : State) (k : Nat) (f : Group → Group) : (s.modGroup k f).msiPend = s.msiPend := rfl
@[simp] theorem State.modGroup_keys (s : State) (k : Nat) (f : Group → Group) : (s.modGroup k f).keys = s.keys := rfl
@[simp] theorem State.modGroup_flash (s : State) (k : Nat) (f : Group → Group) : (s.modGroup k f).flash = s.flash := rfl
@[simp] theorem State.modGroup_stewards (s : State) (k : Nat) (f : Group → Group) : (s.modGroup k f).stewards = s.stewards := rfl
@[simp] theorem State.modGroup_ptp (s : State) (k : Nat) (f : Group → Group) : (s.modGroup k f).ptp = s.ptp := rfl
@[simp] theorem State.modGroup_corrected (s : State) (k : Nat) (f : Group → Group) : (s.modGroup k f).corrected = s.corrected := rfl
@[simp] theorem State.modGroup_shadowRetries (s : State) (k : Nat) (f : Group → Group) : (s.modGroup k f).shadowRetries = s.shadowRetries := rfl
@[simp] theorem State.modGroup_fencedOut (s : State) (k : Nat) (f : Group → Group) : (s.modGroup k f).fencedOut = s.fencedOut := rfl

/-! ### State.charge -/

@[simp] theorem State.charge_agenda (s : State) (g : Group) : (s.charge g).agenda = s.agenda := rfl
@[simp] theorem State.charge_cur (s : State) (g : Group) : (s.charge g).cur = s.cur := rfl
@[simp] theorem State.charge_freeCount (s : State) (g : Group) : (s.charge g).freeCount = s.freeCount := rfl
@[simp] theorem State.charge_shadow (s : State) (g : Group) : (s.charge g).shadow = s.shadow := rfl
@[simp] theorem State.charge_nextId (s : State) (g : Group) : (s.charge g).nextId = s.nextId := rfl
@[simp] theorem State.charge_slots (s : State) (g : Group) : (s.charge g).slots = s.slots := rfl
@[simp] theorem State.charge_cycle (s : State) (g : Group) : (s.charge g).cycle = s.cycle := rfl
@[simp] theorem State.charge_gtime (s : State) (g : Group) : (s.charge g).gtime = s.gtime := rfl
@[simp] theorem State.charge_syncErr (s : State) (g : Group) : (s.charge g).syncErr = s.syncErr := rfl
@[simp] theorem State.charge_timeBad (s : State) (g : Group) : (s.charge g).timeBad = s.timeBad := rfl
@[simp] theorem State.charge_safeSince (s : State) (g : Group) : (s.charge g).safeSince = s.safeSince := rfl
@[simp] theorem State.charge_mem (s : State) (g : Group) : (s.charge g).mem = s.mem := rfl
@[simp] theorem State.charge_poison (s : State) (g : Group) : (s.charge g).poison = s.poison := rfl
@[simp] theorem State.charge_scrubSeen (s : State) (g : Group) : (s.charge g).scrubSeen = s.scrubSeen := rfl
@[simp] theorem State.charge_retired (s : State) (g : Group) : (s.charge g).retired = s.retired := rfl
@[simp] theorem State.charge_consumed (s : State) (g : Group) : (s.charge g).consumed = s.consumed := rfl
@[simp] theorem State.charge_dirty (s : State) (g : Group) : (s.charge g).dirty = s.dirty := rfl
@[simp] theorem State.charge_frame (s : State) (g : Group) : (s.charge g).frame = s.frame := rfl
@[simp] theorem State.charge_aliasBits (s : State) (g : Group) : (s.charge g).aliasBits = s.aliasBits := rfl
@[simp] theorem State.charge_hostSt (s : State) (g : Group) : (s.charge g).hostSt = s.hostSt := rfl
@[simp] theorem State.charge_recalls (s : State) (g : Group) : (s.charge g).recalls = s.recalls := rfl
@[simp] theorem State.charge_counted (s : State) (g : Group) : (s.charge g).counted = s.counted := rfl
@[simp] theorem State.charge_countedData (s : State) (g : Group) : (s.charge g).countedData = s.countedData := rfl
@[simp] theorem State.charge_dir (s : State) (g : Group) : (s.charge g).dir = s.dir := rfl
@[simp] theorem State.charge_tableWrites (s : State) (g : Group) : (s.charge g).tableWrites = s.tableWrites := rfl
@[simp] theorem State.charge_sealed (s : State) (g : Group) : (s.charge g).sealed = s.sealed := rfl
@[simp] theorem State.charge_dieClock (s : State) (g : Group) : (s.charge g).dieClock = s.dieClock := rfl
@[simp] theorem State.charge_homeClock (s : State) (g : Group) : (s.charge g).homeClock = s.homeClock := rfl
@[simp] theorem State.charge_fabric (s : State) (g : Group) : (s.charge g).fabric = s.fabric := rfl
@[simp] theorem State.charge_results (s : State) (g : Group) : (s.charge g).results = s.results := rfl
@[simp] theorem State.charge_pendings (s : State) (g : Group) : (s.charge g).pendings = s.pendings := rfl
@[simp] theorem State.charge_fences (s : State) (g : Group) : (s.charge g).fences = s.fences := rfl
@[simp] theorem State.charge_sends (s : State) (g : Group) : (s.charge g).sends = s.sends := rfl
@[simp] theorem State.charge_desc (s : State) (g : Group) : (s.charge g).desc = s.desc := rfl
@[simp] theorem State.charge_part (s : State) (g : Group) : (s.charge g).part = s.part := rfl
@[simp] theorem State.charge_tabQueue (s : State) (g : Group) : (s.charge g).tabQueue = s.tabQueue := rfl
@[simp] theorem State.charge_tabRing (s : State) (g : Group) : (s.charge g).tabRing = s.tabRing := rfl
@[simp] theorem State.charge_tabPool (s : State) (g : Group) : (s.charge g).tabPool = s.tabPool := rfl
@[simp] theorem State.charge_ring (s : State) (g : Group) : (s.charge g).ring = s.ring := rfl
@[simp] theorem State.charge_pool (s : State) (g : Group) : (s.charge g).pool = s.pool := rfl
@[simp] theorem State.charge_bufOwner (s : State) (g : Group) : (s.charge g).bufOwner = s.bufOwner := rfl
@[simp] theorem State.charge_sysQueue (s : State) (g : Group) : (s.charge g).sysQueue = s.sysQueue := rfl
@[simp] theorem State.charge_migQueue (s : State) (g : Group) : (s.charge g).migQueue = s.migQueue := rfl
@[simp] theorem State.charge_seqLost (s : State) (g : Group) : (s.charge g).seqLost = s.seqLost := rfl
@[simp] theorem State.charge_migOvf (s : State) (g : Group) : (s.charge g).migOvf = s.migOvf := rfl
@[simp] theorem State.charge_msi (s : State) (g : Group) : (s.charge g).msi = s.msi := rfl
@[simp] theorem State.charge_resets (s : State) (g : Group) : (s.charge g).resets = s.resets := rfl
@[simp] theorem State.charge_armed (s : State) (g : Group) : (s.charge g).armed = s.armed := rfl
@[simp] theorem State.charge_cmdOut (s : State) (g : Group) : (s.charge g).cmdOut = s.cmdOut := rfl
@[simp] theorem State.charge_cmdWait (s : State) (g : Group) : (s.charge g).cmdWait = s.cmdWait := rfl
@[simp] theorem State.charge_rootPend (s : State) (g : Group) : (s.charge g).rootPend = s.rootPend := rfl
@[simp] theorem State.charge_queue (s : State) (g : Group) : (s.charge g).queue = s.queue := rfl
@[simp] theorem State.charge_clusters (s : State) (g : Group) : (s.charge g).clusters = s.clusters := rfl
@[simp] theorem State.charge_teams (s : State) (g : Group) : (s.charge g).teams = s.teams := rfl
@[simp] theorem State.charge_groups (s : State) (g : Group) : (s.charge g).groups = s.groups := rfl
@[simp] theorem State.charge_ob (s : State) (g : Group) : (s.charge g).ob = s.ob := rfl
@[simp] theorem State.charge_obMem (s : State) (g : Group) : (s.charge g).obMem = s.obMem := rfl
@[simp] theorem State.charge_acc (s : State) (g : Group) : (s.charge g).acc = s.acc := rfl
@[simp] theorem State.charge_obBad (s : State) (g : Group) : (s.charge g).obBad = s.obBad := rfl
@[simp] theorem State.charge_accBad (s : State) (g : Group) : (s.charge g).accBad = s.accBad := rfl
@[simp] theorem State.charge_banks (s : State) (g : Group) : (s.charge g).banks = s.banks := rfl
@[simp] theorem State.charge_accReqs (s : State) (g : Group) : (s.charge g).accReqs = s.accReqs := rfl
@[simp] theorem State.charge_furrows (s : State) (g : Group) : (s.charge g).furrows = s.furrows := rfl
@[simp] theorem State.charge_gated (s : State) (g : Group) : (s.charge g).gated = s.gated := rfl
@[simp] theorem State.charge_halted (s : State) (g : Group) : (s.charge g).halted = s.halted := rfl
@[simp] theorem State.charge_tlb (s : State) (g : Group) : (s.charge g).tlb = s.tlb := rfl
@[simp] theorem State.charge_fmt (s : State) (g : Group) : (s.charge g).fmt = s.fmt := rfl
@[simp] theorem State.charge_ringWait (s : State) (g : Group) : (s.charge g).ringWait = s.ringWait := rfl
@[simp] theorem State.charge_represent (s : State) (g : Group) : (s.charge g).represent = s.represent := rfl
@[simp] theorem State.charge_cxlLines (s : State) (g : Group) : (s.charge g).cxlLines = s.cxlLines := rfl
@[simp] theorem State.charge_snoops (s : State) (g : Group) : (s.charge g).snoops = s.snoops := rfl
@[simp] theorem State.charge_faultIn (s : State) (g : Group) : (s.charge g).faultIn = s.faultIn := rfl
@[simp] theorem State.charge_gleanPart (s : State) (g : Group) : (s.charge g).gleanPart = s.gleanPart := rfl
@[simp] theorem State.charge_shardMap (s : State) (g : Group) : (s.charge g).shardMap = s.shardMap := rfl
@[simp] theorem State.charge_fieldMap (s : State) (g : Group) : (s.charge g).fieldMap = s.fieldMap := rfl
@[simp] theorem State.charge_services (s : State) (g : Group) : (s.charge g).services = s.services := rfl
@[simp] theorem State.charge_leases (s : State) (g : Group) : (s.charge g).leases = s.leases := rfl
@[simp] theorem State.charge_installs (s : State) (g : Group) : (s.charge g).installs = s.installs := rfl
@[simp] theorem State.charge_freeFrames (s : State) (g : Group) : (s.charge g).freeFrames = s.freeFrames := rfl
@[simp] theorem State.charge_seals (s : State) (g : Group) : (s.charge g).seals = s.seals := rfl
@[simp] theorem State.charge_fills (s : State) (g : Group) : (s.charge g).fills = s.fills := rfl
@[simp] theorem State.charge_calls (s : State) (g : Group) : (s.charge g).calls = s.calls := rfl
@[simp] theorem State.charge_tag (s : State) (g : Group) : (s.charge g).tag = s.tag := rfl
@[simp] theorem State.charge_watched (s : State) (g : Group) : (s.charge g).watched = s.watched := rfl
@[simp] theorem State.charge_incarnation (s : State) (g : Group) : (s.charge g).incarnation = s.incarnation := rfl
@[simp] theorem State.charge_hbSeq (s : State) (g : Group) : (s.charge g).hbSeq = s.hbSeq := rfl
@[simp] theorem State.charge_hbLast (s : State) (g : Group) : (s.charge g).hbLast = s.hbLast := rfl
@[simp] theorem State.charge_hbStopped (s : State) (g : Group) : (s.charge g).hbStopped = s.hbStopped := rfl
@[simp] theorem State.charge_periods (s : State) (g : Group) : (s.charge g).periods = s.periods := rfl
@[simp] theorem State.charge_recovery (s : State) (g : Group) : (s.charge g).recovery = s.recovery := rfl
@[simp] theorem State.charge_job (s : State) (g : Group) : (s.charge g).job = s.job := rfl
@[simp] theorem State.charge_kept (s : State) (g : Group) : (s.charge g).kept = s.kept := rfl
@[simp] theorem State.charge_jobScope (s : State) (g : Group) : (s.charge g).jobScope = s.jobScope := rfl
@[simp] theorem State.charge_drained (s : State) (g : Group) : (s.charge g).drained = s.drained := rfl
@[simp] theorem State.charge_draining (s : State) (g : Group) : (s.charge g).draining = s.draining := rfl
@[simp] theorem State.charge_link (s : State) (g : Group) : (s.charge g).link = s.link := rfl
@[simp] theorem State.charge_scaleup (s : State) (g : Group) : (s.charge g).scaleup = s.scaleup := rfl
@[simp] theorem State.charge_power (s : State) (g : Group) : (s.charge g).power = s.power := rfl
@[simp] theorem State.charge_bootStep (s : State) (g : Group) : (s.charge g).bootStep = s.bootStep := rfl
@[simp] theorem State.charge_bootSince (s : State) (g : Group) : (s.charge g).bootSince = s.bootSince := rfl
@[simp] theorem State.charge_pwrEn (s : State) (g : Group) : (s.charge g).pwrEn = s.pwrEn := rfl
@[simp] theorem State.charge_slotStrap (s : State) (g : Group) : (s.charge g).slotStrap = s.slotStrap := rfl
@[simp] theorem State.charge_stretch (s : State) (g : Group) : (s.charge g).stretch = s.stretch := rfl
@[simp] theorem State.charge_idStore (s : State) (g : Group) : (s.charge g).idStore = s.idStore := rfl
@[simp] theorem State.charge_i3c (s : State) (g : Group) : (s.charge g).i3c = s.i3c := rfl
@[simp] theorem State.charge_hdm (s : State) (g : Group) : (s.charge g).hdm = s.hdm := rfl
@[simp] theorem State.charge_mirrorBad (s : State) (g : Group) : (s.charge g).mirrorBad = s.mirrorBad := rfl
@[simp] theorem State.charge_vfOn (s : State) (g : Group) : (s.charge g).vfOn = s.vfOn := rfl
@[simp] theorem State.charge_snoopTime (s : State) (g : Group) : (s.charge g).snoopTime = s.snoopTime := rfl
@[simp] theorem State.charge_hostVia (s : State) (g : Group) : (s.charge g).hostVia = s.hostVia := rfl
@[simp] theorem State.charge_msiPend (s : State) (g : Group) : (s.charge g).msiPend = s.msiPend := rfl
@[simp] theorem State.charge_keys (s : State) (g : Group) : (s.charge g).keys = s.keys := rfl
@[simp] theorem State.charge_flash (s : State) (g : Group) : (s.charge g).flash = s.flash := rfl
@[simp] theorem State.charge_stewards (s : State) (g : Group) : (s.charge g).stewards = s.stewards := rfl
@[simp] theorem State.charge_ptp (s : State) (g : Group) : (s.charge g).ptp = s.ptp := rfl
@[simp] theorem State.charge_corrected (s : State) (g : Group) : (s.charge g).corrected = s.corrected := rfl
@[simp] theorem State.charge_shadowRetries (s : State) (g : Group) : (s.charge g).shadowRetries = s.shadowRetries := rfl
@[simp] theorem State.charge_fencedOut (s : State) (g : Group) : (s.charge g).fencedOut = s.fencedOut := rfl

/-! ### State.retire -/

@[simp] theorem State.retire_agenda (s : State) (u : Cur) : (s.retire u).agenda = s.agenda := rfl
@[simp] theorem State.retire_freeCount (s : State) (u : Cur) : (s.retire u).freeCount = s.freeCount := rfl
@[simp] theorem State.retire_shadow (s : State) (u : Cur) : (s.retire u).shadow = s.shadow := rfl
@[simp] theorem State.retire_nextId (s : State) (u : Cur) : (s.retire u).nextId = s.nextId := rfl
@[simp] theorem State.retire_slots (s : State) (u : Cur) : (s.retire u).slots = s.slots := rfl
@[simp] theorem State.retire_cycle (s : State) (u : Cur) : (s.retire u).cycle = s.cycle := rfl
@[simp] theorem State.retire_gtime (s : State) (u : Cur) : (s.retire u).gtime = s.gtime := rfl
@[simp] theorem State.retire_syncErr (s : State) (u : Cur) : (s.retire u).syncErr = s.syncErr := rfl
@[simp] theorem State.retire_timeBad (s : State) (u : Cur) : (s.retire u).timeBad = s.timeBad := rfl
@[simp] theorem State.retire_safeSince (s : State) (u : Cur) : (s.retire u).safeSince = s.safeSince := rfl
@[simp] theorem State.retire_mem (s : State) (u : Cur) : (s.retire u).mem = s.mem := rfl
@[simp] theorem State.retire_poison (s : State) (u : Cur) : (s.retire u).poison = s.poison := rfl
@[simp] theorem State.retire_scrubSeen (s : State) (u : Cur) : (s.retire u).scrubSeen = s.scrubSeen := rfl
@[simp] theorem State.retire_retired (s : State) (u : Cur) : (s.retire u).retired = s.retired := rfl
@[simp] theorem State.retire_consumed (s : State) (u : Cur) : (s.retire u).consumed = s.consumed := rfl
@[simp] theorem State.retire_dirty (s : State) (u : Cur) : (s.retire u).dirty = s.dirty := rfl
@[simp] theorem State.retire_frame (s : State) (u : Cur) : (s.retire u).frame = s.frame := rfl
@[simp] theorem State.retire_aliasBits (s : State) (u : Cur) : (s.retire u).aliasBits = s.aliasBits := rfl
@[simp] theorem State.retire_hostSt (s : State) (u : Cur) : (s.retire u).hostSt = s.hostSt := rfl
@[simp] theorem State.retire_recalls (s : State) (u : Cur) : (s.retire u).recalls = s.recalls := rfl
@[simp] theorem State.retire_counted (s : State) (u : Cur) : (s.retire u).counted = s.counted := rfl
@[simp] theorem State.retire_countedData (s : State) (u : Cur) : (s.retire u).countedData = s.countedData := rfl
@[simp] theorem State.retire_dir (s : State) (u : Cur) : (s.retire u).dir = s.dir := rfl
@[simp] theorem State.retire_tableWrites (s : State) (u : Cur) : (s.retire u).tableWrites = s.tableWrites := rfl
@[simp] theorem State.retire_sealed (s : State) (u : Cur) : (s.retire u).sealed = s.sealed := rfl
@[simp] theorem State.retire_dieClock (s : State) (u : Cur) : (s.retire u).dieClock = s.dieClock := rfl
@[simp] theorem State.retire_homeClock (s : State) (u : Cur) : (s.retire u).homeClock = s.homeClock := rfl
@[simp] theorem State.retire_fabric (s : State) (u : Cur) : (s.retire u).fabric = s.fabric := rfl
@[simp] theorem State.retire_results (s : State) (u : Cur) : (s.retire u).results = s.results := rfl
@[simp] theorem State.retire_pendings (s : State) (u : Cur) : (s.retire u).pendings = s.pendings := rfl
@[simp] theorem State.retire_fences (s : State) (u : Cur) : (s.retire u).fences = s.fences := rfl
@[simp] theorem State.retire_sends (s : State) (u : Cur) : (s.retire u).sends = s.sends := rfl
@[simp] theorem State.retire_desc (s : State) (u : Cur) : (s.retire u).desc = s.desc := rfl
@[simp] theorem State.retire_part (s : State) (u : Cur) : (s.retire u).part = s.part := rfl
@[simp] theorem State.retire_tabQueue (s : State) (u : Cur) : (s.retire u).tabQueue = s.tabQueue := rfl
@[simp] theorem State.retire_tabRing (s : State) (u : Cur) : (s.retire u).tabRing = s.tabRing := rfl
@[simp] theorem State.retire_tabPool (s : State) (u : Cur) : (s.retire u).tabPool = s.tabPool := rfl
@[simp] theorem State.retire_ring (s : State) (u : Cur) : (s.retire u).ring = s.ring := rfl
@[simp] theorem State.retire_pool (s : State) (u : Cur) : (s.retire u).pool = s.pool := rfl
@[simp] theorem State.retire_bufOwner (s : State) (u : Cur) : (s.retire u).bufOwner = s.bufOwner := rfl
@[simp] theorem State.retire_sysQueue (s : State) (u : Cur) : (s.retire u).sysQueue = s.sysQueue := rfl
@[simp] theorem State.retire_migQueue (s : State) (u : Cur) : (s.retire u).migQueue = s.migQueue := rfl
@[simp] theorem State.retire_seqLost (s : State) (u : Cur) : (s.retire u).seqLost = s.seqLost := rfl
@[simp] theorem State.retire_migOvf (s : State) (u : Cur) : (s.retire u).migOvf = s.migOvf := rfl
@[simp] theorem State.retire_msi (s : State) (u : Cur) : (s.retire u).msi = s.msi := rfl
@[simp] theorem State.retire_resets (s : State) (u : Cur) : (s.retire u).resets = s.resets := rfl
@[simp] theorem State.retire_armed (s : State) (u : Cur) : (s.retire u).armed = s.armed := rfl
@[simp] theorem State.retire_cmdOut (s : State) (u : Cur) : (s.retire u).cmdOut = s.cmdOut := rfl
@[simp] theorem State.retire_cmdWait (s : State) (u : Cur) : (s.retire u).cmdWait = s.cmdWait := rfl
@[simp] theorem State.retire_rootPend (s : State) (u : Cur) : (s.retire u).rootPend = s.rootPend := rfl
@[simp] theorem State.retire_queue (s : State) (u : Cur) : (s.retire u).queue = s.queue := rfl
@[simp] theorem State.retire_grids (s : State) (u : Cur) : (s.retire u).grids = s.grids := rfl
@[simp] theorem State.retire_clusters (s : State) (u : Cur) : (s.retire u).clusters = s.clusters := rfl
@[simp] theorem State.retire_teams (s : State) (u : Cur) : (s.retire u).teams = s.teams := rfl
@[simp] theorem State.retire_ob (s : State) (u : Cur) : (s.retire u).ob = s.ob := rfl
@[simp] theorem State.retire_obMem (s : State) (u : Cur) : (s.retire u).obMem = s.obMem := rfl
@[simp] theorem State.retire_acc (s : State) (u : Cur) : (s.retire u).acc = s.acc := rfl
@[simp] theorem State.retire_obBad (s : State) (u : Cur) : (s.retire u).obBad = s.obBad := rfl
@[simp] theorem State.retire_accBad (s : State) (u : Cur) : (s.retire u).accBad = s.accBad := rfl
@[simp] theorem State.retire_banks (s : State) (u : Cur) : (s.retire u).banks = s.banks := rfl
@[simp] theorem State.retire_accReqs (s : State) (u : Cur) : (s.retire u).accReqs = s.accReqs := rfl
@[simp] theorem State.retire_furrows (s : State) (u : Cur) : (s.retire u).furrows = s.furrows := rfl
@[simp] theorem State.retire_gated (s : State) (u : Cur) : (s.retire u).gated = s.gated := rfl
@[simp] theorem State.retire_halted (s : State) (u : Cur) : (s.retire u).halted = s.halted := rfl
@[simp] theorem State.retire_tlb (s : State) (u : Cur) : (s.retire u).tlb = s.tlb := rfl
@[simp] theorem State.retire_fmt (s : State) (u : Cur) : (s.retire u).fmt = s.fmt := rfl
@[simp] theorem State.retire_ringWait (s : State) (u : Cur) : (s.retire u).ringWait = s.ringWait := rfl
@[simp] theorem State.retire_represent (s : State) (u : Cur) : (s.retire u).represent = s.represent := rfl
@[simp] theorem State.retire_cxlLines (s : State) (u : Cur) : (s.retire u).cxlLines = s.cxlLines := rfl
@[simp] theorem State.retire_snoops (s : State) (u : Cur) : (s.retire u).snoops = s.snoops := rfl
@[simp] theorem State.retire_faultIn (s : State) (u : Cur) : (s.retire u).faultIn = s.faultIn := rfl
@[simp] theorem State.retire_gleanPart (s : State) (u : Cur) : (s.retire u).gleanPart = s.gleanPart := rfl
@[simp] theorem State.retire_shardMap (s : State) (u : Cur) : (s.retire u).shardMap = s.shardMap := rfl
@[simp] theorem State.retire_fieldMap (s : State) (u : Cur) : (s.retire u).fieldMap = s.fieldMap := rfl
@[simp] theorem State.retire_services (s : State) (u : Cur) : (s.retire u).services = s.services := rfl
@[simp] theorem State.retire_leases (s : State) (u : Cur) : (s.retire u).leases = s.leases := rfl
@[simp] theorem State.retire_installs (s : State) (u : Cur) : (s.retire u).installs = s.installs := rfl
@[simp] theorem State.retire_freeFrames (s : State) (u : Cur) : (s.retire u).freeFrames = s.freeFrames := rfl
@[simp] theorem State.retire_seals (s : State) (u : Cur) : (s.retire u).seals = s.seals := rfl
@[simp] theorem State.retire_fills (s : State) (u : Cur) : (s.retire u).fills = s.fills := rfl
@[simp] theorem State.retire_calls (s : State) (u : Cur) : (s.retire u).calls = s.calls := rfl
@[simp] theorem State.retire_tag (s : State) (u : Cur) : (s.retire u).tag = s.tag := rfl
@[simp] theorem State.retire_watched (s : State) (u : Cur) : (s.retire u).watched = s.watched := rfl
@[simp] theorem State.retire_incarnation (s : State) (u : Cur) : (s.retire u).incarnation = s.incarnation := rfl
@[simp] theorem State.retire_hbSeq (s : State) (u : Cur) : (s.retire u).hbSeq = s.hbSeq := rfl
@[simp] theorem State.retire_hbLast (s : State) (u : Cur) : (s.retire u).hbLast = s.hbLast := rfl
@[simp] theorem State.retire_hbStopped (s : State) (u : Cur) : (s.retire u).hbStopped = s.hbStopped := rfl
@[simp] theorem State.retire_periods (s : State) (u : Cur) : (s.retire u).periods = s.periods := rfl
@[simp] theorem State.retire_recovery (s : State) (u : Cur) : (s.retire u).recovery = s.recovery := rfl
@[simp] theorem State.retire_job (s : State) (u : Cur) : (s.retire u).job = s.job := rfl
@[simp] theorem State.retire_kept (s : State) (u : Cur) : (s.retire u).kept = s.kept := rfl
@[simp] theorem State.retire_jobScope (s : State) (u : Cur) : (s.retire u).jobScope = s.jobScope := rfl
@[simp] theorem State.retire_drained (s : State) (u : Cur) : (s.retire u).drained = s.drained := rfl
@[simp] theorem State.retire_draining (s : State) (u : Cur) : (s.retire u).draining = s.draining := rfl
@[simp] theorem State.retire_link (s : State) (u : Cur) : (s.retire u).link = s.link := rfl
@[simp] theorem State.retire_scaleup (s : State) (u : Cur) : (s.retire u).scaleup = s.scaleup := rfl
@[simp] theorem State.retire_power (s : State) (u : Cur) : (s.retire u).power = s.power := rfl
@[simp] theorem State.retire_bootStep (s : State) (u : Cur) : (s.retire u).bootStep = s.bootStep := rfl
@[simp] theorem State.retire_bootSince (s : State) (u : Cur) : (s.retire u).bootSince = s.bootSince := rfl
@[simp] theorem State.retire_pwrEn (s : State) (u : Cur) : (s.retire u).pwrEn = s.pwrEn := rfl
@[simp] theorem State.retire_slotStrap (s : State) (u : Cur) : (s.retire u).slotStrap = s.slotStrap := rfl
@[simp] theorem State.retire_stretch (s : State) (u : Cur) : (s.retire u).stretch = s.stretch := rfl
@[simp] theorem State.retire_idStore (s : State) (u : Cur) : (s.retire u).idStore = s.idStore := rfl
@[simp] theorem State.retire_i3c (s : State) (u : Cur) : (s.retire u).i3c = s.i3c := rfl
@[simp] theorem State.retire_hdm (s : State) (u : Cur) : (s.retire u).hdm = s.hdm := rfl
@[simp] theorem State.retire_mirrorBad (s : State) (u : Cur) : (s.retire u).mirrorBad = s.mirrorBad := rfl
@[simp] theorem State.retire_vfOn (s : State) (u : Cur) : (s.retire u).vfOn = s.vfOn := rfl
@[simp] theorem State.retire_snoopTime (s : State) (u : Cur) : (s.retire u).snoopTime = s.snoopTime := rfl
@[simp] theorem State.retire_hostVia (s : State) (u : Cur) : (s.retire u).hostVia = s.hostVia := rfl
@[simp] theorem State.retire_msiPend (s : State) (u : Cur) : (s.retire u).msiPend = s.msiPend := rfl
@[simp] theorem State.retire_keys (s : State) (u : Cur) : (s.retire u).keys = s.keys := rfl
@[simp] theorem State.retire_flash (s : State) (u : Cur) : (s.retire u).flash = s.flash := rfl
@[simp] theorem State.retire_stewards (s : State) (u : Cur) : (s.retire u).stewards = s.stewards := rfl
@[simp] theorem State.retire_ptp (s : State) (u : Cur) : (s.retire u).ptp = s.ptp := rfl
@[simp] theorem State.retire_corrected (s : State) (u : Cur) : (s.retire u).corrected = s.corrected := rfl
@[simp] theorem State.retire_shadowRetries (s : State) (u : Cur) : (s.retire u).shadowRetries = s.shadowRetries := rfl
@[simp] theorem State.retire_fencedOut (s : State) (u : Cur) : (s.retire u).fencedOut = s.fencedOut := rfl

/-! ### State.modTeam -/

@[simp] theorem State.modTeam_agenda (s : State) (k : Nat) (f : Team → Team) : (s.modTeam k f).agenda = s.agenda := rfl
@[simp] theorem State.modTeam_cur (s : State) (k : Nat) (f : Team → Team) : (s.modTeam k f).cur = s.cur := rfl
@[simp] theorem State.modTeam_freeCount (s : State) (k : Nat) (f : Team → Team) : (s.modTeam k f).freeCount = s.freeCount := rfl
@[simp] theorem State.modTeam_shadow (s : State) (k : Nat) (f : Team → Team) : (s.modTeam k f).shadow = s.shadow := rfl
@[simp] theorem State.modTeam_nextId (s : State) (k : Nat) (f : Team → Team) : (s.modTeam k f).nextId = s.nextId := rfl
@[simp] theorem State.modTeam_slots (s : State) (k : Nat) (f : Team → Team) : (s.modTeam k f).slots = s.slots := rfl
@[simp] theorem State.modTeam_cycle (s : State) (k : Nat) (f : Team → Team) : (s.modTeam k f).cycle = s.cycle := rfl
@[simp] theorem State.modTeam_gtime (s : State) (k : Nat) (f : Team → Team) : (s.modTeam k f).gtime = s.gtime := rfl
@[simp] theorem State.modTeam_syncErr (s : State) (k : Nat) (f : Team → Team) : (s.modTeam k f).syncErr = s.syncErr := rfl
@[simp] theorem State.modTeam_timeBad (s : State) (k : Nat) (f : Team → Team) : (s.modTeam k f).timeBad = s.timeBad := rfl
@[simp] theorem State.modTeam_safeSince (s : State) (k : Nat) (f : Team → Team) : (s.modTeam k f).safeSince = s.safeSince := rfl
@[simp] theorem State.modTeam_mem (s : State) (k : Nat) (f : Team → Team) : (s.modTeam k f).mem = s.mem := rfl
@[simp] theorem State.modTeam_poison (s : State) (k : Nat) (f : Team → Team) : (s.modTeam k f).poison = s.poison := rfl
@[simp] theorem State.modTeam_scrubSeen (s : State) (k : Nat) (f : Team → Team) : (s.modTeam k f).scrubSeen = s.scrubSeen := rfl
@[simp] theorem State.modTeam_retired (s : State) (k : Nat) (f : Team → Team) : (s.modTeam k f).retired = s.retired := rfl
@[simp] theorem State.modTeam_consumed (s : State) (k : Nat) (f : Team → Team) : (s.modTeam k f).consumed = s.consumed := rfl
@[simp] theorem State.modTeam_dirty (s : State) (k : Nat) (f : Team → Team) : (s.modTeam k f).dirty = s.dirty := rfl
@[simp] theorem State.modTeam_frame (s : State) (k : Nat) (f : Team → Team) : (s.modTeam k f).frame = s.frame := rfl
@[simp] theorem State.modTeam_aliasBits (s : State) (k : Nat) (f : Team → Team) : (s.modTeam k f).aliasBits = s.aliasBits := rfl
@[simp] theorem State.modTeam_hostSt (s : State) (k : Nat) (f : Team → Team) : (s.modTeam k f).hostSt = s.hostSt := rfl
@[simp] theorem State.modTeam_recalls (s : State) (k : Nat) (f : Team → Team) : (s.modTeam k f).recalls = s.recalls := rfl
@[simp] theorem State.modTeam_counted (s : State) (k : Nat) (f : Team → Team) : (s.modTeam k f).counted = s.counted := rfl
@[simp] theorem State.modTeam_countedData (s : State) (k : Nat) (f : Team → Team) : (s.modTeam k f).countedData = s.countedData := rfl
@[simp] theorem State.modTeam_dir (s : State) (k : Nat) (f : Team → Team) : (s.modTeam k f).dir = s.dir := rfl
@[simp] theorem State.modTeam_tableWrites (s : State) (k : Nat) (f : Team → Team) : (s.modTeam k f).tableWrites = s.tableWrites := rfl
@[simp] theorem State.modTeam_sealed (s : State) (k : Nat) (f : Team → Team) : (s.modTeam k f).sealed = s.sealed := rfl
@[simp] theorem State.modTeam_dieClock (s : State) (k : Nat) (f : Team → Team) : (s.modTeam k f).dieClock = s.dieClock := rfl
@[simp] theorem State.modTeam_homeClock (s : State) (k : Nat) (f : Team → Team) : (s.modTeam k f).homeClock = s.homeClock := rfl
@[simp] theorem State.modTeam_fabric (s : State) (k : Nat) (f : Team → Team) : (s.modTeam k f).fabric = s.fabric := rfl
@[simp] theorem State.modTeam_results (s : State) (k : Nat) (f : Team → Team) : (s.modTeam k f).results = s.results := rfl
@[simp] theorem State.modTeam_pendings (s : State) (k : Nat) (f : Team → Team) : (s.modTeam k f).pendings = s.pendings := rfl
@[simp] theorem State.modTeam_fences (s : State) (k : Nat) (f : Team → Team) : (s.modTeam k f).fences = s.fences := rfl
@[simp] theorem State.modTeam_sends (s : State) (k : Nat) (f : Team → Team) : (s.modTeam k f).sends = s.sends := rfl
@[simp] theorem State.modTeam_desc (s : State) (k : Nat) (f : Team → Team) : (s.modTeam k f).desc = s.desc := rfl
@[simp] theorem State.modTeam_part (s : State) (k : Nat) (f : Team → Team) : (s.modTeam k f).part = s.part := rfl
@[simp] theorem State.modTeam_tabQueue (s : State) (k : Nat) (f : Team → Team) : (s.modTeam k f).tabQueue = s.tabQueue := rfl
@[simp] theorem State.modTeam_tabRing (s : State) (k : Nat) (f : Team → Team) : (s.modTeam k f).tabRing = s.tabRing := rfl
@[simp] theorem State.modTeam_tabPool (s : State) (k : Nat) (f : Team → Team) : (s.modTeam k f).tabPool = s.tabPool := rfl
@[simp] theorem State.modTeam_ring (s : State) (k : Nat) (f : Team → Team) : (s.modTeam k f).ring = s.ring := rfl
@[simp] theorem State.modTeam_pool (s : State) (k : Nat) (f : Team → Team) : (s.modTeam k f).pool = s.pool := rfl
@[simp] theorem State.modTeam_bufOwner (s : State) (k : Nat) (f : Team → Team) : (s.modTeam k f).bufOwner = s.bufOwner := rfl
@[simp] theorem State.modTeam_sysQueue (s : State) (k : Nat) (f : Team → Team) : (s.modTeam k f).sysQueue = s.sysQueue := rfl
@[simp] theorem State.modTeam_migQueue (s : State) (k : Nat) (f : Team → Team) : (s.modTeam k f).migQueue = s.migQueue := rfl
@[simp] theorem State.modTeam_seqLost (s : State) (k : Nat) (f : Team → Team) : (s.modTeam k f).seqLost = s.seqLost := rfl
@[simp] theorem State.modTeam_migOvf (s : State) (k : Nat) (f : Team → Team) : (s.modTeam k f).migOvf = s.migOvf := rfl
@[simp] theorem State.modTeam_msi (s : State) (k : Nat) (f : Team → Team) : (s.modTeam k f).msi = s.msi := rfl
@[simp] theorem State.modTeam_resets (s : State) (k : Nat) (f : Team → Team) : (s.modTeam k f).resets = s.resets := rfl
@[simp] theorem State.modTeam_armed (s : State) (k : Nat) (f : Team → Team) : (s.modTeam k f).armed = s.armed := rfl
@[simp] theorem State.modTeam_cmdOut (s : State) (k : Nat) (f : Team → Team) : (s.modTeam k f).cmdOut = s.cmdOut := rfl
@[simp] theorem State.modTeam_cmdWait (s : State) (k : Nat) (f : Team → Team) : (s.modTeam k f).cmdWait = s.cmdWait := rfl
@[simp] theorem State.modTeam_rootPend (s : State) (k : Nat) (f : Team → Team) : (s.modTeam k f).rootPend = s.rootPend := rfl
@[simp] theorem State.modTeam_queue (s : State) (k : Nat) (f : Team → Team) : (s.modTeam k f).queue = s.queue := rfl
@[simp] theorem State.modTeam_grids (s : State) (k : Nat) (f : Team → Team) : (s.modTeam k f).grids = s.grids := rfl
@[simp] theorem State.modTeam_clusters (s : State) (k : Nat) (f : Team → Team) : (s.modTeam k f).clusters = s.clusters := rfl
@[simp] theorem State.modTeam_groups (s : State) (k : Nat) (f : Team → Team) : (s.modTeam k f).groups = s.groups := rfl
@[simp] theorem State.modTeam_ob (s : State) (k : Nat) (f : Team → Team) : (s.modTeam k f).ob = s.ob := rfl
@[simp] theorem State.modTeam_obMem (s : State) (k : Nat) (f : Team → Team) : (s.modTeam k f).obMem = s.obMem := rfl
@[simp] theorem State.modTeam_acc (s : State) (k : Nat) (f : Team → Team) : (s.modTeam k f).acc = s.acc := rfl
@[simp] theorem State.modTeam_obBad (s : State) (k : Nat) (f : Team → Team) : (s.modTeam k f).obBad = s.obBad := rfl
@[simp] theorem State.modTeam_accBad (s : State) (k : Nat) (f : Team → Team) : (s.modTeam k f).accBad = s.accBad := rfl
@[simp] theorem State.modTeam_banks (s : State) (k : Nat) (f : Team → Team) : (s.modTeam k f).banks = s.banks := rfl
@[simp] theorem State.modTeam_accReqs (s : State) (k : Nat) (f : Team → Team) : (s.modTeam k f).accReqs = s.accReqs := rfl
@[simp] theorem State.modTeam_furrows (s : State) (k : Nat) (f : Team → Team) : (s.modTeam k f).furrows = s.furrows := rfl
@[simp] theorem State.modTeam_gated (s : State) (k : Nat) (f : Team → Team) : (s.modTeam k f).gated = s.gated := rfl
@[simp] theorem State.modTeam_halted (s : State) (k : Nat) (f : Team → Team) : (s.modTeam k f).halted = s.halted := rfl
@[simp] theorem State.modTeam_tlb (s : State) (k : Nat) (f : Team → Team) : (s.modTeam k f).tlb = s.tlb := rfl
@[simp] theorem State.modTeam_fmt (s : State) (k : Nat) (f : Team → Team) : (s.modTeam k f).fmt = s.fmt := rfl
@[simp] theorem State.modTeam_ringWait (s : State) (k : Nat) (f : Team → Team) : (s.modTeam k f).ringWait = s.ringWait := rfl
@[simp] theorem State.modTeam_represent (s : State) (k : Nat) (f : Team → Team) : (s.modTeam k f).represent = s.represent := rfl
@[simp] theorem State.modTeam_cxlLines (s : State) (k : Nat) (f : Team → Team) : (s.modTeam k f).cxlLines = s.cxlLines := rfl
@[simp] theorem State.modTeam_snoops (s : State) (k : Nat) (f : Team → Team) : (s.modTeam k f).snoops = s.snoops := rfl
@[simp] theorem State.modTeam_faultIn (s : State) (k : Nat) (f : Team → Team) : (s.modTeam k f).faultIn = s.faultIn := rfl
@[simp] theorem State.modTeam_gleanPart (s : State) (k : Nat) (f : Team → Team) : (s.modTeam k f).gleanPart = s.gleanPart := rfl
@[simp] theorem State.modTeam_shardMap (s : State) (k : Nat) (f : Team → Team) : (s.modTeam k f).shardMap = s.shardMap := rfl
@[simp] theorem State.modTeam_fieldMap (s : State) (k : Nat) (f : Team → Team) : (s.modTeam k f).fieldMap = s.fieldMap := rfl
@[simp] theorem State.modTeam_services (s : State) (k : Nat) (f : Team → Team) : (s.modTeam k f).services = s.services := rfl
@[simp] theorem State.modTeam_leases (s : State) (k : Nat) (f : Team → Team) : (s.modTeam k f).leases = s.leases := rfl
@[simp] theorem State.modTeam_installs (s : State) (k : Nat) (f : Team → Team) : (s.modTeam k f).installs = s.installs := rfl
@[simp] theorem State.modTeam_freeFrames (s : State) (k : Nat) (f : Team → Team) : (s.modTeam k f).freeFrames = s.freeFrames := rfl
@[simp] theorem State.modTeam_seals (s : State) (k : Nat) (f : Team → Team) : (s.modTeam k f).seals = s.seals := rfl
@[simp] theorem State.modTeam_fills (s : State) (k : Nat) (f : Team → Team) : (s.modTeam k f).fills = s.fills := rfl
@[simp] theorem State.modTeam_calls (s : State) (k : Nat) (f : Team → Team) : (s.modTeam k f).calls = s.calls := rfl
@[simp] theorem State.modTeam_tag (s : State) (k : Nat) (f : Team → Team) : (s.modTeam k f).tag = s.tag := rfl
@[simp] theorem State.modTeam_watched (s : State) (k : Nat) (f : Team → Team) : (s.modTeam k f).watched = s.watched := rfl
@[simp] theorem State.modTeam_incarnation (s : State) (k : Nat) (f : Team → Team) : (s.modTeam k f).incarnation = s.incarnation := rfl
@[simp] theorem State.modTeam_hbSeq (s : State) (k : Nat) (f : Team → Team) : (s.modTeam k f).hbSeq = s.hbSeq := rfl
@[simp] theorem State.modTeam_hbLast (s : State) (k : Nat) (f : Team → Team) : (s.modTeam k f).hbLast = s.hbLast := rfl
@[simp] theorem State.modTeam_hbStopped (s : State) (k : Nat) (f : Team → Team) : (s.modTeam k f).hbStopped = s.hbStopped := rfl
@[simp] theorem State.modTeam_periods (s : State) (k : Nat) (f : Team → Team) : (s.modTeam k f).periods = s.periods := rfl
@[simp] theorem State.modTeam_recovery (s : State) (k : Nat) (f : Team → Team) : (s.modTeam k f).recovery = s.recovery := rfl
@[simp] theorem State.modTeam_job (s : State) (k : Nat) (f : Team → Team) : (s.modTeam k f).job = s.job := rfl
@[simp] theorem State.modTeam_kept (s : State) (k : Nat) (f : Team → Team) : (s.modTeam k f).kept = s.kept := rfl
@[simp] theorem State.modTeam_jobScope (s : State) (k : Nat) (f : Team → Team) : (s.modTeam k f).jobScope = s.jobScope := rfl
@[simp] theorem State.modTeam_drained (s : State) (k : Nat) (f : Team → Team) : (s.modTeam k f).drained = s.drained := rfl
@[simp] theorem State.modTeam_draining (s : State) (k : Nat) (f : Team → Team) : (s.modTeam k f).draining = s.draining := rfl
@[simp] theorem State.modTeam_link (s : State) (k : Nat) (f : Team → Team) : (s.modTeam k f).link = s.link := rfl
@[simp] theorem State.modTeam_scaleup (s : State) (k : Nat) (f : Team → Team) : (s.modTeam k f).scaleup = s.scaleup := rfl
@[simp] theorem State.modTeam_power (s : State) (k : Nat) (f : Team → Team) : (s.modTeam k f).power = s.power := rfl
@[simp] theorem State.modTeam_bootStep (s : State) (k : Nat) (f : Team → Team) : (s.modTeam k f).bootStep = s.bootStep := rfl
@[simp] theorem State.modTeam_bootSince (s : State) (k : Nat) (f : Team → Team) : (s.modTeam k f).bootSince = s.bootSince := rfl
@[simp] theorem State.modTeam_pwrEn (s : State) (k : Nat) (f : Team → Team) : (s.modTeam k f).pwrEn = s.pwrEn := rfl
@[simp] theorem State.modTeam_slotStrap (s : State) (k : Nat) (f : Team → Team) : (s.modTeam k f).slotStrap = s.slotStrap := rfl
@[simp] theorem State.modTeam_stretch (s : State) (k : Nat) (f : Team → Team) : (s.modTeam k f).stretch = s.stretch := rfl
@[simp] theorem State.modTeam_idStore (s : State) (k : Nat) (f : Team → Team) : (s.modTeam k f).idStore = s.idStore := rfl
@[simp] theorem State.modTeam_i3c (s : State) (k : Nat) (f : Team → Team) : (s.modTeam k f).i3c = s.i3c := rfl
@[simp] theorem State.modTeam_hdm (s : State) (k : Nat) (f : Team → Team) : (s.modTeam k f).hdm = s.hdm := rfl
@[simp] theorem State.modTeam_mirrorBad (s : State) (k : Nat) (f : Team → Team) : (s.modTeam k f).mirrorBad = s.mirrorBad := rfl
@[simp] theorem State.modTeam_vfOn (s : State) (k : Nat) (f : Team → Team) : (s.modTeam k f).vfOn = s.vfOn := rfl
@[simp] theorem State.modTeam_snoopTime (s : State) (k : Nat) (f : Team → Team) : (s.modTeam k f).snoopTime = s.snoopTime := rfl
@[simp] theorem State.modTeam_hostVia (s : State) (k : Nat) (f : Team → Team) : (s.modTeam k f).hostVia = s.hostVia := rfl
@[simp] theorem State.modTeam_msiPend (s : State) (k : Nat) (f : Team → Team) : (s.modTeam k f).msiPend = s.msiPend := rfl
@[simp] theorem State.modTeam_keys (s : State) (k : Nat) (f : Team → Team) : (s.modTeam k f).keys = s.keys := rfl
@[simp] theorem State.modTeam_flash (s : State) (k : Nat) (f : Team → Team) : (s.modTeam k f).flash = s.flash := rfl
@[simp] theorem State.modTeam_stewards (s : State) (k : Nat) (f : Team → Team) : (s.modTeam k f).stewards = s.stewards := rfl
@[simp] theorem State.modTeam_ptp (s : State) (k : Nat) (f : Team → Team) : (s.modTeam k f).ptp = s.ptp := rfl
@[simp] theorem State.modTeam_corrected (s : State) (k : Nat) (f : Team → Team) : (s.modTeam k f).corrected = s.corrected := rfl
@[simp] theorem State.modTeam_shadowRetries (s : State) (k : Nat) (f : Team → Team) : (s.modTeam k f).shadowRetries = s.shadowRetries := rfl
@[simp] theorem State.modTeam_fencedOut (s : State) (k : Nat) (f : Team → Team) : (s.modTeam k f).fencedOut = s.fencedOut := rfl

/-! ### State.setDescW -/

@[simp] theorem State.setDescW_agenda (s : State) (c w : Nat) (v : W64) : (s.setDescW c w v).agenda = s.agenda := rfl
@[simp] theorem State.setDescW_cur (s : State) (c w : Nat) (v : W64) : (s.setDescW c w v).cur = s.cur := rfl
@[simp] theorem State.setDescW_freeCount (s : State) (c w : Nat) (v : W64) : (s.setDescW c w v).freeCount = s.freeCount := rfl
@[simp] theorem State.setDescW_shadow (s : State) (c w : Nat) (v : W64) : (s.setDescW c w v).shadow = s.shadow := rfl
@[simp] theorem State.setDescW_nextId (s : State) (c w : Nat) (v : W64) : (s.setDescW c w v).nextId = s.nextId := rfl
@[simp] theorem State.setDescW_slots (s : State) (c w : Nat) (v : W64) : (s.setDescW c w v).slots = s.slots := rfl
@[simp] theorem State.setDescW_cycle (s : State) (c w : Nat) (v : W64) : (s.setDescW c w v).cycle = s.cycle := rfl
@[simp] theorem State.setDescW_gtime (s : State) (c w : Nat) (v : W64) : (s.setDescW c w v).gtime = s.gtime := rfl
@[simp] theorem State.setDescW_syncErr (s : State) (c w : Nat) (v : W64) : (s.setDescW c w v).syncErr = s.syncErr := rfl
@[simp] theorem State.setDescW_timeBad (s : State) (c w : Nat) (v : W64) : (s.setDescW c w v).timeBad = s.timeBad := rfl
@[simp] theorem State.setDescW_safeSince (s : State) (c w : Nat) (v : W64) : (s.setDescW c w v).safeSince = s.safeSince := rfl
@[simp] theorem State.setDescW_mem (s : State) (c w : Nat) (v : W64) : (s.setDescW c w v).mem = s.mem := rfl
@[simp] theorem State.setDescW_poison (s : State) (c w : Nat) (v : W64) : (s.setDescW c w v).poison = s.poison := rfl
@[simp] theorem State.setDescW_scrubSeen (s : State) (c w : Nat) (v : W64) : (s.setDescW c w v).scrubSeen = s.scrubSeen := rfl
@[simp] theorem State.setDescW_retired (s : State) (c w : Nat) (v : W64) : (s.setDescW c w v).retired = s.retired := rfl
@[simp] theorem State.setDescW_consumed (s : State) (c w : Nat) (v : W64) : (s.setDescW c w v).consumed = s.consumed := rfl
@[simp] theorem State.setDescW_dirty (s : State) (c w : Nat) (v : W64) : (s.setDescW c w v).dirty = s.dirty := rfl
@[simp] theorem State.setDescW_frame (s : State) (c w : Nat) (v : W64) : (s.setDescW c w v).frame = s.frame := rfl
@[simp] theorem State.setDescW_aliasBits (s : State) (c w : Nat) (v : W64) : (s.setDescW c w v).aliasBits = s.aliasBits := rfl
@[simp] theorem State.setDescW_hostSt (s : State) (c w : Nat) (v : W64) : (s.setDescW c w v).hostSt = s.hostSt := rfl
@[simp] theorem State.setDescW_recalls (s : State) (c w : Nat) (v : W64) : (s.setDescW c w v).recalls = s.recalls := rfl
@[simp] theorem State.setDescW_counted (s : State) (c w : Nat) (v : W64) : (s.setDescW c w v).counted = s.counted := rfl
@[simp] theorem State.setDescW_countedData (s : State) (c w : Nat) (v : W64) : (s.setDescW c w v).countedData = s.countedData := rfl
@[simp] theorem State.setDescW_dir (s : State) (c w : Nat) (v : W64) : (s.setDescW c w v).dir = s.dir := rfl
@[simp] theorem State.setDescW_tableWrites (s : State) (c w : Nat) (v : W64) : (s.setDescW c w v).tableWrites = s.tableWrites := rfl
@[simp] theorem State.setDescW_sealed (s : State) (c w : Nat) (v : W64) : (s.setDescW c w v).sealed = s.sealed := rfl
@[simp] theorem State.setDescW_dieClock (s : State) (c w : Nat) (v : W64) : (s.setDescW c w v).dieClock = s.dieClock := rfl
@[simp] theorem State.setDescW_homeClock (s : State) (c w : Nat) (v : W64) : (s.setDescW c w v).homeClock = s.homeClock := rfl
@[simp] theorem State.setDescW_fabric (s : State) (c w : Nat) (v : W64) : (s.setDescW c w v).fabric = s.fabric := rfl
@[simp] theorem State.setDescW_results (s : State) (c w : Nat) (v : W64) : (s.setDescW c w v).results = s.results := rfl
@[simp] theorem State.setDescW_pendings (s : State) (c w : Nat) (v : W64) : (s.setDescW c w v).pendings = s.pendings := rfl
@[simp] theorem State.setDescW_fences (s : State) (c w : Nat) (v : W64) : (s.setDescW c w v).fences = s.fences := rfl
@[simp] theorem State.setDescW_sends (s : State) (c w : Nat) (v : W64) : (s.setDescW c w v).sends = s.sends := rfl
@[simp] theorem State.setDescW_part (s : State) (c w : Nat) (v : W64) : (s.setDescW c w v).part = s.part := rfl
@[simp] theorem State.setDescW_tabQueue (s : State) (c w : Nat) (v : W64) : (s.setDescW c w v).tabQueue = s.tabQueue := rfl
@[simp] theorem State.setDescW_tabRing (s : State) (c w : Nat) (v : W64) : (s.setDescW c w v).tabRing = s.tabRing := rfl
@[simp] theorem State.setDescW_tabPool (s : State) (c w : Nat) (v : W64) : (s.setDescW c w v).tabPool = s.tabPool := rfl
@[simp] theorem State.setDescW_ring (s : State) (c w : Nat) (v : W64) : (s.setDescW c w v).ring = s.ring := rfl
@[simp] theorem State.setDescW_pool (s : State) (c w : Nat) (v : W64) : (s.setDescW c w v).pool = s.pool := rfl
@[simp] theorem State.setDescW_bufOwner (s : State) (c w : Nat) (v : W64) : (s.setDescW c w v).bufOwner = s.bufOwner := rfl
@[simp] theorem State.setDescW_sysQueue (s : State) (c w : Nat) (v : W64) : (s.setDescW c w v).sysQueue = s.sysQueue := rfl
@[simp] theorem State.setDescW_migQueue (s : State) (c w : Nat) (v : W64) : (s.setDescW c w v).migQueue = s.migQueue := rfl
@[simp] theorem State.setDescW_seqLost (s : State) (c w : Nat) (v : W64) : (s.setDescW c w v).seqLost = s.seqLost := rfl
@[simp] theorem State.setDescW_migOvf (s : State) (c w : Nat) (v : W64) : (s.setDescW c w v).migOvf = s.migOvf := rfl
@[simp] theorem State.setDescW_msi (s : State) (c w : Nat) (v : W64) : (s.setDescW c w v).msi = s.msi := rfl
@[simp] theorem State.setDescW_resets (s : State) (c w : Nat) (v : W64) : (s.setDescW c w v).resets = s.resets := rfl
@[simp] theorem State.setDescW_armed (s : State) (c w : Nat) (v : W64) : (s.setDescW c w v).armed = s.armed := rfl
@[simp] theorem State.setDescW_cmdOut (s : State) (c w : Nat) (v : W64) : (s.setDescW c w v).cmdOut = s.cmdOut := rfl
@[simp] theorem State.setDescW_cmdWait (s : State) (c w : Nat) (v : W64) : (s.setDescW c w v).cmdWait = s.cmdWait := rfl
@[simp] theorem State.setDescW_rootPend (s : State) (c w : Nat) (v : W64) : (s.setDescW c w v).rootPend = s.rootPend := rfl
@[simp] theorem State.setDescW_queue (s : State) (c w : Nat) (v : W64) : (s.setDescW c w v).queue = s.queue := rfl
@[simp] theorem State.setDescW_grids (s : State) (c w : Nat) (v : W64) : (s.setDescW c w v).grids = s.grids := rfl
@[simp] theorem State.setDescW_clusters (s : State) (c w : Nat) (v : W64) : (s.setDescW c w v).clusters = s.clusters := rfl
@[simp] theorem State.setDescW_teams (s : State) (c w : Nat) (v : W64) : (s.setDescW c w v).teams = s.teams := rfl
@[simp] theorem State.setDescW_groups (s : State) (c w : Nat) (v : W64) : (s.setDescW c w v).groups = s.groups := rfl
@[simp] theorem State.setDescW_ob (s : State) (c w : Nat) (v : W64) : (s.setDescW c w v).ob = s.ob := rfl
@[simp] theorem State.setDescW_obMem (s : State) (c w : Nat) (v : W64) : (s.setDescW c w v).obMem = s.obMem := rfl
@[simp] theorem State.setDescW_acc (s : State) (c w : Nat) (v : W64) : (s.setDescW c w v).acc = s.acc := rfl
@[simp] theorem State.setDescW_obBad (s : State) (c w : Nat) (v : W64) : (s.setDescW c w v).obBad = s.obBad := rfl
@[simp] theorem State.setDescW_accBad (s : State) (c w : Nat) (v : W64) : (s.setDescW c w v).accBad = s.accBad := rfl
@[simp] theorem State.setDescW_banks (s : State) (c w : Nat) (v : W64) : (s.setDescW c w v).banks = s.banks := rfl
@[simp] theorem State.setDescW_accReqs (s : State) (c w : Nat) (v : W64) : (s.setDescW c w v).accReqs = s.accReqs := rfl
@[simp] theorem State.setDescW_furrows (s : State) (c w : Nat) (v : W64) : (s.setDescW c w v).furrows = s.furrows := rfl
@[simp] theorem State.setDescW_gated (s : State) (c w : Nat) (v : W64) : (s.setDescW c w v).gated = s.gated := rfl
@[simp] theorem State.setDescW_halted (s : State) (c w : Nat) (v : W64) : (s.setDescW c w v).halted = s.halted := rfl
@[simp] theorem State.setDescW_tlb (s : State) (c w : Nat) (v : W64) : (s.setDescW c w v).tlb = s.tlb := rfl
@[simp] theorem State.setDescW_fmt (s : State) (c w : Nat) (v : W64) : (s.setDescW c w v).fmt = s.fmt := rfl
@[simp] theorem State.setDescW_ringWait (s : State) (c w : Nat) (v : W64) : (s.setDescW c w v).ringWait = s.ringWait := rfl
@[simp] theorem State.setDescW_represent (s : State) (c w : Nat) (v : W64) : (s.setDescW c w v).represent = s.represent := rfl
@[simp] theorem State.setDescW_cxlLines (s : State) (c w : Nat) (v : W64) : (s.setDescW c w v).cxlLines = s.cxlLines := rfl
@[simp] theorem State.setDescW_snoops (s : State) (c w : Nat) (v : W64) : (s.setDescW c w v).snoops = s.snoops := rfl
@[simp] theorem State.setDescW_faultIn (s : State) (c w : Nat) (v : W64) : (s.setDescW c w v).faultIn = s.faultIn := rfl
@[simp] theorem State.setDescW_gleanPart (s : State) (c w : Nat) (v : W64) : (s.setDescW c w v).gleanPart = s.gleanPart := rfl
@[simp] theorem State.setDescW_shardMap (s : State) (c w : Nat) (v : W64) : (s.setDescW c w v).shardMap = s.shardMap := rfl
@[simp] theorem State.setDescW_fieldMap (s : State) (c w : Nat) (v : W64) : (s.setDescW c w v).fieldMap = s.fieldMap := rfl
@[simp] theorem State.setDescW_services (s : State) (c w : Nat) (v : W64) : (s.setDescW c w v).services = s.services := rfl
@[simp] theorem State.setDescW_leases (s : State) (c w : Nat) (v : W64) : (s.setDescW c w v).leases = s.leases := rfl
@[simp] theorem State.setDescW_installs (s : State) (c w : Nat) (v : W64) : (s.setDescW c w v).installs = s.installs := rfl
@[simp] theorem State.setDescW_freeFrames (s : State) (c w : Nat) (v : W64) : (s.setDescW c w v).freeFrames = s.freeFrames := rfl
@[simp] theorem State.setDescW_seals (s : State) (c w : Nat) (v : W64) : (s.setDescW c w v).seals = s.seals := rfl
@[simp] theorem State.setDescW_fills (s : State) (c w : Nat) (v : W64) : (s.setDescW c w v).fills = s.fills := rfl
@[simp] theorem State.setDescW_calls (s : State) (c w : Nat) (v : W64) : (s.setDescW c w v).calls = s.calls := rfl
@[simp] theorem State.setDescW_tag (s : State) (c w : Nat) (v : W64) : (s.setDescW c w v).tag = s.tag := rfl
@[simp] theorem State.setDescW_watched (s : State) (c w : Nat) (v : W64) : (s.setDescW c w v).watched = s.watched := rfl
@[simp] theorem State.setDescW_incarnation (s : State) (c w : Nat) (v : W64) : (s.setDescW c w v).incarnation = s.incarnation := rfl
@[simp] theorem State.setDescW_hbSeq (s : State) (c w : Nat) (v : W64) : (s.setDescW c w v).hbSeq = s.hbSeq := rfl
@[simp] theorem State.setDescW_hbLast (s : State) (c w : Nat) (v : W64) : (s.setDescW c w v).hbLast = s.hbLast := rfl
@[simp] theorem State.setDescW_hbStopped (s : State) (c w : Nat) (v : W64) : (s.setDescW c w v).hbStopped = s.hbStopped := rfl
@[simp] theorem State.setDescW_periods (s : State) (c w : Nat) (v : W64) : (s.setDescW c w v).periods = s.periods := rfl
@[simp] theorem State.setDescW_recovery (s : State) (c w : Nat) (v : W64) : (s.setDescW c w v).recovery = s.recovery := rfl
@[simp] theorem State.setDescW_job (s : State) (c w : Nat) (v : W64) : (s.setDescW c w v).job = s.job := rfl
@[simp] theorem State.setDescW_kept (s : State) (c w : Nat) (v : W64) : (s.setDescW c w v).kept = s.kept := rfl
@[simp] theorem State.setDescW_jobScope (s : State) (c w : Nat) (v : W64) : (s.setDescW c w v).jobScope = s.jobScope := rfl
@[simp] theorem State.setDescW_drained (s : State) (c w : Nat) (v : W64) : (s.setDescW c w v).drained = s.drained := rfl
@[simp] theorem State.setDescW_draining (s : State) (c w : Nat) (v : W64) : (s.setDescW c w v).draining = s.draining := rfl
@[simp] theorem State.setDescW_link (s : State) (c w : Nat) (v : W64) : (s.setDescW c w v).link = s.link := rfl
@[simp] theorem State.setDescW_scaleup (s : State) (c w : Nat) (v : W64) : (s.setDescW c w v).scaleup = s.scaleup := rfl
@[simp] theorem State.setDescW_power (s : State) (c w : Nat) (v : W64) : (s.setDescW c w v).power = s.power := rfl
@[simp] theorem State.setDescW_bootStep (s : State) (c w : Nat) (v : W64) : (s.setDescW c w v).bootStep = s.bootStep := rfl
@[simp] theorem State.setDescW_bootSince (s : State) (c w : Nat) (v : W64) : (s.setDescW c w v).bootSince = s.bootSince := rfl
@[simp] theorem State.setDescW_pwrEn (s : State) (c w : Nat) (v : W64) : (s.setDescW c w v).pwrEn = s.pwrEn := rfl
@[simp] theorem State.setDescW_slotStrap (s : State) (c w : Nat) (v : W64) : (s.setDescW c w v).slotStrap = s.slotStrap := rfl
@[simp] theorem State.setDescW_stretch (s : State) (c w : Nat) (v : W64) : (s.setDescW c w v).stretch = s.stretch := rfl
@[simp] theorem State.setDescW_idStore (s : State) (c w : Nat) (v : W64) : (s.setDescW c w v).idStore = s.idStore := rfl
@[simp] theorem State.setDescW_i3c (s : State) (c w : Nat) (v : W64) : (s.setDescW c w v).i3c = s.i3c := rfl
@[simp] theorem State.setDescW_hdm (s : State) (c w : Nat) (v : W64) : (s.setDescW c w v).hdm = s.hdm := rfl
@[simp] theorem State.setDescW_mirrorBad (s : State) (c w : Nat) (v : W64) : (s.setDescW c w v).mirrorBad = s.mirrorBad := rfl
@[simp] theorem State.setDescW_vfOn (s : State) (c w : Nat) (v : W64) : (s.setDescW c w v).vfOn = s.vfOn := rfl
@[simp] theorem State.setDescW_snoopTime (s : State) (c w : Nat) (v : W64) : (s.setDescW c w v).snoopTime = s.snoopTime := rfl
@[simp] theorem State.setDescW_hostVia (s : State) (c w : Nat) (v : W64) : (s.setDescW c w v).hostVia = s.hostVia := rfl
@[simp] theorem State.setDescW_msiPend (s : State) (c w : Nat) (v : W64) : (s.setDescW c w v).msiPend = s.msiPend := rfl
@[simp] theorem State.setDescW_keys (s : State) (c w : Nat) (v : W64) : (s.setDescW c w v).keys = s.keys := rfl
@[simp] theorem State.setDescW_flash (s : State) (c w : Nat) (v : W64) : (s.setDescW c w v).flash = s.flash := rfl
@[simp] theorem State.setDescW_stewards (s : State) (c w : Nat) (v : W64) : (s.setDescW c w v).stewards = s.stewards := rfl
@[simp] theorem State.setDescW_ptp (s : State) (c w : Nat) (v : W64) : (s.setDescW c w v).ptp = s.ptp := rfl
@[simp] theorem State.setDescW_corrected (s : State) (c w : Nat) (v : W64) : (s.setDescW c w v).corrected = s.corrected := rfl
@[simp] theorem State.setDescW_shadowRetries (s : State) (c w : Nat) (v : W64) : (s.setDescW c w v).shadowRetries = s.shadowRetries := rfl
@[simp] theorem State.setDescW_fencedOut (s : State) (c w : Nat) (v : W64) : (s.setDescW c w v).fencedOut = s.fencedOut := rfl

/-! ### State.setPartW -/

@[simp] theorem State.setPartW_agenda (s : State) (p w : Nat) (v : W64) : (s.setPartW p w v).agenda = s.agenda := rfl
@[simp] theorem State.setPartW_cur (s : State) (p w : Nat) (v : W64) : (s.setPartW p w v).cur = s.cur := rfl
@[simp] theorem State.setPartW_freeCount (s : State) (p w : Nat) (v : W64) : (s.setPartW p w v).freeCount = s.freeCount := rfl
@[simp] theorem State.setPartW_shadow (s : State) (p w : Nat) (v : W64) : (s.setPartW p w v).shadow = s.shadow := rfl
@[simp] theorem State.setPartW_nextId (s : State) (p w : Nat) (v : W64) : (s.setPartW p w v).nextId = s.nextId := rfl
@[simp] theorem State.setPartW_slots (s : State) (p w : Nat) (v : W64) : (s.setPartW p w v).slots = s.slots := rfl
@[simp] theorem State.setPartW_cycle (s : State) (p w : Nat) (v : W64) : (s.setPartW p w v).cycle = s.cycle := rfl
@[simp] theorem State.setPartW_gtime (s : State) (p w : Nat) (v : W64) : (s.setPartW p w v).gtime = s.gtime := rfl
@[simp] theorem State.setPartW_syncErr (s : State) (p w : Nat) (v : W64) : (s.setPartW p w v).syncErr = s.syncErr := rfl
@[simp] theorem State.setPartW_timeBad (s : State) (p w : Nat) (v : W64) : (s.setPartW p w v).timeBad = s.timeBad := rfl
@[simp] theorem State.setPartW_safeSince (s : State) (p w : Nat) (v : W64) : (s.setPartW p w v).safeSince = s.safeSince := rfl
@[simp] theorem State.setPartW_mem (s : State) (p w : Nat) (v : W64) : (s.setPartW p w v).mem = s.mem := rfl
@[simp] theorem State.setPartW_poison (s : State) (p w : Nat) (v : W64) : (s.setPartW p w v).poison = s.poison := rfl
@[simp] theorem State.setPartW_scrubSeen (s : State) (p w : Nat) (v : W64) : (s.setPartW p w v).scrubSeen = s.scrubSeen := rfl
@[simp] theorem State.setPartW_retired (s : State) (p w : Nat) (v : W64) : (s.setPartW p w v).retired = s.retired := rfl
@[simp] theorem State.setPartW_consumed (s : State) (p w : Nat) (v : W64) : (s.setPartW p w v).consumed = s.consumed := rfl
@[simp] theorem State.setPartW_dirty (s : State) (p w : Nat) (v : W64) : (s.setPartW p w v).dirty = s.dirty := rfl
@[simp] theorem State.setPartW_frame (s : State) (p w : Nat) (v : W64) : (s.setPartW p w v).frame = s.frame := rfl
@[simp] theorem State.setPartW_aliasBits (s : State) (p w : Nat) (v : W64) : (s.setPartW p w v).aliasBits = s.aliasBits := rfl
@[simp] theorem State.setPartW_hostSt (s : State) (p w : Nat) (v : W64) : (s.setPartW p w v).hostSt = s.hostSt := rfl
@[simp] theorem State.setPartW_recalls (s : State) (p w : Nat) (v : W64) : (s.setPartW p w v).recalls = s.recalls := rfl
@[simp] theorem State.setPartW_counted (s : State) (p w : Nat) (v : W64) : (s.setPartW p w v).counted = s.counted := rfl
@[simp] theorem State.setPartW_countedData (s : State) (p w : Nat) (v : W64) : (s.setPartW p w v).countedData = s.countedData := rfl
@[simp] theorem State.setPartW_dir (s : State) (p w : Nat) (v : W64) : (s.setPartW p w v).dir = s.dir := rfl
@[simp] theorem State.setPartW_tableWrites (s : State) (p w : Nat) (v : W64) : (s.setPartW p w v).tableWrites = s.tableWrites := rfl
@[simp] theorem State.setPartW_sealed (s : State) (p w : Nat) (v : W64) : (s.setPartW p w v).sealed = s.sealed := rfl
@[simp] theorem State.setPartW_dieClock (s : State) (p w : Nat) (v : W64) : (s.setPartW p w v).dieClock = s.dieClock := rfl
@[simp] theorem State.setPartW_homeClock (s : State) (p w : Nat) (v : W64) : (s.setPartW p w v).homeClock = s.homeClock := rfl
@[simp] theorem State.setPartW_fabric (s : State) (p w : Nat) (v : W64) : (s.setPartW p w v).fabric = s.fabric := rfl
@[simp] theorem State.setPartW_results (s : State) (p w : Nat) (v : W64) : (s.setPartW p w v).results = s.results := rfl
@[simp] theorem State.setPartW_pendings (s : State) (p w : Nat) (v : W64) : (s.setPartW p w v).pendings = s.pendings := rfl
@[simp] theorem State.setPartW_fences (s : State) (p w : Nat) (v : W64) : (s.setPartW p w v).fences = s.fences := rfl
@[simp] theorem State.setPartW_sends (s : State) (p w : Nat) (v : W64) : (s.setPartW p w v).sends = s.sends := rfl
@[simp] theorem State.setPartW_desc (s : State) (p w : Nat) (v : W64) : (s.setPartW p w v).desc = s.desc := rfl
@[simp] theorem State.setPartW_tabQueue (s : State) (p w : Nat) (v : W64) : (s.setPartW p w v).tabQueue = s.tabQueue := rfl
@[simp] theorem State.setPartW_tabRing (s : State) (p w : Nat) (v : W64) : (s.setPartW p w v).tabRing = s.tabRing := rfl
@[simp] theorem State.setPartW_tabPool (s : State) (p w : Nat) (v : W64) : (s.setPartW p w v).tabPool = s.tabPool := rfl
@[simp] theorem State.setPartW_ring (s : State) (p w : Nat) (v : W64) : (s.setPartW p w v).ring = s.ring := rfl
@[simp] theorem State.setPartW_pool (s : State) (p w : Nat) (v : W64) : (s.setPartW p w v).pool = s.pool := rfl
@[simp] theorem State.setPartW_bufOwner (s : State) (p w : Nat) (v : W64) : (s.setPartW p w v).bufOwner = s.bufOwner := rfl
@[simp] theorem State.setPartW_sysQueue (s : State) (p w : Nat) (v : W64) : (s.setPartW p w v).sysQueue = s.sysQueue := rfl
@[simp] theorem State.setPartW_migQueue (s : State) (p w : Nat) (v : W64) : (s.setPartW p w v).migQueue = s.migQueue := rfl
@[simp] theorem State.setPartW_seqLost (s : State) (p w : Nat) (v : W64) : (s.setPartW p w v).seqLost = s.seqLost := rfl
@[simp] theorem State.setPartW_migOvf (s : State) (p w : Nat) (v : W64) : (s.setPartW p w v).migOvf = s.migOvf := rfl
@[simp] theorem State.setPartW_msi (s : State) (p w : Nat) (v : W64) : (s.setPartW p w v).msi = s.msi := rfl
@[simp] theorem State.setPartW_resets (s : State) (p w : Nat) (v : W64) : (s.setPartW p w v).resets = s.resets := rfl
@[simp] theorem State.setPartW_armed (s : State) (p w : Nat) (v : W64) : (s.setPartW p w v).armed = s.armed := rfl
@[simp] theorem State.setPartW_cmdOut (s : State) (p w : Nat) (v : W64) : (s.setPartW p w v).cmdOut = s.cmdOut := rfl
@[simp] theorem State.setPartW_cmdWait (s : State) (p w : Nat) (v : W64) : (s.setPartW p w v).cmdWait = s.cmdWait := rfl
@[simp] theorem State.setPartW_rootPend (s : State) (p w : Nat) (v : W64) : (s.setPartW p w v).rootPend = s.rootPend := rfl
@[simp] theorem State.setPartW_queue (s : State) (p w : Nat) (v : W64) : (s.setPartW p w v).queue = s.queue := rfl
@[simp] theorem State.setPartW_grids (s : State) (p w : Nat) (v : W64) : (s.setPartW p w v).grids = s.grids := rfl
@[simp] theorem State.setPartW_clusters (s : State) (p w : Nat) (v : W64) : (s.setPartW p w v).clusters = s.clusters := rfl
@[simp] theorem State.setPartW_teams (s : State) (p w : Nat) (v : W64) : (s.setPartW p w v).teams = s.teams := rfl
@[simp] theorem State.setPartW_groups (s : State) (p w : Nat) (v : W64) : (s.setPartW p w v).groups = s.groups := rfl
@[simp] theorem State.setPartW_ob (s : State) (p w : Nat) (v : W64) : (s.setPartW p w v).ob = s.ob := rfl
@[simp] theorem State.setPartW_obMem (s : State) (p w : Nat) (v : W64) : (s.setPartW p w v).obMem = s.obMem := rfl
@[simp] theorem State.setPartW_acc (s : State) (p w : Nat) (v : W64) : (s.setPartW p w v).acc = s.acc := rfl
@[simp] theorem State.setPartW_obBad (s : State) (p w : Nat) (v : W64) : (s.setPartW p w v).obBad = s.obBad := rfl
@[simp] theorem State.setPartW_accBad (s : State) (p w : Nat) (v : W64) : (s.setPartW p w v).accBad = s.accBad := rfl
@[simp] theorem State.setPartW_banks (s : State) (p w : Nat) (v : W64) : (s.setPartW p w v).banks = s.banks := rfl
@[simp] theorem State.setPartW_accReqs (s : State) (p w : Nat) (v : W64) : (s.setPartW p w v).accReqs = s.accReqs := rfl
@[simp] theorem State.setPartW_furrows (s : State) (p w : Nat) (v : W64) : (s.setPartW p w v).furrows = s.furrows := rfl
@[simp] theorem State.setPartW_gated (s : State) (p w : Nat) (v : W64) : (s.setPartW p w v).gated = s.gated := rfl
@[simp] theorem State.setPartW_halted (s : State) (p w : Nat) (v : W64) : (s.setPartW p w v).halted = s.halted := rfl
@[simp] theorem State.setPartW_tlb (s : State) (p w : Nat) (v : W64) : (s.setPartW p w v).tlb = s.tlb := rfl
@[simp] theorem State.setPartW_fmt (s : State) (p w : Nat) (v : W64) : (s.setPartW p w v).fmt = s.fmt := rfl
@[simp] theorem State.setPartW_ringWait (s : State) (p w : Nat) (v : W64) : (s.setPartW p w v).ringWait = s.ringWait := rfl
@[simp] theorem State.setPartW_represent (s : State) (p w : Nat) (v : W64) : (s.setPartW p w v).represent = s.represent := rfl
@[simp] theorem State.setPartW_cxlLines (s : State) (p w : Nat) (v : W64) : (s.setPartW p w v).cxlLines = s.cxlLines := rfl
@[simp] theorem State.setPartW_snoops (s : State) (p w : Nat) (v : W64) : (s.setPartW p w v).snoops = s.snoops := rfl
@[simp] theorem State.setPartW_faultIn (s : State) (p w : Nat) (v : W64) : (s.setPartW p w v).faultIn = s.faultIn := rfl
@[simp] theorem State.setPartW_gleanPart (s : State) (p w : Nat) (v : W64) : (s.setPartW p w v).gleanPart = s.gleanPart := rfl
@[simp] theorem State.setPartW_shardMap (s : State) (p w : Nat) (v : W64) : (s.setPartW p w v).shardMap = s.shardMap := rfl
@[simp] theorem State.setPartW_fieldMap (s : State) (p w : Nat) (v : W64) : (s.setPartW p w v).fieldMap = s.fieldMap := rfl
@[simp] theorem State.setPartW_services (s : State) (p w : Nat) (v : W64) : (s.setPartW p w v).services = s.services := rfl
@[simp] theorem State.setPartW_leases (s : State) (p w : Nat) (v : W64) : (s.setPartW p w v).leases = s.leases := rfl
@[simp] theorem State.setPartW_installs (s : State) (p w : Nat) (v : W64) : (s.setPartW p w v).installs = s.installs := rfl
@[simp] theorem State.setPartW_freeFrames (s : State) (p w : Nat) (v : W64) : (s.setPartW p w v).freeFrames = s.freeFrames := rfl
@[simp] theorem State.setPartW_seals (s : State) (p w : Nat) (v : W64) : (s.setPartW p w v).seals = s.seals := rfl
@[simp] theorem State.setPartW_fills (s : State) (p w : Nat) (v : W64) : (s.setPartW p w v).fills = s.fills := rfl
@[simp] theorem State.setPartW_calls (s : State) (p w : Nat) (v : W64) : (s.setPartW p w v).calls = s.calls := rfl
@[simp] theorem State.setPartW_tag (s : State) (p w : Nat) (v : W64) : (s.setPartW p w v).tag = s.tag := rfl
@[simp] theorem State.setPartW_watched (s : State) (p w : Nat) (v : W64) : (s.setPartW p w v).watched = s.watched := rfl
@[simp] theorem State.setPartW_incarnation (s : State) (p w : Nat) (v : W64) : (s.setPartW p w v).incarnation = s.incarnation := rfl
@[simp] theorem State.setPartW_hbSeq (s : State) (p w : Nat) (v : W64) : (s.setPartW p w v).hbSeq = s.hbSeq := rfl
@[simp] theorem State.setPartW_hbLast (s : State) (p w : Nat) (v : W64) : (s.setPartW p w v).hbLast = s.hbLast := rfl
@[simp] theorem State.setPartW_hbStopped (s : State) (p w : Nat) (v : W64) : (s.setPartW p w v).hbStopped = s.hbStopped := rfl
@[simp] theorem State.setPartW_periods (s : State) (p w : Nat) (v : W64) : (s.setPartW p w v).periods = s.periods := rfl
@[simp] theorem State.setPartW_recovery (s : State) (p w : Nat) (v : W64) : (s.setPartW p w v).recovery = s.recovery := rfl
@[simp] theorem State.setPartW_job (s : State) (p w : Nat) (v : W64) : (s.setPartW p w v).job = s.job := rfl
@[simp] theorem State.setPartW_kept (s : State) (p w : Nat) (v : W64) : (s.setPartW p w v).kept = s.kept := rfl
@[simp] theorem State.setPartW_jobScope (s : State) (p w : Nat) (v : W64) : (s.setPartW p w v).jobScope = s.jobScope := rfl
@[simp] theorem State.setPartW_drained (s : State) (p w : Nat) (v : W64) : (s.setPartW p w v).drained = s.drained := rfl
@[simp] theorem State.setPartW_draining (s : State) (p w : Nat) (v : W64) : (s.setPartW p w v).draining = s.draining := rfl
@[simp] theorem State.setPartW_link (s : State) (p w : Nat) (v : W64) : (s.setPartW p w v).link = s.link := rfl
@[simp] theorem State.setPartW_scaleup (s : State) (p w : Nat) (v : W64) : (s.setPartW p w v).scaleup = s.scaleup := rfl
@[simp] theorem State.setPartW_power (s : State) (p w : Nat) (v : W64) : (s.setPartW p w v).power = s.power := rfl
@[simp] theorem State.setPartW_bootStep (s : State) (p w : Nat) (v : W64) : (s.setPartW p w v).bootStep = s.bootStep := rfl
@[simp] theorem State.setPartW_bootSince (s : State) (p w : Nat) (v : W64) : (s.setPartW p w v).bootSince = s.bootSince := rfl
@[simp] theorem State.setPartW_pwrEn (s : State) (p w : Nat) (v : W64) : (s.setPartW p w v).pwrEn = s.pwrEn := rfl
@[simp] theorem State.setPartW_slotStrap (s : State) (p w : Nat) (v : W64) : (s.setPartW p w v).slotStrap = s.slotStrap := rfl
@[simp] theorem State.setPartW_stretch (s : State) (p w : Nat) (v : W64) : (s.setPartW p w v).stretch = s.stretch := rfl
@[simp] theorem State.setPartW_idStore (s : State) (p w : Nat) (v : W64) : (s.setPartW p w v).idStore = s.idStore := rfl
@[simp] theorem State.setPartW_i3c (s : State) (p w : Nat) (v : W64) : (s.setPartW p w v).i3c = s.i3c := rfl
@[simp] theorem State.setPartW_hdm (s : State) (p w : Nat) (v : W64) : (s.setPartW p w v).hdm = s.hdm := rfl
@[simp] theorem State.setPartW_mirrorBad (s : State) (p w : Nat) (v : W64) : (s.setPartW p w v).mirrorBad = s.mirrorBad := rfl
@[simp] theorem State.setPartW_vfOn (s : State) (p w : Nat) (v : W64) : (s.setPartW p w v).vfOn = s.vfOn := rfl
@[simp] theorem State.setPartW_snoopTime (s : State) (p w : Nat) (v : W64) : (s.setPartW p w v).snoopTime = s.snoopTime := rfl
@[simp] theorem State.setPartW_hostVia (s : State) (p w : Nat) (v : W64) : (s.setPartW p w v).hostVia = s.hostVia := rfl
@[simp] theorem State.setPartW_msiPend (s : State) (p w : Nat) (v : W64) : (s.setPartW p w v).msiPend = s.msiPend := rfl
@[simp] theorem State.setPartW_keys (s : State) (p w : Nat) (v : W64) : (s.setPartW p w v).keys = s.keys := rfl
@[simp] theorem State.setPartW_flash (s : State) (p w : Nat) (v : W64) : (s.setPartW p w v).flash = s.flash := rfl
@[simp] theorem State.setPartW_stewards (s : State) (p w : Nat) (v : W64) : (s.setPartW p w v).stewards = s.stewards := rfl
@[simp] theorem State.setPartW_ptp (s : State) (p w : Nat) (v : W64) : (s.setPartW p w v).ptp = s.ptp := rfl
@[simp] theorem State.setPartW_corrected (s : State) (p w : Nat) (v : W64) : (s.setPartW p w v).corrected = s.corrected := rfl
@[simp] theorem State.setPartW_shadowRetries (s : State) (p w : Nat) (v : W64) : (s.setPartW p w v).shadowRetries = s.shadowRetries := rfl
@[simp] theorem State.setPartW_fencedOut (s : State) (p w : Nat) (v : W64) : (s.setPartW p w v).fencedOut = s.fencedOut := rfl

/-! ### State.setFrameW -/

@[simp] theorem State.setFrameW_agenda (s : State) (pa : Nat) (v : W64) : (s.setFrameW pa v).agenda = s.agenda := rfl
@[simp] theorem State.setFrameW_cur (s : State) (pa : Nat) (v : W64) : (s.setFrameW pa v).cur = s.cur := rfl
@[simp] theorem State.setFrameW_freeCount (s : State) (pa : Nat) (v : W64) : (s.setFrameW pa v).freeCount = s.freeCount := rfl
@[simp] theorem State.setFrameW_shadow (s : State) (pa : Nat) (v : W64) : (s.setFrameW pa v).shadow = s.shadow := rfl
@[simp] theorem State.setFrameW_nextId (s : State) (pa : Nat) (v : W64) : (s.setFrameW pa v).nextId = s.nextId := rfl
@[simp] theorem State.setFrameW_slots (s : State) (pa : Nat) (v : W64) : (s.setFrameW pa v).slots = s.slots := rfl
@[simp] theorem State.setFrameW_cycle (s : State) (pa : Nat) (v : W64) : (s.setFrameW pa v).cycle = s.cycle := rfl
@[simp] theorem State.setFrameW_gtime (s : State) (pa : Nat) (v : W64) : (s.setFrameW pa v).gtime = s.gtime := rfl
@[simp] theorem State.setFrameW_syncErr (s : State) (pa : Nat) (v : W64) : (s.setFrameW pa v).syncErr = s.syncErr := rfl
@[simp] theorem State.setFrameW_timeBad (s : State) (pa : Nat) (v : W64) : (s.setFrameW pa v).timeBad = s.timeBad := rfl
@[simp] theorem State.setFrameW_safeSince (s : State) (pa : Nat) (v : W64) : (s.setFrameW pa v).safeSince = s.safeSince := rfl
@[simp] theorem State.setFrameW_mem (s : State) (pa : Nat) (v : W64) : (s.setFrameW pa v).mem = s.mem := rfl
@[simp] theorem State.setFrameW_poison (s : State) (pa : Nat) (v : W64) : (s.setFrameW pa v).poison = s.poison := rfl
@[simp] theorem State.setFrameW_scrubSeen (s : State) (pa : Nat) (v : W64) : (s.setFrameW pa v).scrubSeen = s.scrubSeen := rfl
@[simp] theorem State.setFrameW_retired (s : State) (pa : Nat) (v : W64) : (s.setFrameW pa v).retired = s.retired := rfl
@[simp] theorem State.setFrameW_consumed (s : State) (pa : Nat) (v : W64) : (s.setFrameW pa v).consumed = s.consumed := rfl
@[simp] theorem State.setFrameW_dirty (s : State) (pa : Nat) (v : W64) : (s.setFrameW pa v).dirty = s.dirty := rfl
@[simp] theorem State.setFrameW_aliasBits (s : State) (pa : Nat) (v : W64) : (s.setFrameW pa v).aliasBits = s.aliasBits := rfl
@[simp] theorem State.setFrameW_hostSt (s : State) (pa : Nat) (v : W64) : (s.setFrameW pa v).hostSt = s.hostSt := rfl
@[simp] theorem State.setFrameW_recalls (s : State) (pa : Nat) (v : W64) : (s.setFrameW pa v).recalls = s.recalls := rfl
@[simp] theorem State.setFrameW_counted (s : State) (pa : Nat) (v : W64) : (s.setFrameW pa v).counted = s.counted := rfl
@[simp] theorem State.setFrameW_countedData (s : State) (pa : Nat) (v : W64) : (s.setFrameW pa v).countedData = s.countedData := rfl
@[simp] theorem State.setFrameW_dir (s : State) (pa : Nat) (v : W64) : (s.setFrameW pa v).dir = s.dir := rfl
@[simp] theorem State.setFrameW_tableWrites (s : State) (pa : Nat) (v : W64) : (s.setFrameW pa v).tableWrites = s.tableWrites := rfl
@[simp] theorem State.setFrameW_sealed (s : State) (pa : Nat) (v : W64) : (s.setFrameW pa v).sealed = s.sealed := rfl
@[simp] theorem State.setFrameW_dieClock (s : State) (pa : Nat) (v : W64) : (s.setFrameW pa v).dieClock = s.dieClock := rfl
@[simp] theorem State.setFrameW_homeClock (s : State) (pa : Nat) (v : W64) : (s.setFrameW pa v).homeClock = s.homeClock := rfl
@[simp] theorem State.setFrameW_fabric (s : State) (pa : Nat) (v : W64) : (s.setFrameW pa v).fabric = s.fabric := rfl
@[simp] theorem State.setFrameW_results (s : State) (pa : Nat) (v : W64) : (s.setFrameW pa v).results = s.results := rfl
@[simp] theorem State.setFrameW_pendings (s : State) (pa : Nat) (v : W64) : (s.setFrameW pa v).pendings = s.pendings := rfl
@[simp] theorem State.setFrameW_fences (s : State) (pa : Nat) (v : W64) : (s.setFrameW pa v).fences = s.fences := rfl
@[simp] theorem State.setFrameW_sends (s : State) (pa : Nat) (v : W64) : (s.setFrameW pa v).sends = s.sends := rfl
@[simp] theorem State.setFrameW_desc (s : State) (pa : Nat) (v : W64) : (s.setFrameW pa v).desc = s.desc := rfl
@[simp] theorem State.setFrameW_part (s : State) (pa : Nat) (v : W64) : (s.setFrameW pa v).part = s.part := rfl
@[simp] theorem State.setFrameW_tabQueue (s : State) (pa : Nat) (v : W64) : (s.setFrameW pa v).tabQueue = s.tabQueue := rfl
@[simp] theorem State.setFrameW_tabRing (s : State) (pa : Nat) (v : W64) : (s.setFrameW pa v).tabRing = s.tabRing := rfl
@[simp] theorem State.setFrameW_tabPool (s : State) (pa : Nat) (v : W64) : (s.setFrameW pa v).tabPool = s.tabPool := rfl
@[simp] theorem State.setFrameW_ring (s : State) (pa : Nat) (v : W64) : (s.setFrameW pa v).ring = s.ring := rfl
@[simp] theorem State.setFrameW_pool (s : State) (pa : Nat) (v : W64) : (s.setFrameW pa v).pool = s.pool := rfl
@[simp] theorem State.setFrameW_bufOwner (s : State) (pa : Nat) (v : W64) : (s.setFrameW pa v).bufOwner = s.bufOwner := rfl
@[simp] theorem State.setFrameW_sysQueue (s : State) (pa : Nat) (v : W64) : (s.setFrameW pa v).sysQueue = s.sysQueue := rfl
@[simp] theorem State.setFrameW_migQueue (s : State) (pa : Nat) (v : W64) : (s.setFrameW pa v).migQueue = s.migQueue := rfl
@[simp] theorem State.setFrameW_seqLost (s : State) (pa : Nat) (v : W64) : (s.setFrameW pa v).seqLost = s.seqLost := rfl
@[simp] theorem State.setFrameW_migOvf (s : State) (pa : Nat) (v : W64) : (s.setFrameW pa v).migOvf = s.migOvf := rfl
@[simp] theorem State.setFrameW_msi (s : State) (pa : Nat) (v : W64) : (s.setFrameW pa v).msi = s.msi := rfl
@[simp] theorem State.setFrameW_resets (s : State) (pa : Nat) (v : W64) : (s.setFrameW pa v).resets = s.resets := rfl
@[simp] theorem State.setFrameW_armed (s : State) (pa : Nat) (v : W64) : (s.setFrameW pa v).armed = s.armed := rfl
@[simp] theorem State.setFrameW_cmdOut (s : State) (pa : Nat) (v : W64) : (s.setFrameW pa v).cmdOut = s.cmdOut := rfl
@[simp] theorem State.setFrameW_cmdWait (s : State) (pa : Nat) (v : W64) : (s.setFrameW pa v).cmdWait = s.cmdWait := rfl
@[simp] theorem State.setFrameW_rootPend (s : State) (pa : Nat) (v : W64) : (s.setFrameW pa v).rootPend = s.rootPend := rfl
@[simp] theorem State.setFrameW_queue (s : State) (pa : Nat) (v : W64) : (s.setFrameW pa v).queue = s.queue := rfl
@[simp] theorem State.setFrameW_grids (s : State) (pa : Nat) (v : W64) : (s.setFrameW pa v).grids = s.grids := rfl
@[simp] theorem State.setFrameW_clusters (s : State) (pa : Nat) (v : W64) : (s.setFrameW pa v).clusters = s.clusters := rfl
@[simp] theorem State.setFrameW_teams (s : State) (pa : Nat) (v : W64) : (s.setFrameW pa v).teams = s.teams := rfl
@[simp] theorem State.setFrameW_groups (s : State) (pa : Nat) (v : W64) : (s.setFrameW pa v).groups = s.groups := rfl
@[simp] theorem State.setFrameW_ob (s : State) (pa : Nat) (v : W64) : (s.setFrameW pa v).ob = s.ob := rfl
@[simp] theorem State.setFrameW_obMem (s : State) (pa : Nat) (v : W64) : (s.setFrameW pa v).obMem = s.obMem := rfl
@[simp] theorem State.setFrameW_acc (s : State) (pa : Nat) (v : W64) : (s.setFrameW pa v).acc = s.acc := rfl
@[simp] theorem State.setFrameW_obBad (s : State) (pa : Nat) (v : W64) : (s.setFrameW pa v).obBad = s.obBad := rfl
@[simp] theorem State.setFrameW_accBad (s : State) (pa : Nat) (v : W64) : (s.setFrameW pa v).accBad = s.accBad := rfl
@[simp] theorem State.setFrameW_banks (s : State) (pa : Nat) (v : W64) : (s.setFrameW pa v).banks = s.banks := rfl
@[simp] theorem State.setFrameW_accReqs (s : State) (pa : Nat) (v : W64) : (s.setFrameW pa v).accReqs = s.accReqs := rfl
@[simp] theorem State.setFrameW_furrows (s : State) (pa : Nat) (v : W64) : (s.setFrameW pa v).furrows = s.furrows := rfl
@[simp] theorem State.setFrameW_gated (s : State) (pa : Nat) (v : W64) : (s.setFrameW pa v).gated = s.gated := rfl
@[simp] theorem State.setFrameW_halted (s : State) (pa : Nat) (v : W64) : (s.setFrameW pa v).halted = s.halted := rfl
@[simp] theorem State.setFrameW_tlb (s : State) (pa : Nat) (v : W64) : (s.setFrameW pa v).tlb = s.tlb := rfl
@[simp] theorem State.setFrameW_fmt (s : State) (pa : Nat) (v : W64) : (s.setFrameW pa v).fmt = s.fmt := rfl
@[simp] theorem State.setFrameW_ringWait (s : State) (pa : Nat) (v : W64) : (s.setFrameW pa v).ringWait = s.ringWait := rfl
@[simp] theorem State.setFrameW_represent (s : State) (pa : Nat) (v : W64) : (s.setFrameW pa v).represent = s.represent := rfl
@[simp] theorem State.setFrameW_cxlLines (s : State) (pa : Nat) (v : W64) : (s.setFrameW pa v).cxlLines = s.cxlLines := rfl
@[simp] theorem State.setFrameW_snoops (s : State) (pa : Nat) (v : W64) : (s.setFrameW pa v).snoops = s.snoops := rfl
@[simp] theorem State.setFrameW_faultIn (s : State) (pa : Nat) (v : W64) : (s.setFrameW pa v).faultIn = s.faultIn := rfl
@[simp] theorem State.setFrameW_gleanPart (s : State) (pa : Nat) (v : W64) : (s.setFrameW pa v).gleanPart = s.gleanPart := rfl
@[simp] theorem State.setFrameW_shardMap (s : State) (pa : Nat) (v : W64) : (s.setFrameW pa v).shardMap = s.shardMap := rfl
@[simp] theorem State.setFrameW_fieldMap (s : State) (pa : Nat) (v : W64) : (s.setFrameW pa v).fieldMap = s.fieldMap := rfl
@[simp] theorem State.setFrameW_services (s : State) (pa : Nat) (v : W64) : (s.setFrameW pa v).services = s.services := rfl
@[simp] theorem State.setFrameW_leases (s : State) (pa : Nat) (v : W64) : (s.setFrameW pa v).leases = s.leases := rfl
@[simp] theorem State.setFrameW_installs (s : State) (pa : Nat) (v : W64) : (s.setFrameW pa v).installs = s.installs := rfl
@[simp] theorem State.setFrameW_freeFrames (s : State) (pa : Nat) (v : W64) : (s.setFrameW pa v).freeFrames = s.freeFrames := rfl
@[simp] theorem State.setFrameW_seals (s : State) (pa : Nat) (v : W64) : (s.setFrameW pa v).seals = s.seals := rfl
@[simp] theorem State.setFrameW_fills (s : State) (pa : Nat) (v : W64) : (s.setFrameW pa v).fills = s.fills := rfl
@[simp] theorem State.setFrameW_calls (s : State) (pa : Nat) (v : W64) : (s.setFrameW pa v).calls = s.calls := rfl
@[simp] theorem State.setFrameW_tag (s : State) (pa : Nat) (v : W64) : (s.setFrameW pa v).tag = s.tag := rfl
@[simp] theorem State.setFrameW_watched (s : State) (pa : Nat) (v : W64) : (s.setFrameW pa v).watched = s.watched := rfl
@[simp] theorem State.setFrameW_incarnation (s : State) (pa : Nat) (v : W64) : (s.setFrameW pa v).incarnation = s.incarnation := rfl
@[simp] theorem State.setFrameW_hbSeq (s : State) (pa : Nat) (v : W64) : (s.setFrameW pa v).hbSeq = s.hbSeq := rfl
@[simp] theorem State.setFrameW_hbLast (s : State) (pa : Nat) (v : W64) : (s.setFrameW pa v).hbLast = s.hbLast := rfl
@[simp] theorem State.setFrameW_hbStopped (s : State) (pa : Nat) (v : W64) : (s.setFrameW pa v).hbStopped = s.hbStopped := rfl
@[simp] theorem State.setFrameW_periods (s : State) (pa : Nat) (v : W64) : (s.setFrameW pa v).periods = s.periods := rfl
@[simp] theorem State.setFrameW_recovery (s : State) (pa : Nat) (v : W64) : (s.setFrameW pa v).recovery = s.recovery := rfl
@[simp] theorem State.setFrameW_job (s : State) (pa : Nat) (v : W64) : (s.setFrameW pa v).job = s.job := rfl
@[simp] theorem State.setFrameW_kept (s : State) (pa : Nat) (v : W64) : (s.setFrameW pa v).kept = s.kept := rfl
@[simp] theorem State.setFrameW_jobScope (s : State) (pa : Nat) (v : W64) : (s.setFrameW pa v).jobScope = s.jobScope := rfl
@[simp] theorem State.setFrameW_drained (s : State) (pa : Nat) (v : W64) : (s.setFrameW pa v).drained = s.drained := rfl
@[simp] theorem State.setFrameW_draining (s : State) (pa : Nat) (v : W64) : (s.setFrameW pa v).draining = s.draining := rfl
@[simp] theorem State.setFrameW_link (s : State) (pa : Nat) (v : W64) : (s.setFrameW pa v).link = s.link := rfl
@[simp] theorem State.setFrameW_scaleup (s : State) (pa : Nat) (v : W64) : (s.setFrameW pa v).scaleup = s.scaleup := rfl
@[simp] theorem State.setFrameW_power (s : State) (pa : Nat) (v : W64) : (s.setFrameW pa v).power = s.power := rfl
@[simp] theorem State.setFrameW_bootStep (s : State) (pa : Nat) (v : W64) : (s.setFrameW pa v).bootStep = s.bootStep := rfl
@[simp] theorem State.setFrameW_bootSince (s : State) (pa : Nat) (v : W64) : (s.setFrameW pa v).bootSince = s.bootSince := rfl
@[simp] theorem State.setFrameW_pwrEn (s : State) (pa : Nat) (v : W64) : (s.setFrameW pa v).pwrEn = s.pwrEn := rfl
@[simp] theorem State.setFrameW_slotStrap (s : State) (pa : Nat) (v : W64) : (s.setFrameW pa v).slotStrap = s.slotStrap := rfl
@[simp] theorem State.setFrameW_stretch (s : State) (pa : Nat) (v : W64) : (s.setFrameW pa v).stretch = s.stretch := rfl
@[simp] theorem State.setFrameW_idStore (s : State) (pa : Nat) (v : W64) : (s.setFrameW pa v).idStore = s.idStore := rfl
@[simp] theorem State.setFrameW_i3c (s : State) (pa : Nat) (v : W64) : (s.setFrameW pa v).i3c = s.i3c := rfl
@[simp] theorem State.setFrameW_hdm (s : State) (pa : Nat) (v : W64) : (s.setFrameW pa v).hdm = s.hdm := rfl
@[simp] theorem State.setFrameW_mirrorBad (s : State) (pa : Nat) (v : W64) : (s.setFrameW pa v).mirrorBad = s.mirrorBad := rfl
@[simp] theorem State.setFrameW_vfOn (s : State) (pa : Nat) (v : W64) : (s.setFrameW pa v).vfOn = s.vfOn := rfl
@[simp] theorem State.setFrameW_snoopTime (s : State) (pa : Nat) (v : W64) : (s.setFrameW pa v).snoopTime = s.snoopTime := rfl
@[simp] theorem State.setFrameW_hostVia (s : State) (pa : Nat) (v : W64) : (s.setFrameW pa v).hostVia = s.hostVia := rfl
@[simp] theorem State.setFrameW_msiPend (s : State) (pa : Nat) (v : W64) : (s.setFrameW pa v).msiPend = s.msiPend := rfl
@[simp] theorem State.setFrameW_keys (s : State) (pa : Nat) (v : W64) : (s.setFrameW pa v).keys = s.keys := rfl
@[simp] theorem State.setFrameW_flash (s : State) (pa : Nat) (v : W64) : (s.setFrameW pa v).flash = s.flash := rfl
@[simp] theorem State.setFrameW_stewards (s : State) (pa : Nat) (v : W64) : (s.setFrameW pa v).stewards = s.stewards := rfl
@[simp] theorem State.setFrameW_ptp (s : State) (pa : Nat) (v : W64) : (s.setFrameW pa v).ptp = s.ptp := rfl
@[simp] theorem State.setFrameW_corrected (s : State) (pa : Nat) (v : W64) : (s.setFrameW pa v).corrected = s.corrected := rfl
@[simp] theorem State.setFrameW_shadowRetries (s : State) (pa : Nat) (v : W64) : (s.setFrameW pa v).shadowRetries = s.shadowRetries := rfl
@[simp] theorem State.setFrameW_fencedOut (s : State) (pa : Nat) (v : W64) : (s.setFrameW pa v).fencedOut = s.fencedOut := rfl

/-! ### Env.after -/

@[simp] theorem Env.after_agenda (e : Env) (s : State) (g : Group) (d : Nat → W64) : (e.after s g d).agenda = s.agenda := by
  simp only [Env.after, State.retire_agenda, State.charge_agenda, State.setGroup_agenda]
@[simp] theorem Env.after_freeCount (e : Env) (s : State) (g : Group) (d : Nat → W64) : (e.after s g d).freeCount = s.freeCount := by
  simp only [Env.after, State.retire_freeCount, State.charge_freeCount, State.setGroup_freeCount]
@[simp] theorem Env.after_shadow (e : Env) (s : State) (g : Group) (d : Nat → W64) : (e.after s g d).shadow = s.shadow := by
  simp only [Env.after, State.retire_shadow, State.charge_shadow, State.setGroup_shadow]
@[simp] theorem Env.after_nextId (e : Env) (s : State) (g : Group) (d : Nat → W64) : (e.after s g d).nextId = s.nextId := by
  simp only [Env.after, State.retire_nextId, State.charge_nextId, State.setGroup_nextId]
@[simp] theorem Env.after_slots (e : Env) (s : State) (g : Group) (d : Nat → W64) : (e.after s g d).slots = s.slots := by
  simp only [Env.after, State.retire_slots, State.charge_slots, State.setGroup_slots]
@[simp] theorem Env.after_cycle (e : Env) (s : State) (g : Group) (d : Nat → W64) : (e.after s g d).cycle = s.cycle := by
  simp only [Env.after, State.retire_cycle, State.charge_cycle, State.setGroup_cycle]
@[simp] theorem Env.after_gtime (e : Env) (s : State) (g : Group) (d : Nat → W64) : (e.after s g d).gtime = s.gtime := by
  simp only [Env.after, State.retire_gtime, State.charge_gtime, State.setGroup_gtime]
@[simp] theorem Env.after_syncErr (e : Env) (s : State) (g : Group) (d : Nat → W64) : (e.after s g d).syncErr = s.syncErr := by
  simp only [Env.after, State.retire_syncErr, State.charge_syncErr, State.setGroup_syncErr]
@[simp] theorem Env.after_timeBad (e : Env) (s : State) (g : Group) (d : Nat → W64) : (e.after s g d).timeBad = s.timeBad := by
  simp only [Env.after, State.retire_timeBad, State.charge_timeBad, State.setGroup_timeBad]
@[simp] theorem Env.after_safeSince (e : Env) (s : State) (g : Group) (d : Nat → W64) : (e.after s g d).safeSince = s.safeSince := by
  simp only [Env.after, State.retire_safeSince, State.charge_safeSince, State.setGroup_safeSince]
@[simp] theorem Env.after_mem (e : Env) (s : State) (g : Group) (d : Nat → W64) : (e.after s g d).mem = s.mem := by
  simp only [Env.after, State.retire_mem, State.charge_mem, State.setGroup_mem]
@[simp] theorem Env.after_poison (e : Env) (s : State) (g : Group) (d : Nat → W64) : (e.after s g d).poison = s.poison := by
  simp only [Env.after, State.retire_poison, State.charge_poison, State.setGroup_poison]
@[simp] theorem Env.after_scrubSeen (e : Env) (s : State) (g : Group) (d : Nat → W64) : (e.after s g d).scrubSeen = s.scrubSeen := by
  simp only [Env.after, State.retire_scrubSeen, State.charge_scrubSeen, State.setGroup_scrubSeen]
@[simp] theorem Env.after_retired (e : Env) (s : State) (g : Group) (d : Nat → W64) : (e.after s g d).retired = s.retired := by
  simp only [Env.after, State.retire_retired, State.charge_retired, State.setGroup_retired]
@[simp] theorem Env.after_consumed (e : Env) (s : State) (g : Group) (d : Nat → W64) : (e.after s g d).consumed = s.consumed := by
  simp only [Env.after, State.retire_consumed, State.charge_consumed, State.setGroup_consumed]
@[simp] theorem Env.after_dirty (e : Env) (s : State) (g : Group) (d : Nat → W64) : (e.after s g d).dirty = s.dirty := by
  simp only [Env.after, State.retire_dirty, State.charge_dirty, State.setGroup_dirty]
@[simp] theorem Env.after_frame (e : Env) (s : State) (g : Group) (d : Nat → W64) : (e.after s g d).frame = s.frame := by
  simp only [Env.after, State.retire_frame, State.charge_frame, State.setGroup_frame]
@[simp] theorem Env.after_aliasBits (e : Env) (s : State) (g : Group) (d : Nat → W64) : (e.after s g d).aliasBits = s.aliasBits := by
  simp only [Env.after, State.retire_aliasBits, State.charge_aliasBits, State.setGroup_aliasBits]
@[simp] theorem Env.after_hostSt (e : Env) (s : State) (g : Group) (d : Nat → W64) : (e.after s g d).hostSt = s.hostSt := by
  simp only [Env.after, State.retire_hostSt, State.charge_hostSt, State.setGroup_hostSt]
@[simp] theorem Env.after_recalls (e : Env) (s : State) (g : Group) (d : Nat → W64) : (e.after s g d).recalls = s.recalls := by
  simp only [Env.after, State.retire_recalls, State.charge_recalls, State.setGroup_recalls]
@[simp] theorem Env.after_counted (e : Env) (s : State) (g : Group) (d : Nat → W64) : (e.after s g d).counted = s.counted := by
  simp only [Env.after, State.retire_counted, State.charge_counted, State.setGroup_counted]
@[simp] theorem Env.after_countedData (e : Env) (s : State) (g : Group) (d : Nat → W64) : (e.after s g d).countedData = s.countedData := by
  simp only [Env.after, State.retire_countedData, State.charge_countedData, State.setGroup_countedData]
@[simp] theorem Env.after_dir (e : Env) (s : State) (g : Group) (d : Nat → W64) : (e.after s g d).dir = s.dir := by
  simp only [Env.after, State.retire_dir, State.charge_dir, State.setGroup_dir]
@[simp] theorem Env.after_tableWrites (e : Env) (s : State) (g : Group) (d : Nat → W64) : (e.after s g d).tableWrites = s.tableWrites := by
  simp only [Env.after, State.retire_tableWrites, State.charge_tableWrites, State.setGroup_tableWrites]
@[simp] theorem Env.after_sealed (e : Env) (s : State) (g : Group) (d : Nat → W64) : (e.after s g d).sealed = s.sealed := by
  simp only [Env.after, State.retire_sealed, State.charge_sealed, State.setGroup_sealed]
@[simp] theorem Env.after_dieClock (e : Env) (s : State) (g : Group) (d : Nat → W64) : (e.after s g d).dieClock = s.dieClock := by
  simp only [Env.after, State.retire_dieClock, State.charge_dieClock, State.setGroup_dieClock]
@[simp] theorem Env.after_homeClock (e : Env) (s : State) (g : Group) (d : Nat → W64) : (e.after s g d).homeClock = s.homeClock := by
  simp only [Env.after, State.retire_homeClock, State.charge_homeClock, State.setGroup_homeClock]
@[simp] theorem Env.after_fabric (e : Env) (s : State) (g : Group) (d : Nat → W64) : (e.after s g d).fabric = s.fabric := by
  simp only [Env.after, State.retire_fabric, State.charge_fabric, State.setGroup_fabric]
@[simp] theorem Env.after_results (e : Env) (s : State) (g : Group) (d : Nat → W64) : (e.after s g d).results = s.results := by
  simp only [Env.after, State.retire_results, State.charge_results, State.setGroup_results]
@[simp] theorem Env.after_pendings (e : Env) (s : State) (g : Group) (d : Nat → W64) : (e.after s g d).pendings = s.pendings := by
  simp only [Env.after, State.retire_pendings, State.charge_pendings, State.setGroup_pendings]
@[simp] theorem Env.after_fences (e : Env) (s : State) (g : Group) (d : Nat → W64) : (e.after s g d).fences = s.fences := by
  simp only [Env.after, State.retire_fences, State.charge_fences, State.setGroup_fences]
@[simp] theorem Env.after_sends (e : Env) (s : State) (g : Group) (d : Nat → W64) : (e.after s g d).sends = s.sends := by
  simp only [Env.after, State.retire_sends, State.charge_sends, State.setGroup_sends]
@[simp] theorem Env.after_desc (e : Env) (s : State) (g : Group) (d : Nat → W64) : (e.after s g d).desc = s.desc := by
  simp only [Env.after, State.retire_desc, State.charge_desc, State.setGroup_desc]
@[simp] theorem Env.after_part (e : Env) (s : State) (g : Group) (d : Nat → W64) : (e.after s g d).part = s.part := by
  simp only [Env.after, State.retire_part, State.charge_part, State.setGroup_part]
@[simp] theorem Env.after_tabQueue (e : Env) (s : State) (g : Group) (d : Nat → W64) : (e.after s g d).tabQueue = s.tabQueue := by
  simp only [Env.after, State.retire_tabQueue, State.charge_tabQueue, State.setGroup_tabQueue]
@[simp] theorem Env.after_tabRing (e : Env) (s : State) (g : Group) (d : Nat → W64) : (e.after s g d).tabRing = s.tabRing := by
  simp only [Env.after, State.retire_tabRing, State.charge_tabRing, State.setGroup_tabRing]
@[simp] theorem Env.after_tabPool (e : Env) (s : State) (g : Group) (d : Nat → W64) : (e.after s g d).tabPool = s.tabPool := by
  simp only [Env.after, State.retire_tabPool, State.charge_tabPool, State.setGroup_tabPool]
@[simp] theorem Env.after_ring (e : Env) (s : State) (g : Group) (d : Nat → W64) : (e.after s g d).ring = s.ring := by
  simp only [Env.after, State.retire_ring, State.charge_ring, State.setGroup_ring]
@[simp] theorem Env.after_pool (e : Env) (s : State) (g : Group) (d : Nat → W64) : (e.after s g d).pool = s.pool := by
  simp only [Env.after, State.retire_pool, State.charge_pool, State.setGroup_pool]
@[simp] theorem Env.after_bufOwner (e : Env) (s : State) (g : Group) (d : Nat → W64) : (e.after s g d).bufOwner = s.bufOwner := by
  simp only [Env.after, State.retire_bufOwner, State.charge_bufOwner, State.setGroup_bufOwner]
@[simp] theorem Env.after_sysQueue (e : Env) (s : State) (g : Group) (d : Nat → W64) : (e.after s g d).sysQueue = s.sysQueue := by
  simp only [Env.after, State.retire_sysQueue, State.charge_sysQueue, State.setGroup_sysQueue]
@[simp] theorem Env.after_migQueue (e : Env) (s : State) (g : Group) (d : Nat → W64) : (e.after s g d).migQueue = s.migQueue := by
  simp only [Env.after, State.retire_migQueue, State.charge_migQueue, State.setGroup_migQueue]
@[simp] theorem Env.after_seqLost (e : Env) (s : State) (g : Group) (d : Nat → W64) : (e.after s g d).seqLost = s.seqLost := by
  simp only [Env.after, State.retire_seqLost, State.charge_seqLost, State.setGroup_seqLost]
@[simp] theorem Env.after_migOvf (e : Env) (s : State) (g : Group) (d : Nat → W64) : (e.after s g d).migOvf = s.migOvf := by
  simp only [Env.after, State.retire_migOvf, State.charge_migOvf, State.setGroup_migOvf]
@[simp] theorem Env.after_msi (e : Env) (s : State) (g : Group) (d : Nat → W64) : (e.after s g d).msi = s.msi := by
  simp only [Env.after, State.retire_msi, State.charge_msi, State.setGroup_msi]
@[simp] theorem Env.after_resets (e : Env) (s : State) (g : Group) (d : Nat → W64) : (e.after s g d).resets = s.resets := by
  simp only [Env.after, State.retire_resets, State.charge_resets, State.setGroup_resets]
@[simp] theorem Env.after_armed (e : Env) (s : State) (g : Group) (d : Nat → W64) : (e.after s g d).armed = s.armed := by
  simp only [Env.after, State.retire_armed, State.charge_armed, State.setGroup_armed]
@[simp] theorem Env.after_cmdOut (e : Env) (s : State) (g : Group) (d : Nat → W64) : (e.after s g d).cmdOut = s.cmdOut := by
  simp only [Env.after, State.retire_cmdOut, State.charge_cmdOut, State.setGroup_cmdOut]
@[simp] theorem Env.after_cmdWait (e : Env) (s : State) (g : Group) (d : Nat → W64) : (e.after s g d).cmdWait = s.cmdWait := by
  simp only [Env.after, State.retire_cmdWait, State.charge_cmdWait, State.setGroup_cmdWait]
@[simp] theorem Env.after_rootPend (e : Env) (s : State) (g : Group) (d : Nat → W64) : (e.after s g d).rootPend = s.rootPend := by
  simp only [Env.after, State.retire_rootPend, State.charge_rootPend, State.setGroup_rootPend]
@[simp] theorem Env.after_queue (e : Env) (s : State) (g : Group) (d : Nat → W64) : (e.after s g d).queue = s.queue := by
  simp only [Env.after, State.retire_queue, State.charge_queue, State.setGroup_queue]
@[simp] theorem Env.after_clusters (e : Env) (s : State) (g : Group) (d : Nat → W64) : (e.after s g d).clusters = s.clusters := by
  simp only [Env.after, State.retire_clusters, State.charge_clusters, State.setGroup_clusters]
@[simp] theorem Env.after_teams (e : Env) (s : State) (g : Group) (d : Nat → W64) : (e.after s g d).teams = s.teams := by
  simp only [Env.after, State.retire_teams, State.charge_teams, State.setGroup_teams]
@[simp] theorem Env.after_ob (e : Env) (s : State) (g : Group) (d : Nat → W64) : (e.after s g d).ob = s.ob := by
  simp only [Env.after, State.retire_ob, State.charge_ob, State.setGroup_ob]
@[simp] theorem Env.after_obMem (e : Env) (s : State) (g : Group) (d : Nat → W64) : (e.after s g d).obMem = s.obMem := by
  simp only [Env.after, State.retire_obMem, State.charge_obMem, State.setGroup_obMem]
@[simp] theorem Env.after_acc (e : Env) (s : State) (g : Group) (d : Nat → W64) : (e.after s g d).acc = s.acc := by
  simp only [Env.after, State.retire_acc, State.charge_acc, State.setGroup_acc]
@[simp] theorem Env.after_obBad (e : Env) (s : State) (g : Group) (d : Nat → W64) : (e.after s g d).obBad = s.obBad := by
  simp only [Env.after, State.retire_obBad, State.charge_obBad, State.setGroup_obBad]
@[simp] theorem Env.after_accBad (e : Env) (s : State) (g : Group) (d : Nat → W64) : (e.after s g d).accBad = s.accBad := by
  simp only [Env.after, State.retire_accBad, State.charge_accBad, State.setGroup_accBad]
@[simp] theorem Env.after_banks (e : Env) (s : State) (g : Group) (d : Nat → W64) : (e.after s g d).banks = s.banks := by
  simp only [Env.after, State.retire_banks, State.charge_banks, State.setGroup_banks]
@[simp] theorem Env.after_accReqs (e : Env) (s : State) (g : Group) (d : Nat → W64) : (e.after s g d).accReqs = s.accReqs := by
  simp only [Env.after, State.retire_accReqs, State.charge_accReqs, State.setGroup_accReqs]
@[simp] theorem Env.after_furrows (e : Env) (s : State) (g : Group) (d : Nat → W64) : (e.after s g d).furrows = s.furrows := by
  simp only [Env.after, State.retire_furrows, State.charge_furrows, State.setGroup_furrows]
@[simp] theorem Env.after_gated (e : Env) (s : State) (g : Group) (d : Nat → W64) : (e.after s g d).gated = s.gated := by
  simp only [Env.after, State.retire_gated, State.charge_gated, State.setGroup_gated]
@[simp] theorem Env.after_halted (e : Env) (s : State) (g : Group) (d : Nat → W64) : (e.after s g d).halted = s.halted := by
  simp only [Env.after, State.retire_halted, State.charge_halted, State.setGroup_halted]
@[simp] theorem Env.after_tlb (e : Env) (s : State) (g : Group) (d : Nat → W64) : (e.after s g d).tlb = s.tlb := by
  simp only [Env.after, State.retire_tlb, State.charge_tlb, State.setGroup_tlb]
@[simp] theorem Env.after_fmt (e : Env) (s : State) (g : Group) (d : Nat → W64) : (e.after s g d).fmt = s.fmt := by
  simp only [Env.after, State.retire_fmt, State.charge_fmt, State.setGroup_fmt]
@[simp] theorem Env.after_ringWait (e : Env) (s : State) (g : Group) (d : Nat → W64) : (e.after s g d).ringWait = s.ringWait := by
  simp only [Env.after, State.retire_ringWait, State.charge_ringWait, State.setGroup_ringWait]
@[simp] theorem Env.after_represent (e : Env) (s : State) (g : Group) (d : Nat → W64) : (e.after s g d).represent = s.represent := by
  simp only [Env.after, State.retire_represent, State.charge_represent, State.setGroup_represent]
@[simp] theorem Env.after_cxlLines (e : Env) (s : State) (g : Group) (d : Nat → W64) : (e.after s g d).cxlLines = s.cxlLines := by
  simp only [Env.after, State.retire_cxlLines, State.charge_cxlLines, State.setGroup_cxlLines]
@[simp] theorem Env.after_snoops (e : Env) (s : State) (g : Group) (d : Nat → W64) : (e.after s g d).snoops = s.snoops := by
  simp only [Env.after, State.retire_snoops, State.charge_snoops, State.setGroup_snoops]
@[simp] theorem Env.after_faultIn (e : Env) (s : State) (g : Group) (d : Nat → W64) : (e.after s g d).faultIn = s.faultIn := by
  simp only [Env.after, State.retire_faultIn, State.charge_faultIn, State.setGroup_faultIn]
@[simp] theorem Env.after_gleanPart (e : Env) (s : State) (g : Group) (d : Nat → W64) : (e.after s g d).gleanPart = s.gleanPart := by
  simp only [Env.after, State.retire_gleanPart, State.charge_gleanPart, State.setGroup_gleanPart]
@[simp] theorem Env.after_shardMap (e : Env) (s : State) (g : Group) (d : Nat → W64) : (e.after s g d).shardMap = s.shardMap := by
  simp only [Env.after, State.retire_shardMap, State.charge_shardMap, State.setGroup_shardMap]
@[simp] theorem Env.after_fieldMap (e : Env) (s : State) (g : Group) (d : Nat → W64) : (e.after s g d).fieldMap = s.fieldMap := by
  simp only [Env.after, State.retire_fieldMap, State.charge_fieldMap, State.setGroup_fieldMap]
@[simp] theorem Env.after_services (e : Env) (s : State) (g : Group) (d : Nat → W64) : (e.after s g d).services = s.services := by
  simp only [Env.after, State.retire_services, State.charge_services, State.setGroup_services]
@[simp] theorem Env.after_leases (e : Env) (s : State) (g : Group) (d : Nat → W64) : (e.after s g d).leases = s.leases := by
  simp only [Env.after, State.retire_leases, State.charge_leases, State.setGroup_leases]
@[simp] theorem Env.after_installs (e : Env) (s : State) (g : Group) (d : Nat → W64) : (e.after s g d).installs = s.installs := by
  simp only [Env.after, State.retire_installs, State.charge_installs, State.setGroup_installs]
@[simp] theorem Env.after_freeFrames (e : Env) (s : State) (g : Group) (d : Nat → W64) : (e.after s g d).freeFrames = s.freeFrames := by
  simp only [Env.after, State.retire_freeFrames, State.charge_freeFrames, State.setGroup_freeFrames]
@[simp] theorem Env.after_seals (e : Env) (s : State) (g : Group) (d : Nat → W64) : (e.after s g d).seals = s.seals := by
  simp only [Env.after, State.retire_seals, State.charge_seals, State.setGroup_seals]
@[simp] theorem Env.after_fills (e : Env) (s : State) (g : Group) (d : Nat → W64) : (e.after s g d).fills = s.fills := by
  simp only [Env.after, State.retire_fills, State.charge_fills, State.setGroup_fills]
@[simp] theorem Env.after_calls (e : Env) (s : State) (g : Group) (d : Nat → W64) : (e.after s g d).calls = s.calls := by
  simp only [Env.after, State.retire_calls, State.charge_calls, State.setGroup_calls]
@[simp] theorem Env.after_tag (e : Env) (s : State) (g : Group) (d : Nat → W64) : (e.after s g d).tag = s.tag := by
  simp only [Env.after, State.retire_tag, State.charge_tag, State.setGroup_tag]
@[simp] theorem Env.after_watched (e : Env) (s : State) (g : Group) (d : Nat → W64) : (e.after s g d).watched = s.watched := by
  simp only [Env.after, State.retire_watched, State.charge_watched, State.setGroup_watched]
@[simp] theorem Env.after_incarnation (e : Env) (s : State) (g : Group) (d : Nat → W64) : (e.after s g d).incarnation = s.incarnation := by
  simp only [Env.after, State.retire_incarnation, State.charge_incarnation, State.setGroup_incarnation]
@[simp] theorem Env.after_hbSeq (e : Env) (s : State) (g : Group) (d : Nat → W64) : (e.after s g d).hbSeq = s.hbSeq := by
  simp only [Env.after, State.retire_hbSeq, State.charge_hbSeq, State.setGroup_hbSeq]
@[simp] theorem Env.after_hbLast (e : Env) (s : State) (g : Group) (d : Nat → W64) : (e.after s g d).hbLast = s.hbLast := by
  simp only [Env.after, State.retire_hbLast, State.charge_hbLast, State.setGroup_hbLast]
@[simp] theorem Env.after_hbStopped (e : Env) (s : State) (g : Group) (d : Nat → W64) : (e.after s g d).hbStopped = s.hbStopped := by
  simp only [Env.after, State.retire_hbStopped, State.charge_hbStopped, State.setGroup_hbStopped]
@[simp] theorem Env.after_periods (e : Env) (s : State) (g : Group) (d : Nat → W64) : (e.after s g d).periods = s.periods := by
  simp only [Env.after, State.retire_periods, State.charge_periods, State.setGroup_periods]
@[simp] theorem Env.after_recovery (e : Env) (s : State) (g : Group) (d : Nat → W64) : (e.after s g d).recovery = s.recovery := by
  simp only [Env.after, State.retire_recovery, State.charge_recovery, State.setGroup_recovery]
@[simp] theorem Env.after_job (e : Env) (s : State) (g : Group) (d : Nat → W64) : (e.after s g d).job = s.job := by
  simp only [Env.after, State.retire_job, State.charge_job, State.setGroup_job]
@[simp] theorem Env.after_kept (e : Env) (s : State) (g : Group) (d : Nat → W64) : (e.after s g d).kept = s.kept := by
  simp only [Env.after, State.retire_kept, State.charge_kept, State.setGroup_kept]
@[simp] theorem Env.after_jobScope (e : Env) (s : State) (g : Group) (d : Nat → W64) : (e.after s g d).jobScope = s.jobScope := by
  simp only [Env.after, State.retire_jobScope, State.charge_jobScope, State.setGroup_jobScope]
@[simp] theorem Env.after_drained (e : Env) (s : State) (g : Group) (d : Nat → W64) : (e.after s g d).drained = s.drained := by
  simp only [Env.after, State.retire_drained, State.charge_drained, State.setGroup_drained]
@[simp] theorem Env.after_draining (e : Env) (s : State) (g : Group) (d : Nat → W64) : (e.after s g d).draining = s.draining := by
  simp only [Env.after, State.retire_draining, State.charge_draining, State.setGroup_draining]
@[simp] theorem Env.after_link (e : Env) (s : State) (g : Group) (d : Nat → W64) : (e.after s g d).link = s.link := by
  simp only [Env.after, State.retire_link, State.charge_link, State.setGroup_link]
@[simp] theorem Env.after_scaleup (e : Env) (s : State) (g : Group) (d : Nat → W64) : (e.after s g d).scaleup = s.scaleup := by
  simp only [Env.after, State.retire_scaleup, State.charge_scaleup, State.setGroup_scaleup]
@[simp] theorem Env.after_power (e : Env) (s : State) (g : Group) (d : Nat → W64) : (e.after s g d).power = s.power := by
  simp only [Env.after, State.retire_power, State.charge_power, State.setGroup_power]
@[simp] theorem Env.after_bootStep (e : Env) (s : State) (g : Group) (d : Nat → W64) : (e.after s g d).bootStep = s.bootStep := by
  simp only [Env.after, State.retire_bootStep, State.charge_bootStep, State.setGroup_bootStep]
@[simp] theorem Env.after_bootSince (e : Env) (s : State) (g : Group) (d : Nat → W64) : (e.after s g d).bootSince = s.bootSince := by
  simp only [Env.after, State.retire_bootSince, State.charge_bootSince, State.setGroup_bootSince]
@[simp] theorem Env.after_pwrEn (e : Env) (s : State) (g : Group) (d : Nat → W64) : (e.after s g d).pwrEn = s.pwrEn := by
  simp only [Env.after, State.retire_pwrEn, State.charge_pwrEn, State.setGroup_pwrEn]
@[simp] theorem Env.after_slotStrap (e : Env) (s : State) (g : Group) (d : Nat → W64) : (e.after s g d).slotStrap = s.slotStrap := by
  simp only [Env.after, State.retire_slotStrap, State.charge_slotStrap, State.setGroup_slotStrap]
@[simp] theorem Env.after_stretch (e : Env) (s : State) (g : Group) (d : Nat → W64) : (e.after s g d).stretch = s.stretch := by
  simp only [Env.after, State.retire_stretch, State.charge_stretch, State.setGroup_stretch]
@[simp] theorem Env.after_idStore (e : Env) (s : State) (g : Group) (d : Nat → W64) : (e.after s g d).idStore = s.idStore := by
  simp only [Env.after, State.retire_idStore, State.charge_idStore, State.setGroup_idStore]
@[simp] theorem Env.after_i3c (e : Env) (s : State) (g : Group) (d : Nat → W64) : (e.after s g d).i3c = s.i3c := by
  simp only [Env.after, State.retire_i3c, State.charge_i3c, State.setGroup_i3c]
@[simp] theorem Env.after_hdm (e : Env) (s : State) (g : Group) (d : Nat → W64) : (e.after s g d).hdm = s.hdm := by
  simp only [Env.after, State.retire_hdm, State.charge_hdm, State.setGroup_hdm]
@[simp] theorem Env.after_mirrorBad (e : Env) (s : State) (g : Group) (d : Nat → W64) : (e.after s g d).mirrorBad = s.mirrorBad := by
  simp only [Env.after, State.retire_mirrorBad, State.charge_mirrorBad, State.setGroup_mirrorBad]
@[simp] theorem Env.after_vfOn (e : Env) (s : State) (g : Group) (d : Nat → W64) : (e.after s g d).vfOn = s.vfOn := by
  simp only [Env.after, State.retire_vfOn, State.charge_vfOn, State.setGroup_vfOn]
@[simp] theorem Env.after_snoopTime (e : Env) (s : State) (g : Group) (d : Nat → W64) : (e.after s g d).snoopTime = s.snoopTime := by
  simp only [Env.after, State.retire_snoopTime, State.charge_snoopTime, State.setGroup_snoopTime]
@[simp] theorem Env.after_hostVia (e : Env) (s : State) (g : Group) (d : Nat → W64) : (e.after s g d).hostVia = s.hostVia := by
  simp only [Env.after, State.retire_hostVia, State.charge_hostVia, State.setGroup_hostVia]
@[simp] theorem Env.after_msiPend (e : Env) (s : State) (g : Group) (d : Nat → W64) : (e.after s g d).msiPend = s.msiPend := by
  simp only [Env.after, State.retire_msiPend, State.charge_msiPend, State.setGroup_msiPend]
@[simp] theorem Env.after_keys (e : Env) (s : State) (g : Group) (d : Nat → W64) : (e.after s g d).keys = s.keys := by
  simp only [Env.after, State.retire_keys, State.charge_keys, State.setGroup_keys]
@[simp] theorem Env.after_flash (e : Env) (s : State) (g : Group) (d : Nat → W64) : (e.after s g d).flash = s.flash := by
  simp only [Env.after, State.retire_flash, State.charge_flash, State.setGroup_flash]
@[simp] theorem Env.after_stewards (e : Env) (s : State) (g : Group) (d : Nat → W64) : (e.after s g d).stewards = s.stewards := by
  simp only [Env.after, State.retire_stewards, State.charge_stewards, State.setGroup_stewards]
@[simp] theorem Env.after_ptp (e : Env) (s : State) (g : Group) (d : Nat → W64) : (e.after s g d).ptp = s.ptp := by
  simp only [Env.after, State.retire_ptp, State.charge_ptp, State.setGroup_ptp]
@[simp] theorem Env.after_corrected (e : Env) (s : State) (g : Group) (d : Nat → W64) : (e.after s g d).corrected = s.corrected := by
  simp only [Env.after, State.retire_corrected, State.charge_corrected, State.setGroup_corrected]
@[simp] theorem Env.after_shadowRetries (e : Env) (s : State) (g : Group) (d : Nat → W64) : (e.after s g d).shadowRetries = s.shadowRetries := by
  simp only [Env.after, State.retire_shadowRetries, State.charge_shadowRetries, State.setGroup_shadowRetries]
@[simp] theorem Env.after_fencedOut (e : Env) (s : State) (g : Group) (d : Nat → W64) : (e.after s g d).fencedOut = s.fencedOut := by
  simp only [Env.after, State.retire_fencedOut, State.charge_fencedOut, State.setGroup_fencedOut]

end Sys2Proof.Machine
end

