-- ==== Sys2Proof/Tests/Slice0.lean ====
section
/-! SUPPORT. Tests: words written out from the spec's tables, the spec's worked examples, ill-formed terms, and for every statement
of `Certificates/Slice0/Obligations.lean` that has premises a state and operands that meet them (`wit_…`). -/

namespace Sys2Proof.Tests

set_option Elab.async false

open Sys2Proof.Machine

/-- Context 0 of `State.loadProgram`, with a group of lanes 0 and 1, whose bundle issues at 0x10000. -/
def w0 : State :=
  { State.reset.loadProgram [] with
    groups := [(0, { loadGroup with lanes := [(0, Lane.atEntry 0x10000), (1, Lane.atEntry 0x10000)] })]
    cur := some { gid := 0, lanes := 3, pc := 0x10000, fresh := true } }

/-- The bundle of a state and its group. -/
def cg (s : State) : Cur × Group :=
  match s.cur with
  | some u => (u, (s.group? u.gid).getD loadGroup)
  | none => (⟨0, 0, 0, false⟩, loadGroup)

/-- What an instruction sees in a state. -/
def ev (i : Instr) (s : State) : Env := s.issueEnv i.len (partsAt s i) (cg s).1 (cg s).2

/-- The instruction is well formed and begins. -/
def begun (i : Instr) (s : State) : Bool :=
  WellFormed i && s.cur == some (cg s).1 && s.group? (cg s).1.gid == some (cg s).2 &&
    s.stopOf (cg s).1 (cg s).2 (needs i) (partsAt s i) == none && (ev i s).lanes != [] &&
    (cg s).2.readsBad (partsAt s i) (ev i s).lanes == false

theorem begins_of_begun {i : Instr} {s : State} (h : begun i s = true) : Begins i s (ev i s) := by
  simp only [begun, Bool.and_eq_true, beq_iff_eq, bne_iff_ne] at h
  obtain ⟨⟨⟨⟨⟨_, hc⟩, hg⟩, hs⟩, hl⟩, hb⟩ := h
  exact ⟨hc, (cg s).2, hg, hs, rfl, hl, hb⟩

/-- A state in which an instruction begins and `p` holds of what it sees. -/
theorem wit {i : Instr} {s : State} {p : Env → Prop} (h : begun i s = true ∧ p (ev i s)) :
    ∃ e, Begins i s e ∧ p e := ⟨_, begins_of_begun h.1, h.2⟩

theorem witA {i : Instr} {s : State} {p : Env → Prop} (h : begun i s = true ∧ (ev i s).act ≠ [] ∧ p (ev i s)) :
    ∃ e, BeginsActive i s e ∧ p e := ⟨_, ⟨begins_of_begun h.1, h.2.1⟩, h.2.2⟩

def vec (r : Nat) : Src := ⟨.vec, BitVec.ofNat 8 r, false⟩
def scal (r : Nat) : Src := ⟨.scal, BitVec.ofNat 8 r, false⟩
def lit (n : Nat) : Src := ⟨.lit, BitVec.ofNat 8 n, false⟩
/-- The fields of an instruction: destination and sources, of 64 bits where there is no third source. -/
def ops (d : Nat) (a b : Src) : Ops := ⟨.w64, false, 7, BitVec.ofNat 8 d, a, b, Src.zero, 0, 0, 0, 0⟩
def ops3 (d : Nat) (a b c : Src) : Ops := ⟨.w128, false, 7, BitVec.ofNat 8 d, a, b, c, 0, 0, 0, 0⟩
def up (f : Group → Group) : State := w0.modGroup 0 f

def o0 := ops 0 .zero .zero
def o1 := ops 3 (vec 1) (vec 2)
def mi : ModI := ⟨false, 0, true, .s32⟩
/-- v1 and v2 hold the least and the greatest 32-bit integer in lanes 0 and 1. -/
def wI : State := up fun g => (((g.setVr 1 0 0x80000000).setVr 1 1 0x7FFFFFFF).setVr 2 0 0x80000000).setVr 2 1 0x7FFFFFFF

theorem wit_int : (∃ e, Begins (.iadd o1 mi) wI e ∧ VecDst (.iadd o1 mi) o1 e ∧ NoShadow wI) :=
  wit ⟨by decide +kernel, ⟨⟨_, _, rfl⟩, by decide +kernel⟩, rfl⟩

/-- Every instruction of a list begins, with an active lane. -/
def begunAll (s : State) (is : List Instr) : Bool := is.all fun i => begun i s && (ev i s).act != []

theorem witAll {s : State} {is : List Instr} (h : begunAll s is = true) : ∀ i ∈ is, ∃ e, BeginsActive i s e := by
  intro i hi
  have := List.all_eq_true.mp h i hi
  simp only [Bool.and_eq_true, bne_iff_ne] at this
  exact ⟨_, begins_of_begun this.1, this.2⟩

/-- Checks that pass, trap or miss, and what holds of the outcome. -/
theorem okC {r : Checked} {P : State → List Placed → Bool} (h : (match r with | .ok s ps => P s ps | _ => false) = true) :
    ∃ s ps, r = .ok s ps ∧ P s ps = true := by
  cases r <;> simp_all
theorem trapC {r : Checked} (h : (match r with | .trap .. => true | _ => false) = true) :
    ∃ s c d l a x, r = .trap s c d l a x := by
  cases r <;> simp_all
theorem missC {r : Checked} {P : State → Bool} (h : (match r with | .miss s .. => P s | _ => false) = true) :
    ∃ s a l n p, r = .miss s a l n p ∧ P s = true := by
  cases r <;> simp_all

/-! ### Words written out from the spec's tables (02 Tables 2, 3 and 6; 03 Tables 1, 3 and 7) -/

/-- The word decodes, to an instruction of which `f` holds. -/
def reads (n w : Nat) (f : Instr → Bool) : Bool := (decodeTableWord n w).any f
/-- Operands, guard p7. -/
def q6 (d : Nat) (a b : Src) : Ops := ops d a b
def q12 (d : Nat) (a b c : Src) : Ops := ops3 d a b c

theorem test_decode_moves :
    (reads 64 0x1C00 (fun | .nop o _ => o == q6 0 .zero .zero | _ => false) &&
     reads 64 0xC15C30 (fun | .sprd o _ => o == q6 5 (lit 0) .zero | _ => false) &&
     reads 64 0xC21C34 (fun | .spwr o _ => o == q6 8 (lit 0) .zero | _ => false) &&
     reads 64 0x15C0C (fun | .plop o _ => o == q6 5 .zero .zero | _ => false) &&
     reads 64 0x15C10 (fun | .ppack o _ => o == q6 5 .zero .zero | _ => false) &&
     reads 64 0xC01C14 (fun | .punpk o _ => o == q6 0 (lit 0) .zero | _ => false) &&
     reads 64 0xC15C04 (fun | .mov o _ => o == q6 5 (lit 0) .zero | _ => false) &&
     reads 64 0x902015C08 (fun | .sel o _ => o == q6 5 (vec 2) (scal 2) | _ => false)) = true := by decide +kernel

theorem test_decode_integer :
    (reads 64 0x902015C40 (fun | .iadd o _ => o == q6 5 (vec 2) (scal 2) | _ => false) &&
     reads 64 0x902015C44 (fun | .isub o _ => o == q6 5 (vec 2) (scal 2) | _ => false) &&
     reads 64 0x902015C48 (fun | .iaddc o _ => o == q6 5 (vec 2) (scal 2) | _ => false) &&
     reads 64 0x902015C4C (fun | .isubb o _ => o == q6 5 (vec 2) (scal 2) | _ => false) &&
     reads 64 0x902015C50 (fun | .imul o _ => o == q6 5 (vec 2) (scal 2) | _ => false) &&
     reads 64 0x902015C54 (fun | .imulh o _ => o == q6 5 (vec 2) (scal 2) | _ => false) &&
     reads 128 0x1030000000902015C5A (fun | .imad o _ => o == q12 5 (vec 2) (scal 2) (scal 3) | _ => false) &&
     reads 128 0x1030000000902021C5E (fun | .imadw o _ => o == q12 8 (vec 2) (scal 2) (scal 3) | _ => false) &&
     reads 64 0x902015C60 (fun | .idiv o _ => o == q6 5 (vec 2) (scal 2) | _ => false) &&
     reads 64 0x902015C64 (fun | .irem o _ => o == q6 5 (vec 2) (scal 2) | _ => false) &&
     reads 64 0x902015C68 (fun | .imin o _ => o == q6 5 (vec 2) (scal 2) | _ => false) &&
     reads 64 0x902015C6C (fun | .imax o _ => o == q6 5 (vec 2) (scal 2) | _ => false) &&
     reads 64 0xC15C70 (fun | .iabs o _ => o == q6 5 (lit 0) .zero | _ => false) &&
     reads 64 0xC15C74 (fun | .ineg o _ => o == q6 5 (lit 0) .zero | _ => false) &&
     reads 64 0x902015C78 (fun | .isad o _ => o == q6 5 (vec 2) (scal 2) | _ => false) &&
     reads 64 0x902015C7C (fun | .iavg o _ => o == q6 5 (vec 2) (scal 2) | _ => false)) = true := by decide +kernel

theorem test_decode_integer_mixed :
    (reads 128 0x1030000300902015C82 (fun | .idot2 o _ => o == q12 5 (vec 2) (scal 2) (scal 3) | _ => false) &&
     reads 128 0x1030000400902015C86 (fun | .idot4 o _ => o == q12 5 (vec 2) (scal 2) (scal 3) | _ => false) &&
     reads 128 0x1030000000902015C8A (fun | .iclamp o _ => o == q12 5 (vec 2) (scal 2) (scal 3) | _ => false) &&
     reads 64 0x902021C98 (fun | .lea o _ => o == q6 8 (vec 2) (scal 2) | _ => false) &&
     reads 64 0x600902021C9C (fun | .leax o _ => o == q6 8 (vec 2) (scal 2) | _ => false) &&
     reads 64 0x600000C21CA0 (fun | .canon o _ => o == q6 8 (lit 0) .zero | _ => false) &&
     reads 64 0x600902021CA4 (fun | .pdiff o _ => o == q6 8 (vec 2) (scal 2) | _ => false) &&
     reads 64 0x902015C8C (fun | .icmp o _ => o == q6 5 (vec 2) (scal 2) | _ => false) &&
     reads 64 0x902015C90 (fun | .iset o _ => o == q6 5 (vec 2) (scal 2) | _ => false) &&
     reads 64 0x902015C94 (fun | .itest o _ => o == q6 5 (vec 2) (scal 2) | _ => false)) = true := by decide +kernel

theorem test_decode_logic :
    (reads 64 0x902015CC0 (fun | .and o _ => o == q6 5 (vec 2) (scal 2) | _ => false) &&
     reads 64 0x902015CC4 (fun | .or o _ => o == q6 5 (vec 2) (scal 2) | _ => false) &&
     reads 64 0x902015CC8 (fun | .xor o _ => o == q6 5 (vec 2) (scal 2) | _ => false) &&
     reads 64 0xC15CCC (fun | .not o _ => o == q6 5 (lit 0) .zero | _ => false) &&
     reads 64 0x902015CD0 (fun | .andn o _ => o == q6 5 (vec 2) (scal 2) | _ => false) &&
     reads 64 0x902015CD4 (fun | .orn o _ => o == q6 5 (vec 2) (scal 2) | _ => false) &&
     reads 128 0x1030000000902015CDA (fun | .lop3 o _ => o == q12 5 (vec 2) (scal 2) (scal 3) | _ => false) &&
     reads 64 0x902015CDC (fun | .shl o _ => o == q6 5 (vec 2) (scal 2) | _ => false) &&
     reads 64 0x902015CE0 (fun | .shr o _ => o == q6 5 (vec 2) (scal 2) | _ => false) &&
     reads 64 0x902015CE4 (fun | .shra o _ => o == q6 5 (vec 2) (scal 2) | _ => false) &&
     reads 64 0x902015CE8 (fun | .rotl o _ => o == q6 5 (vec 2) (scal 2) | _ => false) &&
     reads 64 0x902015CEC (fun | .rotr o _ => o == q6 5 (vec 2) (scal 2) | _ => false) &&
     reads 128 0x1030000000902015CF2 (fun | .fshl o _ => o == q12 5 (vec 2) (scal 2) (scal 3) | _ => false) &&
     reads 128 0x1030000000902015CF6 (fun | .fshr o _ => o == q12 5 (vec 2) (scal 2) (scal 3) | _ => false) &&
     reads 128 0x1030000000902015CFA (fun | .prmt o _ => o == q12 5 (vec 2) (scal 2) (scal 3) | _ => false) &&
     reads 64 0xC15CFC (fun | .bswap o _ => o == q6 5 (lit 0) .zero | _ => false)) = true := by decide +kernel

theorem test_decode_bit_fields :
    (reads 64 0xC15D00 (fun | .popc o _ => o == q6 5 (lit 0) .zero | _ => false) &&
     reads 64 0xC15D04 (fun | .clz o _ => o == q6 5 (lit 0) .zero | _ => false) &&
     reads 64 0xC15D08 (fun | .ctz o _ => o == q6 5 (lit 0) .zero | _ => false) &&
     reads 64 0xC15D0C (fun | .brev o _ => o == q6 5 (lit 0) .zero | _ => false) &&
     reads 64 0x902015D10 (fun | .bfx o _ => o == q6 5 (vec 2) (scal 2) | _ => false) &&
     reads 128 0x1030000000902015D16 (fun | .bfi o _ => o == q12 5 (vec 2) (scal 2) (scal 3) | _ => false) &&
     reads 64 0x902015D18 (fun | .bmsk o _ => o == q6 5 (vec 2) (scal 2) | _ => false)) = true := by decide +kernel

theorem test_decode_float :
    (reads 64 0x902015D40 (fun | .fadd o _ => o == q6 5 (vec 2) (scal 2) | _ => false) &&
     reads 64 0x902015D44 (fun | .fsub o _ => o == q6 5 (vec 2) (scal 2) | _ => false) &&
     reads 64 0x902015D48 (fun | .fmul o _ => o == q6 5 (vec 2) (scal 2) | _ => false) &&
     reads 128 0x1030000000902015D4E (fun | .fma o _ => o == q12 5 (vec 2) (scal 2) (scal 3) | _ => false) &&
     reads 128 0x1030000000902015D52 (fun | .fms o _ => o == q12 5 (vec 2) (scal 2) (scal 3) | _ => false) &&
     reads 128 0x1030000000902015D56 (fun | .fnma o _ => o == q12 5 (vec 2) (scal 2) (scal 3) | _ => false) &&
     reads 64 0x902015D58 (fun | .fmin o _ => o == q6 5 (vec 2) (scal 2) | _ => false) &&
     reads 64 0x902015D5C (fun | .fmax o _ => o == q6 5 (vec 2) (scal 2) | _ => false) &&
     reads 64 0x902015D60 (fun | .fminm o _ => o == q6 5 (vec 2) (scal 2) | _ => false) &&
     reads 64 0x902015D64 (fun | .fmaxm o _ => o == q6 5 (vec 2) (scal 2) | _ => false) &&
     reads 64 0xC15D68 (fun | .fabs o _ => o == q6 5 (lit 0) .zero | _ => false) &&
     reads 64 0xC15D6C (fun | .fneg o _ => o == q6 5 (lit 0) .zero | _ => false) &&
     reads 64 0x902015D70 (fun | .fcsgn o _ => o == q6 5 (vec 2) (scal 2) | _ => false) &&
     reads 128 0x1030000000902015D76 (fun | .fclamp o _ => o == q12 5 (vec 2) (scal 2) (scal 3) | _ => false) &&
     reads 128 0x1030000100902015D7A (fun | .fdot2 o _ => o == q12 5 (vec 2) (scal 2) (scal 3) | _ => false) &&
     reads 64 0x100902015D7C (fun | .fsum o _ => o == q6 5 (vec 2) (scal 2) | _ => false)) = true := by decide +kernel

theorem test_decode_float_conversion :
    (reads 64 0x902015D80 (fun | .fcmp o _ => o == q6 5 (vec 2) (scal 2) | _ => false) &&
     reads 64 0x902015D84 (fun | .fset o _ => o == q6 5 (vec 2) (scal 2) | _ => false) &&
     reads 64 0x902015D88 (fun | .fclass o _ => o == q6 5 (vec 2) (scal 2) | _ => false) &&
     reads 64 0xC15D8C (fun | .frndi o _ => o == q6 5 (lit 0) .zero | _ => false) &&
     reads 64 0x902015D90 (fun | .fscale o _ => o == q6 5 (vec 2) (scal 2) | _ => false) &&
     reads 64 0xC15D94 (fun | .fxexp o _ => o == q6 5 (lit 0) .zero | _ => false) &&
     reads 64 0xC15D98 (fun | .fxman o _ => o == q6 5 (lit 0) .zero | _ => false) &&
     reads 64 0xC15DA0 (fun | .cvt o _ => o == q6 5 (lit 0) .zero | _ => false) &&
     reads 64 0xC15DA4 (fun | .cvtfi o _ => o == q6 5 (lit 0) .zero | _ => false) &&
     reads 64 0xC15DA8 (fun | .cvtif o _ => o == q6 5 (lit 0) .zero | _ => false) &&
     reads 64 0x100902015DAC (fun | .pack2 o _ => o == q6 5 (vec 2) (scal 2) | _ => false) &&
     reads 64 0xC00902015DB0 (fun | .pack4 o _ => o == q6 5 (vec 2) (scal 2) | _ => false) &&
     reads 64 0x800000C15DB4 (fun | .unpk o _ => o == q6 5 (lit 0) .zero | _ => false) &&
     reads 64 0x902015DB8 (fun | .exts o _ => o == q6 5 (vec 2) (scal 2) | _ => false) &&
     reads 64 0x902015DBC (fun | .extz o _ => o == q6 5 (vec 2) (scal 2) | _ => false)) = true := by decide +kernel

theorem test_decode_special :
    (reads 64 0xC15DC0 (fun | .rcp o _ => o == q6 5 (lit 0) .zero | _ => false) &&
     reads 64 0xC15DC4 (fun | .rsq o _ => o == q6 5 (lit 0) .zero | _ => false) &&
     reads 64 0xC15DC8 (fun | .sqrt o _ => o == q6 5 (lit 0) .zero | _ => false) &&
     reads 64 0x902015DCC (fun | .fdiv o _ => o == q6 5 (vec 2) (scal 2) | _ => false) &&
     reads 64 0xC15DD0 (fun | .exp2 o _ => o == q6 5 (lit 0) .zero | _ => false) &&
     reads 64 0xC15DD4 (fun | .log2 o _ => o == q6 5 (lit 0) .zero | _ => false) &&
     reads 64 0xC15DD8 (fun | .exp o _ => o == q6 5 (lit 0) .zero | _ => false) &&
     reads 64 0xC15DDC (fun | .log o _ => o == q6 5 (lit 0) .zero | _ => false) &&
     reads 64 0xC15DE0 (fun | .sin o _ => o == q6 5 (lit 0) .zero | _ => false) &&
     reads 64 0xC15DE4 (fun | .cos o _ => o == q6 5 (lit 0) .zero | _ => false) &&
     reads 64 0xC15DE8 (fun | .tanh o _ => o == q6 5 (lit 0) .zero | _ => false) &&
     reads 64 0xC15DEC (fun | .sigm o _ => o == q6 5 (lit 0) .zero | _ => false) &&
     reads 64 0xC15DF0 (fun | .erf o _ => o == q6 5 (lit 0) .zero | _ => false) &&
     reads 64 0xC15DF4 (fun | .gelu o _ => o == q6 5 (lit 0) .zero | _ => false) &&
     reads 64 0xC15DF8 (fun | .splus o _ => o == q6 5 (lit 0) .zero | _ => false)) = true := by decide +kernel

theorem test_decode_matrix :
    (reads 64 0x901415E00 (fun | .obres o _ => o == q6 5 (scal 1) (scal 2) | _ => false) &&
     reads 64 0x901401E04 (fun | .obfill o _ => o == q6 0 (scal 1) (scal 2) | _ => false) &&
     reads 64 0xC15E08 (fun | .obdrop o _ => o == q6 5 (lit 0) .zero | _ => false) &&
     reads 64 0xC15E0C (fun | .obqry o _ => o == q6 5 (lit 0) .zero | _ => false) &&
     reads 64 0x902015E10 (fun | .ixset o _ => o == q6 5 (vec 2) (scal 2) | _ => false) &&
     reads 64 0xC01E14 (fun | .ixgath o _ => o == q6 0 (lit 0) .zero | _ => false) &&
     reads 128 0x1030000000901401E1A (fun | .mma o _ => o == q12 0 (scal 1) (scal 2) (scal 3) | _ => false) &&
     reads 128 0x1030000000902001E1E (fun | .mmag o _ => o == q12 0 (vec 2) (scal 2) (scal 3) | _ => false) &&
     reads 128 0x1030006400901401E22 (fun | .mmaw o _ => o == q12 0 (scal 1) (scal 2) (scal 3) | _ => false) &&
     reads 128 0x1030006400901401E26 (fun | .mdist o _ => o == q12 0 (scal 1) (scal 2) (scal 3) | _ => false) &&
     reads 64 0x901401E28 (fun | .mtopk o _ => o == q6 0 (scal 1) (scal 2) | _ => false) &&
     reads 64 0xC15E30 (fun | .accld o _ => o == q6 5 (lit 0) .zero | _ => false) &&
     reads 64 0x902001E34 (fun | .accst o _ => o == q6 0 (vec 2) (scal 2) | _ => false) &&
     reads 64 0xC01E38 (fun | .accz o _ => o == q6 0 (lit 0) .zero | _ => false) &&
     reads 64 0x901401E3C (fun | .acclmIn o _ => o == q6 0 (scal 1) (scal 2) | _ => false) &&
     reads 64 0x8000901401E3C (fun | .acclmOut o _ => o == q6 0 (scal 1) (scal 2) | _ => false)) = true := by decide +kernel

theorem test_decode_matrix_moves :
    (reads 64 0x901415E40 (fun | .mld o _ => o == q6 5 (scal 1) (scal 2) | _ => false) &&
     reads 64 0x200000901415E40 (fun | .mldSca o _ => o == q6 5 (scal 1) (scal 2) | _ => false) &&
     reads 64 0x901415E44 (fun | .mldt o _ => o == q6 5 (scal 1) (scal 2) | _ => false) &&
     reads 64 0x901401E48 (fun | .mst o _ => o == q6 0 (scal 1) (scal 2) | _ => false) &&
     reads 64 0x2015E50 (fun | .qnt o _ => o == q6 5 (vec 2) .zero | _ => false) &&
     reads 64 0x902015E54 (fun | .dqnt o _ => o == q6 5 (vec 2) (scal 2) | _ => false) &&
     reads 64 0xC15E58 (fun | .qscl o _ => o == q6 5 (lit 0) .zero | _ => false) &&
     reads 64 0x2015E5C (fun | .qamax o _ => o == q6 5 (vec 2) .zero | _ => false) &&
     reads 64 0x901401E60 (fun | .acccvtI2f o _ => o == q6 0 (scal 1) (scal 2) | _ => false) &&
     reads 64 0x8000901401E60 (fun | .acccvtF2i o _ => o == q6 0 (scal 1) (scal 2) | _ => false)) = true := by decide +kernel

theorem test_decode_memory :
    (reads 64 0xC15E80 (fun | .ld o _ => o == q6 5 (lit 0) .zero | _ => false) &&
     reads 64 0x902001E84 (fun | .st o _ => o == q6 0 (vec 2) (scal 2) | _ => false) &&
     reads 64 0xC15E88 (fun | .ldl o _ => o == q6 5 (lit 0) .zero | _ => false) &&
     reads 64 0x902001E8C (fun | .stl o _ => o == q6 0 (vec 2) (scal 2) | _ => false) &&
     reads 64 0xC15E90 (fun | .ldc o _ => o == q6 5 (lit 0) .zero | _ => false) &&
     reads 64 0xC15E94 (fun | .ldw o _ => o == q6 5 (lit 0) .zero | _ => false) &&
     reads 64 0xC15E98 (fun | .ldv o _ => o == q6 5 (lit 0) .zero | _ => false) &&
     reads 64 0xC01E9C (fun | .stv o _ => o == q6 0 (lit 0) .zero | _ => false) &&
     reads 64 0xC15EA0 (fun | .ldlv o _ => o == q6 5 (lit 0) .zero | _ => false) &&
     reads 64 0xC01EA4 (fun | .stlv o _ => o == q6 0 (lit 0) .zero | _ => false) &&
     reads 64 0x802415EA8 (fun | .cfill o _ => o == q6 5 (scal 2) (vec 2) | _ => false) &&
     reads 64 0x10000802415EA8 (fun | .cfillRing o _ => o == q6 5 (scal 2) (vec 2) | _ => false) &&
     reads 64 0xC01EAC (fun | .crel o _ => o == q6 0 (lit 0) .zero | _ => false) &&
     reads 64 0xC01EB0 (fun | .pref o _ => o == q6 0 (lit 0) .zero | _ => false) &&
     reads 64 0x901401EB4 (fun | .residNear o _ => o == q6 0 (scal 1) (scal 2) | _ => false) &&
     reads 64 0x10000901401EB4 (fun | .residHbm o _ => o == q6 0 (scal 1) (scal 2) | _ => false) &&
     reads 64 0x20000901401EB4 (fun | .residCold o _ => o == q6 0 (scal 1) (scal 2) | _ => false) &&
     reads 64 0x901401EB8 (fun | .seal o _ => o == q6 0 (scal 1) (scal 2) | _ => false) &&
     reads 64 0x901401EBC (fun | .unseal o _ => o == q6 0 (scal 1) (scal 2) | _ => false)) = true := by decide +kernel

theorem test_decode_atomics_messages_furrows :
    (reads 64 0x902001EC0 (fun | .atom o _ => o == q6 0 (vec 2) (scal 2) | _ => false) &&
     reads 64 0x902015EC4 (fun | .atomr o _ => o == q6 5 (vec 2) (scal 2) | _ => false) &&
     reads 128 0x1030000000902015ECA (fun | .cas o _ => o == q12 5 (vec 2) (scal 2) (scal 3) | _ => false) &&
     reads 64 0x902015ECC (fun | .atoml o _ => o == q6 5 (vec 2) (scal 2) | _ => false) &&
     reads 128 0x1030000000902015ED2 (fun | .casl o _ => o == q12 5 (vec 2) (scal 2) (scal 3) | _ => false) &&
     reads 64 0x1ED4 (fun | .fence o _ => o == q6 0 .zero .zero | _ => false) &&
     reads 64 0x3000000001ED8 (fun | .fencex o _ => o == q6 0 .zero .zero | _ => false) &&
     reads 64 0x901401EE0 (fun | .msend o _ => o == q6 0 (scal 1) (scal 2) | _ => false) &&
     reads 64 0x15EE4 (fun | .mrecv o _ => o == q6 5 .zero .zero | _ => false) &&
     reads 64 0x15EE8 (fun | .mprobe o _ => o == q6 5 .zero .zero | _ => false) &&
     reads 64 0x901415EF0 (fun | .frgo o _ => o == q6 5 (scal 1) (scal 2) | _ => false) &&
     reads 64 0x901401EF4 (fun | .fradv o _ => o == q6 0 (scal 1) (scal 2) | _ => false) &&
     reads 64 0x100901401EF4 (fun | .fradvClose o _ => o == q6 0 (scal 1) (scal 2) | _ => false) &&
     reads 64 0x901401EF8 (fun | .frwait o _ => o == q6 0 (scal 1) (scal 2) | _ => false) &&
     reads 64 0xC15EFC (fun | .frstat o _ => o == q6 5 (lit 0) .zero | _ => false)) = true := by decide +kernel

theorem test_decode_control :
    (reads 64 0x1F00 (fun | .bra o _ => o == q6 0 .zero .zero | _ => false) &&
     reads 64 0x2001F04 (fun | .brx o _ => o == q6 0 (vec 2) .zero | _ => false) &&
     reads 64 0x21F08 (fun | .call o _ => o == q6 8 .zero .zero | _ => false) &&
     reads 64 0x2021F0C (fun | .callx o _ => o == q6 8 (vec 2) .zero | _ => false) &&
     reads 64 0x2001F10 (fun | .ret o _ => o == q6 0 (vec 2) .zero | _ => false) &&
     reads 64 0x1F14 (fun | .exit o _ => o == q6 0 .zero .zero | _ => false) &&
     reads 64 0x1F18 (fun | .mset o _ => o == q6 0 .zero .zero | _ => false) &&
     reads 64 0x100002001F18 (fun | .msetR o _ => o == q6 0 (vec 2) .zero | _ => false) &&
     reads 64 0x21F1C (fun | .mrd o _ => o == q6 8 .zero .zero | _ => false) &&
     reads 64 0x1F20 (fun | .mclr o _ => o == q6 0 .zero .zero | _ => false) &&
     reads 64 0x1F24 (fun | .yield o _ => o == q6 0 .zero .zero | _ => false) &&
     reads 64 0xC01F28 (fun | .sleep o _ => o == q6 0 (lit 0) .zero | _ => false) &&
     reads 128 0x1030000000902015F32 (fun | .shfl o _ => o == q12 5 (vec 2) (scal 2) (scal 3) | _ => false) &&
     reads 64 0xC15F34 (fun | .vote o _ => o == q6 5 (lit 0) .zero | _ => false) &&
     reads 64 0xC15F38 (fun | .ballot o _ => o == q6 5 (lit 0) .zero | _ => false) &&
     reads 64 0x902015F3C (fun | .lscan o _ => o == q6 5 (vec 2) (scal 2) | _ => false)) = true := by decide +kernel

theorem test_decode_groups_neighbours :
    (reads 64 0x902015F40 (fun | .lred o _ => o == q6 5 (vec 2) (scal 2) | _ => false) &&
     reads 64 0x902015F44 (fun | .matchL o _ => o == q6 5 (vec 2) (scal 2) | _ => false) &&
     reads 64 0x1F48 (fun | .tbar o _ => o == q6 0 .zero .zero | _ => false) &&
     reads 64 0x1F4C (fun | .cbar o _ => o == q6 0 .zero .zero | _ => false) &&
     reads 64 0xC01F50 (fun | .bcarm o _ => o == q6 0 (lit 0) .zero | _ => false) &&
     reads 64 0x15F54 (fun | .bcwait o _ => o == q6 5 .zero .zero | _ => false) &&
     reads 64 0x901421F58 (fun | .fbwait o _ => o == q6 8 (scal 1) (scal 2) | _ => false) &&
     reads 64 0x100000C21F58 (fun | .fbwaitRel o _ => o == q6 8 (lit 0) .zero | _ => false) &&
     reads 64 0xC01F5C (fun | .gangset o _ => o == q6 0 (lit 0) .zero | _ => false) &&
     reads 64 0x1F60 (fun | .gangclr o _ => o == q6 0 .zero .zero | _ => false) &&
     reads 64 0xC15F64 (fun | .accal o _ => o == q6 5 (lit 0) .zero | _ => false) &&
     reads 64 0x901401F68 (fun | .accfree o _ => o == q6 0 (scal 1) (scal 2) | _ => false) &&
     reads 64 0x901415F6C (fun | .launch o _ => o == q6 5 (scal 1) (scal 2) | _ => false) &&
     reads 64 0x901421F70 (fun | .scall o _ => o == q6 8 (scal 1) (scal 2) | _ => false) &&
     reads 64 0x1F74 (fun | .scwait o _ => o == q6 0 .zero .zero | _ => false)) = true := by decide +kernel

theorem test_decode_traps_translation :
    (reads 64 0x1F80 (fun | .trapI o _ => o == q6 0 .zero .zero | _ => false) &&
     reads 64 0x100000001F80 (fun | .trapVec o _ => o == q6 0 .zero .zero | _ => false) &&
     reads 64 0x1F84 (fun | .tret o _ => o == q6 0 .zero .zero | _ => false) &&
     reads 64 0x901401F88 (fun | .hpc o _ => o == q6 0 (scal 1) (scal 2) | _ => false) &&
     reads 64 0x901401F8C (fun | .hmeet o _ => o == q6 0 (scal 1) (scal 2) | _ => false) &&
     reads 64 0xC01F90 (fun | .hparkClr o _ => o == q6 0 (lit 0) .zero | _ => false) &&
     reads 64 0x100000C01F90 (fun | .hparkSet o _ => o == q6 0 (lit 0) .zero | _ => false) &&
     reads 64 0x200000C01F90 (fun | .hparkExit o _ => o == q6 0 (lit 0) .zero | _ => false) &&
     reads 64 0x800000C15F94 (fun | .hrd o _ => o == q6 5 (lit 0) .zero | _ => false) &&
     reads 64 0xC01FA0 (fun | .ptwait o _ => o == q6 0 (lit 0) .zero | _ => false) &&
     reads 64 0x901415FA4 (fun | .tlbprb o _ => o == q6 5 (scal 1) (scal 2) | _ => false) &&
     reads 64 0x901421FA8 (fun | .walk o _ => o == q6 8 (scal 1) (scal 2) | _ => false) &&
     reads 64 0xC15FAC (fun | .aliasq o _ => o == q6 5 (lit 0) .zero | _ => false) &&
     reads 64 0x100000C15FAC (fun | .aliasqClr o _ => o == q6 5 (lit 0) .zero | _ => false) &&
     reads 64 0xC15FB0 (fun | .ctxfrz o _ => o == q6 5 (lit 0) .zero | _ => false) &&
     reads 64 0xC15FB4 (fun | .ctxrst o _ => o == q6 5 (lit 0) .zero | _ => false) &&
     reads 64 0xC15FB8 (fun | .partrst o _ => o == q6 5 (lit 0) .zero | _ => false) &&
     reads 64 0x901415FBC (fun | .qset o _ => o == q6 5 (scal 1) (scal 2) | _ => false) &&
     reads 64 0x100901415FBC (fun | .qsetDef o _ => o == q6 5 (scal 1) (scal 2) | _ => false)) = true := by decide +kernel

theorem test_decode_partitions :
    (reads 64 0x901421FC0 (fun | .qosset o _ => o == q6 8 (scal 1) (scal 2) | _ => false) &&
     reads 64 0x901421FC4 (fun | .wset o _ => o == q6 8 (scal 1) (scal 2) | _ => false) &&
     reads 64 0x100901421FC4 (fun | .wsetRd o _ => o == q6 8 (scal 1) (scal 2) | _ => false) &&
     reads 64 0x21FC8 (fun | .eqpopSys o _ => o == q6 8 .zero .zero | _ => false) &&
     reads 64 0x100000021FC8 (fun | .eqpopMig o _ => o == q6 8 .zero .zero | _ => false)) = true := by decide +kernel

/-- A refused word's code (03 Table 7). -/
def refused (n w : Nat) : Option IllegalCode :=
  match decode (natBytes (n / 8) w) with
  | .error (.illegal _ c) => some c
  | _ => none

/-- The pair words of 02 Table 7, row by row; PAIR and ILL. -/
theorem test_decode_pairs :
    reads 96 0x1C08A012E0050084021FF9 (fun | .pair (.iadd x _) (.fadd y _) => x == q6 8 (vec 1) (vec 5) && y == q6 9 (vec 2) (scal 3) | _ => false) = true ∧
    refused 96 0x424A012E0050084021FF9 = some .pairLimit ∧ refused 96 0x1808A012E0010004021FF9 = some .pairLimit ∧ refused 96 0x18D012E000021C021FF9 = some .pairLimit ∧
    reads 96 0x206612E000010CC21FF9 (fun | .pair (.not _ _) (.not _ _) => true | _ => false) = true ∧ refused 96 0xC6610E000010CC21FF9 = some .pairLimit ∧
    decodeTableWord 64 0x1FFC = some (.ill .w64) := by decide +kernel

/-- The codes of 03 Table 8. -/
theorem test_decode_codes :
    refused 64 0x000060080100DD40 = some .modifier ∧ refused 64 0x1C18 = some .unassigned ∧
    refused 64 0x0000000801015D4C = some .lengthNotPermitted ∧ refused 64 0x0000000801015D4F = some .lengthBits ∧
    refused 64 0x1FF8 = some .lengthNotPermitted ∧ refused 64 0x0EC01C30 = some .modifier := by decide +kernel

/-- For each check an ill-formed term that it refuses, beside one that is well formed. -/
theorem test_wellFormed :
    WellFormed (.iadd o1 mi) = true ∧ WellFormed .formationTick = false ∧
    (Instr.lenOk (.fma (ops 5 (vec 1) (vec 2)) ⟨false, 0, false, .rn, .f32⟩)) = false ∧
    (∀ x ∈ [((.nop (ops 1 .zero .zero) 0 : Instr), 6), (.iadd o1 ⟨false, 1, false, .s32⟩, 6), (.sprd (ops 0 (vec 1) .zero) 0, 7),
      (.iadd (ops 3 (scal 64) (vec 2)) ⟨false, 0, false, .s32⟩, 8), (.iadd (ops 3 (vec 1) (vec 2)) ⟨false, 0, false, .s64⟩, 8),
      (.sprd (ops 0 (lit 0x0E) .zero) 0, 9), (.st (ops 0 (scal 2) (scal 4)) ⟨0x800, .acq, .thread, .b64⟩, 9),
      (.pair (.not (q6 8 (vec 2) .zero) ⟨false, 0, false, .s32⟩) (.not (q6 8 (vec 3) .zero) ⟨false, 0, false, .s32⟩), 10)],
      WellFormed x.1 = false ∧ x.2 ∈ x.1.violations) := by decide +kernel

/-! ### The spec's worked examples -/

/-- What an instruction's word leads to in a state. -/
def after (n w : Nat) (s : State) (f : Group → Bool) : Bool :=
  match decodeTableWord n w with
  | some i => (match exec i s with | .next t => (t.group? 0).any f | _ => false)
  | none => false
/-- The addition of 05 Tables 11 and 12: v0 to v2 and v4 to v6 in lanes 0 and 1, v8 and p1 as each instruction finds them. -/
def adding (p : BitVec 7) : State :=
  up fun g => ((((((((((((g.setVr 0 0 0xFFFFFFFF).setVr 1 0 0xFFFFFFFF).setVr 2 0 1).setVr 4 0 1).setVr 5 0 0).setVr 6 0 0xFFFFFFFF).setVr
    0 1 5).setVr 4 1 7).setVr 1 1 0).setVr 5 1 0).setVr 2 1 0).setVr 6 1 0).modLanes [0] fun x => { x with p := p }
theorem test_iaddc_chain :
    after 64 0x0300101000021C48 (adding 0) (fun g => g.vr 8 0 == 0 && g.vr 8 1 == 0xC && (g.lane 0).p == 2 && (g.lane 1).p == 0) = true ∧
    after 64 0x1200101401025C48 (adding 2) (fun g => g.vr 9 0 == 0 && g.vr 9 1 == 0 && (g.lane 0).p == 2 && (g.lane 1).p == 0) = true ∧
    after 64 0x1200101802029C48 (adding 2) (fun g => g.vr 10 0 == 1 && g.vr 10 1 == 0 && (g.lane 0).p == 2 && (g.lane 1).p == 0) = true := by
  decide +kernel
/-- 02 Tables 10 and 11, on core 131. -/
theorem test_probe_fragment :
    (let s := up fun g => { g.setSr 2 7 with core := 131 }
     after 64 0xC01C30 s (fun g => g.vr 0 0 == 0 && g.vr 0 1 == 1) = true ∧
     after 64 0x100004C05C30 s (fun g => g.sr 1 == 0x83) = true ∧ after 64 0x02425C34 s (fun g => g.seed == 7) = true ∧
     after 96 0x123456780000000000C25C35 s (fun g => g.seed == 0x12345678 && g.sr 2 == 7) = true) := by decide +kernel
/-- 04 Tables 8 and 9: K of 64 in two groups of 32. -/
theorem test_accumulation :
    (let row := fun x => (⟨.e4m3, leNat (List.replicate 32 x ++ [0x38]), 0, false⟩ : MatRow)
     dotF false 32 64 (row 0x30) (row 0x38) 0x4B800000 = ⟨0x4B800008, fNX⟩) := by decide +kernel

/-- Hand-over: the neighbour takes a launch with a spilled cluster of one team, which lies in its save area (17 R449). -/
theorem test_handOverTakesClusters :
    (let g : HandGrid := ⟨0, List.replicate 64 0, List.replicate 64 0, [], [], [], 0, [], 1, 0, [⟨0, [⟨0, [], 3⟩]⟩]⟩
     let s := State.reset.takeGrid g
     s.clusters.map (fun c => (c.2.phase, c.2.teams)) = [(Phase.spilled, [3])] ∧
     s.teams.map (fun t => (t.1, t.2.spilled, t.2.msgLost)) = [(3, true, 3)]) := by decide +kernel

/-! ### Statements about decoding, issuing and operands -/

/-- The fetch of a state's bundle, where it translates and its line may be read at once, and what holds of it. -/
def Fetches (s : State) (P : State → Nat → Bool) : Prop :=
  ∃ s' pa lf en, s.translate (fetchAsker s (cg s).1 (cg s).2) (cg s).1.pc .fetch = (s', .ok pa lf en) ∧
    (decide (s'.home pa ≠ .none) && !s'.lineHeld pa && !s'.hostWaits false pa (32 - pa % 32) && P s' pa) = true
theorem fetches {s : State} {P : State → Nat → Bool}
    (h : (match s.translate (fetchAsker s (cg s).1 (cg s).2) (cg s).1.pc .fetch with
      | (s', .ok pa _ _) => decide (s'.home pa ≠ .none) && !s'.lineHeld pa && !s'.hostWaits false pa (32 - pa % 32) && P s' pa
      | _ => false) = true) : Fetches s P := by
  unfold Fetches
  generalize s.translate (fetchAsker s (cg s).1 (cg s).2) (cg s).1.pc .fetch = r at h
  obtain ⟨s', x⟩ := r
  cases x <;> simp_all

/-- A group at the word of a NOP, and one whose word begins 4 bytes before the end of its fetch block. -/
def wF : State := State.reset.withFetchWord 64 0x1C00
def wEnd (b : Byte) : State := { w0 with mem := Memory.setBytes w0.mem 0x2001C [b], cur := some ⟨0, 3, 0x1001C, true⟩ }
def noSys : State := { w0 with desc := Tab.write 0 w0.desc 0 1 }

theorem wit_StepRunsDecodedInstruction :
    Fetches wF (fun s' pa => match decode (s'.blockBytes pa) with | .ok (.nop _ _, _) => true | _ => false) ∧
    canonical (cg wF).1.pc = true ∧ wF.agenda = [] ∧ wF.cur = some ⟨0, BitVec.allOnes 32, 0x10000, true⟩ ∧ (wF.group? 0).isSome = true ∧
    isEvent .formationTick = true ∧ State.reset.cur = none ∧ State.reset.work? = none :=
  ⟨fetches (by decide +kernel), by decide +kernel⟩

/-- A fetch block that is not executable, one at no home, and a PC that is not canonical. -/
def wNoX : State := { wF with mem := Memory.setBytes wF.mem 0x104080 [0xD7] }
def wFar : State := { wF with mem := Memory.setBytes wF.mem 0x104085 [0xFF] }
def wHigh : State := { wF with cur := some ⟨0, 3, 0x0200000000000000, true⟩ }
theorem wit_BadFetchesFault :
    (wNoX.agenda = [] ∧ (wNoX.group? 0).isSome = true ∧ canonical (cg wNoX).1.pc = true) ∧
    (match wNoX.translate (fetchAsker wNoX (cg wNoX).1 (cg wNoX).2) (cg wNoX).1.pc .fetch with | (_, .prot _) => true | _ => false) = true ∧
    (match wFar.translate (fetchAsker wFar (cg wFar).1 (cg wFar).2) (cg wFar).1.pc .fetch with
      | (s', .ok pa _ _) => decide (s'.home pa = .none)
      | _ => false) = true ∧
    canonical (cg wHigh).1.pc = false := by decide +kernel

theorem wit_BadFetchesTrap (b : Byte) (h : b = 0x01 ∨ b = 0x03) :
    Fetches (wEnd b) (fun s' pa => decide ((s'.blockBytes pa).head? = some b) && decide (32 < pa % 32 + 12)) ∧
    (wEnd b).agenda = [] ∧ ((wEnd b).group? 0).isSome = true := by
  obtain rfl | rfl := h <;> exact ⟨fetches (by decide +kernel), by decide +kernel⟩

/-- A word of no opcode, which decoding rejects with code 2. -/
def wBad : State := State.reset.withFetchWord 64 0x1C18
theorem wit_RejectedWordsTrap :
    Fetches wBad (fun s' pa => match decode (s'.blockBytes pa) with | .error (.illegal _ c) => c.num == 2 | _ => false) ∧
    wBad.agenda = [] ∧ wBad.power = .on ∧ (wBad.group? 0).isSome = true := ⟨fetches (by decide +kernel), by decide +kernel⟩
theorem wit_PowerStatesHoldEvents : ({ w0 with power := .boot } : State).livesFor .mrstN = true ∧ isEvent .mrstN = true ∧
    ({ w0 with power := .boot } : State).livesFor .counterHalving = false ∧ isEvent .counterHalving = true := by decide +kernel

theorem wit_RestrictedOpcodesAreRefused : needs (.ptwait o1 0) = .system ∧ noSys.sysAttr 0 = false ∧
    w0.sysAttr 0 = true ∧ needs (.tret o1 0) = .handler ∧ (cg w0).2.inh = false ∧
    (cg (up fun g => { g with inh := true })).2.inh = true ∧ (Instr.tret (ops 0 .zero .zero) 0).fields?.isSome = true := by
  decide +kernel

/-- A group with 4 vector registers: v4 is beyond them, v3 is not. -/
def nv4 : State := up fun g => { g with nv := 4 }
theorem wit_RegisterBoundsAreChecked : ∀ b ∈ [vec 3, vec 4], (partsOf (.iadd (ops 3 (vec 1) b) mi)).length = 1 ∧ (cg nv4).2.compat = false ∧
    nv4.rightsCode (cg nv4).2 (needs (.iadd (ops 3 (vec 1) b) mi)) = none ∧
    ((cg nv4).2.firstBeyond (partsOf (.iadd (ops 3 (vec 1) b) mi)) = none ↔ b = vec 3) := by decide +kernel

theorem wit_OperandsOfSources : (vec 1).kind = .vec ∧ (cg w0).2.isPort 1 = false ∧ (scal 63).kind = .scal ∧ (lit 255).kind = .lit ∧
    (∃ q ∈ (Instr.iadd o1 mi).sig.a, q.n = 1 ∧ q.ty = .i .s32 ∧ q.sn = 1 ∧ q.ty.width ≤ 32) ∧
    ∃ q ∈ (Instr.iadd o1 { mi with ity := .s64 }).sig.a, q.n = 2 ∧ q.ty = .i .s64 ∧ q.sn = 1 ∧ q.ty.width = 64 := by
  decide +kernel

/-- v1 of lane 0, or of both lanes, is empty. -/
def wE (both : Bool) : State :=
  up fun g => { g with vEmpty := if both then [(32, true), (33, true)] else [(32, true)] }
theorem wit_EmptySourcesBlockOrTrap : ∀ t ∈ [true, false], ∀ both ∈ [true, false],
    let o := ops 3 { vec 1 with trap := t } (vec 2)
    (cg (wE both)).2.firstBeyond (partsOf (.iadd o mi)) = none ∧ (wE both).rightsCode (cg (wE both)).2 .all = none ∧
    (partsOf (.iadd o mi)).findSome? ((wE both).unbound (cg (wE both)).2 [0, 1]) = none ∧ 
    ((o.sources (Instr.iadd o mi).sig).any fun e => (cg (wE both)).2.emptyOf e.2.1 e.2.2 0 != []) = true ∧
    (both = true → t = false → (ev (.iadd o mi) (wE both)).lanes = []) ∧ (both = false → t = false → (ev (.iadd o mi) (wE both)).lanes = [1]) := by
  decide +kernel

/-! ### Statements about computing instructions -/

/-- Every instruction of a list begins and its destination is a vector register. -/
def allVec (is : List (Instr × Ops)) (s : State) : Bool :=
  is.all fun x => begun x.1 s && (match x.1.sig.dst with | .vec _ _ => true | _ => false) && !((ev x.1 s).g.isPort x.2.dst.toNat)

theorem wits {is : List (Instr × Ops)} {s : State} (h : allVec is s = true) :
    ∀ x ∈ is, ∃ e, Begins x.1 s e ∧ VecDst x.1 x.2 e := by
  intro x hx
  have := List.all_eq_true.mp h x hx
  simp only [Bool.and_eq_true, Bool.not_eq_true'] at this
  refine ⟨_, begins_of_begun this.1.1, ?_, this.2⟩
  revert this
  cases x.1.sig.dst <;> simp

def o3 := ops3 3 (vec 1) (vec 2) (vec 4)
def oa := ops 3 (vec 1) .zero
def mw : ModI := ⟨false, 0, false, .n32⟩
def mf : ModF := ⟨false, 0, false, .rn, .f32⟩
def ms : ModS := ⟨false, 0, false, .f32⟩
/-- A compatibility-mode group: 248 is a queue port (02 R52). -/
def wPort : State := up fun g => { g with compat := true, nv := 248, ns := 64 }

theorem wit_ComputingInstructions :
    (∃ e, Begins (.iadd o1 mi) wI e ∧ wI.shadow = 0 ∧ (aluFor (.iadd o1 mi)).isSome = true ∧ e.g.isPort 3 = false) ∧
    (∃ e, BeginsActive (.iadd (ops 248 (vec 1) (vec 2)) mi) wPort e ∧ e.g.isPort 248 = true) ∧
    (∃ e, BeginsActive (.iadd (ops 3 (scal 1) (scal 2)) { mi with scl := true }) wI e ∧
      (Instr.iadd (ops 3 (scal 1) (scal 2)) { mi with scl := true }).sig.dst = .scal 1) ∧
    ∃ e, Begins (.icmp (ops 6 (vec 1) (vec 2)) ⟨false, 0, .lt, .s32⟩) wI e ∧
      (Instr.icmp (ops 6 (vec 1) (vec 2)) ⟨false, 0, .lt, .s32⟩).sig.dst = .pred :=
  ⟨wit (by decide +kernel), witA (by decide +kernel), witA (by decide +kernel), wit (by decide +kernel)⟩

theorem wit_IntegerArithmeticResults : wI.shadow = 0 ∧ ∀ x ∈ [(Instr.iadd o1 mi, o1), (.isub o1 mi, o1), (.imul o1 mi, o1),
    (.imulh o1 mw, o1), (.imad o3 mi, o3), (.imin o1 mw, o1), (.imax o1 mw, o1), (.iabs oa mi, oa), (.ineg oa mi, oa),
    (.isad o1 mw, o1), (.iavg o1 mw, o1), (.iclamp o3 mw, o3)], ∃ e, Begins x.1 wI e ∧ VecDst x.1 x.2 e :=
  ⟨by decide +kernel, wits (by decide +kernel)⟩

theorem wit_CarriesAndDivision : wI.shadow = 0 ∧ ∀ x ∈ [(Instr.iaddc o1 mw, o1), (.isubb o1 mw, o1), (.idiv o1 mi, o1),
    (.irem o1 mw, o1)], ∃ e, Begins x.1 wI e ∧ VecDst x.1 x.2 e := ⟨by decide +kernel, wits (by decide +kernel)⟩

/-- v1 and v2 hold a quiet and a signalling NaN. -/
def wN : State := up fun g => (((g.setVr 1 0 0x7FC00001).setVr 1 1 0x7F800001).setVr 2 0 0x3F800000).setVr 2 1 0xFFC00000

theorem wit_CompareResults :
    (∃ e, Begins (.icmp (ops 7 (vec 1) (vec 2)) ⟨false, 0, .ge, .s32⟩) wI e ∧ wI.shadow = 0 ∧ (7#8).toNat < 8) ∧
    (∃ e, Begins (.itest (ops 0 (vec 1) (vec 2)) ⟨false, 0, .ne, .n32⟩) wI e ∧ wI.shadow = 0) ∧
    ∃ e, Begins (.fcmp (ops 6 (vec 1) (vec 2)) ⟨false, 0, .lt, .f32⟩) wN e ∧ wN.shadow = 0 ∧
      ∀ l ∈ e.act, (FloatTy.f32.read (e.a l)).isNan = true ∨ (FloatTy.f32.read (e.b l)).isNan = true :=
  ⟨wit (by decide +kernel), wit (by decide +kernel), wit (by decide +kernel)⟩

theorem wit_LogicAndShiftResults : mw.ity = .n32 ∧ mw.sat = false ∧ ∀ x ∈ [(Instr.mov oa mw, oa), (.and o1 mw, o1), (.or o1 mw, o1),
    (.xor o1 mw, o1), (.not oa mw, oa), (.andn o1 mw, o1), (.orn o1 mw, o1), (.shl o1 mw, o1), (.shr o1 mw, o1),
    (.shra o1 mw, o1), (.rotl o1 mw, o1), (.rotr o1 mw, o1), (.popc oa mw, oa), (.brev oa mw, oa), (.bswap oa mw, oa),
    (.sel o1 mw, o1)], ∃ e, Begins x.1 wI e ∧ VecDst x.1 x.2 e := ⟨rfl, rfl, wits (by decide +kernel)⟩

theorem wit_FloatSignAndMinimumResults : mf.fty = .f32 ∧ wN.shadow = 0 ∧ ∀ x ∈ [(Instr.fabs oa mf, oa), (.fneg oa mf, oa), (.fcsgn o1 mf, o1),
    (.fmin o1 mf, o1), (.fmax o1 mf, o1), (.fminm o1 mf, o1), (.fmaxm o1 mf, o1), (.fadd o1 mf, o1), (.fsub o1 mf, o1),
    (.fmul o1 mf, o1)], ∃ e, Begins x.1 wN e ∧ VecDst x.1 x.2 e := ⟨rfl, by decide +kernel, wits (by decide +kernel)⟩

/-- v1 is +0 in lane 0 and −0 in lane 1; and the infinities. -/
def wZ : State := up fun g => g.setVr 1 1 0x80000000
def wInf : State := up fun g => (g.setVr 1 0 0x7F800000).setVr 1 1 0xFF800000
def sfs : List (Instr × Ops) := [(.rcp oa ms, oa), (.rsq oa ms, oa), (.sqrt oa ms, oa), (.exp2 oa ms, oa), (.log2 oa ms, oa),
  (.exp oa ms, oa), (.log oa ms, oa), (.sin oa ms, oa), (.cos oa ms, oa), (.tanh oa ms, oa), (.sigm oa ms, oa), (.erf oa ms, oa),
  (.gelu oa ms, oa), (.splus oa ms, oa)]
theorem wit_SpecialFunctionFixedInputs : ms.fty = .f32 ∧
    (∀ s ∈ [wN, wZ, wInf, w0], s.shadow = 0 ∧ (ev (.sin oa ms) s).act ≠ [] ∧ allVec sfs s = true) ∧
    (∀ l ∈ (ev (.sin oa ms) wZ).act, BitVec.ofNat 32 ((ev (.sin oa ms) wZ).a l) &&& 0x7FFFFFFF#32 = 0) ∧
    (∀ l ∈ (ev (.sin oa ms) w0).act, BitVec.ofNat 32 ((ev (.sin oa ms) w0).a l) = 0) ∧
    ∀ l ∈ (ev (.sin oa ms) wInf).act, BitVec.ofNat 32 ((ev (.sin oa ms) wInf).a l) &&& 0x7FFFFFFF#32 = 0x7F800000#32 := by
  decide +kernel

theorem wit_SpecialRegistersReadAndWrite :
    (∀ i ∈ [Instr.nop (ops 0 .zero .zero) 0, .sprd (ops 3 (lit 0) .zero) 0, .sprd (ops 3 (lit 1) .zero) 0,
      .sprd (ops 3 (lit 5) .zero) 0, .sprd (ops 3 (lit 6) .zero) 0, .sprd (ops 3 (lit 8) .zero) 0,
      .sprd (ops 3 (lit 10) .zero) 0, .sprd (ops 3 (lit 9) .zero) 1, .sprd (ops 3 (lit 11) .zero) 1,
      .spwr (ops 8 (scal 1) .zero) 0, .spwr (ops 9 (scal 1) .zero) 0], ∃ e, BeginsActive i w0 e) ∧
    (cg w0).2.isPort 3 = false := ⟨witAll (by decide +kernel), by decide +kernel⟩

/-! ### Statements about control and cross-lane instructions -/

/-- Scalar s2 holds an address; s3 an address off a word, s4 one that is not canonical. -/
def wB : State := up fun g => ((((g.setSr 2 0x10000).setSr 3 0x10002).setSr 4 (2 ^ 62)).setVr 2 0 0x10020).setVr 2 1 0x10020

def badAt (i : Instr) (s : State) (d : Nat) : Bool :=
  (ev i s).act.any fun l => badTarget (BitVec.ofNat 64 ((ev i s).a l)) == some d &&
    (ev i s).act.all fun k => decide (l ≤ k) || badTarget (BitVec.ofNat 64 ((ev i s).a k)) == none
/-- A bundle in the last fetch block of the lower canonical half. -/
def wTop : State := { w0 with cur := some ⟨0, 3, 0xFFFFFFFFFFFFE0, true⟩ }

theorem wit_BranchesGoToTheirTargets :
    (∀ i ∈ [Instr.bra o0 8, .call { o0 with dst := 4 } 8], (∃ e, BeginsActive i w0 e) ∧ ∃ e, BeginsActive i wTop e) ∧
    badTarget (0x10000 + relOffset o0 8 20) = none ∧ badTarget (0xFFFFFFFFFFFFE0 + relOffset o0 8 20) = some 1 ∧
    (∀ i ∈ [Instr.brx (ops 0 (scal 2) .zero) 0, .ret (ops 0 (scal 2) .zero) 0, .callx (ops 4 (scal 2) .zero) 0,
      .brx (ops 0 (scal 3) .zero) 0, .ret (ops 0 (scal 4) .zero) 0], (∃ e, BeginsActive i wB e)) ∧
    (∀ l ∈ (ev (.brx (ops 0 (scal 2) .zero) 0) wB).act,
      badTarget (BitVec.ofNat 64 ((ev (.brx (ops 0 (scal 2) .zero) 0) wB).a l)) = none) ∧
    badAt (.brx (ops 0 (scal 3) .zero) 0) wB 2 = true ∧ badAt (.ret (ops 0 (scal 4) .zero) 0) wB 1 = true :=
  ⟨fun i h => ⟨witAll (is := [_, _]) (by decide +kernel) i h, witAll (is := [_, _]) (by decide +kernel) i h⟩, by decide +kernel,
    by decide +kernel, witAll (by decide +kernel), by decide +kernel⟩

/-- Lane 0 alone issues. -/
def wHalf : State := { wB with cur := some ⟨0, 1, 0x10000, true⟩ }

theorem wit_MeetingPauseAndExit :
    (∀ i ∈ [Instr.mset o0 0x10, .msetR (ops 0 (scal 2) .zero) 1, .mclr o0 0, .mrd { o0 with dst := 4 } 0, .yield o0 0,
      .sleep (ops 0 (lit 0) .zero) 0, .sleep (ops 0 (lit 9) .zero) 0, .exit o0 0], ∃ e, BeginsActive i wB e) ∧
    (∃ e, Begins (.exit o0 0) wHalf e ∧ ∃ l < 32, l ∉ e.act ∧ e.g.live l = true) ∧
    ∃ e, Begins (.exit o0 0) wB e ∧ (∀ l < 32, e.g.live l = true → l ∈ e.act) ∧ wB.openGroups e.g.team = [(0, (cg wB).2)] :=
  ⟨witAll (by decide +kernel), wit (by decide +kernel), wit (by decide +kernel)⟩

/-- Every cross-lane instruction over all lanes (mask −1), where both lanes have just met, and where they have not. -/
def crosses : List (Instr × (Env → Nat)) := [(.shfl { ops3 3 (vec 1) (vec 2) (lit 0) with lit := 0xFFFFFFFF } 0, fun e => e.c 0),
  (.ballot (ops 3 (lit 0xFF) .zero) 0, fun e => e.a 0), (.matchL (ops 3 (vec 1) (lit 0xFF)) 0, fun e => e.b 0),
  (.lred (ops 3 (vec 1) (lit 0xFF)) 0, fun e => e.b 0), (.lscan (ops 3 (vec 1) (lit 0xFF)) 0, fun e => e.b 0),
  (.vote (ops 3 (lit 0xFF) .zero) 0, fun e => e.a 0)]
def wStale : State := { wB with cur := some ⟨0, 3, 0x10000, false⟩ }
theorem wit_CrossLaneInstructionsExchange : (cg w0).2.isPort 3 = false ∧ (∀ x ∈ crosses, begun x.1 wB = true ∧ begun x.1 wStale = true ∧
    (ev x.1 wB).act ≠ [] ∧ (ev x.1 wB).u.fresh = true ∧ (ev x.1 wB).arrived (BitVec.ofNat 32 (x.2 (ev x.1 wB))) = true ∧
    x.2 (ev x.1 wB) % 2 ^ 32 = 0xFFFFFFFF) ∧
    -- the second part: no lane active, and a port as destination
    (let i := Instr.ballot { ops 3 (lit 0xFF) .zero with gp := 0 } 0
     begun i wB = true ∧ (ev i wB).u.fresh = true ∧ (ev i wB).act = []) ∧
    (let i := Instr.lred (ops 248 (vec 1) (lit 0xFF)) 0
     begun i wPort = true ∧ (ev i wPort).u.fresh = true ∧ (ev i wPort).arrived 0xFFFFFFFF = true) := by
  have h : (crosses.all fun x => begun x.1 wB && begun x.1 wStale && (ev x.1 wB).act != [] && (ev x.1 wB).u.fresh &&
    (ev x.1 wB).arrived (BitVec.ofNat 32 (x.2 (ev x.1 wB))) && x.2 (ev x.1 wB) % 2 ^ 32 == 0xFFFFFFFF) = true := by decide +kernel
  refine ⟨by decide +kernel, fun x hx => ?_, by decide +kernel, by decide +kernel⟩
  have := List.all_eq_true.mp h x hx
  simp only [Bool.and_eq_true, bne_iff_ne, beq_iff_eq] at this
  exact ⟨this.1.1.1.1.1, this.1.1.1.1.2, this.1.1.1.2, this.1.1.2, this.1.2, this.2⟩

/-! ### Statements about traps and pairs -/

/-- A handler is set; it runs; a trap is pending; a result is on its way; the error queue has 16 slots from 0x2F000. -/
def wH : State := wB.modGroup 0 fun g => { g with hvec := 0x10040 }
def wR : State := wB.modGroup 0 fun g => { g with hvec := 0x10040, inh := true }
def wPend : State := wB.modGroup 0 fun g => { g with hvec := 0x10040, pend := some TrapRec.zero }
def busy (s : State) : State := { s with results := [⟨0, [(.vec 5 0, 1)], false⟩] }
def wQ : State := (w0.setField 0 2 448 64 0x2F000).setField 0 2 416 5 4

theorem wit_TrapStartsTheHandler : ∀ s ∈ [wQ, wH, wR], s.cur.isSome = true ∧ (cg s).2.pend = none ∧ s.groupDrained 0 = true ∧
    s.frozen 0 = false ∧ ((Tab.get? s.teams 0).any fun x => x.spilled) = false ∧ ((cg s).2.hvec = 0 ↔ s = wQ) ∧
    ((cg s).2.inh = true ↔ s = wR) ∧ (s.eqSlot 0 = some 0x2F000 ↔ s = wQ) ∧ s.structOk 0 0x2F000 = true ∧
    s.isTableLine 0x2F000 = false ∧ s.lineHeld 0x2F000 = false ∧ (s = wQ → s.field 0 2 384 32 = s.field 0 2 352 32) := by decide +kernel

theorem wit_TrapWaitsForWhatWasIssued : ((busy wH).group? 0) = some (cg wH).2 ∧ (cg wH).2.pend = none ∧ (busy wH).groupDrained 0 = false ∧
    (cg wPend).2.pend = some TrapRec.zero ∧ wPend.groupDrained 0 = true ∧ wPend.frozen 0 = false ∧ (cg wPend).2.hvec ≠ 0 ∧
    ((Tab.get? wPend.teams 0).any fun x => x.spilled) = false ∧
    (cg wPend).2.inh = false ∧ (busy wPend).groupDrained 0 = false := by decide +kernel

/-- A running handler; lane 1 is to exit. -/
def wX : State := wR.modGroup 0 fun g => g.modLane 1 fun x => { x with exitMark := true }
theorem wit_TrapInstructionsComplete :
    (∀ i ∈ [Instr.trapI o0 0x10, .trapVec o0 0x11, .trapVec o0 1], ∃ e, BeginsActive i w0 e) ∧
    badTarget (0x10000 + relOffset o0 (0x11 / 2) 19) = none ∧
    (∃ e, BeginsActive (.trapVec o0 0x11) wTop e ∧ badTarget (e.u.pc + relOffset o0 (0x11 / 2) 19) = some 1) ∧
    (∃ e, BeginsActive (.tret o0 0) wX e ∧ wX.handlerDone e.u.gid e.g = true ∧ e.g.deferred = []) ∧
    (∀ i ∈ [Instr.hpc (ops 0 (lit 3) (scal 2)) 0, .hpc (ops 0 (lit 3) (scal 4)) 0, .hmeet (ops 0 (lit 1) (scal 2)) 0, .hparkClr (ops 0 (lit 3) .zero) 0,
      .hparkSet (ops 0 (lit 1) .zero) 1, .hparkExit (ops 0 (lit 2) .zero) 2, .hrd (ops 5 .zero .zero) 0, .hrd (ops 5 .zero .zero) 1,
      .hrd (ops 5 .zero .zero) 2, .hrd (ops 5 .zero .zero) 3, .hrd (ops 5 .zero .zero) 4, .hrd (ops 5 .zero .zero) 5,
      .hrd (ops 5 (lit 1) .zero) 6, .hrd (ops 5 (lit 31) .zero) 7], ∃ e, BeginsActive i wX e) ∧
    badTarget (BitVec.ofNat 64 ((ev (.hpc (ops 0 (lit 3) (scal 2)) 0) wX).b 0)) = none ∧
    badTarget (BitVec.ofNat 64 ((ev (.hpc (ops 0 (lit 3) (scal 4)) 0) wX).b 0)) = some 1 :=
  ⟨witAll (by decide +kernel), by decide +kernel, witA (by decide +kernel), witA (by decide +kernel), witAll (by decide +kernel),
    by decide +kernel⟩

theorem wit_IllTrapsAlways : (0x1FFF#128 - 3).extractLsb' 0 2 = Len.w64.code ∧ (0x1FFC#128).extractLsb' 2 8 = 0xFF ∧
    (w0.group? 0).isSome = true := by decide +kernel

theorem wit_ShadowMismatches : (aluFor (.fadd o1 ⟨false, 0, false, .rn, .f32⟩)).any (fun x => x.unit?.isSome) = true ∧
    (∃ e, BeginsActive (.fadd o1 ⟨false, 0, false, .rn, .f32⟩) { wI with shadow := 1 } e ∧ True) ∧ ∃ e, BeginsActive (.fadd o1 ⟨false, 0, false, .rn, .f32⟩) { wI with shadow := 2 } e ∧ True :=
  ⟨by decide +kernel, witA (by decide +kernel), witA (by decide +kernel)⟩

/-- IADD v3, v1, v2 beside ISUB v4, v6, s5; and beside LRED.ADD v4, v1 over the lanes of s5, where only lane 0 issues. -/
def mp : ModI := ⟨false, 0, false, .n32⟩
def pairI : Instr := .pair (.iadd o1 mp) (.isub (ops 4 (vec 6) (scal 5)) mp)
def pairS : Instr := .pair (.iadd o1 mp) (.lred (ops 4 (vec 1) (scal 5)) 0)
def pairP : Instr := .pair (.iadd (ops 248 (vec 1) (vec 2)) mp) (.isub (ops 4 (vec 6) (scal 5)) mp)
def readies (i x y : Instr) (s : State) : Option (Bool × Bool) :=
  match halfOf x, halfOf y with
  | some hx, some hy => some (((ev i s).half (cg s).2 hx).halfReady hx, ((ev i s).half (cg s).2 hy).halfReady hy)
  | _, _ => none
theorem wit_PairWordsRunBothOperations :
    ((halfOf (.iadd (ops 248 (vec 1) (vec 2)) mp)).any Half.namesPort = true ∧ (cg (up fun g => { g with compat := true })).2.compat = true ∧
      WellFormed pairP = true) ∧
    (∃ e, Begins pairI w0 e ∧ (cg w0).2.compat = false) ∧
    readies pairI (.iadd o1 mp) (.isub (ops 4 (vec 6) (scal 5)) mp) w0 = some (true, true) ∧
    (∃ e, Begins pairS (wHalf.modGroup 0 fun g => g.setSr 5 3) e ∧ True) ∧
    readies pairS (.iadd o1 mp) (.lred (ops 4 (vec 1) (scal 5)) 0) (wHalf.modGroup 0 fun g => g.setSr 5 3) = some (true, false) :=
  ⟨by decide +kernel, wit (by decide +kernel), by decide +kernel, wit (by decide +kernel), by decide +kernel⟩

/-! ### Statements about memory -/

def mm (opf : Nat) (z : Sz) : ModM := ⟨BitVec.ofNat 12 opf, .rlx, .thread, z⟩
/-- s2 holds a mapped address, s3 one whose leaf is invalid, s4 one off a word, s5 one that is not canonical, s6 the last
word of local memory, s7 the byte after it, s9 its last line; fault records go to 0x2E000. -/
def wM : State :=
  (up fun g => ((((((g.setSr 9 0xFF80).setSr 2 0x10100).setSr 3 0x20000).setSr 4 0x10102).setSr 5 (2 ^ 60)).setSr 6 0xFFFC).setSr 7 0x10000).setField
    0 1 448 64 0x2E000
/-- Lane 0 alone. -/
def alone (s : State) : State := { s with cur := some ⟨0, 1, 0x10000, true⟩ }
def globals (a : Nat) : List (Instr × Ops × AccKind × Bool) :=
  let l := ops 6 (scal a) .zero
  let t := ops 0 (scal a) (vec 8)
  let c := ops3 6 (scal a) (vec 8) (vec 9)
  [(.ld l (mm 0 .b32), l, .read, false), (.ldc l (mm 0 .b32), l, .read, false), (.st t (mm 0 .b32), t, .write, false),
   (.atom t (mm 0 .b32), t, .both, false), (.atomr (ops 6 (scal a) (vec 8)) (mm 0 .b32), ops 6 (scal a) (vec 8), .both, false),
   (.cas c (mm 0 .b32), c, .both, false)]
def checkOf (x : Instr × Ops × AccKind × Bool) (s : State) : Checked :=
  let e := ev x.1 s
  s.check e.asker (e.accs x.2.1 x.2.2.2 4 x.2.2.1) (basesOf (e.accs x.2.1 x.2.2.2 4 x.2.2.1)) 4

theorem wit_GlobalAccessesAreSent :
    begunAll wM ((globals 2).map (·.1)) = true ∧ (∀ x ∈ globals 2, ∃ s' ps, checkOf x wM = .ok s' ps ∧
      (s'.mayWrite 0 ps.length && (s'.strikes 0 0 (ps.map writeOf)).isEmpty && ps.length == 2) = true) :=
  ⟨by decide +kernel, by
    have h : ((globals 2).all fun x => match checkOf x wM with
      | .ok s' ps => s'.mayWrite 0 ps.length && (s'.strikes 0 0 (ps.map writeOf)).isEmpty && ps.length == 2
      | _ => false) = true := by decide +kernel
    exact fun x hx => okC (List.all_eq_true.mp h x hx)⟩

theorem wit_MissesParkAndProtectionTraps :
    begunAll wM ((globals 3 ++ globals 4).map (·.1)) = true ∧ (cg wM).2.inh = false ∧
    (∀ x ∈ globals 3, ∃ s' a l n p, checkOf x wM = .miss s' a l n p ∧
      (s'.groups == wM.groups && s'.structOk 0 (s'.frSlot 0 (s'.frWidx 0))) = true) ∧
    (∀ x ∈ globals 4, ∃ s' c d l a ax, checkOf x wM = .trap s' c d l a ax) ∧
    (let t : Tlb := ⟨0, 0, 0x10, 12, 0xDB, []⟩
     ({ wM with tlb := [t] } : State).lookup 0 0 0x10100 = some t ∧ bitsOf t.leaf.toNat 4 1 = 1 ∧ bitsOf t.leaf.toNat 2 1 = 0) := by
  refine ⟨by decide +kernel, by decide +kernel, ?_, ?_, by decide +kernel⟩
  · have h : ((globals 3).all fun x => match checkOf x wM with
      | .miss s' .. => s'.groups == wM.groups && s'.structOk 0 (s'.frSlot 0 (s'.frWidx 0))
      | _ => false) = true := by decide +kernel
    exact fun x hx => missC (List.all_eq_true.mp h x hx)
  · have h : ((globals 4).all fun x => match checkOf x wM with | .trap .. => true | _ => false) = true := by decide +kernel
    exact fun x hx => trapC (List.all_eq_true.mp h x hx)

/-- A local load, store, atomic and compare-and-swap at the address in a scalar register. -/
def locals (a : Nat) : List Instr :=
  [.ldl (ops 6 (scal a) .zero) (mm 0 .b32), .stl (ops 0 (scal a) (vec 8)) (mm 0 .b32), .atoml (ops 6 (scal a) (vec 8)) (mm 0 .b32),
   .casl (ops3 6 (scal a) (vec 8) (vec 9)) (mm 0 .b32)]

theorem wit_MemoryAccessesTrapInOrder : (mm 0 .b32).scl = false ∧ (mm 0 .b32).sz.bytes = 2 ^ 2 ∧
    begunAll wM ((globals 5).map (·.1)) = true ∧ begunAll wM (locals 7) = true ∧ begunAll wM (locals 4) = true ∧
    (∀ x ∈ [Instr.ld (ops 6 (scal 5) .zero) (mm 0 .b32)], 0 ∈ (ev x wM).act ∧ canonical (Ops.globalEa (ops 6 (scal 5) .zero) ((ev x wM).a 0)) = false) ∧
    (let i := Instr.ld (ops 6 (scal 4) .zero) (mm 0 .b32)
     (∀ k ∈ (ev i wM).act, canonical (Ops.globalEa (ops 6 (scal 4) .zero) ((ev i wM).a k)) = true) ∧
     (Ops.globalEa (ops 6 (scal 4) .zero) ((ev i wM).a 0)).toNat % 4 ≠ 0) ∧
    (let i := Instr.ldl (ops 6 (scal 7) .zero) (mm 0 .b32)
     wM.lmSize 0 = 65536 ∧ Ops.localEa (ops 6 (scal 7) .zero) ((ev i wM).a 0) = 65536) := by decide +kernel

/-- A request of lane 0 for a word, of a group that waits for v6. -/
def req (k : ReqKind) (d : List Byte) (ds : List DReg) : Req :=
  { kind := k, pa := 0x20100, va := 0x10100, size := d.length, data := d, cmp := leBytes 4 0, dests := ds, sz := .b32, gid := 0, lanes := 1,
    ctx := 0, core := 0, pc := 0x10000, ord := .rlx, scope := .thread, num := 0, clock := [], ents := [], tag := 0 }
def sent (r : Req) (s : State := w0) : State := { s with fabric := [r] }

theorem wit_HomesServeAccesses : ∀ k ∈ [ReqKind.read, .write, .atom 0 false, .cas],
    let r := req k (leBytes 4 7) (if k = .write then [] else [.vec 6 0])
    (sent r).servable 0 = true ∧ (sent r).isTableLine r.pa = false ∧ r.data.length = r.size ∧ (sent r).mates r = [r] ∧
    r.remote = none ∧ r.seen = none ∧ 1 ≤ r.size ∧ r.size ≤ 32 ∧
    (∀ a < 4, (sent r).special? ((r.pa + a) / 32) = none ∧ (sent r).queueOfAtom ((r.pa + a) / 32) = none ∧
      (sent r).isCounted (r.pa + a) = false ∧ (sent r).poisonedAt (r.pa + a) = false) := by decide +kernel

theorem wit_ResultsArriveAndFillRegisters : ∀ w ∈ [(DReg.vec 5 0, 1#64), (.vec 5 31, 1), (.scal 63, 2 ^ 63)],
    let s : State := { up fun g => { g with due := [(.vec 5 0, 1)] } with results := [⟨0, [w], false⟩] }
    s.results[0]? = some ⟨0, [w], false⟩ ∧ (s.group? 0).any (fun g => g.due == [(.vec 5 0, 1)]) = true ∧ s.away 0 = false ∧ (cg w0).2.live 0 = true ∧
    (cg w0).2.live 31 = false ∧ (cg w0).2.ended = false := by decide +kernel

/-- Window 0 of 8 bytes. -/
def wW : State := { wM with grids := [(0, { loadGrid with winSize := [(0, 8)], win := [(0, 5)] })] }
def allGood (i : Instr) (o : Ops) (s : State) : Bool :=
  (ev i s).act.all fun l => let a := Ops.localEa o ((ev i s).a l)
    decide (a + 4 ≤ s.lmSize 0) && a % 4 == 0 && !s.lmBad 0 a 4
theorem wit_LocalAccessesCompleteAtOnce :
    wM.inFlight 0 3 = [] ∧ (Tab.get? wM.teams 0).any (fun x => x.engineLate.isEmpty) = true ∧ begunAll wM (locals 6) = true ∧ begunAll (alone wM) (locals 6) = true ∧
    (∀ i ∈ locals 6, (ev i (alone wM)).act = [0]) ∧ allGood (.ldl (ops 6 (scal 6) .zero) (mm 0 .b32)) (ops 6 (scal 6) .zero) wM = true ∧
    begunAll wM [.ldl (ops 6 (scal 6) .zero) (mm 0x800 .b32), .stl (ops 0 (scal 6) (scal 8)) (mm 0x800 .b32),
      .ldlv (ops 8 (scal 9) .zero) (mm 0 .b32), .stlv (ops 0 (scal 9) (vec 8)) (mm 0 .b32)] = true ∧
    (mm 0x800 .b32).scl = true ∧ (mm 0 .b32).lineCount = 1 ∧ lineAlign (mm 0 .b32) = 128 ∧
    (∀ i ∈ (ev (.ldlv (ops 8 (scal 9) .zero) (mm 0 .b32)) wM).act, 0xFF80 + lineOffset (mm 0 .b32) i 0 + 4 ≤ wM.lmSize 0) ∧
    begunAll wW [.ldw (ops 8 (scal 1) .zero) (mm 0 .b32), .ldw (ops 8 (scal 2) .zero) (mm 0 .b32)] = true ∧
    wW.winSize (cg wW).2 0 = 8 := by decide +kernel

/-- A line that is filled, ring-filled, read and released, with quotas for one line. -/
def quotas (s : State) : State := (s.setField 0 2 208 24 1).setPartField 0 32 12 1
def line (k : ReqKind) : Req :=
  { req k (if k = .consume then leBytes 4 0 else List.replicate 128 1) (if k = .release then [] else [.scal 5]) with pa := 0x20100 }
def held : State := { quotas w0 with counted := [(0x20100 / 128, 0, 2)] }
/-- Ring 0 has its control atom at 0x20000 and two slots from line 0x402, both free. -/
def ringing : State := { quotas w0 with tabRing := [(0, 0x20000), (1, 0x20100), (2, 1)], ring := [(0, 0, 2, 0, 0)] }
def ringReq : Req := { line (.ringFill 1) with pa := 0x20000 }
theorem wit_CountedLinesFillAndDrain :
    (∀ k ∈ [ReqKind.fill 1, .ringFill 1, .consume, .release], ∀ s ∈ [quotas w0, held], (sent (line k) s).servable 0 = true) ∧
    (sent (line (.fill 1)) (quotas w0)).fillStatus 0 (0x20100 / 128) false = 0 ∧
    (sent (line (.fill 1)) held).fillStatus 0 (0x20100 / 128) false = 3 ∧ (sent (line (.fill 1)) (quotas w0)).isTableWrite (line (.fill 1)) = false ∧
    (line (.fill 1)).data.length = 128 ∧ (sent (line .consume) held).poisoned 0x20100 4 = false ∧
    Tab.get? held.counted (0x20100 / 128) = some (0, 2) ∧ (sent (line (.ringFill 1)) (quotas w0)).ringOfAtom (0x20100 / 32) = none ∧
    (quotas w0).isTableLine 0 = false ∧ (quotas w0).lineHeld 0 = false ∧ (line .consume).node = none ∧
    ((sent (line .consume) held).fabric.filter fun x => x.tag == 0 && x.kind == .consume && x.pa / 128 == 0x20100 / 128) = [line .consume] ∧
    (let s := sent ringReq ringing
     s.servable 0 = true ∧ s.ringOfAtom (0x20000 / 32) = some 0 ∧ Tab.read (0, 0, 0, 0) s.ring 0 = (0, 2, 0, 0) ∧
     s.ringFirst 0 + 0 = 0x20100 / 128 ∧ s.fillStatus 0 (0x20100 / 128) true = 0 ∧ s.ringOfLine (0x20100 / 128) = some 0 ∧
     s.isTableLine 0x20100 = false ∧ s.lineHeld 0x20100 = false) := by decide +kernel

def lineOps : List Instr := [.ldv (ops 8 (scal 2) .zero) (mm 0 .b32), .stv (ops 0 (scal 2) (vec 8)) (mm 0 .b32),
  .cfill (ops 5 (scal 2) (vec 8)) (mm 0 .b32), .cfillRing (ops 5 (scal 2) (vec 8)) (mm 1 .b32), .crel (ops 0 (scal 2) .zero) (mm 0 .b32)]
def lineCheck (i : Instr) (s : State) : Checked :=
  let e := ev i s
  let a : Nat → Acc := fun n => ⟨e.first, e.mask, BitVec.ofNat 64 (e.a e.first), n, .write⟩
  match i with
  | .ldv o m => s.check e.asker (e.lineAccs o m .read) [(e.first, Ops.globalEa o (e.a e.first))] (lineAlign m)
  | .stv o m => s.check e.asker (e.lineAccs o m .write) [(e.first, Ops.globalEa o (e.a e.first))] (lineAlign m)
  | .cfill _ _ => s.check e.asker [a 128] [(e.first, (a 128).va)] 128
  | .cfillRing _ _ => s.check e.asker [a 32] [(e.first, (a 32).va)] 32
  | .crel o _ => s.check e.asker (e.accs o false 1 .write) [] 1
  | _ => .stop s
theorem wit_LinesAndCountedAccessesAreSent : begunAll wM lineOps = true ∧ (ev (.crel (ops 0 (scal 2) .zero) (mm 0 .b32)) (alone wM)).act = [0] ∧
    ∀ i ∈ lineOps, ∃ s' ps, lineCheck i (alone wM) = .ok s' ps ∧ (s'.mayWrite 0 ps.length && (s'.strikes 0 0 (ps.map writeOf)).isEmpty) = true := by
  refine ⟨by decide +kernel, by decide +kernel, ?_⟩
  have h : (lineOps.all fun i => match lineCheck i (alone wM) with
    | .ok s' ps => s'.mayWrite 0 ps.length && (s'.strikes 0 0 (ps.map writeOf)).isEmpty
    | _ => false) = true := by decide +kernel
  exact fun i hi => okC (List.all_eq_true.mp h i hi)

def mo (d : MemOrd) (c : Scope) (opf : Nat := 0) : ModM := ⟨BitVec.ofNat 12 opf, d, c, .b32⟩
/-- The group is held by a hold. -/
def hold (k : HoldKind) (s : State := w0) : State := s.modGroup 0 fun g => { g with hold := some ⟨k, 0, 3, 0x10000, 0x10008, 0⟩ }
def fenceDone : State := { hold (.fencex 1) with fences := [⟨1, 0, 0, 4, 0, .team, [], [], [], []⟩] }
theorem wit_FencesAndHints :
    begunAll wM [.fence o0 (mo .acq .modul), .fence o0 (mo .ar .modul), .fence o0 (mo .rel .modul), .fence o0 (mo .rlx .group),
      .fence o0 (mo .rlx .thread), .fencex o0 (mo .rlx .team 0x20), .fencex o0 (mo .rlx .team 4), .pref (ops 0 (scal 2) .zero) (mm 0 .b32),
      .residNear (ops 0 (scal 2) (lit 1)) (mm 0 .b32), .residCold (ops 0 (scal 2) (lit 1)) (mm 2 .b32),
      .residHbm (ops 0 (scal 2) (lit 1)) (mm 1 .b32)] = true ∧
    fenceDone.fenceDone ⟨1, 0, 0, 4, 0, .team, [], [], [], []⟩ = true ∧ (cg fenceDone).2.hold.isSome = true ∧
    (∀ x ∈ [(Instr.pref (ops 0 (scal 2) .zero) (mm 0 .b32), [0x10100#64]), (.residNear (ops 0 (scal 2) (lit 1)) (mm 0 .b32), [0x10000#64])],
      let e := ev x.1 wM
      let r := wM.translateAll e.asker ((x.2.filter canonical).map fun va => ⟨e.first, e.mask, va, 1, .read⟩)
      let h := r.1.hints e.asker e.u.gid e.mask true (fun s _ => s) x.2
      (r.2.all fun t => t.2 != .wait) = true ∧ h.cur.isSome = true ∧ h.teams = wM.teams) ∧
    (let x : State := { w0 with frame := [(2, 64)] }
     bitsOf (x.frameW (2 * 65536)).toNat 0 7 = 64 ∧ bitsOf (x.frameW (2 * 65536)).toNat 26 1 = 0 ∧ x.migQueue.length < 4096) := by
  decide +kernel

/-! ### Statements about barriers, messages, gangs and waits -/

/-- A guard that is false: p0 is false in every lane. Lane 0 alone has reached the instruction. -/
def oOff : Ops := { o0 with gp := 0 }
def early : State := { w0 with cur := some ⟨0, 1, 0x10000, true⟩ }
theorem wit_BarriersHoldAndRelease :
    (∀ i ∈ [Instr.tbar o0 1, .cbar o0 3], begun i w0 = true ∧ (ev i w0).act ≠ [] ∧ (ev i w0).u.fresh = true ∧
      (ev i w0).arrived (BitVec.allOnes 32) = true) ∧
    (∀ i ∈ [Instr.tbar oOff 1, .cbar oOff 3], begun i w0 = true ∧ (ev i w0).act = []) ∧
    (∀ i ∈ [Instr.tbar o0 1, .cbar o0 3], begun i early = true ∧ (ev i early).arrived (BitVec.allOnes 32) = false) ∧
    ∀ c ∈ [false, true], (hold (.barrier c 1)).onCore (cg (hold (.barrier c 1))).2 = true ∧
      (hold (.barrier c 1)).barrierDone c 1 (cg (hold (.barrier c 1))).2 = true := by decide +kernel

/-- Mailbox 1 of the team; a send to it, and the waits for it. -/
def boxed (b : Mailbox) (s : State := w0) : State := { s with teams := [(0, { loadTeam with boxes := [(1, b)] })] }
def full : Mailbox := ⟨List.replicate 7 1, false, 0, 5⟩
def armedBox (n : W32) : Mailbox := ⟨[], true, 9, n⟩
def msgs : List Instr := [.msend (ops 0 (lit 16) (lit 32)) 0x10, .mprobe (ops 5 .zero .zero) 1, .mrecv (ops 5 .zero .zero) 1,
  .bcarm (ops 0 (lit 9) .zero) 1, .bcwait (ops 5 .zero .zero) 1]
def aSend : Send := ⟨1, 0, 0, 0, 0, 1, 65520, List.replicate 16 7, 0, none⟩
def pendOf (k : PendKind) : Pending := ⟨k, 0, 0, 5, 0⟩
def late (k : PendKind) (b : Mailbox := Mailbox.empty) : State := { boxed b with pendings := [pendOf k], cycle := 2 ^ 26 }
theorem wit_MessagesAndByteCounts :
    (∀ b ∈ [Mailbox.empty, full, armedBox 8, armedBox 9], begunAll (boxed b) msgs = true ∧ (boxed b).pendings = [] ∧
      (boxed b).clusterTeams 0 = [0] ∧ (boxed b).sendsOf 0 < 16 ∧ (boxed b).fenced 0 3 = false ∧ (boxed b).lmBad 0 16 16 = false) ∧
    (∀ b ∈ [full, armedBox 8], let s : State := { boxed b with sends := [aSend] }
      s.sendBehind 0 aSend = false ∧ s.frozen 0 = false ∧ (b.armed = true ∨ b.recs.length < 8) ∧
      aSend.daddr + aSend.data.length = loadTeam.lmSize) ∧
    (∀ k ∈ [PendKind.mrecv 1, .bcwait 1], ∀ b ∈ [armedBox 8, armedBox 9], (late k b).pendings[0]? = some (pendOf k) ∧
      (late k b).pendingOver (pendOf k) = true ∧ (late k b).boxOf 0 1 = b) ∧
    (let s : State := { boxed (armedBox 9) with pendings := [pendOf (.bcwait 1)] }
     begunAll s msgs = true ∧ (ev (.bcarm (ops 0 (lit 9) .zero) 1) s).a 0 % 2 ^ 32 = 9) ∧
    (Tab.get? w0.teams 0).any (fun x => x.coreLate.isEmpty && !x.ended && !x.spilled) = true := by decide +kernel

/-- A team of two groups; banks 0 to 15 are the team's. -/
def wGang : State := { w0 with teams := [(0, { loadTeam with groups := [0, 1] })], grids := [(0, { loadGrid with tg := 2 })] }
def banked : State := { w0 with banks := (List.range 16).map fun b => (b, 0) }
def gangI (n : Nat) : Instr := .gangset (ops 0 (lit n) .zero) 0
def accI (n : Nat) : Instr := .accal (ops 5 (lit n) .zero) 0
def freeI (n k : Nat) : Instr := .accfree (ops 0 (lit n) (lit k)) 0
def asked : State := { hold (.accal 16) with accReqs := [⟨0, 0, 16, 5⟩] }
theorem wit_GangsAndBanks :
    begunAll wGang [gangI 3, gangI 5, .gangclr o0 0] = true ∧ gangMaskOk 3 (wGang.teamSize (cg wGang).2) 0 = true ∧
    gangMaskOk 5 (wGang.teamSize (cg wGang).2) 0 = false ∧ (cg wGang).2.liveLanes = [0, 1] ∧ (ev (gangI 3) wGang).lanes = [0, 1] ∧
    begunAll early [gangI 3, .gangclr o0 0] = true ∧ (ev (gangI 3) early).lanes = [0] ∧
    begunAll w0 [accI 0, accI 1, accI 16, accI 17] = true ∧ w0.accb 0 0 = 16 ∧
    begunAll banked [freeI 0 16, freeI 15 1, freeI 0 0, freeI 1 16, freeI 0 17] = true ∧ begunAll w0 [freeI 0 1] = true ∧
    (∀ i < 16, Tab.get? banked.banks i = some 0) ∧ Tab.get? w0.banks 0 = none ∧
    asked.accNext 0 = some (⟨0, 0, 16, 5⟩, 0) ∧ (asked.group? 0).any (fun g => g.hold.isSome) = true := by decide +kernel

/-- A lane that waits since cycle 0 at cycle 2^26. -/
def waiting (k : Block) : State :=
  { w0.modGroup 0 fun g => g.modLane 0 fun x => { x with block := some k } with cycle := 2 ^ 26 }
def prod : Product := ⟨0, false, .s8, .s8, 0, 0, 0, [], none⟩
def expired (k : HoldKind) (s : State := w0) : State := { hold k s with cycle := 2 ^ 26 }
/-- A second group of the team that has not arrived; one that has ended, to which the gang register of group 0 points. -/
def peer (g : Group) (s : State) : State := { s with groups := s.groups ++ [(1, g)] }
def partner : State := peer { loadGroup with gix := 1, lanes := [(0, { Lane.off with stat := .exited })] } ((expired (.gang prod)).modGroup 0 fun g => { g with gang := 3 })
def meeting : State :=
  { w0.modGroup 0 fun g => g.modLane 0 fun x => { x with held := true, meet := 0x10000 } with cycle := 4096 }
theorem wit_WaitsEndInTheirTraps :
    (let s := peer { loadGroup with gix := 1 } (expired (.barrier false 1))
     s.barrierDone false 1 (cg s).2 = false ∧ ((s.barrierPeers false (cg s).2).filter fun e => e.2.heldAt (.barrier false 1)).map (·.1) = [0] ∧
     s.onCore (cg s).2 = true ∧ (cg s).2.hold.any (fun h => decide (h.since + 2 ^ 26 ≤ s.cycle)) = true) ∧
    (∀ k ∈ [HoldKind.gang prod, .msend], (expired k).onCore (cg (expired k)).2 = true ∧
      (cg (expired k)).2.hold.any (fun h => h.kind == k && decide (h.since + 2 ^ 22 ≤ (expired k).cycle)) = true) ∧
    (partner.group? 1).any (fun x => x.ended && (partner.abandoned x).map (·.1) == [0]) = true ∧
    (∀ k ∈ [Block.cross (.nop o0 0), .queue true 0], ((cg (waiting k)).2.lane 0).block = some k ∧ (waiting k).onCore (cg (waiting k)).2 = true ∧
      isCross k = !isQueue k ∧
      (cg (waiting k)).2.pend = none ∧ ((cg (waiting k)).2.lane 0).since + 2 ^ 22 ≤ (waiting k).cycle) ∧
    (meeting.onCore (cg meeting).2 = true ∧ (cg meeting).2.inh = false ∧ ((cg meeting).2.lane 0).held = true ∧
      Tab.read 0 (cg meeting).2.meets 0x10000 + 4096 ≤ meeting.cycle) ∧
    ((cg (waiting (.sleep (2 ^ 26)))).2.lane 0).block = some (.sleep (2 ^ 26)) := by decide +kernel

/-! ### Statements about furrows -/

/-- A furrow slot of team 0: 4 entries at 0x100, completion word at 0x60, 2 entries handed over; and its handle. -/
def fur (cur tail : Nat) (ns : List Node) : Furrow :=
  { Furrow.init with opened := true, base := 0x100, len := 4, cw := 12, cur := cur, tail := tail, nodes := ns }
def slotted (f : Furrow) (s : State := w0) : State :=
  { s.modGroup 0 fun g => (((g.setSr 4 0x10).setSr 5 0x20).setSr 6 (0x100 + 4 * 2 ^ 22 + 12 * 2 ^ 35)).setSr 7 1 with furrows := [(0, f)] }
def allOpen : State := { slotted (fur 0 2 []) with furrows := (List.range 16).map fun i => (i, fur 0 2 []) }
def goI (a n : Nat) : Instr := .frgo (ops 9 (scal a) (lit n)) 0
def advI (h n : Nat) : Instr := .fradv (ops 0 (scal h) (lit n)) 0
def closeI (h n : Nat) : Instr := .fradvClose (ops 0 (scal h) (lit n)) 1
def waitI (h n : Nat) : Instr := .frwait (ops 0 (scal h) (lit n)) 0
/-- A waiting node of a kind, entry `ix`, with its words. -/
def nd (k ix : Nat) (w1 w2 w3 : W64) (fl : Nat := 0) : Node :=
  ⟨ix, ix, 0, .waiting, k, ⟨BitVec.ofNat 64 (k + 16 * fl), w1, w2, w3⟩, false, 0, [], ⟨0, none, true⟩, [], [], []⟩
def busyNode : Node := { nd 10 0 (2 ^ 63) 1 0 with phase := .running }

theorem wit_FurrowInstructionsComplete :
    begunAll allOpen [goI 6 4] = true ∧ (∀ i < 16, ((Tab.get? allOpen.furrows i).getD Furrow.init).opened = true) ∧
    (let s := slotted Furrow.init
     begunAll s [goI 6 4, goI 6 5, .frstat (ops 9 (scal 4) .zero) 0] = true ∧ frgoBad ((ev (goI 6 4) s).a 0) 4 (s.lmSize 0) = false ∧
     frgoBad ((ev (goI 6 5) s).a 0) 5 (s.lmSize 0) = true) ∧
    (let s := slotted (fur 0 2 [])
     begunAll s [advI 5 1, closeI 5 1, advI 4 3, closeI 4 3, advI 4 2, closeI 4 2, waitI 4 0, waitI 4 1, waitI 5 0] = true ∧
     s.furrowOf 0 0 0x20 = none ∧ (s.furrowOf 0 0 0x10).any (fun x => decide (x.2.len < x.2.tail + 3 - x.2.head)) = true ∧
     (s.furrowOf 0 0 0x10) = some (0, fur 0 2 []) ∧ ({ fur 0 4 [] with limit := some 4 } : Furrow).stalls = false) ∧
    (slotted (fur 2 2 [])).furrowOf 0 0 0x10 = some (0, fur 2 2 []) ∧ begunAll (slotted (fur 2 2 [])) [closeI 4 0] = true ∧
    (slotted { fur 0 2 [] with state := 2 }).furrowOf 0 0 0x10 = some (0, { fur 0 2 [] with state := 2 }) := by decide +kernel

/-- Entry 0 in local memory: a signal of 7 to local address 0x40; an entry of reserved kind 15; a node that has run. -/
def entry (w : Nat) : State :=
  { slotted (fur 0 2 []) with teams := [(0, { loadTeam with lm := Memory.setBytes [] 0x100 (leBytes 8 w ++ leBytes 8 (2 ^ 63 + 0x40) ++ leBytes 8 7) })] }
def dropped : State :=
  { w0 with
    teams := [(0, loadTeam), (1, { loadTeam with cluster := 1, boxes := [(1, ⟨List.replicate 8 1, false, 0, 0⟩)] })]
    clusters := [(0, loadCluster), (1, { loadCluster with teams := [1] })]
    sends := [{ aSend with dst := 1 }], cycle := 2 ^ 26 }
theorem wit_DrillAdmitsAndNodesFinish :
    (∀ w ∈ [10, 15], (fur 0 2 []).admits = true ∧ (entry w).frozen 0 = false ∧ (Tab.get? (entry w).teams 0).any (fun x =>
      x.entryOk (fur 0 2 []) (x.entry (fur 0 2 []) 0) 0 == (w == 10)) = true) ∧
    (let s := slotted (fur 1 2 [busyNode])
     busyNode.phase = .running ∧ busyNode.buf = [] ∧ busyNode.unread = 0 ∧ s.nodeOut 0 0 = false ∧ (Tab.get? s.teams 0).isSome = true) ∧
    dropped.deliverSend 0 = none ∧ dropped.sendBehind 0 { aSend with dst := 1 } = false ∧
    (Tab.get? dropped.clusters 1).any (fun c => c.phase == .resident) = true ∧ aSend.since + 2 ^ 26 ≤ dropped.cycle := by decide +kernel

def G : W64 := 0x10100
def L (a : Nat) : W64 := BitVec.ofNat 64 (2 ^ 63 + a)
/-- A node alone in slot 0, and what its checks answer. -/
def noded (n : Node) (s : State := w0) : State := slotted (fur 1 2 [n]) s
def nodeOk (s : State) (k : Nat) (accs : Nd → List Acc) (P : Nd → State → List Placed → Bool) : Bool :=
  match s.nd? 0 0 0 k with
  | none => false
  | some x₀ =>
    let x := x₀.look
    x₀.startable && decide (s.bufUsed 0 + 65536 ≤ 65536) && match x.s.check x.asker (accs x) [] 1 with
    | .ok s' ps => ps.all (fun p => !s'.waitsAt x.die (AccKind.isWrite p.acc.kind) p) && (s'.strikes 0 1 (writesAt ps)).isEmpty &&
        (s'.badPlace ps).isNone && P x s' ps
    | _ => false
/-- Page 0x10 of context 0 is held without its R bit. -/
def noRead (s : State) : State := { s with tlb := [⟨0, 0, 0x10, 12, 0x80D1, []⟩] }
theorem wit_NodesStart :
    -- copies: local to local up to the end of local memory, from and to global memory
    nodeOk (noded (nd 0 0 (L 0) (L 0x8000) 0x8000)) 0 (fun _ => []) (fun x _ _ => copyLen x.n.ent == 0x8000) = true ∧
    nodeOk (noded (nd 0 0 G (L 0) 256)) 0 (fun x => nodeAccs .read [(G, copyLen x.n.ent)]) (fun x _ _ => gAddr? x.n.ent.w1 == some G) = true ∧
    nodeOk (noded (nd 0 0 (L 0) G 256)) 0 (fun x => nodeAccs .write [(G, copyLen x.n.ent)]) (fun x _ _ => gAddr? x.n.ent.w2 == some G) = true ∧
    -- gathers and scatters of two rows of 16 bytes
    nodeOk (noded (nd 1 0 G 0 (2 + 2 ^ 32 * 16))) 1 (fun x => nodeAccs .read (x.indices.map fun m => (x.rowVa m, gRowb x.n.ent))) (fun x s _ =>
      canonical G && !Words4.flag x.n.ent 4 && !s.lmBad 0 (gList x.n.ent) (4 * gRows x.n.ent)) = true ∧
    nodeOk (noded (nd 2 0 G 0 (2 + 2 ^ 32 * 16))) 2 (fun x => nodeAccs .write (x.indices.map fun m => (x.rowVa m, gRowb x.n.ent))) (fun x s _ =>
      !s.lmBad 0 (gList x.n.ent) (4 * gRows x.n.ent)) = true ∧
    nodeOk (noded (nd 3 0 (2 ^ 48) 0 0)) 3 (fun _ => []) (fun x s _ => s.clusterTeams x.t.cluster == [0] && decide (s.sendsOf 0 < 16) &&
      !s.lmBad 0 (lAddr x.n.ent.w1) (sendBytes x.n.ent)) = true ∧
    nodeOk (noded (nd 4 0 G (2 ^ 32) 0)) 4 (fun x => (List.range (fillLines x.n.ent)).map fun j => ⟨0, 0, x.n.ent.w1 + BitVec.ofNat 64 (128 * j), 128, .write⟩)
      (fun x _ _ => fillLines x.n.ent == 1) = true ∧
    nodeOk (noded (nd 5 0 G 0 0)) 5 (fun x => (List.range (relLines x.n.ent)).map fun j => ⟨0, 0, x.n.ent.w1 + BitVec.ofNat 64 (128 * j), 128, .write⟩)
      (fun _ _ _ => true) = true ∧
    nodeOk (noded (nd 6 0 G (2 ^ 22) (4 + 2 ^ 32 * 64))) 6 (fun x => nodeAccs .read ((List.range (nRows x.n.ent)).map fun m => (nRow x.n.ent m, 4 * nCols x.n.ent)))
      (fun _ _ ps => ps.all fun p => isHbm p.pa) = true ∧
    nodeOk (noded (nd 8 0 1 0 0)) 8 (fun _ => []) (fun _ _ _ => true) = true ∧ nodeOk (noded (nd 8 0 0x1FFFF 0 (2 ^ 16 + 5))) 8 (fun _ => []) (fun _ _ _ => true) = true ∧
    nodeOk (noded (nd 9 0 (2 ^ 26 + 0x40) 0 0)) 9 (fun _ => []) (fun x s _ => !s.lmBad 0 (lAddr x.n.ent.w1) 8) = true ∧
    nodeOk (noded (nd 9 0 (2 ^ 26 + 0x40) 1 0)) 9 (fun _ => []) (fun x s _ => !s.lmBad 0 (lAddr x.n.ent.w1) 8) = true ∧
    nodeOk (noded (nd 10 0 (L 0x40) 7 0)) 10 (fun _ => []) (fun x _ _ => !Words4.flag x.n.ent 4) = true ∧
    (∀ f ∈ [0, 1], nodeOk (noded (nd 10 0 G 7 0 f)) 10 (fun x => [⟨0, 0, G, 8, if Words4.flag x.n.ent 4 then .both else .write⟩])
      (fun _ _ ps => ps.length == 1) = true) ∧
    -- a copy whose source may not be read
    ((noRead (noded (nd 0 0 G (L 0) 256))).nd? 0 0 0 0).any (fun x => x.startable && match x.look.s.check x.look.asker (nodeAccs .read [(G, 256)]) [] 1 with
      | .trap .. => true
      | _ => false) = true := by and_intros <;> decide +kernel

/-! ### Statements about the matrix units -/

def mx (opf : Nat) (a b : MatTy) (acc := false) : ModX := ⟨BitVec.ofNat 13 opf, acc, b, a⟩
def mz (opf : Nat) : ModX := mx opf .f16 .f16
/-- A record of one KiB with rows of one block, and one of 512 KiB. -/
def rcd (fmt soff : Nat) : ObRec := ⟨true, 0, 1, 1, 0, fmt, 1, soff, 3, false⟩
/-- s10 names record 0 (S8), s11 record 1 (Q4), s14 none; s12 describes tile 0 with 2 rows and columns, s13 is OBRES's
configuration, s16 and s17 an address and a pitch of 32; banks 0 and 1 are the team's. v4 is an index vector. -/
def wMx : State :=
  { w0.modGroup 0 fun g => ((((((((g.setSr 10 0x20).setSr 11 0x21).setSr 12 (2 ^ 5 + 2 ^ 11)).setSr 13 0x10002).setSr 14 0x40).setSr 16 0x10100).setSr
      17 32).setVr 4 1 0x80000000).setVr 5 1 0x20 with
    ob := [(0, rcd 4 0), (1, rcd 6 512)], banks := [(0, 0), (1, 0)] }
def oAB (d a b : Nat) : Ops := ops d (scal a) (scal b)
def obresI (n : Nat) : Instr := .obres (ops 20 (lit n) (scal 13)) (mx 0 .s8 .f16)
def handleIs (h : Nat) : List Instr := [.obfill (ops 0 (scal h) (lit 0)) (mz 0), .ixgath (ops 0 (scal h) (vec 4)) (mz 1), .mld (oAB 20 h 16) (mz 1),
  .mldSca (oAB 20 h 16) (mz 0x40), .mldt (oAB 20 h 16) (mz 1)]
def filled (r : ObRec) (n : Nat) : State := { wMx with ob := (List.range n).map fun i => (i, r) }
def segCheck (i : Instr) (s : State) (ref : Nat) (rows : Nat) (sca tr : Bool) : Bool :=
  let e := ev i s
  let p := IntTy.s32.val (e.b 0 / 2 ^ 64)
  match s.check e.asker (rangeAccs e.first e.mask .read ((mldSegs (s.obRec 0 ref) ref (e.b 0 % 2 ^ 64) rows p sca tr).map fun g => (g.1, g.2.1))) [] 1 with
  | .ok s' ps => ps.all (fun y => !s'.waitsAt 0 false y) && ((s'.touchRead 0 ps).badPlace ps).isNone && (s.refRange 0 ref rows 0).isNone &&
      decide (e.b 0 / 2 ^ 64 < 2 ^ 32) && (!tr || decide ((s.obRec 0 ref).ty ≠ .q4) && decide (p.natAbs % ((s.obRec 0 ref).ty.width / 8) = 0))
  | _ => false

theorem wit_OperandBufferInstructions : wMx.fenced 0 4 = false ∧ begunAll wMx ([obresI 0, obresI 1] ++ handleIs 10 ++ handleIs 11 ++ handleIs 14) = true ∧
    obresBad (obNew 0 0 0 4 0x10002) 0 0x10002 = 3 ∧ obresBad (obNew 0 0 1 4 0x10002) 1 0x10002 = 0 ∧
    (∀ i < 32, ((filled (rcd 4 0) 32).obRec 0 i).live = true) ∧ (filled { rcd 4 0 with size := 512 } 1).freeRange 0 1 = none ∧
    wMx.freeRange 0 1 = some 1 ∧ (wMx.obRec 0 2).live = false ∧ begunAll (filled (rcd 4 0) 32) [obresI 1] = true ∧
    wMx.handleBad 0 0 0x20 = none ∧ wMx.handleBad 0 0 0x21 = none ∧ (wMx.handleBad 0 0 0x40).isSome = true ∧
    (let e := ev (.obfill (ops 0 (scal 10) (lit 0)) (mz 15)) wMx
     begun (.obfill (ops 0 (scal 10) (lit 0)) (mz 15)) wMx = true ∧ e.a e.first < 2 ^ 35 ∧ bitsOf (e.b e.first) 22 10 = 0 ∧
     bitsOf (e.a e.first) 16 19 + 1024 = (wMx.obRec 0 0x20).size * 1024 ∧ wMx.lmBad 0 0 1024 = false) ∧
    begunAll wMx [.obdrop (ops 20 (scal 10) .zero) (mz 0), .obqry (ops 20 (scal 10) .zero) (mz 0), .obdrop (ops 20 (scal 14) .zero) (mz 0)] = true ∧
    wMx.ownRecord 0 0 0x20 = true ∧ wMx.ownRecord 0 0 0x40 = false ∧
    (let e := ev (.ixgath (ops 0 (scal 10) (vec 4)) (mz 1)) wMx
     let es := e.entries e.b 4 2
     es = [some 0, some 0x80000000] ∧ refReserved 0x20 = none ∧ entReserved es = none ∧ wMx.refRange 0 0x20 2 0 = none ∧ entAlign es = none ∧
     (∀ y ∈ es, wMx.rowBad 0 32 y = false)) ∧
    segCheck (.mld (oAB 20 10 16) (mz 1)) wMx 0x20 2 false false = true ∧ segCheck (.mldSca (oAB 20 11 16) (mz 0x40)) wMx 0x21 1 true false = true ∧
    segCheck (.mldt (oAB 20 10 16) (mz 1)) wMx 0x20 2 false true = true ∧ (wMx.obRec 0 0x21).ty = .q4 := by decide +kernel

def cvt1 : ModX := mz 1
def accIs : List Instr := [.accld (ops 4 (vec 8) .zero) (mz 0), .accst (ops 0 (vec 8) (vec 6)) (mz 0), .accz (ops 0 (scal 12) .zero) (mz 0),
  .acccvtI2f (oAB 0 12 18) (mz 0), .acccvtF2i (oAB 0 12 18) (mz 1), .acclmIn (oAB 0 12 18) (mz 0), .acclmOut (oAB 0 12 18) (mz 1),
  .mst (oAB 0 12 16) (mz 0), .mtopk (oAB 0 12 18) (mz 0), .mtopk (oAB 0 12 18) (mz 0x180), .qnt (ops 4 (vec 8) .zero) (mz 0),
  .qnt (ops 4 (vec 8) .zero) (mz 0x10)]
theorem wit_AccumulatorAndQuantise : wMx.shadow = 0 ∧ begunAll wMx accIs = true ∧ wMx.tileBad 0 0 0 = none ∧
    (let e := ev (.accz (ops 0 (scal 12) .zero) (mz 0)) wMx
     e.a e.first = 2 ^ 5 + 2 ^ 11 ∧ descM (e.a e.first) = 2 ∧ descN (e.a e.first) = 2 ∧ descT (e.a e.first) = 0 ∧ bitsOf (e.a e.first) 17 13 = 0) ∧
    (let e := ev (.acclmOut (oAB 0 12 18) (mz 1)) wMx
     e.b e.first = 0 ∧ 16 ≤ wMx.lmSize 0 ∧ (∀ j < 2, wMx.lmBad 0 (j * 8) 8 = false) ∧ 2 * ofmtBytes (ModX.ofmt (mz 1)) ≤ rowPitch (e.a e.first) (ofmtBytes (ModX.ofmt (mz 1)))) ∧
    (let e := ev (.mst (oAB 0 12 16) (mz 0)) wMx
     let w := ofmtBytes (ModX.ofmt (mz 0))
     (match wMx.check e.asker (rangeAccs e.first e.mask .write ((List.range 2).map fun j =>
        (BitVec.ofNat 64 (e.b e.first) + BitVec.ofNat 64 (j * rowPitch (e.a e.first) w), 2 * w))) [] 1 with
      | .ok s' ps => ps.all (fun y => !s'.waitsAt 0 true y) && s'.shadow == 0 && (s'.strikes 0 1 (writesAt ps)).isEmpty
      | _ => false) = true ∧ e.b e.first % 2 ^ 64 % w = 0) ∧
    (∀ l ∈ (ev (.accld (ops 4 (vec 8) .zero) (mz 0)) wMx).act, bitsOf ((ev (.accld (ops 4 (vec 8) .zero) (mz 0)) wMx).a l) 17 15 = 0) ∧
    (mz 0x180).opf.getLsbD 8 = true ∧ (cg wMx).2.isPort 4 = false := by decide +kernel

def o4 (a : Src) : Ops := ops3 0 a (scal 10) (scal 12)
def ms8 (g : Nat) : ModX := mx g .s8 .s8 true
/-- A product of each kind, without and with GANG; MMAG gathers its rows through v6. -/
def prods (g : Nat) : List (Instr × Nat) := [(.mma (o4 (scal 10)) (ms8 g), 0), (.mmaw (o4 (scal 10)) (ms8 g), 1), (.mdist (o4 (scal 10)) (ms8 g), 2), (.mmag (o4 (vec 6)) (ms8 g), 3)]
def prodOf (x : Instr × Nat) (g : Nat) (s : State) : Product :=
  let e := ev x.1 s
  e.productOf (ms8 g) x.2 (if x.2 = 3 then e.entries e.a 6 (descM (e.c e.first % 2 ^ 32)) else [])
def runs (g : Nat) (s : State) : Bool :=
  (prods g).all fun x => begun x.1 s && (ev x.1 s).act != [] && (s.productBad 0 0 (prodOf x g s)).isNone && (prodOf x g s).ents.all fun y =>
    !s.rowBad 0 32 y
def tired : State := { wMx with ob := [(0, { rcd 4 0 with count := 0 })] }
/-- Groups 0 and 1 form a gang; group 1 is held at the latch with tile 2. -/
def wGg : State := { wMx.modGroup 0 fun g => { g with gang := 3 } with teams := [(0, { loadTeam with groups := [0, 1] })] }
def wGh : State :=
  { wGg with groups := wGg.groups ++ [(1, { (cg wGg).2 with gix := 1, hold := some ⟨.gang { prodOf (prods 1)[0] 1 wMx with desc := 2 ^ 5 + 2 ^ 11 + 2 }, 0, 3, 0x10000, 0x10010, 0⟩ })] }
theorem wit_ProductsComplete : wMx.fenced 0 4 = false ∧ wMx.accBad = [] ∧ (prods 0).all (fun x => !wMx.productPoison 0 (prodOf x 0 wMx)) = true ∧ wMx.shadow = 0 ∧ runs 0 wMx = true ∧ runs 1 wMx = true ∧
    (wMx.productBad 0 0 { prodOf (prods 0)[0] 0 wMx with a := 0x40 }).isSome = true ∧
    (∀ x ∈ (prods 0).map (prodOf · 0 wMx), ∀ h ∈ x.uses, wMx.exhausted 0 x.uses h = false) ∧
    (∀ x ∈ (prods 0).map (prodOf · 0 tired), x.uses.any (tired.exhausted 0 x.uses) = true) ∧
    hasLane (cg wMx).2.gang 0 = false ∧ hasLane (cg wGg).2.gang 0 = true ∧ (lanesOf (cg wGg).2.gang).length = 2 ∧ runs 1 wGg = true ∧
    (∀ l ∈ (cg wGg).2.liveLanes, l ∈ (ev (prods 1)[0].1 wGg).lanes) ∧ runs 1 { wGg with cur := early.cur } = true ∧
    (wGg.teamGroups 0).map (·.1) = [0] ∧
    (match (ev (prods 1)[0].1 wGh).holdFor wGh (.gang (prodOf (prods 1)[0] 1 wGh)) with
      | .next u => (match u.members 0 3 with
        | some (y :: ys) => gangCode y (y :: ys) == 0 && ys.length == 1 && ((y :: ys).all fun z => (u.bankLost 0 0 z).isNone) &&
          (jointUses (y :: ys)).all fun h => !wGh.exhausted 0 (jointUses (y :: ys)) h
        | _ => false)
      | _ => false) = true := by decide +kernel
theorem wit_MatrixDispatchNode :
    let n := nd 7 0 (0x20 + 4 * 2 ^ 43 + 4 * 2 ^ 46 + 2 ^ 49) 0x20 (2 ^ 5 + 2 ^ 11)
    nodeOk (noded n wMx) 7 (fun _ => []) (fun x s _ => (s.productBad 0 0 (dispatchOf x.n.ent)).isNone &&
      !(dispatchOf x.n.ent).uses.any (s.exhausted 0 (dispatchOf x.n.ent).uses)) = true := by decide +kernel

/-! ### Statements about fills, calls, launches and seals -/

/-- s2 holds 0x10000, whose atom is atom 0 of pool 0 (11 R313); with the atom's STATE and PINS. -/
def pooled (st pins : Nat) : State :=
  { w0.modGroup 0 fun g => g.setSr 2 0x10000 with
    tabPool := [(1, 0x11000), (2, 64), (3, 0x20000)], pool := [(0, [⟨0x10400, 64, 0, 0, pins, 0, st, 0⟩])] }
def fb : Instr := .fbwait (ops 20 (scal 2) (lit 1)) 0
def fbRel : Instr := .fbwaitRel (ops 20 (scal 2) .zero) 1
def byteOk (i : Instr) (s : State) (P : State → Placed → Bool) : Bool :=
  let e := ev i s
  match s.check e.asker [⟨e.first, e.mask, BitVec.ofNat 64 (e.a e.first), 1, .read⟩] [] 1 with
  | .ok s' [p] => P s' p
  | _ => false
def filling (buf : Option Nat) (own : Tab Nat) (now : Nat) : State :=
  { pooled 1 0 with fills := [⟨0, 0, 0, buf, [(0, 20, 1)]⟩], bufOwner := own, gtime := now }
def fillOk (s : State) : Bool :=
  let rd := rangeAccs 0 0 .read [((s.atomOf 0 0).src, (s.atomOf 0 0).len)]
  match s.check (gleanerAsker (s.poolCtx 0)) (rd ++ rangeAccs 0 0 .write [(s.bufferVa 0 0, (s.atomOf 0 0).len)]) [] 1 with
  | .ok s' ps => ps.all fun p => !s'.waitsAt 8 (AccKind.isWrite p.acc.kind) p
  | _ => false
theorem wit_FillWaitsAndFills :
    (∀ s ∈ [pooled 0 0, pooled 1 0, pooled 2 0], begunAll s [fb, fbRel] = true ∧ s.inFlight 0 (BitVec.allOnes 32) = [] ∧
      byteOk fb s (fun s' p => s'.atomFor 0 p.pa == some (0, 0)) = true) ∧
    (pooled 2 0).atomOf 0 0 = ⟨0x10400, 64, 0, 0, 0, 0, 2, 0⟩ ∧ ((pooled 2 1).atomOf 0 0).pins ≠ 0 ∧
    (let s := w0.modGroup 0 fun g => g.setSr 2 0x10100
     begunAll s [fb, fbRel] = true ∧ byteOk fb s (fun s' p => (s'.atomFor 0 p.pa).isNone) = true) ∧
    (filling (some 0) [(0, 0)] 0).frozen 0 = false ∧ fillOk (filling (some 0) [(0, 0)] 0) = true ∧
    (filling none [(0, 0)] 1000000).chooseBuffer 0 = none ∧ (filling none [(0, 0)] 50000000).gtime = 50000000 := by decide +kernel

def aCall (since posted : Option Nat) : Call := ⟨7, 0, 0, 3, 1, false, 0, 0, 0x10000, 20, since, posted⟩
/-- Calls under way; the call ring of context 0 has 16 slots at 0x2C000, or none. -/
def called (cs : List Call) (ring : Bool) (now : Nat) : State :=
  { (if ring then (w0.setField 0 3 448 64 0x2C000).setField 0 3 416 5 4 else w0) with calls := cs, gtime := now }
def scallI : Instr := .scall (ops 20 (scal 1) (scal 2)) 1
theorem wit_Calls :
    begunAll w0 [scallI, .scwait o0 0] = true ∧ (w0.callsOf 0).length = 0 ∧
    (let s := called (List.replicate 8 (aCall none none)) true 0
     begunAll s [scallI, .scwait o0 0] = true ∧ (s.callsOf 0).length = 8) ∧
    (let s := called [aCall none none] false 0
     s.callReady (aCall none none) = true ∧ s.crFull 0 = true) ∧
    (let s := called [aCall none none] true 0
     s.callReady (aCall none none) = true ∧ s.crFull 0 = false ∧ s.structOk 0 (s.crSlot 0) = true) ∧
    (called [aCall (some 0) none] false 1000000).crFull 0 = true ∧ (called [aCall none (some 0)] true 100000000).frozen 0 = false ∧
    (let s := called [aCall none (some 0)] true 5
     (s.calls.find? fun z => z.posted.isSome && z.tag == bitsOf (3 * 2 ^ 32) 32 32 && z.ctx == bitsOf (3 * 2 ^ 32) 0 10) =
       some (aCall none (some 0))) := by decide +kernel

/-- A launch block at 0x10140: WIDX, the addresses of RIDX, of 16 slots and of QNOTIFY. -/
def launching (widx : Nat) : State :=
  { w0.modGroup 0 fun g => g.setSr 2 0x10140 with
    mem := Memory.setBytes w0.mem 0x20140 ([widx, 0x10200, 0x10400, 0x10208, 4].flatMap (leBytes 8)) }
def launchI : Instr := .launch (ops 20 (scal 2) (lit 0)) 0
def launchOk (s : State) : Option (Nat × Nat) :=
  let e := ev launchI s
  let a := BitVec.ofNat 64 (e.a e.first)
  match s.check e.asker [⟨e.first, e.mask, a, 64, .both⟩] [(e.first, a)] 64 with
  | .ok s1 [p] =>
    let blk := s1.homeRead p.pa 64
    if s1.waitsAt 0 true p || s1.poisoned p.pa 64 then none else
    match s1.check e.asker (launchAccs e.first e.mask blk)
        [(e.first, BitVec.ofNat 64 (wordOf blk 1)), (e.first, BitVec.ofNat 64 (wordOf blk 3))] 8 with
    | .ok s2 (r :: q :: ring) =>
      if (r :: q :: ring).all (fun y => !s2.waitsAt 0 true y) && !s2.lmBad 0 0 64 && !s2.poisoned r.pa r.acc.size &&
          wordOf blk 2 % (64 * blockSlots blk) == 0 && !s2.tellsOf (s2.clockOf 0) then
        some ((wordOf blk 0 + 2 ^ 64 - leNat (s2.homeRead r.pa 8)) % 2 ^ 64, blockSlots blk)
      else none
    | _ => none
  | _ => none
theorem wit_Launch : begun launchI (launching 15) = true ∧ (ev launchI (launching 15)).act ≠ [] ∧ (launching 15).inFlight 0 (BitVec.allOnes 32) = [] ∧
    launchOk (launching 15) = some (15, 16) ∧ launchOk (launching 16) = some (16, 16) := by decide +kernel

/-- s2 names the mapped 64 KiB page. -/
def wS : State := w0.modGroup 0 fun g => g.setSr 2 0x10000
def sealI (u : Bool) : Instr := if u then .unseal (ops 0 (scal 2) (lit 1)) (mm 0 .b32) else .seal (ops 0 (scal 2) (lit 1)) (mm 0 .b32)
def sealing (u : Bool) (now : Nat) : State := { hold .seal with seals := [⟨0, u, [32], 0x10000, 0⟩], gtime := now }
theorem wit_Seals : begunAll wS [sealI false, sealI true] = true ∧
    (let e := ev (sealI false) wS
     let as := rangeAccs e.first e.mask .write [(0x10000, 65536)]
     Ops.globalEa (ops 0 (scal 2) (lit 1)) (e.a e.first) = 0x10000 ∧ e.b e.first % 2 ^ 32 = 1 ∧ (∀ a ∈ as, canonical a.va = true) ∧
     (match wS.checkTranslated e.asker as false with
       | .ok s' _ => s'.groups == wS.groups && as.all fun a => (s'.lookup 0 0 a.va).all fun t => bitsOf t.leaf.toNat 8 1 == 0
       | _ => false) = true) ∧
    ∀ u ∈ [true, false], (sealing u 50000000).sealDone ⟨0, u, [32], 0x10000, 0⟩ = true ∧ (sealing u 50000000).onCore (cg (sealing u 50000000)).2 = true ∧
      ((sealing u 50000000).seals.find? fun y => y.gid == 0) = some ⟨0, u, [32], 0x10000, 0⟩ ∧
      (cg (sealing u 50000000)).2.hold.isSome = true := by decide +kernel

/-! ### Statements about privileged commands and translation -/

/-- Contexts 0 (without ADM: `adm`), 5 of partition 1, 6 frozen, 7 in a reset; the selectors in scalar registers. -/
def priv (adm : Bool) : State :=
  { w0.modGroup 0 fun g => (((((((((g.setSr 2 5).setSr 3 6).setSr 4 7).setSr 5 (5 * 2 ^ 32)).setSr 6 (5 * 2 ^ 32 + 17)).setSr 7 (5 * 2 ^ 16)).setSr
      8 (5 * 2 ^ 16 + 600)).setSr 9 (5 * 2 ^ 60)).setSr 10 (2 ^ 32 + 1)).setSr 12 (5 * 2 ^ 32 + 63) with
    desc := [(0, if adm then 7 else 3), (8, 0xA000000000000100), (5 * 64, 0x10001), (6 * 64, 1 + 2 ^ 37), (7 * 64, 1 + 2 ^ 37 + 2 ^ 39)] }
def cx (i : Nat) (a : Nat) : Instr :=
  match i with
  | 0 => .ctxfrz (ops 20 (scal a) .zero) 0
  | 1 => .ctxrst (ops 20 (scal a) .zero) 0
  | 2 => .partrst (ops 20 (scal a) .zero) 0
  | 3 => .qset (ops 20 (scal a) (scal 10)) 0
  | 4 => .qsetDef (ops 20 (scal a) (scal 10)) 1
  | 5 => .qosset (ops 20 (scal a) (scal 10)) 0
  | 6 => .wset (ops 20 (scal a) (scal 10)) 0
  | 7 => .wsetRd (ops 20 (scal a) (lit 0)) 1
  | 8 => .eqpopSys (ops 20 .zero .zero) 0
  | _ => .eqpopMig (ops 20 .zero .zero) 1
theorem wit_PrivilegedCommands :
    (∀ adm ∈ [true, false], begunAll (priv adm) ((List.range 10).map fun i => cx i (if i < 3 then 2 else if i < 5 then 7 else 5)) = true ∧
      (priv adm).inFlight 0 (BitVec.allOnes 32) = [] ∧ (priv adm).frozen 0 = false ∧ (priv adm).adm 0 = adm ∧
      (priv adm).partOf 0 ≠ (priv adm).partOf 5) ∧
    (let s := priv true
     s.rstBusy 7 = true ∧ s.rstBusy 6 = false ∧ s.frozen 6 = true ∧ s.rstBusy 5 = false ∧ s.frozen 5 = false ∧ s.liveOf 1 = [5] ∧ s.liveOf 9 = [] ∧
     begunAll s [cx 0 2, cx 0 3, cx 0 4, cx 1 2, cx 2 10, cx 2 2, cx 3 8, cx 3 7, cx 6 9, cx 6 5, cx 6 6, cx 6 12] = true ∧
     (∀ x ∈ [(⟨0xEC, 0, 5, 0, some 0⟩ : Command), ⟨0xEF, 0, 5 * 2 ^ 16, 0, some 0⟩, ⟨0xEF, 1, 1, 0, some 0⟩, ⟨0xF0, 0, 1, 0, some 0⟩,
       ⟨0xF1, 0, 5 * 2 ^ 32, 1, some 0⟩, ⟨0xF1, 1, 5 * 2 ^ 32, 0, some 0⟩], (s.command x).s.frozen 0 = false ∧
       (s.command x).s.resetsOver (s.command x).waits = true) ∧
     s.descBar 5 0 true 0x10001 0x10003 3 = none ∧ s.descBar 5 33 true 0 1 1 = some 3 ∧ (priv false).descBar 5 0 false 0x10001 0x20001 0x20001 = some 1 ∧
     (s.setPartW 1 1 (2 ^ 63)).qosBad 1 = false ∧ ({ s with part := [(4, 1)] }.setPartW 1 0 (1 + 2 ^ 54)).qosBad 1 = true) ∧
    (let s := { priv true with fabric := [] }
     s.rstBusy 7 = true ∧ s.resetReady 7 = true) := by decide +kernel
def tI (i a b : Nat) : Instr :=
  match i with
  | 0 => .ptwait (ops 0 (scal a) .zero) 0
  | 1 => .tlbprb (ops 20 (scal a) (scal b)) 0
  | 2 => .walk (ops 20 (scal a) (scal b)) 0
  | 3 => .aliasq (ops 20 (scal a) .zero) 0
  | _ => .aliasqClr (ops 20 (scal a) .zero) 1
/-- A fault record ring for context 0; a miss of group 0; one that waits in entry 0 of die 0's merge table. -/
def missOf : MissArg := ⟨0, 0, 0x20000, .read, 0, 0, 0, 0, .group 0 3 false⟩
def entryOf (n : Nat) : FmtEntry := ⟨0, 0, 0, pageOf 0x20000, List.replicate n ⟨missOf, 0⟩, false⟩
def ringed : State := (w0.setField 0 1 448 64 0x2E000).setField 0 1 416 5 4
theorem wit_TranslationInstructions :
    begunAll wM ([tI 0 2 0, tI 1 2 1, tI 3 2 0, tI 4 2 0] ++ [(2, 1), (2, 7), (5, 1)].map fun x => tI 2 x.1 x.2) = true ∧
    byteOk (tI 0 2 0) wM (fun s' p => s'.groups == wM.groups && ((s'.tableWrites.filter fun t => t.line == p.pa / 128).map (·.id)).isEmpty) = true ∧
    byteOk (tI 0 2 0) { wM with tableWrites := [⟨1, 0x20100 / 128, [], [1], .other, 0, 1, [1], []⟩] } (fun s' p =>
      (s'.tableWrites.filter fun t => t.line == p.pa / 128).map (·.id) == [1]) = true ∧
    byteOk (tI 0 2 0) { wM with snoops := [0x20100 / 64] } (fun s' p => s'.groups == wM.groups && s'.tableWrites.isEmpty &&
      s'.snoops.contains (p.pa / 64)) = true ∧
    wM.live 0 = true ∧ wM.live 0x10000 = false ∧ canonical (2 ^ 60) = false ∧ wM.frozen 0 = false ∧
    wM.inFlight 0 (BitVec.allOnes 32) = [] ∧ (match (wM.walk 0 0 0x10100 false).fin with | .leaf .. => true | _ => false) = true ∧ isLocal 0x10100 = true ∧ isLocal (2 ^ 55) = false ∧
    w0.freeFmt 0 = some 0 ∧ (entryOf 63).waiters.length < 64 ∧ 64 ≤ (entryOf 64).waiters.length ∧ w0.frSpace 0 = false ∧ ringed.frSpace 0 = true ∧
    ringed.structOk 0 (ringed.frSlot 0 (ringed.frNext 0)) = true := by decide +kernel

def parked (n : Nat) : State := { w0 with fmt := [entryOf n], gtime := 50000000 }
def lateRing : State :=
  { w0 with ringWait := [⟨missOf, 0, 0, false⟩], represent := [⟨missOf, 0, 50000000, false⟩], gtime := 50000000 }
def sharedLine (ws : List Nat) (who : WriteBy) : State := { w0 with tableWrites := [⟨1, 0x101000 / 128, [(0x101000, 1)], ws, who, 0, 0, [], []⟩] }
def tableReq : Req := { req .write (leBytes 8 1) [] with pa := 0x101000 }
theorem wit_WakesAndTableWrites :
    ((parked 1).fmt.find? fun y => y.die == 0 && y.ctx == 0 && y.page == pageOf 0x20000) = some (entryOf 1) ∧ (parked 1).frozen 0 = false ∧
    (entryOf 1).waiters = [⟨missOf, 0⟩] ∧ ((parked 64).fmt.head?.any fun f => (f.waiters[63]?).isSome) = true ∧ (parked 64).overdue 0 0 = true ∧
    lateRing.overdue 0 0 = true ∧ lateRing.ringWait.length = 1 ∧ (lateRing.represent.head?.any fun w => decide (w.next ≤ lateRing.gtime)) = true ∧
    ((sharedLine [8] .other).tableWrites.find? fun t => t.line == 0x101000 / 128 && t.waits.contains 8).isSome = true ∧
    (∀ w ∈ [WriteBy.other, .core tableReq], ((sharedLine [] w).tableWrites.head?.any fun t => (sharedLine [] w).stays t) = false) ∧
    (let s : State := { sent tableReq with dir := [(0x101000 / 128, [0, 8])] }
     s.isTableWrite tableReq = true ∧ s.servable 0 = true) := by decide +kernel

/-! ### Statements about events -/

/-- Grid 1 waits: its kernel has one vector register a thread and 1 KiB of local memory; partition 0 may hold `n` cores. The
cluster of group 0 has the given phase, and its team needs `need` KiB. -/
def kern : Grid := { loadGrid with ncl := 2, prio := 2, quota0 := defqReset ||| (2 <<< 54), lmKib := 1, nv := 1 }
def atWork (n need : Nat) (ph : Phase) (gone : Bool) : State :=
  let t := { loadTeam with need := need, lmSize := 64, spilled := gone }
  { w0.modGroup 0 fun g => { g with nv := 1 } with
    part := [(0, 1 + n * 2 ^ 44)], teams := [(0, t)],
    grids := [(0, { loadGrid with started := 1, save := 0x12000, lmKib := 1, nv := 1 }), (1, { kern with started := 0 })],
    clusters := w0.clusters.map fun c => (c.1, { c.2 with phase := ph }) }
def place1 (s : State) : Bool :=
  s.waitingGrid kern && s.resumable.isEmpty && (s.firstFit Suppose.none 1 { kern with started := 0 }).isSome
def spillsOk (s : State) : Bool :=
  match Tab.get? s.clusters 0, Tab.get? s.grids 0 with
  | some c, some g =>
    let ts := c.teams.filterMap fun y => Tab.get? s.teams y
    let saved := ts.map fun y => y.saved ((s.groupsOf y).map (·.2))
    match s.check ⟨c.die, g.ctx, 3, 0x3FF, 0, false⟩ (rangeAccs 0 0 .write ((ts.zip saved).map fun y => (g.saveAt c.ix y.1.teamix, y.2.length))) [] 1 with
    | .ok s' ps => !ps.isEmpty && ps.all fun p => s'.structOk g.ctx p.pa && !s'.waitsAt c.die true p
    | _ => false
  | _, _ => false
def resumes (s : State) (ph : Phase) : Bool :=
  match Tab.get? s.clusters 0, Tab.get? s.grids 0 with
  | some x, some g =>
    x.phase == ph && (s.resumeOn x g).isSome && !s.higherWaits g.cls &&
    s.resumable.all fun y => decide (y.2.2.cls < g.cls ∨ y.2.2.cls = g.cls ∧ (x.grid < y.2.1 ∨ x.grid = y.2.1 ∧ 0 ≤ y.1))
  | _, _ => false
theorem wit_Placement :
    place1 (atWork 4 1024 .resident false) = true ∧
    (let s := atWork 1 1024 .resident false
     s.waitingGrid kern = true ∧ s.firstFit ⟨[], s.spillTeams⟩ 1 { kern with started := 0 } = none ∧
     (s.chooseVictims 1 { kern with started := 0 }).map (·.1) = [0]) ∧
    (let s := atWork 1 4096 .preempted false
     s.frozen 0 = false ∧ s.spillable 0 = true ∧ s.clusterQuiet 0 = true ∧ s.spillWanted 0 = true ∧ spillsOk s = true) ∧
    resumes { atWork 1 1024 .preempted false with grids := [(0, { loadGrid with started := 1 })] } .preempted = true ∧
    resumes { atWork 1 1024 .spilled true with grids := [(0, { loadGrid with started := 1 })] } .spilled = true := by
  decide +kernel

/-- Queue 0 of context 0 holds a packet, or none, in slot 0 at 0x10400; its kernel descriptor is at 0x10600. -/
def queued (valid : Nat) : State :=
  { w0 with
    mem := Memory.setBytes (Memory.setBytes w0.mem 0x20400 ([valid + 2 ^ 32, 0x10600, 0, 5, 6, 0x12000, 0, 0].flatMap (leBytes 8)))
      0x20600 ([0x10000, 0x100000400, 0].flatMap (leBytes 8))
    tabQueue := [(0, 4), (2, 0x10400), (3, 0x10500), (4, 0x1C000)], queue := [(0, { QueueState.init with notify := 1 })] }
def queueOk (valid : Nat) : Bool :=
  let s := queued valid
  let p := s.probe (s.queueAsker 0) [⟨0, 0, s.queueW 0 2, 64, .read⟩]
  match p.places with
  | [slot] =>
    let u := p.s
    let h := u.homeRead slot.pa 8
    let v := u.keepPacket 0 slot h (u.clockAt slot.pa 8)
    let b := h ++ (v.homeRead slot.pa 64).drop 8
    let y := v.keepPacket 0 slot b (Tab.read QueueState.init v.queue 0).headClock
    let l := y.launchChecks 0 b
    let pr := l.s.probe (y.queueAsker 0) [⟨0, 0, y.queueW 0 3, 8, .write⟩]
    let x := Tab.read QueueState.init s.queue 0
    x.poll.isNone && !x.owed && x.packet.isEmpty && s.examines 0 && !p.stop && !p.wait && p.fault.isNone && p.misses.isEmpty &&
    !u.poisoned slot.pa 64 && pkW h 0 0 1 == valid &&
    (valid == 0 || (!v.waitsAt (u.queueAsker 0).die false slot && pkW b 0 3 1 == 0 &&
      (match l.v with | .status 0 => true | _ => false) && !pr.stop && !pr.wait && pr.misses.isEmpty &&
      (pr.s.readyWrites (y.queueAsker 0) (slot :: if pr.fault.isSome then [] else pr.places)).isSome))
  | _ => false
/-- Grid 0 with its one cluster finished. -/
def finishing (donea : W64) : Grid := { loadGrid with started := 1, finished := 1, donea := donea, rel := true }
def watched1 : State := w0.modGroup 0 fun g => { g with watch := [TrapRec.zero] }
theorem wit_SchedulingEvents :
    (w0.groups.any fun x => w0.onCore x.2 && w0.coreRuns x.2.core && x.2.ready 0) = true ∧ (∀ y ∈ w0.grids, y.2.completed = false) ∧
    (let s := { w0.modGroup 0 fun g => { g with bundles := [⟨3, 0x10000, true⟩] } with cur := none }
     (s.select 0).isSome = true ∧ s.coreRuns 0 = true ∧ Tab.read 0 s.slots 0 < 16) ∧
    queueOk 0 = true ∧ queueOk 1 = true ∧
    (let s := { w0 with grids := [(0, finishing 0x10700)] }
     let p := s.probe ⟨0, 0, 2, 0x3FF, 0, false⟩ [⟨0, 0, 0x10700, 16, .write⟩]
     (Tab.read QueueState.init s.queue 0).parked = false ∧
     s.frozen 0 = false ∧ s.scopeHeld 0 = false ∧ s.gridPerformed 0 = true ∧ p.stop = false ∧ p.wait = false ∧ p.misses = [] ∧
     (p.s.readyWrites ⟨0, 0, 2, 0x3FF, 0, false⟩ p.places).any (fun u => Tab.get? u.grids 0 == some (finishing 0x10700)) = true ∧
     p.fault = none) ∧
    (∃ g, watched1.group? 0 = some g ∧ g.watch ≠ [] ∧ g.inh = false ∧ g.pend = none ∧ g.ended = false ∧ watched1.onCore g = true) := by
  and_intros <;> first | exact ⟨(watched1.group? 0).getD loadGroup, by decide +kernel⟩ | decide +kernel

/-- A field-map entry: OWNER, one HOLDER, UNTRK, EXPIRY, VERSION; no REQUEST. -/
def ent (own holder untrk expiry ver : Nat) : BitVec 512 :=
  BitVec.ofNat 512 (ofFields [(288, 16, holder), (304, 16, 0xFFFF), (320, 16, 0xFFFF), (336, 16, 0xFFFF), (352, 16, 0xFFFF),
    (368, 16, own), (416, 32, ver), (448, 64, expiry), (264, 1, untrk)])
/-- Module 1 holds shard 5, module 2 shard 6. -/
def home1 (now : Nat) : State :=
  { w0 with gleanPart := [(0, 1), (1, BitVec.ofNat 64 (2000 * 2 ^ 32 + 64 * 2 ^ 16))], shardMap := [(5, 1), (6, 2)], gtime := now, timeBad := false }
def serv (st : ServiceState) (key hold : Nat) (e : Option (BitVec 512)) : Service :=
  ⟨0, 0, 0, 0x20, key, 0, st, 0, 0, 0, hold, [3], e, false, []⟩
def serving (v : Service) (es : Tab (BitVec 512)) (now : Nat) : State := { home1 now with services := [v], fieldMap := es }
def askFor (key : Nat) : BitVec 256 := BitVec.ofNat 256 (key * 2 ^ 83)
def frameOf (f : Nat) : Install := ⟨0, 0, f, 5, 0, 0x105000, 0x20, true, none, false⟩
theorem wit_GleanerServices :
    (∀ k ∈ [5, 7], let s := { home1 0 with faultIn := [askFor k] }
      s.faultIn[0]? = some (askFor k) ∧ s.frozen 0 = false ∧ s.services = [] ∧ bitsOf (askFor k).toNat 67 61 / 65536 = k ∧
      (s.shardOf k ≠ noModule ↔ k = 5)) ∧
    (∀ x ∈ [(0xFFFF, 0xFFFF, 0), (0xFFFF, 4, 1), (3, 4, 0), (0xFFFF, 4, 0)], let e := ent x.1 x.2.1 x.2.2 0 0
      let s := serving (serv .lookup 5 1 none) [(5, e)] 0
      s.selfId 0 = 1 ∧ s.entry? 5 = some e ∧ s.timeBad = false ∧ entF e 272 16 = s.tenant 0) ∧
    (entHolders (ent 0xFFFF 0xFFFF 0 0 0) = [] ∧ entTracked (ent 0xFFFF 4 1 0 0) = false ∧ entOwner (ent 3 4 0 0 0) = 3 ∧
      entTracked (ent 0xFFFF 4 0 0 0) = true ∧ entHolders (ent 0xFFFF 4 0 0 0) = [4] ∧ (serv .lookup 5 1 none).asksWrite = false) ∧
    (serving (serv .lookup 5 1 none) [] 0).entry? 5 = none ∧ (serving (serv .lookup 6 2 none) [] 500000).selfId 0 ≠ 2 ∧
    (∀ p ∈ [(7, none), (0, some (0, 4))], let s := { serving (serv .fetch 5 4 (some (ent 1 4 0 0 7))) [] 0 with freeFrames := p.2.toList }
      s.isFenced 4 = false ∧ (s.takeFrame 0).isSome = p.2.isSome) ∧
    (let s := serving (serv .lease 5 1 (some (ent 3 4 0 0 0))) [(5, ent 0xFFFF 4 0 0 0)] 50000
     s.ownShard 5 = true ∧ s.entry? 5 = some (ent 0xFFFF 4 0 0 0)) ∧
    (serving (serv .lease 6 2 (some (ent 3 4 0 0 0))) [] 50000).ownShard 6 = false ∧
    -- the holder of another module's shard has been asked to swap the entry
    (let v := serv .lookup 6 2 (some (ent 1 4 0 2000000 0))
     (serving v [] 0).services[0]? = some v ∧ v.state = .lookup ∧ v.hold ≠ (serving v [] 0).selfId v.part ∧
     v.entry = some (ent 1 4 0 2000000 0) ∧ v.entry ≠ some (ent 0xFFFF 4 0 0 0)) := by decide +kernel
theorem wit_StewardWake :
    (ringed.ringNamed 0 0 (pageOf 0x20000) (recordWho 0) = none) ∧
    (let s := { w0 with ringWait := [⟨missOf, 0, 0, false⟩] }
     ∃ x, s.ringNamed 0 0 (pageOf 0x20000) (s.waiterFields missOf.waiter) = some x) :=
  ⟨by decide +kernel, ⟨missOf, 0, 0, false⟩, by decide +kernel⟩
/-- Key 5 leased, and installed in frame 4 or not. -/
def leasing (expiry now : Nat) (inst : Bool) (e : BitVec 512) : State :=
  { home1 now with leases := [⟨5, 0, expiry, false, none⟩], fieldMap := [(5, e)], installs := if inst then [frameOf 4] else [] }
theorem wit_EvictionsAndLeases :
    (let s := leasing 2000000 0 true (ent 1 4 0 2000000 0)
     s.framesFree 0 < s.lowmark 0 ∧ frameOf 4 ∈ s.installs ∧ s.frameStuck 4 = false) ∧
    (∀ p ∈ [(true, false), (false, false), (false, true)], let s := { leasing 500000 0 p.1 (ent 1 4 0 500000 0) with timeBad := p.2, frame := [(4, 2 ^ 28)] }
      (s.leases.find? fun x => x.key == 5) = some ⟨5, 0, 500000, false, none⟩ ∧ s.entry? 5 = some (ent 1 4 0 500000 0) ∧
      500000 ≤ s.gtime + min 500000 (s.leaseNs 0 / 2) ∧ entReq (ent 1 4 0 500000 0) = noModule ∧
      ((s.pagesOf 5).any fun i => s.frameCount i.frame != 0) = p.1) ∧
    (leasing 10000 0 false 0).pagesOf 5 = [] ∧ (leasing 10000 0 true 0).pagesOf 5 ≠ [] ∧
    (leasing 10000 0 true 0).hasLease 5 = true ∧ (leasing 10000 0 true 0).isFenced 3 = false ∧
    (let s := serving (serv .lease 5 1 (some (ent 3 4 0 0 0))) [] 0
     (s.services.filter fun x => x.key == 5 && x.state == .lease) = [serv .lease 5 1 (some (ent 3 4 0 0 0))] ∧
     entOwner (ent 1 4 0 0 0) = s.selfId 0 ∧ s.isFenced 3 = false) ∧
    (let s := leasing 0 0 true (ent 1 4 0 0 0)
     s.ownShard 5 = true ∧ (s.installs.find? fun x => x.key == 5) = some (frameOf 4) ∧ s.poisonedAt (4 * 65536) = false ∧
     (s.setPoison (4 * 65536) true).poisonedAt (4 * 65536) = true ∧ s.poison = []) := by decide +kernel

/-- Key 6, of a shard that module 2 holds, is leased here and its page in use; its renewal has been asked for, or not. -/
def far6 (a : Option (BitVec 512)) : State :=
  { home1 500000 with
    leases := [⟨6, 0, 600000, false, a⟩], fieldMap := [(6, ent 1 4 0 600000 0)], installs := [{ frameOf 4 with key := 6 }],
    frame := [(4, 2 ^ 28)] }
theorem wit_RemoteRenewals :
    (let s := far6 none
     (s.leases.find? fun x => x.key == 6) = some ⟨6, 0, 600000, false, none⟩ ∧ 600000 ≤ s.gtime + min 500000 (s.leaseNs 0 / 2) ∧
     s.entry? 6 = some (ent 1 4 0 600000 0) ∧ entReq (ent 1 4 0 600000 0) = noModule ∧ s.timeBad = false ∧ s.ownShard 6 = false ∧
     ((s.pagesOf 6).any fun i => s.frameCount i.frame != 0) = true) ∧
    (let e := ent 1 4 0 2500000 0
     (far6 (some e)).leases[0]? = some ⟨6, 0, 600000, false, some e⟩) := by decide +kernel

/-- A module 3 that is watched, for its lease of key 5. -/
def watching3 (now : Nat) : State := { home1 now with fieldMap := [(5, ent 3 4 0 0 0)], watched := [(3, ⟨1, 0, 0, false, false⟩)] }
def linked (sp : Nat) (half : Bool) (fl : List Nat) : State := { w0 with link := [(0, ⟨sp, fl, half, false, 0⟩)] }
/-- A master on port 0, and a two-step message of it in its domain or in another. -/
def ruled : State := { w0 with ptp := ⟨0, 1, [⟨0, 128, 6, 100, 0, 128, 9, 1⟩]⟩ }
def syncs (ours : Bool) : PtpSync := ⟨0, 9, if ours then 0 else 1, true, true, some 0⟩
theorem wit_PtpSync : w0.bestMaster = none ∧ ∃ m, ruled.bestMaster = some m ∧ ruled.acceptsSync m (syncs true) = true ∧
    ruled.acceptsSync m (syncs false) = false := ⟨by decide +kernel, ⟨0, 128, 6, 100, 0, 128, 9, 1⟩, by decide +kernel⟩
theorem wit_TimeFenceAndIntegrity :
    (let s := { w0 with syncErr := 25001, timeBad := false }
     25000 < s.syncErr ∧ s.timeBad = false) ∧
    (let s := { w0 with safeSince := some 0, timeBad := true, gtime := 1000000000 }
     s.safeSince = some 0 ∧ s.power = .on ∧ s.hbStopped = false ∧ s.hbLast + 1000000 ≤ s.gtime) ∧
    (let s := watching3 100000001
     Tab.get? s.watched 3 = some ⟨1, 0, 0, false, false⟩ ∧ s.watches 3 = true ∧ 0 + 3100000 ≤ s.gtime ∧ s.fencedOut = [] ∧
     s.due 1 100000000 = true ∧ s.ownShard 5 = true ∧ entExpiry (ent 3 4 0 0 0) + 100000 < s.gtime) ∧
    w0.live 0 = true ∧ w0.lost 0 = false ∧ isLocal 0x100 = true ∧ (w0.setPoison 0x100 true).poisonedAt 0x100 = true ∧
    w0.poisonedAt 0x100 = false ∧
    (let s := { w0 with gtime := 1000000, frame := [(2, 1), (4, 1 + 2 ^ 27 + 2 ^ 28)] }
     s.due 0 1000000 = true ∧ (s.frame.find? fun e => bitsOf e.2.toNat 27 1 == 1) = some (4, 1 + 2 ^ 27 + 2 ^ 28) ∧ s.migQueue = []) ∧
    (∀ s ∈ [linked 2 false [], linked 0 false [], linked 0 true [1]], (s.linkOf 0).down = false ∧ (s.linkOf 0).uses 40 = true) ∧
    (linked 0 true [1]).linkOf 0 = ⟨0, [1], true, false, 0⟩ ∧
    (w0.portGroup 0).lost.contains 3 = false := by decide +kernel

def jobOf (k : JobKind) (ph : Nat) (fs : List Nat) (now : Nat) : State :=
  { w0.setRecW 3 1 with job := some ⟨k, false, ph, fs, 0, 0⟩, jobScope := 1, gtime := now }
theorem wit_RecoveryJobs :
    w0.recStatus ≠ 1 ∧ (w0.setStatus 1).recStatus = 1 ∧
    (jobOf .ckptFull 1 [2] 500000000).job = some ⟨.ckptFull, false, 1, [2], 0, 0⟩ ∧
    (jobOf .handOver 1 [] 10000000000).unspilled ≠ [] ∧ (jobOf .handOver 1 [] 10000000000).gtime = 10000000000 ∧
    (let s := jobOf .handOver 1 [] 10000000000
     let u := s.unspilled.foldl (fun u c => u.lose c 5 0x3FF 0 0) s
     (u.clearParks (u.groups.filter fun e => u.inScope e.2.ctx)).toBool = true) ∧
    (let s := { jobOf .handOver 1 [] 0 with teams := [] }
     s.unspilled = [] ∧ (s.clearParks (s.groups.filter fun e => s.inScope e.2.ctx)).toBool = true) ∧
    ({ jobOf .handOver 2 [] 0 with cur := none } : State).scopeQuiet = true ∧ (jobOf .handOver 2 [] 0).leasesGone = true ∧ 0 ∈ (jobOf .handOver 2 [] 0).liveOf 0 ∧
    bitsOf (({ w0 with desc := [(0, 7), (8, 2 ^ 59)] } : State).croot 0) 59 1 = 1 ∧
    (({ w0 with draining := some 1 } : State).draining = some 1) ∧
    Tab.get? ({ w0 with counted := [(5, (0, 3))] } : State).counted 5 = some (0, 3) := by decide +kernel

theorem wit_PowerAndEdges :
    (∀ p ∈ [Power.off, .standby, .boot, .on, .fault], ({ w0 with power := p } : State).power = p) ∧
    (let s := { w0 with power := .boot, bootStep := 6 }
     s.bootStep < 9 ∧ bootCode s.bootStep = 3) ∧
    (({ w0 with power := .boot, bootStep := 9 } : State).bootStep = 9) ∧
    (({ w0 with gtime := 3600000000000 } : State).due 2 3600000000000 = true) ∧
    w0.gated.contains 511 = false ∧ isLocal 0x20000 = true ∧ w0.hostOf (0x20000 / 64) = .none ∧
    (w0.setHost (0x20000 / 64) .owned).hostOf (0x20000 / 64) = .owned ∧
    (let s := { (sent (req .write [1] [])).setHost ((req .write [1] []).pa / 64) .owned with recalls := [] }
     s.waitsRecall ((req .write [1] []).pa / 64) = true ∧ isLocal (req .write [1] []).pa = true) ∧
    (let s := { w0.setHost 0 .owned with recalls := [(0, 0)], gtime := 2000000 }
     Tab.get? s.recalls 0 = some 0 ∧ 0 + 2 * s.snoopNs 0 ≤ s.gtime ∧ s.hostOf 0 ≠ .none) ∧
    w0.hostPort 0 = 0 ∧ w0.liveOf 0 ≠ [] ∧
    (∀ b ∈ [true, false], ({ w0 with power := .boot, bootStep := 3, gtime := if b then 200000001 else 200000000 } : State).bootLate = b) ∧
    0x50 + w0.slotStrap = 0x50 ∧ w0.keys.attIndex < 2 ^ 15 ∧
    2 ^ 15 ≤ ({ w0 with keys := { w0.keys with attIndex := 2 ^ 15 } } : State).keys.attIndex ∧
    (sharedLine [8] .other).lineHeld 0x101000 = true ∧ isLocal 0x101000 = true ∧ (sharedLine [8] .other).power = .on := by decide +kernel

/-- At bring-up step 3, an image that the module turns down; and one whose acceptance is what the signature says, a free value. -/
def booting (version : Nat) : State :=
  { w0 with power := .boot, bootStep := 3, keys := { w0.keys with slots := [(0, 7)], rollback := 2 }, flash := ⟨1, 7, version, 4096⟩ }
theorem wit_ImagesAreCheckedAtStep3 : (booting 1).accepts (booting 1).flash = false ∧
    (booting 2).accepts (booting 2).flash = Config.lmsVerifies 1 := by
  have h : w0.keys.revoked = [] := rfl
  simp [State.accepts, booting, h]

/-- The premises of `StepKeepsMemoriesCanonical` are met where a step runs an instruction and where it runs an event. -/
theorem wit_StepKeepsMemories :
    (let s := State.reset.withFetchWord 64 0x1C00
     s.memWf = true ∧ (match step s with | .next _ => true | _ => false) = true) ∧
    (let s := { State.reset with agenda := [.formationTick] }
     s.memWf = true ∧ (match step s with | .next _ => true | _ => false) = true) := by decide +kernel

end Sys2Proof.Tests
end

section
/-! What a word decodes to, and the word read back from it (obligation O4). -/

namespace Sys2Proof

/-! ### Fields of a word side by side -/

/-- Neighbouring fields of a word side by side are one field. -/
theorem extractLsb'_append {w s t n m : Nat} (b : BitVec w) (h : t = s + n) :
    b.extractLsb' t m ++ b.extractLsb' s n = b.extractLsb' s (m + n) := by
  subst h
  ext i hi
  simp only [BitVec.getElem_append, BitVec.getElem_extractLsb']
  split
  · rfl
  · congr 1; omega

theorem bit_getLsbD {w : Nat} (b : BitVec w) (i : Nat) : bit (b.getLsbD i) = b.extractLsb' i 1 := by
  ext j hj
  obtain rfl : j = 0 := by omega
  simp [bit]

/-- Bits above what a word holds are zero. -/
theorem extractLsb'_of_lt {w s n : Nat} (b : BitVec w) (h : b.toNat < 2 ^ s) : b.extractLsb' s n = 0 := by
  apply BitVec.eq_of_toNat_eq
  simp [BitVec.extractLsb'_toNat, Nat.shiftRight_eq_div_pow, Nat.div_eq_of_lt h]

/-! ### Codes and layouts read back (03 R66 to R68) -/

theorem IntTy.code_ofBits (b : BitVec 3) : (IntTy.ofBits b).code = b := by decide +revert
theorem FloatTy.code_ofBits (b : BitVec 3) (h : b.toNat < 6) : (FloatTy.ofBits b).code = b := by decide +revert
theorem Rm.code_ofBits (b : BitVec 2) : (Rm.ofBits b).code = b := by decide +revert
theorem MatTy.code_ofBits (b : BitVec 3) : (MatTy.ofBits b).code = b := by decide +revert
theorem Sz.code_ofBits (b : BitVec 3) (h : b.toNat ≠ 7) : (Sz.ofBits b).code = b := by decide +revert
theorem Scope.code_ofBits (b : BitVec 3) (h : b.toNat ≠ 7) : (Scope.ofBits b).code = b := by decide +revert
theorem MemOrd.code_ofBits (b : BitVec 2) : (MemOrd.ofBits b).code = b := by decide +revert
theorem Cc.code_ofBits (b : BitVec 4) (h : b.toNat < 14) : (Cc.ofBits b).code = b := by decide +revert
theorem Kind.code_ofBits (b : BitVec 2) : (Kind.ofBits b).code = b := by decide +revert

theorem ModI.bits_ofBits (b : BitVec 20) : (ModI.ofBits b).bits = b := by
  simp only [ModI.bits, ModI.ofBits, IntTy.code_ofBits, bit_getLsbD,
    extractLsb'_append]
  exact BitVec.extractLsb'_eq_self

theorem ModF.bits_ofBits (b : BitVec 20) (h : badFty b = false) : (ModF.ofBits b).bits = b := by
  have hf : (b.extractLsb' 0 3).toNat < 6 := by simpa [badFty] using h
  simp only [ModF.bits, ModF.ofBits, Rm.code_ofBits, FloatTy.code_ofBits _ hf, bit_getLsbD,
    extractLsb'_append]
  exact BitVec.extractLsb'_eq_self

theorem ModCI.bits_ofBits (b : BitVec 20) (h : badC b = false) : (ModCI.ofBits b).bits = b := by
  have hc : (b.extractLsb' 3 4).toNat < 14 := by simpa [badC] using h
  simp only [ModCI.bits, ModCI.ofBits, Cc.code_ofBits _ hc, IntTy.code_ofBits, bit_getLsbD,
    extractLsb'_append]
  exact BitVec.extractLsb'_eq_self

theorem ModCF.bits_ofBits (b : BitVec 20) (h : (badC b || badFty b) = false) : (ModCF.ofBits b).bits = b := by
  obtain ⟨hc, hf⟩ : (b.extractLsb' 3 4).toNat < 14 ∧ (b.extractLsb' 0 3).toNat < 6 := by simpa [badC, badFty] using h
  simp only [ModCF.bits, ModCF.ofBits, Cc.code_ofBits _ hc, FloatTy.code_ofBits _ hf, bit_getLsbD,
    extractLsb'_append]
  exact BitVec.extractLsb'_eq_self

theorem ModV.bits_ofBits (b : BitVec 20) : (ModV.ofBits b).bits = b := by
  simp only [ModV.bits, ModV.ofBits, Rm.code_ofBits, bit_getLsbD,
    extractLsb'_append]
  exact BitVec.extractLsb'_eq_self

theorem ModS.bits_ofBits (b : BitVec 20) (h : badFty b = false) : (ModS.ofBits b).bits = b := by
  have hf : (b.extractLsb' 0 3).toNat < 6 := by simpa [badFty] using h
  simp only [ModS.bits, ModS.ofBits, FloatTy.code_ofBits _ hf, bit_getLsbD,
    extractLsb'_append]
  exact BitVec.extractLsb'_eq_self

theorem ModM.bits_ofBits (b : BitVec 20) (h : badM b = false) : (ModM.ofBits b).bits = b := by
  obtain ⟨hz, hs⟩ : (b.extractLsb' 0 3).toNat ≠ 7 ∧ (b.extractLsb' 3 3).toNat ≠ 7 := by simpa [badM] using h
  simp only [ModM.bits, ModM.ofBits, MemOrd.code_ofBits, Scope.code_ofBits _ hs, Sz.code_ofBits _ hz,
    extractLsb'_append]
  exact BitVec.extractLsb'_eq_self

theorem ModX.bits_ofBits (b : BitVec 20) : (ModX.ofBits b).bits = b := by
  simp only [ModX.bits, ModX.ofBits, MatTy.code_ofBits, bit_getLsbD,
    extractLsb'_append]
  exact BitVec.extractLsb'_eq_self

/-! ### Words read back (02 Tables 2, 3 and 6) -/

theorem Fields.low_ofWord {l : Len} {w : BitVec 128} (hl : w.extractLsb' 0 2 = l.code) :
    (Fields.ofWord l w).low = w.extractLsb' 0 64 := by
  unfold Fields.ofWord Fields.low
  simp only [Kind.code_ofBits, bit_getLsbD, ← hl]
  simp only [extractLsb'_append]

theorem Fields.high_ofWord {l : Len} {w : BitVec 128} (hw : w.toNat < 2 ^ (8 * l.bytes)) (hr : reservedZero l w = true) :
    (Fields.ofWord l w).high = w.extractLsb' 64 64 := by
  cases l with
  | w64 => exact (extractLsb'_of_lt w hw).symm
  | w96 =>
    have htop : w.extractLsb' 96 32 = 0 := extractLsb'_of_lt w hw
    have h : w.extractLsb' 96 32 ++ w.extractLsb' 64 32 = w.extractLsb' 64 64 := extractLsb'_append w (by rfl)
    rw [← h, htop]
    exact BitVec.setWidth_eq_append (by decide)
  | w128 =>
    have hres : w.extractLsb' 93 3 = 0 := by simpa [reservedZero] using hr
    unfold Fields.ofWord Fields.high
    simp only [Kind.code_ofBits, bit_getLsbD, ← hres]
    simp only [extractLsb'_append]

/-- Bits that the format holds are the word. -/
theorem Fields.word_ofWord {l : Len} {w : BitVec 128} (hl : w.extractLsb' 0 2 = l.code)
    (hw : w.toNat < 2 ^ (8 * l.bytes)) (hr : reservedZero l w = true) : (Fields.ofWord l w).word = w := by
  have h : w.extractLsb' 64 64 ++ w.extractLsb' 0 64 = w.extractLsb' 0 128 := extractLsb'_append w (by rfl)
  rw [Fields.word, Fields.low_ofWord hl, Fields.high_ofWord hw hr, h, BitVec.extractLsb'_eq_self]

theorem bit_scal (b : Bool) : bit ((if b then Kind.scal else Kind.vec) == .scal) = bit b := by cases b <;> rfl

/-- The halves of a pair word are its bits (Table 6). -/
theorem pairWord_halves {w : BitVec 128} (hl : w.extractLsb' 0 2 = Len.w96.code) (hw : w.toNat < 2 ^ 96)
    (ho : w.extractLsb' 2 8 = 0xFE) : pairWord (pairX w) (pairY w) = w := by
  have hz : w.extractLsb' 96 32 = 0 := extractLsb'_of_lt w hw
  have hmod : ∀ p : BitVec 3, (p.setWidth 20).extractLsb' 0 3 = p := by decide
  have hgp : ∀ s, (w.extractLsb' s 4).extractLsb' 0 3 = w.extractLsb' s 3 := fun s => by
    ext i hi; simp [show i < 4 by omega]
  have hgn : ∀ s, bit ((w.extractLsb' s 4).getLsbD 3) = w.extractLsb' (s + 3) 1 := fun s => by
    rw [← bit_getLsbD]; simp
  simp only [pairWord, halfTop, pairX, pairY, pairHalf, hmod, hgp, hgn, bit_scal, bit_getLsbD, ← hl, ← ho, ← hz]
  simp only [extractLsb'_append]
  exact BitVec.extractLsb'_eq_self

/-! ### Rows of the opcode table read back (03 Table 1) -/

theorem codeIf_eq_nil {c : Bool} {n : Nat} : codeIf c n = [] ↔ c = false := by cases c <;> simp [codeIf]

/-! One lemma per layout of the modifier bits: a row of that layout whose instructions have opcode `c` gives, where no
shared field holds a reserved code, an instruction with the fields it was read from. -/

section
variable {c : BitVec 8} {o : Ops} {m : BitVec 20} {i : Instr}

theorem fields_mkO {k : Ops → BitVec 20 → Instr} (h : mkO k o m = some (i, []))
    (hk : (k o m).fields? = some ⟨c, o, m⟩) : i.fields? = some ⟨c, o, m⟩ := by
  obtain ⟨rfl, -⟩ := Prod.mk.inj (Option.some.inj h)
  exact hk

theorem fields_mkI {k : Ops → ModI → Instr} (h : mkI k o m = some (i, []))
    (hk : ∀ x, (k o x).fields? = some ⟨c, o, x.bits⟩) : i.fields? = some ⟨c, o, m⟩ := by
  obtain ⟨rfl, -⟩ := Prod.mk.inj (Option.some.inj h)
  rw [hk, ModI.bits_ofBits]

theorem fields_mkV {k : Ops → ModV → Instr} (h : mkV k o m = some (i, []))
    (hk : ∀ x, (k o x).fields? = some ⟨c, o, x.bits⟩) : i.fields? = some ⟨c, o, m⟩ := by
  obtain ⟨rfl, -⟩ := Prod.mk.inj (Option.some.inj h)
  rw [hk, ModV.bits_ofBits]

theorem fields_mkX {k : Ops → ModX → Instr} (h : mkX k o m = some (i, []))
    (hk : ∀ x, (k o x).fields? = some ⟨c, o, x.bits⟩) : i.fields? = some ⟨c, o, m⟩ := by
  obtain ⟨rfl, -⟩ := Prod.mk.inj (Option.some.inj h)
  rw [hk, ModX.bits_ofBits]

theorem fields_mkF {k : Ops → ModF → Instr} (h : mkF k o m = some (i, []))
    (hk : ∀ x, (k o x).fields? = some ⟨c, o, x.bits⟩) : i.fields? = some ⟨c, o, m⟩ := by
  obtain ⟨rfl, hbad⟩ := Prod.mk.inj (Option.some.inj h)
  rw [hk, ModF.bits_ofBits m (codeIf_eq_nil.mp hbad)]

theorem fields_mkS {k : Ops → ModS → Instr} (h : mkS k o m = some (i, []))
    (hk : ∀ x, (k o x).fields? = some ⟨c, o, x.bits⟩) : i.fields? = some ⟨c, o, m⟩ := by
  obtain ⟨rfl, hbad⟩ := Prod.mk.inj (Option.some.inj h)
  rw [hk, ModS.bits_ofBits m (codeIf_eq_nil.mp hbad)]

theorem fields_mkCI {k : Ops → ModCI → Instr} (h : mkCI k o m = some (i, []))
    (hk : ∀ x, (k o x).fields? = some ⟨c, o, x.bits⟩) : i.fields? = some ⟨c, o, m⟩ := by
  obtain ⟨rfl, hbad⟩ := Prod.mk.inj (Option.some.inj h)
  rw [hk, ModCI.bits_ofBits m (codeIf_eq_nil.mp hbad)]

theorem fields_mkCF {k : Ops → ModCF → Instr} (h : mkCF k o m = some (i, []))
    (hk : ∀ x, (k o x).fields? = some ⟨c, o, x.bits⟩) : i.fields? = some ⟨c, o, m⟩ := by
  obtain ⟨rfl, hbad⟩ := Prod.mk.inj (Option.some.inj h)
  rw [hk, ModCF.bits_ofBits m (codeIf_eq_nil.mp hbad)]

theorem fields_mkM {k : Ops → ModM → Instr} (h : mkM k o m = some (i, []))
    (hk : ∀ x, (k o x).fields? = some ⟨c, o, x.bits⟩) : i.fields? = some ⟨c, o, m⟩ := by
  obtain ⟨rfl, hbad⟩ := Prod.mk.inj (Option.some.inj h)
  obtain ⟨hnine, -⟩ := List.append_eq_nil_iff.mp (List.append_eq_nil_iff.mp hbad).1
  rw [hk, ModM.bits_ofBits m (codeIf_eq_nil.mp hnine)]

/-- A row split in two by a bit of its modifier field has its fields on either side. -/
theorem ite_fields {M : Type} {p : Prop} [Decidable p] {k₁ k₂ : Ops → M → Instr} {x : M} {f : Fields}
    (h₁ : (k₁ o x).fields? = some f) (h₂ : (k₂ o x).fields? = some f) :
    ((if p then k₁ else k₂) o x).fields? = some f := by
  split <;> assumption

/-- Rows 0x00 to 0x4F: moves, predicates, special registers and integers. -/
theorem fields_ofOpcode_integer {n : Nat} (hn : n < 0x50) (h : ofOpcode (BitVec.ofNat 8 n) o m = some (i, [])) :
    i.fields? = some ⟨BitVec.ofNat 8 n, o, m⟩ := by
  interval_cases n <;>
    first
    | exact fields_mkI h fun _ => rfl
    | exact fields_mkO h rfl
    | exact fields_mkCI h fun _ => rfl
    | cases h

/-- Rows 0x50 to 0x7F: floating point, conversions and special functions. -/
theorem fields_ofOpcode_float {n : Nat} (hl : 0x50 ≤ n) (hn : n < 0x80)
    (h : ofOpcode (BitVec.ofNat 8 n) o m = some (i, [])) : i.fields? = some ⟨BitVec.ofNat 8 n, o, m⟩ := by
  interval_cases n <;>
    first
    | exact fields_mkF h fun _ => rfl
    | exact fields_mkS h fun _ => rfl
    | exact fields_mkV h fun _ => rfl
    | exact fields_mkCF h fun _ => rfl
    | cases h

/-- Rows 0x80 to 0xBF: matrices and memory. -/
theorem fields_ofOpcode_memory {n : Nat} (hl : 0x80 ≤ n) (hn : n < 0xC0)
    (h : ofOpcode (BitVec.ofNat 8 n) o m = some (i, [])) : i.fields? = some ⟨BitVec.ofNat 8 n, o, m⟩ := by
  interval_cases n <;>
    first
    | exact fields_mkX h fun _ => rfl
    | exact fields_mkX h fun _ => ite_fields rfl rfl
    | exact fields_mkM h fun _ => rfl
    | exact fields_mkM h fun _ => ite_fields rfl rfl
    | exact fields_mkM h fun _ => ite_fields rfl (ite_fields rfl rfl)
    | exact fields_mkO h rfl
    | exact fields_mkO h (ite_fields rfl rfl)
    | cases h

/-- Rows 0xC0 to 0xFF: control, synchronisation, traps and the system's own. -/
theorem fields_ofOpcode_control {n : Nat} (hl : 0xC0 ≤ n) (hn : n < 0x100)
    (h : ofOpcode (BitVec.ofNat 8 n) o m = some (i, [])) : i.fields? = some ⟨BitVec.ofNat 8 n, o, m⟩ := by
  interval_cases n <;>
    first
    | exact fields_mkO h rfl
    | exact fields_mkO h (ite_fields rfl rfl)
    | exact fields_mkO h (ite_fields rfl (ite_fields rfl rfl))
    | cases h

/-- A row of the table gives an instruction with the opcode and the fields that it was read from. -/
theorem fields_ofOpcode (h : ofOpcode c o m = some (i, [])) : i.fields? = some ⟨c, o, m⟩ := by
  obtain ⟨n, hn, rfl⟩ : ∃ n, n < 0x100 ∧ c = BitVec.ofNat 8 n := ⟨c.toNat, c.isLt, by simp⟩
  rcases lt_or_ge n 0x50 with hi | hl
  · exact fields_ofOpcode_integer hi h
  rcases lt_or_ge n 0x80 with hi | hl
  · exact fields_ofOpcode_float ‹_› hi h
  rcases lt_or_ge n 0xC0 with hi | hl
  · exact fields_ofOpcode_memory ‹_› hi h
  · exact fields_ofOpcode_control hl hn h
end

/-! ### An instruction with fields -/

theorem ops?_of_fields? {i : Instr} {f : Fields} (h : i.fields? = some f) : i.ops? = some f.ops := by
  cases i <;> cases h <;> rfl

theorem len_of_fields? {i : Instr} {f : Fields} (h : i.fields? = some f) : i.len = f.ops.len := by
  cases i <;> cases h <;> rfl

theorem word_of_fields? {i : Instr} {f : Fields} (h : i.fields? = some f) : i.word = f.word := by
  cases i <;> cases h <;> rfl

theorem wellFormed_of_fields? {i : Instr} {f : Fields} (h : i.fields? = some f) (hlen : i.lenOk = true)
    (hv : i.violations = []) : WellFormed i = true := by
  have hrow : WellFormed i = (i.lenOk && i.violations.isEmpty) := by
    cases i <;> cases h <;> rfl
  rw [hrow, hlen, hv]
  rfl

/-! ### Words that decode (02 R25, 03 R71) -/

theorem lowestCode_eq_none {l : List Nat} : lowestCode l = none ↔ l = [] := by
  cases l with
  | nil => simp [lowestCode]
  | cons c cs => cases h : lowestCode cs <;> simp [lowestCode, h]

/-- What passes check 4 is the instruction unchanged, with no constraint broken. -/
theorem check4_eq_ok {opc : BitVec 8} {i i' : Instr} {bad : List Nat} {rsv : Bool} (h : check4 opc i bad rsv = .ok i') :
    i' = i ∧ i.violations = [] ∧ bad = [] ∧ rsv = true := by
  unfold check4 at h
  split at h
  · cases h
  · next hnone =>
    rw [lowestCode_eq_none, List.append_eq_nil_iff, List.append_eq_nil_iff, codeIf_eq_nil] at hnone
    obtain ⟨⟨hv, hbad⟩, hrsv⟩ := hnone
    exact ⟨(Except.ok.inj h).symm, hv, hbad, by simpa using hrsv⟩

theorem pairOf?_eq_some {fx fy : Fields} {x y : Instr × List Nat} (h : pairOf? fx fy = some (x, y)) :
    ofOpcode fx.opc fx.ops fx.mod = some x ∧ ofOpcode fy.opc fy.ops fy.mod = some y := by
  unfold pairOf? at h
  split at h
  · next hx hy =>
    cases h
    exact ⟨hx, hy⟩
  · cases h

/-- What decoding a word answers, by its opcode: ILL, a pair word, or a row of the table that passed its checks. -/
inductive DecodesTo (l : Len) (w : BitVec 128) : Instr → Prop
  | ill : DecodesTo l w (.ill l)
  | pair {x y : Instr} (hl : l = .w96) (hopc : w.extractLsb' 2 8 = 0xFE) (hx : x.fields? = some (pairX w))
      (hy : y.fields? = some (pairY w)) (hv : (Instr.pair x y).violations = []) : DecodesTo l w (.pair x y)
  | row {i : Instr} (hi : i.fields? = some (Fields.ofWord l w)) (hlen : i.lenOk = true) (hv : i.violations = [])
      (hrsv : reservedZero l w = true) : DecodesTo l w i

theorem decodesTo_of_decodeWord {l : Len} {w : BitVec 128} {i : Instr} (h : decodeWord l w = .ok i) :
    DecodesTo l w i := by
  by_cases hill : (Fields.ofWord l w).opc = 0xFF
  · simp only [decodeWord, if_pos hill, Except.ok.injEq] at h
    subst h
    exact .ill
  by_cases hpair : (Fields.ofWord l w).opc = 0xFE
  · simp only [decodeWord, if_neg hill, if_pos hpair] at h
    split at h
    · split at h
      · cases h
      next hp =>
      split at h
      · cases h
      obtain ⟨hx, hy⟩ := pairOf?_eq_some hp
      obtain ⟨rfl, hv, hbad, -⟩ := check4_eq_ok h
      obtain ⟨hbx, hby⟩ := List.append_eq_nil_iff.mp hbad
      exact .pair rfl hpair (fields_ofOpcode (hbx ▸ hx)) (fields_ofOpcode (hby ▸ hy)) hv
    · cases h
  · simp only [decodeWord, if_neg hill, if_neg hpair] at h
    split at h
    · cases h
    next hrow =>
    split at h
    · next hlen =>
      obtain ⟨rfl, hv, hbad, hrsv⟩ := check4_eq_ok h
      exact .row (fields_ofOpcode (hbad ▸ hrow)) hlen hv hrsv
    · cases h

/-- Settles O4: what decodes is ILL, two rows of the table side by side, or one row, and each field and each reserved bit
of a row is read into the instruction or was checked to be zero. -/
theorem decodedWordsAreWellFormed : Obligations.DecodedWordsAreWellFormed := by
  intro l w i hl hw h
  cases decodesTo_of_decodeWord h with
  | ill => exact ⟨rfl, rfl, fun hne => absurd rfl (hne l)⟩
  | @pair x y hw96 hopc hx hy hv =>
    subst hw96
    refine ⟨by simp [WellFormed, hv, Instr.lenOk], rfl, fun _ => ?_⟩
    rw [Instr.word, hx, hy]
    exact pairWord_halves hl hw hopc
  | row hi hlen hv hrsv =>
    exact ⟨wellFormed_of_fields? hi hlen hv, len_of_fields? hi, fun _ => by
      rw [word_of_fields? hi, Fields.word_ofWord hl hw hrsv]⟩

end Sys2Proof
end

section
/-! Fetching: what a step runs, and which fetches trap (obligations O1 and O2). -/

namespace Sys2Proof.Machine

/-! ### Fetching (02 R23 to R25, 13 R339) -/

/-- The bundle `u` of group `g` issues next: no event is pending and the module is ON. -/
structure Issues (s : State) (u : Cur) (g : Group) : Prop where
  noEvent : s.agenda = []
  on : s.power = .on
  cur : s.cur = some u
  group : s.group? u.gid = some g

/-- The fetch block of the bundle translates to `pa` and is read there: no hold, recall or poison is met (13 R346; 17 R434). -/
structure ReadsBlock (s s' : State) (u : Cur) (g : Group) (pa : Nat) : Prop where
  canon : canonical u.pc = true
  translated : ∃ lf en, s.translate (fetchAsker s u g) u.pc .fetch = (s', .ok pa lf en)
  home : s'.home pa ≠ .none
  notHeld : s'.lineHeld pa = false
  noRecall : s'.hostWaits false pa (32 - pa % 32) = false
  clean : s'.poisoned pa (32 - pa % 32) = false

theorem State.fetch_of_readsBlock {s s' : State} {u : Cur} {g : Group} {pa : Nat} (h : ReadsBlock s s' u g pa) :
    s.fetch u g = s'.decoded u g (s'.blockBytes pa) := by
  obtain ⟨hc, ⟨lf, en, ht⟩, hh, hl, hr, hb⟩ := h
  unfold fetchAsker at ht
  simp [State.fetch, Env.asker, ht, hc, hh, hl, hr, hb]

theorem State.fetch_of_prot {s s' : State} {u : Cur} {g : Group} {d : Nat} (hc : canonical u.pc = true)
    (ht : s.translate (fetchAsker s u g) u.pc .fetch = (s', .prot d)) :
    s.fetch u g = .done (s'.raise u.gid ⟨3, d, (lanesOf u.lanes).headD 0, u.pc, u.pc, 0, u.lanes⟩) := by
  unfold fetchAsker at ht
  simp [State.fetch, Env.asker, ht, hc]

theorem State.fetch_of_noHome {s s' : State} {u : Cur} {g : Group} {pa lf : Nat} {en : List Nat}
    (hc : canonical u.pc = true) (ht : s.translate (fetchAsker s u g) u.pc .fetch = (s', .ok pa lf en))
    (hh : s'.home pa = .none) :
    s.fetch u g = .done (s'.raise u.gid ⟨0xB, 0, (lanesOf u.lanes).headD 0, u.pc, u.pc, BitVec.ofNat 64 pa, u.lanes⟩) := by
  unfold fetchAsker at ht
  simp [State.fetch, Env.asker, ht, hc, hh]

theorem State.fetch_of_notCanonical (s : State) {u : Cur} (g : Group) (hc : canonical u.pc = false) :
    s.fetch u g = .done (s.raise u.gid ⟨3, 8, (lanesOf u.lanes).headD 0, u.pc, u.pc, 0, u.lanes⟩) := by
  simp [State.fetch, hc]

theorem step_of_run {s s' : State} {u : Cur} {g : Group} {i : Instr} (h : Issues s u g)
    (hf : s.fetch u g = .run s' i) : step s = exec i s' := by
  simp [step, h.noEvent, h.on, h.cur, h.group, hf]

theorem step_of_done {s s' : State} {u : Cur} {g : Group} (h : Issues s u g)
    (hf : s.fetch u g = .done s') : step s = .next s' := by
  simp [step, h.noEvent, h.on, h.cur, h.group, hf]

theorem State.decoded_of_ok {bs rest : List Byte} {i : Instr} (s : State) (u : Cur) (g : Group)
    (h : decode bs = .ok (i, rest)) : s.decoded u g bs = .run s i := by
  simp [State.decoded, h]

theorem State.decoded_of_short {bs : List Byte} (s : State) (u : Cur) (g : Group) (h : decode bs = .error .short) :
    s.decoded u g bs = .done (s.raise u.gid ⟨2, 0, (lanesOf u.lanes).headD 0, u.pc, u.pc, 0, u.lanes⟩) := by
  simp [State.decoded, h]

theorem State.decoded_of_illegal {bs : List Byte} {opc : BitVec 8} {c : IllegalCode} (s : State) (u : Cur) (g : Group)
    (h : decode bs = .error (.illegal opc c)) :
    s.decoded u g bs =
      .done (s.raise u.gid ⟨1, (s.rejectCode g opc c).num, (lanesOf u.lanes).headD 0, u.pc, 0, 0, u.lanes⟩) := by
  simp [State.decoded, h]

theorem step_of_event {s : State} {i : Instr} {rest : List Instr} (ha : s.agenda = i :: rest) :
    step s = if isEvent i && s.livesFor i then exec i { s with agenda := rest } else .next { s with agenda := rest } := by
  unfold step
  rw [ha]

theorem step_of_notOn {s : State} (ha : s.agenda = []) (hp : s.power ≠ .on) : step s = exec .formationTick s := by
  simp [step, ha, hp]

theorem step_of_idle {s : State} (ha : s.agenda = []) (hu : s.cur = none) (hw : s.work? = none) :
    step s = exec .formationTick s := by
  simp [step, ha, hu, hw]

/-- Settles O1: a step fetches and runs, runs the agenda's event, or ticks. -/
theorem stepRunsDecodedInstruction : Obligations.StepRunsDecodedInstruction := by
  refine ⟨fun s s' u g pa lf en i rest ha hp hu hg hc ht hh hl hr hb hd => ?_, fun s i rest ha =>
    ⟨fun hi hl => ?_, fun hi hl => ?_⟩,
    fun s ha h => ?_⟩
  · refine step_of_run ⟨ha, hp, hu, hg⟩ ?_
    rw [State.fetch_of_readsBlock ⟨hc, ⟨lf, en, ht⟩, hh, hl, hr, hb⟩, State.decoded_of_ok s' u g hd]
  · rw [step_of_event ha, hi, hl]
    rfl
  · rw [step_of_event ha, hi, hl]
    rfl
  · obtain hp | ⟨hu, hw⟩ := h
    · exact step_of_notOn ha hp
    · exact step_of_idle ha hu hw

/-! ### Fetches that trap (02 R23, R24; 03 R71, R72) -/

@[simp] theorem State.homeRead_length (s : State) (pa n : Nat) : (s.homeRead pa n).length = n := by
  induction n generalizing pa with
  | zero => rfl
  | succ n ih => simp [State.homeRead, ih]

/-- The fetch block ends at the next multiple of 32. -/
@[simp] theorem State.blockBytes_length (s : State) (pa : Nat) : (s.blockBytes pa).length = 32 - pa % 32 := by
  simp [State.blockBytes]

theorem decode_of_tooShort {bs : List Byte} {b : Byte} {n : Len} (hb : bs.head? = some b)
    (hn : Len.ofBits? (b.extractLsb' 0 2) = some n) (h : bs.length < n.bytes) : decode bs = .error .short := by
  obtain ⟨t, rfl⟩ := List.head?_eq_some_iff.1 hb
  simp [decode, hn] at h ⊢
  omega

theorem decode_of_badLength {bs : List Byte} {b : Byte} (hb : bs.head? = some b) (hn : b.extractLsb' 0 2 = 3) :
    ∃ opc, decode bs = .error (.illegal opc .lengthBits) := by
  obtain ⟨t, rfl⟩ := List.head?_eq_some_iff.1 hb
  refine ⟨BitVec.ofNat 8 (bytesNat ((b :: t).take 2) / 4), ?_⟩
  simp [decode, hn, Len.ofBits?]

theorem rightsOf_eq (opc : BitVec 8) (r : Rights) :
    rightsOf opc = r ↔ match r with
      | .system => 0xE8 ≤ opc.toNat ∧ opc.toNat ≤ 0xF2
      | .handler => 0xE1 ≤ opc.toNat ∧ opc.toNat ≤ 0xE5
      | .all => ¬ (0xE8 ≤ opc.toNat ∧ opc.toNat ≤ 0xF2) ∧ ¬ (0xE1 ≤ opc.toNat ∧ opc.toNat ≤ 0xE5) := by
  unfold rightsOf
  generalize opc.toNat = n
  split_ifs <;> cases r <;> simp <;> omega

theorem State.rightsCode_system (s : State) (g : Group) :
    s.rightsCode g .system = if s.sysAttr g.ctx then none else some .privileged := rfl

/-- Codes 3 and 4 of a restricted opcode come before any code of check 4 (03 R72). -/
theorem State.rightsCode_rightsOf_num (s : State) (g : Group) (opc : BitVec 8) (c : IllegalCode) :
    ((s.rightsCode g (rightsOf opc)).getD c).num =
      if 0xE8 ≤ opc.toNat ∧ opc.toNat ≤ 0xF2 ∧ s.sysAttr g.ctx = false then 3
      else if 0xE1 ≤ opc.toNat ∧ opc.toNat ≤ 0xE5 ∧ g.inh = false then 4 else c.num := by
  have h := (rightsOf_eq opc (rightsOf opc)).1 rfl
  generalize rightsOf opc = r at *
  generalize opc.toNat = n at *
  cases r with
  | system =>
    have hn : ¬ (0xE1 ≤ n ∧ n ≤ 0xE5) := by simp only at h; omega
    rw [State.rightsCode_system]
    generalize s.sysAttr g.ctx = b
    cases b <;> simp_all [IllegalCode.num]
  | handler =>
    have hn : ¬ (0xE8 ≤ n ∧ n ≤ 0xF2) := by simp only at h; omega
    cases hi : g.inh <;> simp_all [State.rightsCode, IllegalCode.num]
  | all =>
    obtain ⟨h1, h2⟩ := h
    rw [if_neg fun k => h1 ⟨k.1, k.2.1⟩, if_neg fun k => h2 ⟨k.1, k.2.1⟩]
    rfl

theorem State.rejectCode_num (s : State) (g : Group) (opc : BitVec 8) (c : IllegalCode) :
    (s.rejectCode g opc c).num =
      if c.num ≤ 2 then c.num
      else if 0xE8 ≤ opc.toNat ∧ opc.toNat ≤ 0xF2 ∧ s.sysAttr g.ctx = false then 3
      else if 0xE1 ≤ opc.toNat ∧ opc.toNat ≤ 0xE5 ∧ g.inh = false then 4 else c.num := by
  by_cases hc : c = .lengthBits ∨ c = .unassigned
  · obtain rfl | rfl := hc <;> rfl
  · rw [not_or] at hc
    have hnum : ¬ c.num ≤ 2 := by cases c <;> simp_all [IllegalCode.num]
    have hcode : s.rejectCode g opc c = (s.rightsCode g (rightsOf opc)).getD c := by
      cases c <;> simp_all [State.rejectCode]
    rw [hcode, if_neg hnum, s.rightsCode_rightsOf_num]

/-- Settles O2, by what the fetch and the decoder answer. -/
theorem badFetchesTrap : Obligations.BadFetchesTrap := by
  refine ⟨fun s u g ha hp hu hg => ⟨fun hc => ?_, fun s' d hc ht => ?_, fun s' pa lf en hc ht hh => ?_⟩,
    fun s s' u g pa lf en b ha hp hu hg hc ht hh hl hr hb hd => ?_⟩
  · exact step_of_done ⟨ha, hp, hu, hg⟩ (s.fetch_of_notCanonical g hc)
  · exact step_of_done ⟨ha, hp, hu, hg⟩ (State.fetch_of_prot hc ht)
  · exact step_of_done ⟨ha, hp, hu, hg⟩ (State.fetch_of_noHome hc ht hh)
  · have hi : Issues s u g := ⟨ha, hp, hu, hg⟩
    have hf := State.fetch_of_readsBlock ⟨hc, ⟨lf, en, ht⟩, hh, hl, hr, hb⟩
    refine ⟨fun n hn hlen => ?_, fun h3 => ?_, fun opc c hdec => ⟨_, ?_, s'.rejectCode_num g opc c⟩⟩
    · have hshort : (s'.blockBytes pa).length < n.bytes := by rw [State.blockBytes_length]; omega
      exact step_of_done hi (hf.trans (s'.decoded_of_short u g (decode_of_tooShort hd hn hshort)))
    · obtain ⟨opc, hdec⟩ := decode_of_badLength hd h3
      exact step_of_done hi (hf.trans (s'.decoded_of_illegal u g hdec))
    · exact step_of_done hi (hf.trans (s'.decoded_of_illegal u g hdec))

end Sys2Proof.Machine
end

section
/-! What a source gives a lane (obligation O7). -/

namespace Sys2Proof.Machine

/-! ### What a source gives (02 R35, R36) -/

theorem Group.vrs_one (g : Group) (r l : Nat) : g.vrs r l 1 = (g.vr r l).toNat := by
  simp [Group.vrs]

/-- A pair has the named register in bits 31:0 (02 R39). -/
theorem Group.vrs_two (g : Group) (r l : Nat) : g.vrs r l 2 = (g.vr (r + 1) l ++ g.vr r l).toNat := by
  have hlow : (g.vr r l).toNat < 2 ^ 32 := (g.vr r l).isLt
  rw [BitVec.toNat_append, ← Nat.shiftLeft_add_eq_or_of_lt hlow, Nat.shiftLeft_eq]
  simp [Group.vrs]
  omega

theorem IntTy.wrap_toInt {n : Nat} (t : IntTy) (v : BitVec n) : t.wrap v.toInt = (v.signExtend t.width).toNat := by
  simp [IntTy.wrap, BitVec.signExtend]

theorem State.value_vec {g : Group} {x : Src} (s : State) (o : Ops) (sg : Sig) (q : SrcSig) (i l : Nat)
    (hk : x.kind = .vec) (hp : g.isPort x.val.toNat = false) : s.value g o sg i x q l = g.vrs x.val.toNat l q.n := by
  simp [State.value, hk, hp]

theorem State.value_scal {x : Src} {q : SrcSig} (s : State) (g : Group) (o : Ops) (sg : Sig) (i l : Nat)
    (hk : x.kind = .scal) (hn : q.sn = 1) :
    s.value g o sg i x q l =
      if q.ty.width = 64 then (g.sr x.val.toNat).toNat else (g.sr x.val.toNat).toNat % 2 ^ 32 := by
  simp [State.value, hk, hn]

/-- In the 64-bit format a literal is the 8-bit value of its source field. -/
theorem State.value_literal8 {x : Src} {o : Ops} (s : State) (g : Group) (sg : Sig) (q : SrcSig) (i l : Nat)
    (hk : x.kind = .lit) (ho : o.len = .w64) : s.value g o sg i x q l = literal8 q.ty x.val := by
  simp [State.value, hk, Ops.usesLit32, ho]

/-- Settles O7, by the kind of the source. -/
theorem operandsOfSources : Obligations.OperandsOfSources := by
  intro s g o sg q i l x
  refine ⟨fun hk hp hn => ?_, fun hk hp hn => ?_, fun hk hn hw => ?_, fun hk hn hw => ?_, fun hk ho ht => ?_,
    fun hk ho ht => ?_⟩
  · rw [State.value_vec s o sg q i l hk hp, hn, Group.vrs_one]
  · rw [State.value_vec s o sg q i l hk hp, hn, Group.vrs_two]
  · rw [State.value_scal s g o sg i l hk hn, if_pos hw]
  · rw [State.value_scal s g o sg i l hk hn, if_neg (by omega)]
    simp
  · rw [State.value_literal8 s g sg q i l hk ho, ht]
    exact IntTy.wrap_toInt .s32 x.val
  · rw [State.value_literal8 s g sg q i l hk ho, ht]
    exact IntTy.wrap_toInt .s64 x.val

end Sys2Proof.Machine
end

section
/-! Instructions with operands begin through issue; register bounds and empty registers (obligations O6 and O8). -/

namespace Sys2Proof.Machine
/-! ### Every instruction with operands begins through `issue` (02 R25) -/

/-- What an instruction does, as the continuation of `issue` with the instruction's own rights, length and operations. -/
def Issued (i : Instr) (s : State) : Prop := ∃ k, exec i s = issue (needs i) i.len (partsAt s i) s k

theorem issued_of_issue {i : Instr} {s : State} {r : Rights} {len : Len} {ps : List Part} {k : Env → Out}
    (he : exec i s = issue r len ps s k) (hr : needs i = r) (hl : i.len = len) (hp : partsAt s i = ps) : Issued i s :=
  ⟨k, by rw [hr, hl, hp, he]⟩

theorem issued_of_issue1 {i : Instr} {s : State} {r : Rights} {o : Ops} {sg : Sig} {k : Env → Out}
    (he : exec i s = issue1 r o sg s k) (hr : needs i = r) (hl : i.len = o.len)
    (hp : partsAt s i = [{ o := o, sg := sg }]) : Issued i s := issued_of_issue he hr hl hp

theorem issued_of_issueStore {i : Instr} {s : State} {o : Ops} {sg : Sig} {k : Env → Out}
    (he : exec i s = issueStore o sg s k) (hr : needs i = .all) (hl : i.len = o.len)
    (hp : partsAt s i = [{ o := o, sg := sg, data := some 1 }]) : Issued i s := issued_of_issue he hr hl hp

/-- An instruction that computes runs its operation, on the matrix path or not. -/
theorem exec_of_aluFor_onPath {i : Instr} {x : Alu} (s : State) (h : aluFor i = some x) :
    exec i s = if onPath i then runMatrixAlu x s else runAlu x s := by
  cases i <;> cases h <;> rfl

/-- An instruction that computes has the rights, the length and the operands of its operation. -/
theorem parts_of_aluFor {i : Instr} {x : Alu} (s : State) (h : aluFor i = some x) :
    needs i = .all ∧ i.len = x.o.len ∧ partsAt s i = [{ o := x.o, sg := x.sg }] := by
  cases i <;> cases h <;> exact ⟨rfl, rfl, rfl⟩

theorem issued_of_aluFor {i : Instr} {x : Alu} (s : State) (h : aluFor i = some x) : Issued i s := by
  obtain ⟨hr, hl, hp⟩ := parts_of_aluFor s h
  have he := exec_of_aluFor_onPath s h
  split at he
  · exact issued_of_issue1 he hr hl hp
  · exact issued_of_issue1 he hr hl hp

/-- Instructions with operands that do not compute in each lane: stores carry their data to memory, LDW reads a window
beside its sources, MMAG spans a second register (06 R153), and all others are one plain operation. -/
theorem issued_of_not_alu {i : Instr} {o : Ops} (s : State) (h : i.ops? = some o) (ha : aluFor i = none) : Issued i s := by
  cases i <;> (try cases h) <;> (try cases ha)
  case ldw m =>
    apply issued_of_issue
    · show execLdw o m s = _
      delta execLdw
      exact rfl
    all_goals rfl
  case mmag m =>
    apply issued_of_issue
    · show execMmag o m s = _
      delta execMmag
      exact rfl
    all_goals rfl
  case st | stv | cfill | cfillRing =>
    apply issued_of_issueStore (o := o)
    · delta exec
      exact rfl
    all_goals rfl
  all_goals
    apply issued_of_issue1 (o := o)
    · delta exec
      exact rfl
    all_goals rfl

theorem issued_of_ops {i : Instr} {o : Ops} (s : State) (h : i.ops? = some o) : Issued i s := by
  cases ha : aluFor i with
  | none => exact issued_of_not_alu s h ha
  | some x => exact issued_of_aluFor s ha

/-- An instruction with one operation has operands; only a source may span more registers than its fields name. -/
theorem ops_of_single {i : Instr} {s : State} {p : Part} (hp : partsAt s i = [p]) :
    (∃ o, i.ops? = some o) ∧ p.reg.dst = p.sg.dst := by
  cases i
  case pair x y =>
    simp only [partsAt, partsOf] at hp
    split at hp <;> simp at hp
  case mmag o m =>
    cases hp
    refine ⟨⟨_, rfl⟩, ?_⟩
    simp only [State.mmagSpan]
    split
    · split <;> rfl
    · rfl
  all_goals
    cases hp
    try exact ⟨⟨_, rfl⟩, rfl⟩

theorem exec_of_stop {i : Instr} {s : State} {u : Cur} {g : Group} {t : Nat × Nat × Nat} {o : Ops} (h : i.ops? = some o)
    (hu : s.cur = some u) (hg : s.group? u.gid = some g) (ht : s.stopOf u g (needs i) (partsAt s i) = some t) :
    exec i s = .next (s.raise u.gid ⟨t.1, t.2.1, t.2.2, u.pc, 0, 0, u.lanes⟩) := by
  obtain ⟨k, hk⟩ := issued_of_ops s h
  rw [hk, issue_of_stop hu hg ht]

/-! ### Register bounds (02 R40) -/

/-- Outside compatibility mode no register is a port (02 R52). -/
theorem Group.isPort_of_native {g : Group} (h : g.compat = false) (r : Nat) : g.isPort r = false := by
  simp [Group.isPort, h]

theorem Group.portMisuse_of_native {g : Group} (h : g.compat = false) (o : Ops) (sg : Sig) :
    g.portMisuse o sg = false := by
  simp [Group.portMisuse, Group.isPort_of_native h]

/-- The registers that an operation names, its second registers among them. -/
def Part.named (p : Part) : List (Nat × Nat) :=
  (p.o.sources p.reg).flatMap (fun e => e.2.1.names e.2.2) ++ dstNames p.o.dst p.reg.dst

/-- A register beyond NV or NS. -/
def Group.isBeyond (g : Group) (n : Nat × Nat) : Prop := if n.1 = 0 then g.nv ≤ n.2 else g.ns ≤ n.2

theorem Group.firstBeyond_single {g : Group} (h : g.compat = false) (p : Part) :
    (∀ n, g.firstBeyond [p] = some n → ∃ m ∈ p.named, g.isBeyond m ∧ m.2 = n) ∧
    (g.firstBeyond [p] = none ↔ ∀ m ∈ p.named, ¬ g.isBeyond m) := by
  have hf : g.firstBeyond [p] = (p.named.find? fun n =>
      if n.1 = 0 then decide (g.nv ≤ n.2) && !g.isPort n.2 else decide (g.ns ≤ n.2)).map (·.2) := by
    simp [Group.firstBeyond, Group.beyond, Part.named]
  have hb : ∀ m : Nat × Nat, (if m.1 = 0 then decide (g.nv ≤ m.2) && !g.isPort m.2 else decide (g.ns ≤ m.2)) = true ↔
      g.isBeyond m := by
    intro m
    unfold Group.isBeyond
    split <;> simp [Group.isPort_of_native h]
  refine ⟨fun n hn => ?_, ?_⟩
  · rw [hf, Option.map_eq_some_iff] at hn
    obtain ⟨m, hm, rfl⟩ := hn
    exact ⟨m, List.mem_of_find?_eq_some hm, (hb m).1 (by simpa using List.find?_some hm), rfl⟩
  · rw [hf, Option.map_eq_none_iff, List.find?_eq_none]
    exact forall₂_congr fun m _ => not_congr (hb m)

theorem State.stopOf_of_beyond {s : State} {u : Cur} {g : Group} {r : Rights} {ps : List Part} {n : Nat}
    (hc : g.compat = false) (hr : s.rightsCode g r = none) (hn : g.firstBeyond ps = some n) :
    s.stopOf u g r ps = some (4, n, (lanesOf u.lanes).headD 0) := by
  simp [State.stopOf, hr, Group.portMisuse_of_native hc, hn]

/-- Settles O6: check 5 names a register beyond NV or NS, and no check before it stops the instruction. -/
theorem registerBoundsAreChecked : Obligations.RegisterBoundsAreChecked := by
  intro i p s u g hp hu hg hc hr
  obtain ⟨⟨o, ho⟩, hd⟩ := ops_of_single hp
  obtain ⟨hsome, hnone⟩ := Group.firstBeyond_single hc p
  simp only [Part.named, hd] at hsome hnone
  refine ⟨fun ⟨m, hm, hbm⟩ => ?_, fun h => hnone.2 fun m hm hbm => ?_⟩
  · cases hn : g.firstBeyond [p] with
    | none => exact absurd hbm (hnone.1 hn m hm)
    | some n =>
      obtain ⟨w, hw, hbw, rfl⟩ := hsome n hn
      refine ⟨w, hw, hbw, ?_⟩
      have ht := State.stopOf_of_beyond (u := u) hc hr (hp ▸ hn)
      exact exec_of_stop ho hu hg ht
  · have := h m hm
    unfold Group.isBeyond at hbm
    split at this <;> simp_all <;> omega

/-! ### Empty registers (02 R42, R43) -/

theorem Group.emptyPort_of_native {g : Group} (h : g.compat = false) (x : Src) (q : SrcSig) : g.emptyPort x q = none := by
  simp [Group.emptyPort, Group.isPort_of_native h]

theorem Group.pushFull_of_native {g : Group} (h : g.compat = false) (o : Ops) (sg : Sig) : g.pushFull o sg = none := by
  have hp : g.pushed o sg = none := by
    unfold Group.pushed
    split <;> simp [Group.isPort_of_native h]
  simp [Group.pushFull, hp]

/-- Empty registers that the sources of an operation name for a lane. -/
def Group.emptySources (g : Group) (p : Part) (l : Nat) : List DReg :=
  (p.o.sources p.sg).flatMap fun e => g.emptyOf e.2.1 e.2.2 l

/-- The registers that a lane with a true guard waits for. -/
def Group.waits (g : Group) (p : Part) (l : Nat) : List DReg := g.emptySources p l ++ g.emptyDst p.o.dst p.sg.dst l

theorem Group.emptyTrap_native {g : Group} (h : g.compat = false) (ls : List Nat) (p : Part) :
    (∀ t, g.emptyTrap ls p = some t → t.2 ∈ ls ∧ g.guard p.o t.2 = true ∧ g.emptySources p t.2 ≠ []) ∧
    (g.emptyTrap ls p = none ↔ ∀ e ∈ p.o.sources p.sg, e.2.1.trap = true → ∀ l ∈ ls, g.guard p.o l = true →
      g.emptyOf e.2.1 e.2.2 l = []) := by
  constructor
  · intro t ht
    obtain ⟨e, he, hs⟩ := List.exists_of_findSome?_eq_some ht
    rw [Option.ite_none_right_eq_some, Option.map_eq_some_iff] at hs
    obtain ⟨_, l, hl, rfl⟩ := hs
    have hmem := List.mem_filter.1 (List.mem_of_find?_eq_some hl)
    have hempty := List.find?_some hl
    simp only [Group.emptyPort_of_native h, Option.isSome_none, Bool.or_false, Bool.not_eq_true',
      List.isEmpty_eq_false_iff] at hempty
    exact ⟨hmem.1, hmem.2, fun hn => hempty (List.flatMap_eq_nil_iff.1 hn e he)⟩
  · simp [Group.emptyTrap, Group.emptyPort_of_native h, List.findSome?_eq_none_iff]

/-- A lane is blocked where its guard is true and a register it names is empty. -/
theorem Group.blockOf_native {g : Group} (h : g.compat = false) (l : Nat) (p : Part) :
    g.blockOf l p = if g.guard p.o l = true ∧ g.waits p l ≠ [] then some (.regs (g.waits p l)) else none := by
  have hport : (p.o.sources p.sg).findSome? (fun e => g.emptyPort e.2.1 e.2.2) = none := by
    simp [Group.emptyPort_of_native h]
  unfold Group.blockOf
  change (if g.guard p.o l = true then (match g.waits p l with | r :: rs => _ | [] => _) else none) = _
  cases hw : g.waits p l with
  | nil => simp [hport, Group.pushFull_of_native h]
  | cons r rs => simp

theorem Group.blockedBy_single (g : Group) (ls : List Nat) (p : Part) :
    g.blockedBy ls [p] = ls.filterMap fun l => (g.blockOf l p).map fun b => (l, b) := by
  simp only [Group.blockedBy, List.findSome?_singleton]

theorem Group.mem_blockedBy_single {g : Group} {ls : List Nat} {p : Part} {l : Nat} :
    (∃ b, (l, b) ∈ g.blockedBy ls [p]) ↔ l ∈ ls ∧ g.blockOf l p ≠ none := by
  rw [Group.blockedBy_single]
  simp only [List.mem_filterMap, Option.map_eq_some_iff, Prod.mk.injEq, ← Option.isSome_iff_ne_none,
    Option.isSome_iff_exists]
  constructor
  · rintro ⟨b, k, hk, c, hc, rfl, rfl⟩
    exact ⟨hk, c, hc⟩
  · rintro ⟨hl, b, hb⟩
    exact ⟨b, l, hl, b, hb, rfl, rfl⟩

/-- `blockLanes` changes lanes alone. -/
theorem Group.blockLanes_eq (g : Group) (c : Nat) (bs : List (Nat × Block)) :
    g.blockLanes c bs = { g with lanes := (g.blockLanes c bs).lanes } := by
  unfold Group.blockLanes
  induction bs generalizing g with
  | nil => rfl
  | cons b bs ih =>
    rw [List.foldl_cons, ih]
    rfl

/-- Lanes that are named once and have a reason are blocked, the others stay. -/
theorem Group.lane_blockLanes (g : Group) (c : Nat) (f : Nat → Option Block) {ls : List Nat} (h : ls.Nodup) (k : Nat) :
    (g.blockLanes c (ls.filterMap fun l => (f l).map fun b => (l, b))).lane k =
      if k ∈ ls ∧ f k ≠ none then { g.lane k with block := f k, since := c } else g.lane k := by
  induction ls generalizing g with
  | nil => simp [Group.blockLanes]
  | cons l ls ih =>
    rw [List.nodup_cons] at h
    cases hf : f l with
    | none =>
      rw [List.filterMap_cons_none (by simp [hf]), ih g h.2]
      have : k ∈ l :: ls ∧ f k ≠ none ↔ k ∈ ls ∧ f k ≠ none := by
        constructor
        · rintro ⟨hk, hn⟩
          obtain rfl | hk := List.mem_cons.1 hk
          · exact absurd hf hn
          · exact ⟨hk, hn⟩
        · exact fun hk => ⟨List.mem_cons_of_mem _ hk.1, hk.2⟩
      simp only [this]
    | some b =>
      rw [List.filterMap_cons_some (b := (l, b)) (by simp [hf])]
      have hstep : g.blockLanes c ((l, b) :: ls.filterMap fun l => (f l).map fun b => (l, b)) =
          (g.modLane l fun x => { x with block := some b, since := c }).blockLanes c
            (ls.filterMap fun l => (f l).map fun b => (l, b)) := rfl
      rw [hstep, ih _ h.2, Group.lane_modLane]
      by_cases hk : k = l
      · subst hk
        simp [h.1, hf]
      · simp [hk]

@[simp] theorem Group.lane_pop (g : Group) (q k : Nat) : (g.pop q).lane k = g.lane k := rfl

/-- The lanes that run, and the lanes of the environment's group. -/
theorem State.issueEnv_lanes (s : State) (len : Len) (p : Part) (u : Cur) (g : Group) (l : Nat) :
    l ∈ (s.issueEnv len [p] u g).lanes ↔ l ∈ lanesOf u.lanes ∧ g.blockOf l p = none := by
  simp only [State.issueEnv, List.mem_filter, Bool.not_eq_true', List.any_eq_false, beq_iff_eq]
  refine and_congr_right fun hl => ?_
  have := Group.mem_blockedBy_single (g := g) (ls := lanesOf u.lanes) (p := p) (l := l)
  constructor
  · intro h
    by_contra hb
    obtain ⟨b, hm⟩ := this.2 ⟨hl, hb⟩
    exact h _ hm rfl
  · rintro h ⟨k, b⟩ hm rfl
    exact (this.1 ⟨b, hm⟩).2 h

theorem State.issueEnv_lane (s : State) (len : Len) (p : Part) (u : Cur) (g : Group) (k : Nat) :
    (s.issueEnv len [p] u g).g.lane k = (g.blockLanes s.cycle (g.blockedBy (lanesOf u.lanes) [p])).lane k :=
  foldl_keeps (fun g => g.lane k) Group.pop (fun g q => Group.lane_pop g q k) _ _

theorem State.stopOf_of_empty {s : State} {u : Cur} {g : Group} {r : Rights} {p : Part} (hc : g.compat = false)
    (hr : s.rightsCode g r = none) (hb : g.firstBeyond [p] = none) (hw : s.unbound g (lanesOf u.lanes) p = none) :
    s.stopOf u g r [p] = (g.emptyTrap (lanesOf u.lanes) p).map fun t => (6, t.1, t.2) := by
  simp [State.stopOf, hr, Group.portMisuse_of_native hc, hb, hw]

/-- Where every lane is blocked the instruction only blocks them. -/
theorem exec_of_allBlocked {i : Instr} {s : State} {u : Cur} {g : Group} {o : Ops} (h : i.ops? = some o)
    (hu : s.cur = some u) (hg : s.group? u.gid = some g) (ht : s.stopOf u g (needs i) (partsAt s i) = none)
    (hl : (s.issueEnv i.len (partsAt s i) u g).lanes = []) :
    exec i s = .next ((s.setGroup u.gid
      (g.blockLanes s.cycle (g.blockedBy (lanesOf u.lanes) (partsAt s i)))).retire u) := by
  obtain ⟨k, hk⟩ := issued_of_ops s h
  rw [hk]
  unfold issue
  simp only [hu, hg, ht, hl, List.isEmpty_nil, if_true]

/-- Settles O8, by whether check 7 finds an empty source in trap mode. -/
theorem emptySourcesBlockOrTrap : Obligations.EmptySourcesBlockOrTrap := by
  intro i p s u g hp hu hg hc hr hb hw
  obtain ⟨⟨o, ho⟩, -⟩ := ops_of_single hp
  have hstop := State.stopOf_of_empty (r := needs i) hc hr hb hw
  obtain ⟨htrap, hnone⟩ := Group.emptyTrap_native hc (lanesOf u.lanes) p
  refine ⟨fun ⟨e, he, htr, l, hl, hgd, hne⟩ => ?_, fun hquiet => ?_⟩
  · cases ht : g.emptyTrap (lanesOf u.lanes) p with
    | none => exact absurd (hnone.1 ht e he htr l hl hgd) hne
    | some t =>
      obtain ⟨hm, hgt, hrd⟩ := htrap t ht
      rw [ht, ← hp] at hstop
      exact ⟨t.1, t.2, hm, hgt, hrd, exec_of_stop ho hu hg hstop⟩
  · have hlanes := fun l => s.issueEnv_lanes i.len p u g l
    have hblock := fun l => Group.blockOf_native hc l p
    have hlane : ∀ l ∈ lanesOf u.lanes, l ∉ (s.issueEnv i.len [p] u g).lanes →
        (g.blockLanes s.cycle (g.blockedBy (lanesOf u.lanes) [p])).lane l =
          { g.lane l with block := some (.regs (g.waits p l)), since := s.cycle } := by
      intro l hl hnl
      have hn : g.blockOf l p ≠ none := fun hb => hnl ((hlanes l).2 ⟨hl, hb⟩)
      rw [Group.blockedBy_single, Group.lane_blockLanes _ _ _ (lanesOf_nodup _), if_pos ⟨hl, hn⟩]
      rw [hblock l] at hn ⊢
      rw [if_pos (by by_contra hcon; exact hn (if_neg hcon))]
    refine ⟨fun l => ?_, fun l hl hnl => ?_, fun hnil => ?_⟩
    · rw [hlanes l, hblock l, ite_eq_right_iff]
      simp only [reduceCtorEq, imp_false, not_and, ne_eq, not_not]
      rfl
    · rw [s.issueEnv_lane, hlane l hl hnl]
      rfl
    · rw [(hnone.2 hquiet), Option.map_none, ← hp] at hstop
      rw [← hp] at hnil
      refine ⟨_, hp ▸ exec_of_allBlocked ho hu hg hstop hnil, ?_, ?_, fun l hl => ?_⟩
      · rw [Group.blockLanes_eq]
      · rw [Group.blockLanes_eq]
      · rw [hp] at hnil
        exact hlane l hl (by simp [hnil])

end Sys2Proof.Machine
end

section
/-! Long-latency results: what one delivery does to a group (obligation O34). -/

namespace Sys2Proof.Machine

/-! ### Long-latency results (02 R44) -/

@[simp] theorem Group.setEmpty_lanes (g : Group) (d : DReg) (b : Bool) : (g.setEmpty d b).lanes = g.lanes := by
  cases d <;> rfl
@[simp] theorem Group.setEmpty_team (g : Group) (d : DReg) (b : Bool) : (g.setEmpty d b).team = g.team := by
  cases d <;> rfl
@[simp] theorem Group.setEmpty_v (g : Group) (d : DReg) (b : Bool) : (g.setEmpty d b).v = g.v := by
  cases d <;> rfl
@[simp] theorem Group.setEmpty_sreg (g : Group) (d : DReg) (b : Bool) : (g.setEmpty d b).sreg = g.sreg := by
  cases d <;> rfl
@[simp] theorem Group.setEmpty_astat (g : Group) (d : DReg) (b : Bool) : (g.setEmpty d b).astat = g.astat := by
  cases d <;> rfl
@[simp] theorem Group.setEmpty_due (g : Group) (d : DReg) (b : Bool) : (g.setEmpty d b).due = g.due := by
  cases d <;> rfl

theorem getLsbD_maskOf_self {l : Nat} (h : l < 32) : (maskOf [l]).getLsbD l = true := by
  rw [maskOf, BitVec.getLsbD_ofNat]
  simp [h, Nat.testBit_two_pow_self]

/-- A register marked full is full. -/
theorem Group.isEmpty_setEmpty_self (g : Group) (d : DReg) : (g.setEmpty d false).isEmpty d = false := by
  cases d with
  | vec r l => exact Tab.read_write_self false g.vEmpty (32 * r + l) false
  | scal r => exact Tab.read_write_self false g.sEmpty r false
  | port q n l =>
    simp only [Group.setEmpty, Group.isEmpty, Tab.read_write_self]
    by_cases hl : l < 32
    · simp [getLsbD_maskOf_self hl]
    · exact BitVec.getLsbD_of_ge _ _ (by omega)

/-- Marking one register full empties none. -/
theorem Group.isEmpty_setEmpty_of_full (g : Group) (d x : DReg) (h : g.isEmpty x = false) :
    (g.setEmpty d false).isEmpty x = false := by
  cases d <;> cases x <;> simp_all only [Group.setEmpty, Group.isEmpty, Tab.read_write]
  case vec.vec => split <;> simp_all
  case scal.scal => split <;> simp_all
  case port.port => split <;> simp_all

/-- The flags that wait for a result. -/
def Group.dueFor (g : Group) (d : DReg) : W32 := (g.due.filter fun x => x.1 == d).foldl (fun f x => f ||| x.2) 0

/-- A delivery is what is written where the result is taken, the register full, and the flags no longer due. -/
theorem Group.deliver_eq (g : Group) (w : DReg × W64) :
    g.deliver w =
      (if g.takes w.1 = true then ({ g with due := g.due.filter fun d => d.1 != w.1 }.putReg w).flag (g.dueFor w.1)
        else { g with due := g.due.filter fun d => d.1 != w.1 }).setEmpty w.1 false := rfl

@[simp] theorem Group.putReg_lanes (g : Group) (w : DReg × W64) : (g.putReg w).lanes = g.lanes := by
  obtain ⟨d, v⟩ := w; cases d <;> rfl
@[simp] theorem Group.putReg_team (g : Group) (w : DReg × W64) : (g.putReg w).team = g.team := by
  obtain ⟨d, v⟩ := w; cases d <;> rfl
@[simp] theorem Group.putReg_astat (g : Group) (w : DReg × W64) : (g.putReg w).astat = g.astat := by
  obtain ⟨d, v⟩ := w; cases d <;> rfl
@[simp] theorem Group.putReg_due (g : Group) (w : DReg × W64) : (g.putReg w).due = g.due := by
  obtain ⟨d, v⟩ := w; cases d <;> rfl
@[simp] theorem Group.isEmpty_putReg (g : Group) (w : DReg × W64) (x : DReg) : (g.putReg w).isEmpty x = g.isEmpty x := by
  obtain ⟨d, v⟩ := w; cases d <;> cases x <;> rfl
@[simp] theorem Group.isEmpty_flag (g : Group) (f : W32) (x : DReg) : (g.flag f).isEmpty x = g.isEmpty x := by
  cases x <;> rfl

@[simp] theorem Group.deliver_lanes (g : Group) (w : DReg × W64) : (g.deliver w).lanes = g.lanes := by
  rw [Group.deliver_eq]; split <;> simp [Group.flag]
@[simp] theorem Group.deliver_team (g : Group) (w : DReg × W64) : (g.deliver w).team = g.team := by
  rw [Group.deliver_eq]; split <;> simp [Group.flag]
@[simp] theorem Group.deliver_due (g : Group) (w : DReg × W64) :
    (g.deliver w).due = g.due.filter fun d => d.1 != w.1 := by
  rw [Group.deliver_eq]; split <;> simp [Group.flag]
theorem Group.deliver_astat (g : Group) (w : DReg × W64) :
    (g.deliver w).astat = if g.takes w.1 = true then g.astat ||| g.dueFor w.1 else g.astat := by
  rw [Group.deliver_eq]; split <;> simp [Group.flag]

theorem Group.isEmpty_deliver_self (g : Group) (w : DReg × W64) : (g.deliver w).isEmpty w.1 = false := by
  rw [Group.deliver_eq]
  exact Group.isEmpty_setEmpty_self _ _

theorem Group.isEmpty_deliver_of_full (g : Group) (w : DReg × W64) (x : DReg) (h : g.isEmpty x = false) :
    (g.deliver w).isEmpty x = false := by
  rw [Group.deliver_eq]
  refine Group.isEmpty_setEmpty_of_full _ _ _ ?_
  have hdue : ∀ ds, ({ g with due := ds } : Group).isEmpty x = g.isEmpty x := by cases x <;> exact fun _ => rfl
  split <;> simp [hdue, h]

/-- Every register of a result is full once the result is written. -/
theorem Group.isEmpty_foldl_deliver (g : Group) (ws : List (DReg × W64)) (x : DReg)
    (h : g.isEmpty x = false ∨ ∃ w ∈ ws, w.1 = x) : (ws.foldl Group.deliver g).isEmpty x = false := by
  induction ws generalizing g with
  | nil => simpa using h
  | cons w ws ih =>
    refine ih _ ?_
    rcases h with h | ⟨y, hy, rfl⟩
    · exact .inl (g.isEmpty_deliver_of_full w x h)
    · rcases List.mem_cons.1 hy with rfl | hy
      · exact .inl (g.isEmpty_deliver_self y)
      · exact .inr ⟨y, hy, rfl⟩

/-- Results that no flag waits for set none. -/
theorem Group.foldl_deliver_astat (g : Group) (ws : List (DReg × W64)) (h : ∀ w ∈ ws, ∀ d ∈ g.due, d.1 ≠ w.1) :
    (ws.foldl Group.deliver g).astat = g.astat := by
  induction ws generalizing g with
  | nil => rfl
  | cons w ws ih =>
    have hnone : g.due.filter (fun x => x.1 == w.1) = [] :=
      List.filter_eq_nil_iff.2 fun d hd => by simpa using h w List.mem_cons_self d hd
    have hstat : (g.deliver w).astat = g.astat := by
      simp [Group.deliver_astat, Group.dueFor, hnone]
    rw [List.foldl_cons, ih, hstat]
    intro y hy d hd
    rw [Group.deliver_due] at hd
    exact h y (List.mem_cons_of_mem _ hy) d (List.mem_of_mem_filter hd)

/-- A result reaches the registers where it is taken. -/
theorem Group.deliver_regs (g : Group) (w : DReg × W64) :
    (g.deliver w).v = (if g.takes w.1 = true then g.putReg w else g).v ∧
    (g.deliver w).sreg = (if g.takes w.1 = true then g.putReg w else g).sreg := by
  have hput : ∀ ds, ({ g with due := ds } : Group).putReg w = { g.putReg w with due := ds } := by
    obtain ⟨d, v⟩ := w
    cases d <;> exact fun _ => rfl
  rw [Group.deliver_eq, Group.setEmpty_v, Group.setEmpty_sreg]
  by_cases h : g.takes w.1 = true
  · rw [if_pos h, if_pos h, hput]
    exact ⟨rfl, rfl⟩
  · rw [if_neg h, if_neg h]
    exact ⟨rfl, rfl⟩

theorem Group.foldl_deliver_lanes (g : Group) (ws : List (DReg × W64)) : (ws.foldl Group.deliver g).lanes = g.lanes :=
  foldl_keeps (·.lanes) _ Group.deliver_lanes ws g

theorem Group.foldl_deliver_team (g : Group) (ws : List (DReg × W64)) : (ws.foldl Group.deliver g).team = g.team :=
  foldl_keeps (·.team) _ Group.deliver_team ws g

/-- A result of a group whose image is not in its save area is written into the group. -/
theorem exec_longLatencyResult {s : State} {n : Nat} {r : Result} {g : Group} (hr : s.results[n]? = some r)
    (hg : s.group? r.gid = some g) (ha : s.away r.gid = false) :
    exec (.longLatencyResult n) s = .next
      ({ s with results := s.results.eraseIdx n }.setGroup r.gid (r.writes.foldl Group.deliver g)) := by
  have hg' : ({ s with results := s.results.eraseIdx n } : State).group? r.gid = some g := hg
  have haway : ({ s with results := s.results.eraseIdx n }.setGroup r.gid (r.writes.foldl Group.deliver g)).away r.gid =
      false := by
    simp only [State.away, hg, State.group?_setGroup_self, Option.any_some] at ha ⊢
    rw [Group.foldl_deliver_team]
    exact ha
  show execLongLatencyResult n s = _
  simp only [execLongLatencyResult, hr, State.takeResult, hg', State.patchImage, haway]
  rfl

/-- Settles O34, from what one delivery does. -/
theorem resultsArriveAndFillRegisters : Obligations.ResultsArriveAndFillRegisters := by
  intro s n r g hr hg ha
  refine ⟨_, _, exec_longLatencyResult hr hg ha, State.group?_setGroup_self _ _ _, rfl,
    fun w hw => g.isEmpty_foldl_deliver _ _ (.inr ⟨w, hw, rfl⟩), g.foldl_deliver_lanes _, rfl, rfl,
    fun k hk => State.group?_setGroup_ne _ _ hk, g.foldl_deliver_astat _, fun k l v f hw hd => ?_, fun k l v hw => ?_,
    fun k v hw => ?_⟩ <;> rw [hw, List.foldl_cons, List.foldl_nil]
  · simp [Group.deliver_astat, Group.dueFor, Group.takes, hd]
  · obtain ⟨hv, hs⟩ := g.deliver_regs (.vec k l, v)
    by_cases hl : g.takes (.vec k l) = true
    · rw [if_pos hl] at hv hs
      refine ⟨hs, fun _ => ?_, fun hn => absurd hl (by simp [Group.takes, hn])⟩
      unfold Group.vr
      rw [hv]
      exact ⟨g.vr_setVr_self k l _, fun j i h => g.vr_setVr_ne _ h⟩
    · rw [if_neg hl] at hv hs
      exact ⟨hs, fun hy => absurd hy hl, fun _ => hv⟩
  · obtain ⟨hv, hs⟩ := g.deliver_regs (.scal k, v)
    by_cases he : g.takes (.scal k) = true
    · rw [if_pos he] at hv hs
      refine ⟨hv, fun _ => ?_⟩
      unfold Group.sr
      rw [hs]
      exact ⟨g.sr_setSr_self k v, fun j h => g.sr_setSr_ne v h⟩
    · rw [if_neg he] at hv
      exact ⟨hv, fun hn => absurd (by simp [Group.takes, hn]) he⟩

end Sys2Proof.Machine
end

section
/-! What a computing instruction writes, destination by destination (obligation O10). -/

namespace Sys2Proof.Machine

/-! ### Registers written and read together (02 R39, R53) -/

/-- A register outside those written reads as before. -/
theorem Group.vr_setVrs_out (g : Group) (r l n x : Nat) {r' l' : Nat} (h : ∀ k < n, 32 * r' + l' ≠ 32 * (r + k) + l) :
    (g.setVrs r l n x).vr r' l' = g.vr r' l' := by
  induction n generalizing g r x with
  | zero => rfl
  | succ n ih =>
    rw [Group.setVrs, ih _ _ _ fun k hk => by have := h (k + 1) (by omega); omega]
    exact Group.vr_setVr_ne _ _ (h 0 (by omega))

theorem Group.vrs_congr {g g' : Group} {r l n : Nat} (h : ∀ k < n, g'.vr (r + k) l = g.vr (r + k) l) :
    g'.vrs r l n = g.vrs r l n := by
  induction n generalizing r with
  | zero => rfl
  | succ n ih =>
    have h0 := h 0 (by omega)
    rw [Nat.add_zero] at h0
    rw [Group.vrs, Group.vrs, h0, ih fun k hk => by rw [Nat.add_assoc, Nat.add_comm 1 k]; exact h (k + 1) (by omega)]

/-- A number written over registers reads back, as far as the registers hold it. -/
theorem Group.vrs_setVrs_self (g : Group) (r l n x : Nat) : (g.setVrs r l n x).vrs r l n = x % 2 ^ (32 * n) := by
  induction n generalizing g r x with
  | zero => simp [Group.vrs, Nat.mod_one]
  | succ n ih =>
    rw [Group.vrs, Group.setVrs, ih, Group.vr_setVrs_out _ _ _ _ _ fun k _ => by omega, Group.vr_setVr_self,
      BitVec.toNat_ofNat, show 32 * (n + 1) = 32 + 32 * n by omega, Nat.pow_add, ← Nat.mod_mul]

/-- Registers of another lane read as before. -/
theorem Group.vrs_setVrs_ne (g : Group) (r n x : Nat) {l l' : Nat} (hl : l < 32) (hl' : l' < 32) (h : l' ≠ l) :
    (g.setVrs r l n x).vrs r l' n = g.vrs r l' n :=
  Group.vrs_congr fun _ _ => Group.vr_setVrs_out _ _ _ _ _ fun _ _ => by omega

/-- `setVrs` changes vector registers and their poison alone. -/
theorem Group.setVrs_eq (g : Group) (r l n x : Nat) :
    g.setVrs r l n x = { g with v := (g.setVrs r l n x).v, vBad := (g.setVrs r l n x).vBad } := by
  induction n generalizing g r x with
  | zero => rfl
  | succ n ih => rw [Group.setVrs, ih]; rfl

theorem Group.foldl_putVec_eq (g : Group) (o : Ops) (n : Nat) (ls : List Nat) (f : Nat → Nat) :
    ls.foldl (fun g l => g.putVec o n l (f l)) g =
      { g with v := (ls.foldl (fun g l => g.putVec o n l (f l)) g).v,
               vBad := (ls.foldl (fun g l => g.putVec o n l (f l)) g).vBad } := by
  induction ls generalizing g with
  | nil => rfl
  | cons l ls ih => rw [List.foldl_cons, ih, Group.putVec, Group.setVrs_eq]

/-- Each lane written holds its value. -/
theorem Group.vrs_foldl_putVec (g : Group) (o : Ops) (n : Nat) {ls : List Nat} (f : Nat → Nat) (hd : ls.Nodup)
    (hl : ∀ l ∈ ls, l < 32) {k : Nat} (hk : k < 32) :
    (ls.foldl (fun g l => g.putVec o n l (f l)) g).vrs o.dst.toNat k n =
      if k ∈ ls then f k % 2 ^ (32 * n) else g.vrs o.dst.toNat k n := by
  induction ls generalizing g with
  | nil => simp
  | cons l ls ih =>
    rw [List.nodup_cons] at hd
    rw [List.foldl_cons, ih _ hd.2 fun x hx => hl x (List.mem_cons_of_mem _ hx)]
    by_cases hkl : k = l
    · subst hkl
      simp [hd.1, Group.putVec, Group.vrs_setVrs_self]
    · simp [hkl, Group.putVec, Group.vrs_setVrs_ne _ _ _ _ (hl l List.mem_cons_self) hk hkl]

/-- An entry made lane by lane holds each lane's value. -/
theorem Tab.read_foldl_write {α : Type} [DecidableEq α] (d : α) (f : Nat → α) (ls : List Nat) (t : Tab α) (k : Nat) :
    Tab.read d (ls.foldl (fun t l => Tab.write d t l (f l)) t) k = if k ∈ ls then f k else Tab.read d t k := by
  induction ls generalizing t with
  | nil => simp
  | cons l ls ih =>
    rw [List.foldl_cons, ih, Tab.read_write]
    by_cases hkl : k = l
    · subst hkl; simp
    · simp [hkl]

@[simp] theorem Group.queue_push (g : Group) (q : Nat) (t : Tab W32) : (g.push q t).queue q = g.queue q ++ [t] :=
  Tab.read_write_self _ _ _ _

/-! ### Predicates -/

theorem getLsbD_ofNat_two_pow {w i : Nat} (h : i < w) : (BitVec.ofNat w (2 ^ i)).getLsbD i = true := by
  rw [BitVec.getLsbD_ofNat, Nat.testBit_two_pow_self]
  simp [h]

theorem Lane.pred_setPred_self (x : Lane) (i : Nat) (v : Bool) :
    (x.setPred i v).pred i = if i = 7 then true else if i < 7 then v else x.pred i := by
  unfold Lane.setPred Lane.pred
  by_cases h7 : i = 7
  · simp [h7]
  · by_cases hi : i < 7
    · cases v <;>
        simp only [h7, hi, ge_iff_le, Nat.not_le.2 hi, if_false, if_true, Bool.false_eq_true, BitVec.getLsbD_or,
          BitVec.getLsbD_and, BitVec.getLsbD_not, getLsbD_ofNat_two_pow hi, decide_true, Bool.not_true, Bool.and_false,
          Bool.or_true]
    · simp [h7, hi, show 7 ≤ i by omega]

/-! ### What a computing instruction writes (04 R86, 05 R106 to R108) -/

/-- The destination written, without the predicates beside it and the flags. -/
def Alu.putDst (x : Alu) (act : List Nat) (outs : List (Nat × LaneOut)) (g : Group) : Group :=
  let valOf := fun l => match outs.find? fun r => r.1 == l with | some r => r.2.val | none => 0
  match x.sg.dst with
  | .vec n _ => g.putVecs x.o n act valOf
  | .scal _ => match outs with
    | r :: _ => g.setSr x.o.dst.toNat (scalarOf x.rty r.2.val)
    | [] => g
  | .pred => outs.foldl (fun (g : Group) r => g.modLane r.1 fun y => y.setPred x.o.dst.toNat (r.2.val != 0)) g
  | _ => g

/-- The predicates beside the destination written. -/
def Group.putPreds (g : Group) (outs : List (Nat × LaneOut)) : Group :=
  outs.foldl (fun (g : Group) r => r.2.preds.foldl (fun (g : Group) p => g.modLane r.1 fun y => y.setPred p.1 p.2) g) g

theorem Alu.write_eq (x : Alu) (act : List Nat) (outs : List (Nat × LaneOut)) (g : Group) :
    x.write act outs g = ((x.putDst act outs g).putPreds outs).flag (outs.foldl (fun f r => f ||| r.2.flags) 0) := rfl

/-- Predicates are the lanes' alone. -/
theorem Group.putPreds_eq (g : Group) (outs : List (Nat × LaneOut)) :
    g.putPreds outs = { g with lanes := (g.putPreds outs).lanes } := by
  have hone : ∀ (g : Group) (l : Nat) (ps : List (Nat × Bool)),
      ps.foldl (fun (g : Group) p => g.modLane l fun y => y.setPred p.1 p.2) g =
        { g with lanes := (ps.foldl (fun (g : Group) p => g.modLane l fun y => y.setPred p.1 p.2) g).lanes } := by
    intro g l ps
    induction ps generalizing g with
    | nil => rfl
    | cons p ps ih => rw [List.foldl_cons, ih]; rfl
  unfold Group.putPreds
  induction outs generalizing g with
  | nil => rfl
  | cons r outs ih => rw [List.foldl_cons, ih, hone]

/-- What flags are set in order is one OR. -/
theorem foldl_or_eq {α : Type} (f : α → W32) (ls : List α) (b : W32) :
    ls.foldl (fun a x => a ||| f x) b = b ||| ls.foldl (fun a x => a ||| f x) 0 := by
  induction ls generalizing b with
  | nil => simp
  | cons x ls ih =>
    rw [List.foldl_cons, List.foldl_cons, ih (b ||| f x), ih (0 ||| f x)]
    simp [BitVec.or_assoc]

/-- Whatever the destination, flags are left to the last step. -/
theorem Alu.putDst_astat (x : Alu) (act : List Nat) (outs : List (Nat × LaneOut)) (g : Group) :
    (x.putDst act outs g).astat = g.astat := by
  unfold Alu.putDst
  split
  · unfold Group.putVecs
    split
    · split <;> rfl
    · rw [Group.foldl_putVec_eq]
  · split <;> rfl
  · exact foldl_keeps (fun g : Group => g.astat)
      (fun (g : Group) r => g.modLane r.1 fun y => y.setPred x.o.dst.toNat (r.2.val != 0)) (fun _ _ => rfl) outs g
  · rfl

theorem Alu.write_astat (x : Alu) (act : List Nat) (outs : List (Nat × LaneOut)) (g : Group) :
    (x.write act outs g).astat = outs.foldl (fun f r => f ||| r.2.flags) g.astat := by
  rw [foldl_or_eq, Alu.write_eq, Group.flag, Group.putPreds_eq, Alu.putDst_astat]

/-- A flag set beside the results' flags may be set before them. -/
theorem Alu.write_outs_astat (x : Alu) (act : List Nat) (outs : List (Nat × LaneOut)) (g : Group) (f : W32) :
    (x.write act outs g).astat ||| f = outs.foldl (fun f r => f ||| r.2.flags) (g.astat ||| f) := by
  rw [Alu.write_astat, foldl_or_eq, foldl_or_eq _ _ (_ ||| f), BitVec.or_assoc, BitVec.or_assoc]
  congr 1
  exact BitVec.or_comm _ _

/-- Registers and queues are as the destination is written. -/
theorem Alu.write_keeps_putDst (x : Alu) (act : List Nat) (outs : List (Nat × LaneOut)) (g : Group) :
    (x.write act outs g).v = (x.putDst act outs g).v ∧ (x.write act outs g).sreg = (x.putDst act outs g).sreg ∧
    (x.write act outs g).queues = (x.putDst act outs g).queues := by
  rw [Alu.write_eq, Group.flag, Group.putPreds_eq]
  exact ⟨rfl, rfl, rfl⟩

/-- The value of a lane among results listed lane by lane. -/
theorem find?_map_lane {β : Type} (f : Nat → β) (ls : List Nat) {l : Nat} (h : l ∈ ls) :
    (ls.map fun l => (l, f l)).find? (fun r => r.1 == l) = some (l, f l) := by
  induction ls with
  | nil => simp at h
  | cons k ls ih =>
    by_cases hk : k = l
    · subst hk; simp
    · simp only [List.map_cons, List.find?_cons, beq_eq_false_iff_ne.2 hk]
      exact ih ((List.mem_cons.1 h).resolve_left (Ne.symm hk))

/-- What each lane computes. -/
def Alu.laneOut (x : Alu) (e : Env) (l : Nat) : LaneOut := x.f (e.g.lane l) (e.a l) (e.b l) (e.c l)

theorem Alu.outs_of_scal {x : Alu} {n : Nat} (e : Env) (h : x.sg.dst = .scal n) :
    x.outs e = (e.act.take 1).map fun l => (l, x.laneOut e l) := by
  simp [Alu.outs, h, Alu.laneOut]

theorem Alu.outs_of_not_scal {x : Alu} (e : Env) (h : ∀ n, x.sg.dst ≠ .scal n) :
    x.outs e = e.act.map fun l => (l, x.laneOut e l) := by
  unfold Alu.outs
  split
  · exact absurd ‹_› (h _)
  · rfl

/-! ### Each kind of destination -/

section Destinations

variable {x : Alu} {e : Env}

/-- A vector destination holds each active lane's value. -/
theorem Alu.write_vec {n a : Nat} (hv : x.sg.dst = .vec n a) (hp : e.g.isPort x.o.dst.toNat = false)
    (hd : e.act.Nodup) (hl : ∀ l ∈ e.act, l < 32) {l : Nat} (h : l ∈ e.act) :
    (x.write e.act (x.outs e) e.g).vrs x.o.dst.toNat l n = (x.laneOut e l).val % 2 ^ (32 * n) := by
  have hput : (x.write e.act (x.outs e) e.g).vrs x.o.dst.toNat l n =
      (x.putDst e.act (x.outs e) e.g).vrs x.o.dst.toNat l n := by
    refine Group.vrs_congr fun _ _ => ?_
    unfold Group.vr
    rw [(x.write_keeps_putDst _ _ _).1]
  rw [hput, x.outs_of_not_scal e (by simp [hv])]
  simp only [Alu.putDst, hv, Group.putVecs, hp, Bool.false_eq_true, if_false]
  rw [Group.vrs_foldl_putVec _ _ _ _ hd hl (hl l h), if_pos h, find?_map_lane _ _ h]

/-- A port destination gains one entry, with zero in the slots of lanes that are not active (02 R53). -/
theorem Alu.write_port {n a : Nat} (hv : x.sg.dst = .vec n a) (hp : e.g.isPort x.o.dst.toNat = true) (hne : e.act ≠ []) :
    ∃ q, (x.write e.act (x.outs e) e.g).queue (x.o.dst.toNat - 248) = e.g.queue (x.o.dst.toNat - 248) ++ [q] ∧
      ∀ l, Tab.read 0 q l = if l ∈ e.act then BitVec.ofNat 32 (x.laneOut e l).val else 0 := by
  unfold Group.queue
  rw [(x.write_keeps_putDst _ _ _).2.2, x.outs_of_not_scal e (by simp [hv])]
  simp only [Alu.putDst, hv, Group.putVecs, hp, if_true, List.isEmpty_iff, hne, if_false]
  refine ⟨_, Group.queue_push _ _ _, fun l => ?_⟩
  rw [Tab.read_foldl_write 0 (fun l => BitVec.ofNat 32 _)]
  split
  · rw [find?_map_lane _ _ ‹_›]
  · rfl

/-- A scalar destination holds the result of the lowest active lane. -/
theorem Alu.write_scal {n l : Nat} (hv : x.sg.dst = .scal n) (h : e.act.head? = some l) :
    (x.write e.act (x.outs e) e.g).sr x.o.dst.toNat = scalarOf x.rty (x.laneOut e l).val := by
  obtain ⟨ls, hls⟩ := List.head?_eq_some_iff.1 h
  unfold Group.sr
  rw [(x.write_keeps_putDst _ _ _).2.1, x.outs_of_scal e hv, hls]
  simp only [Alu.putDst, hv, List.take_succ_cons, List.take_zero, List.map_cons, List.map_nil]
  exact Group.sr_setSr_self _ _ _

/-- A predicate destination holds whether each active lane's value is not zero, with nothing beside it. -/
theorem Alu.write_pred (hv : x.sg.dst = .pred) (hnone : ∀ l, (x.laneOut e l).preds = []) (hd : e.act.Nodup) {l : Nat}
    (h : l ∈ e.act) : (x.write e.act (x.outs e) e.g).lane l =
      (e.g.lane l).setPred x.o.dst.toNat ((x.laneOut e l).val != 0) := by
  have hpreds : ∀ (g : Group) (ls : List Nat), g.putPreds (ls.map fun l => (l, x.laneOut e l)) = g := by
    intro g ls
    induction ls with
    | nil => rfl
    | cons k ls ih =>
      simp only [Group.putPreds, List.map_cons, List.foldl_cons, hnone, List.foldl_nil] at ih ⊢
      exact ih
  have hlane : ∀ (g : Group) (ls : List Nat), ls.Nodup →
      ((ls.map fun l => (l, x.laneOut e l)).foldl
        (fun (g : Group) r => g.modLane r.1 fun y => y.setPred x.o.dst.toNat (r.2.val != 0)) g).lane l =
        if l ∈ ls then (g.lane l).setPred x.o.dst.toNat ((x.laneOut e l).val != 0) else g.lane l := by
    intro g ls hls
    induction ls generalizing g with
    | nil => simp
    | cons k ls ih =>
      rw [List.nodup_cons] at hls
      simp only [List.map_cons, List.foldl_cons, ih _ hls.2, Group.lane_modLane, List.mem_cons]
      by_cases hk : l = k
      · subst hk; simp [hls.1]
      · simp [hk]
  rw [Alu.write_eq, x.outs_of_not_scal e (by simp [hv]), hpreds]
  have hdst := hlane e.g e.act hd
  rw [if_pos h] at hdst
  rw [← hdst]
  simp only [Alu.putDst, hv]
  rfl

end Destinations

/-! ### Instructions that compute complete (O10) -/

theorem Begins.group {i : Instr} {s : State} {e : Env} (h : Begins i s e) :
    s.cur = some e.u ∧ ∃ g, s.group? e.u.gid = some g := by
  obtain ⟨hu, g, hg, -⟩ := h
  exact ⟨hu, g, hg⟩

theorem Begins.act_nodup {i : Instr} {s : State} {e : Env} (h : Begins i s e) : e.act.Nodup := by
  obtain ⟨_, _, _, _, he, _⟩ := h
  rw [he]; exact ((lanesOf_nodup _).filter _).filter _

theorem Begins.act_sub_lanes {i : Instr} {s : State} {e : Env} (h : Begins i s e) {l : Nat} (hl : l ∈ e.act) :
    l ∈ e.lanes := by
  obtain ⟨_, _, _, _, he, _⟩ := h
  rw [he] at hl ⊢
  exact List.mem_of_mem_filter hl

theorem Begins.lane_lt {i : Instr} {s : State} {e : Env} (h : Begins i s e) {l : Nat} (hl : l ∈ e.lanes) : l < 32 := by
  obtain ⟨_, _, _, _, he, _⟩ := h
  rw [he] at hl
  exact (mem_lanesOf.1 (List.mem_of_mem_filter hl)).1

/-- With no mismatch pending a checked result is delivered as any other (04 R104). -/
theorem Alu.checked_of_noShadow (x : Alu) {e : Env} (h : e.s.shadow = 0) (outs : List (Nat × LaneOut)) (unit : Nat) (g : Group) :
    x.checked e outs unit g = e.commit g := by
  cases outs with
  | nil => rfl
  | cons r outs => simp [Alu.checked, h, Env.passShadow, Env.commit]

theorem exec_of_computing {i : Instr} {x : Alu} {s : State} {e : Env} (h : aluFor i = some x) (hb : Begins i s e)
    (hp : PathFree i s e) (hn : NoShadow s) :
    exec i s = .next (e.after s (x.write e.act (x.outs e) e.g) fun _ => e.next) := by
  obtain ⟨hr, hl, hq⟩ := parts_of_aluFor s h
  have hs : e.s.shadow = 0 := by rw [hb.env_s]; exact hn
  rw [exec_of_aluFor h hb hp]
  unfold runAlu issue1
  rw [← hr, ← hl, ← hq, issue_of_begins hb]
  cases x.unit? with
  | none => rw [← hb.env_s]; rfl
  | some unit => rw [← hb.env_s]; exact x.checked_of_noShadow hs _ _ _

/-- A lane's predicates stay as the bundle goes on. -/
theorem Env.goneOn_lane_p (e : Env) (s : State) (g : Group) (dest : Nat → W64) (h : e.lanes.Nodup) (k : Nat) :
    ((e.goneOn s g dest).lane k).p = (g.lane k).p := by
  rw [e.goneOn_lane s g dest h k]
  dsimp only
  split <;> (try split) <;> (try split) <;> rfl

theorem DstSig.elem_ne_pred (scl : Bool) (t : Ty) : DstSig.elem scl t ≠ .pred := by
  cases scl <;> nofun

/-- An operation with a predicate destination writes no predicate beside it. -/
theorem preds_of_predDst {i : Instr} {x : Alu} (h : aluFor i = some x) (hd : x.sg.dst = .pred) (y : Lane) (a b c : Nat) :
    (x.f y a b c).preds = [] := by
  cases i <;> cases h
  case plop | icmp | itest | fcmp | fclass => rfl
  case ppack | punpk | ixset | dqnt | qscl | qamax => cases hd
  all_goals exact absurd hd (DstSig.elem_ne_pred _ _)

/-- Settles O10, by the kind of the destination. -/
theorem computingInstructionsWriteTheirResults : Obligations.ComputingInstructionsWriteTheirResults := by
  intro i x s e h hb hp hn
  have hd := hb.act_nodup
  have hl : ∀ l ∈ e.act, l < 32 := fun l hl => hb.lane_lt (hb.act_sub_lanes hl)
  refine ⟨e.goneOn s (x.write e.act (x.outs e) e.g) fun _ => e.next, ⟨_, exec_of_computing h hb hp hn, e.after_group _ _ _⟩,
    fun n a hv hport l hm => ?_, fun n a hv hport hne => ?_, fun n l hv hh => ?_, fun n hv => ?_, fun hv l hm => ?_, fun hv => ?_⟩
  · exact (Group.vrs_congr fun _ _ => by unfold Group.vr; rw [Env.goneOn_v]).trans (Alu.write_vec hv hport hd hl hm)
  · obtain ⟨q, hq, hr⟩ := Alu.write_port hv hport hne
    exact ⟨q, by rw [← hq]; unfold Group.queue; rw [Env.goneOn_queues], hr⟩
  · exact (by unfold Group.sr; rw [Env.goneOn_sreg] : Group.sr _ _ = _).trans (Alu.write_scal hv hh)
  · rw [Env.goneOn_astat, x.write_outs_astat, x.outs_of_scal e hv, List.foldl_map]
    rfl
  · have hlane := Alu.write_pred hv (fun l => preds_of_predDst h hv _ _ _ _) hd hm
    have hpred : ∀ y z : Lane, y.p = z.p → ∀ k, y.pred k = z.pred k := fun y z hyz k => by simp [Lane.pred, hyz]
    rw [hpred _ _ (e.goneOn_lane_p s _ _ hb.lanes_nodup l), hlane]
    exact Lane.pred_setPred_self _ _ _
  · rw [Env.goneOn_astat, x.write_outs_astat, x.outs_of_not_scal e hv, List.foldl_map]
    rfl

end Sys2Proof.Machine
end

section
/-! A frame that names lanes beyond 31 (obligations O11 and O19, refuted). -/

namespace Sys2Proof.Machine

/-! ### A register of a lane beyond 31 is another register's lane

`Group.vr r l` reads key 32·r + l, so that v0 of "lane" 33 is v1 of lane 1. `SameRegs` speaks of every number l, not of the 32 lanes
alone: of a group in which v1 of lane 1 has been written it says that v0 of lane 33 is as before, and that is false. -/

theorem Group.vr_add_32 (g : Group) (r l : Nat) : g.vr r (l + 32) = g.vr (r + 1) l := by
  unfold Group.vr
  congr 1
  omega

/-- Where a register has changed, `SameRegs` fails unless the register below it in the lane 32 above is excepted too. -/
theorem not_sameRegs_of_changed {g g' : Group} {d : Nat → Nat → Prop} {c : Nat → Prop} {p : Nat → Nat → Prop} {r l : Nat}
    (h : g'.vr (r + 1) l ≠ g.vr (r + 1) l) (hd : ¬ d r (l + 32)) : ¬ SameRegs g g' d c p := by
  rintro ⟨hv, -, -⟩
  refine h ?_
  rw [← Group.vr_add_32, ← Group.vr_add_32]
  exact hv r (l + 32) hd

/-- A loaded program's group of 32 lanes, its bundle about to issue; every register holds zero. -/
def loaded : State := State.reset.loadProgram []

def loadedCur : Cur := ⟨0, BitVec.allOnes 32, 0x10000, true⟩

/-- An instruction that writes v1, its source A the literal n, in every lane. -/
def toV1 (n : BitVec 8) : Ops := ⟨.w64, false, 7, 1, ⟨.lit, n, false⟩, .zero, .zero, 0, 0, 0, 0⟩

/-- What an instruction sees in `loaded`. -/
def loadedEnv (i : Instr) : Env := loaded.issueEnv i.len (partsAt loaded i) loadedCur loadGroup

/-- The checks that an instruction passes to begin in `loaded`. -/
def beginsLoaded (i : Instr) : Bool :=
  loaded.stopOf loadedCur loadGroup (needs i) (partsAt loaded i) == none && (loadedEnv i).lanes != [] &&
    loadGroup.readsBad (partsAt loaded i) (loadedEnv i).lanes == false

theorem loaded_group : loaded.group? 0 = some loadGroup := Tab.get?_set_self _ _ _

theorem begins_of_beginsLoaded {i : Instr} (h : beginsLoaded i = true) : Begins i loaded (loadedEnv i) := by
  simp only [beginsLoaded, Bool.and_eq_true, beq_iff_eq, bne_iff_ne] at h
  obtain ⟨⟨hs, hl⟩, hb⟩ := h
  exact ⟨rfl, loadGroup, loaded_group, hs, rfl, hl, hb⟩

/-- MOV of the literal 1 to v1. -/
def movOne : Instr := .mov (toV1 1) ⟨false, 0, false, .s32⟩

/-- Refutes O11: MOV v1, 1 changes v1 of lane 1, which the statement takes for v0 of a lane 33 that is not active. -/
theorem not_computingInstructionsKeepTheRest : ¬ Obligations.ComputingInstructionsKeepTheRest := by
  intro h
  have hb : Begins movOne loaded (loadedEnv movOne) := begins_of_beginsLoaded (by decide +kernel)
  have hp : PathFree movOne loaded (loadedEnv movOne) := nofun
  have hact : 1 ∈ (loadedEnv movOne).act := by decide +kernel
  obtain ⟨g', ⟨t, ht, hg'⟩, hvec, -⟩ := computingInstructionsWriteTheirResults movOne _ loaded _ rfl hb hp rfl
  obtain ⟨⟨⟨g, k, hg, hk, hsame, -⟩, -⟩, -⟩ := h movOne _ loaded t _ rfl hb hp rfl ht
  obtain rfl : loadGroup = g := Option.some.inj (loaded_group.symm.trans hg)
  obtain rfl : g' = k := Option.some.inj (hg'.symm.trans hk)
  have hone : g'.vrs 1 1 1 = 1 := (hvec 1 1 rfl (by decide +kernel) 1 hact).trans (by decide +kernel)
  rw [Group.vrs_one] at hone
  refine not_sameRegs_of_changed (r := 0) (l := 1) (fun hz => ?_) (fun hd => ?_) hsame
  · rw [hz] at hone
    exact absurd hone (by decide +kernel)
  · exact absurd hd.1 (by decide +kernel)

/-- SPRD of LANEID to v1. -/
def laneidToV1 : Instr := .sprd (toV1 0) 0

/-- Refutes O19: SPRD v1, LANEID changes v1 of lane 1, which the statement takes for v0 of lane 33. -/
theorem not_specialRegistersReadAndWrite : ¬ Obligations.SpecialRegistersReadAndWrite := by
  intro h
  have hb : Begins laneidToV1 loaded (loadedEnv laneidToV1) := begins_of_beginsLoaded (by decide +kernel)
  have hact : 1 ∈ (loadedEnv laneidToV1).act := by decide +kernel
  obtain ⟨-, hvec, -, -⟩ := h (toV1 0) 0 loaded (loadedEnv laneidToV1)
  obtain ⟨t, g', -, hg', -, hval, ⟨g, k, hg, hk, hsame, -⟩, -⟩ := hvec hb rfl (by decide +kernel)
  obtain rfl : loadGroup = g := Option.some.inj (loaded_group.symm.trans hg)
  obtain rfl : g' = k := Option.some.inj (hg'.symm.trans hk)
  have hone : g'.vr 1 1 = 1#32 := (hval 1 hact).1 rfl
  refine not_sameRegs_of_changed (r := 0) (l := 1) (fun hz => ?_) (fun hd => ?_) hsame
  · rw [hz] at hone
    exact absurd hone (by decide +kernel)
  · exact absurd hd.1 (by decide +kernel)

end Sys2Proof.Machine
end

section
/-! Pair words run both operations or neither (obligation O29). -/

namespace Sys2Proof.Machine

/-! ### Groups that hold the same data -/

/-- Two groups that agree on what operations compute from and write: registers, queues, flags and predicates. -/
structure SameData (g h : Group) : Prop where
  v : g.v = h.v
  sreg : g.sreg = h.sreg
  astat : g.astat = h.astat
  queues : g.queues = h.queues
  compat : g.compat = h.compat
  preds : ∀ l, (g.lane l).p = (h.lane l).p

theorem SameData.refl (g : Group) : SameData g g := ⟨rfl, rfl, rfl, rfl, rfl, fun _ => rfl⟩

section
variable {g h : Group} (hd : SameData g h)
include hd

theorem SameData.setVr (r l : Nat) (x : W32) : SameData (g.setVr r l x) (h.setVr r l x) :=
  ⟨by simp [Group.setVr, hd.v], hd.sreg, hd.astat, hd.queues, hd.compat, hd.preds⟩

theorem SameData.setSr (r : Nat) (x : W64) : SameData (g.setSr r x) (h.setSr r x) :=
  ⟨hd.v, by simp [Group.setSr, hd.sreg], hd.astat, hd.queues, hd.compat, hd.preds⟩

theorem SameData.flag (f : W32) : SameData (g.flag f) (h.flag f) :=
  ⟨hd.v, hd.sreg, by simp [Group.flag, hd.astat], hd.queues, hd.compat, hd.preds⟩

theorem SameData.push (q : Nat) (t : Tab W32) : SameData (g.push q t) (h.push q t) :=
  ⟨hd.v, hd.sreg, hd.astat, by simp [Group.push, Group.queue, hd.queues], hd.compat, hd.preds⟩

theorem SameData.isPort (r : Nat) : g.isPort r = h.isPort r := by
  simp [Group.isPort, hd.compat]

theorem SameData.setPred (l i : Nat) (b : Bool) :
    SameData (g.modLane l fun y => y.setPred i b) (h.modLane l fun y => y.setPred i b) := by
  refine ⟨hd.v, hd.sreg, hd.astat, hd.queues, hd.compat, fun k => ?_⟩
  rw [Group.lane_modLane, Group.lane_modLane]
  split
  · simp only [Lane.setPred]
    split <;> simp [hd.preds k]
  · exact hd.preds k

theorem SameData.setVrs (r l n x : Nat) : SameData (g.setVrs r l n x) (h.setVrs r l n x) := by
  induction n generalizing g h r x with
  | zero => exact hd
  | succ n ih => exact ih (hd.setVr r l _) (r + 1) (x / 2 ^ 32)

theorem SameData.putVecs (o : Ops) (n : Nat) (act : List Nat) (f : Nat → Nat) :
    SameData (g.putVecs o n act f) (h.putVecs o n act f) := by
  unfold Group.putVecs
  rw [hd.isPort]
  split
  · split
    · exact hd
    · exact hd.push _ _
  · exact List.foldl_rel hd fun l _ _ _ hc => hc.setVrs _ l n _

/-- The same results written into the same data leave the same data. -/
theorem SameData.write (x : Alu) (act : List Nat) (outs : List (Nat × LaneOut)) :
    SameData (x.write act outs g) (x.write act outs h) := by
  rw [Alu.write_eq, Alu.write_eq]
  refine SameData.flag ?_ _
  unfold Group.putPreds
  refine List.foldl_rel ?_ fun r _ _ _ hc => List.foldl_rel hc fun p _ _ _ hp => hp.setPred r.1 p.1 p.2
  unfold Alu.putDst
  split
  · exact hd.putVecs _ _ _ _
  · split
    · exact hd.setSr _ _
    · exact hd
  · exact List.foldl_rel hd fun r _ _ _ hc => hc.setPred r.1 _ _
  · exact hd

end

/-! ### How pair words go on or wait (02 R51, 11 R302) -/

/-- Lanes that wake keep what they hold. -/
theorem Env.awake_sameData (e : Env) (h : e.lanes.Nodup) : SameData e.awake.g e.g := by
  unfold Env.awake
  refine ⟨?_, ?_, ?_, ?_, ?_, fun l => ?_⟩
  iterate 5 rw [Group.modLanes_eq]
  rw [Group.lane_modLanes _ _ _ h]
  split <;> rfl

/-- Lanes that go on stand at their addresses. -/
theorem Env.goneOn_epc (e : Env) (s : State) (g : Group) (dest : Nat → W64) (h : e.lanes.Nodup) {l : Nat}
    (hl : l ∈ e.lanes) : (e.goneOn s g dest).epc l = dest l := by
  unfold Group.epc
  rw [Env.goneOn_inh, e.goneOn_lane s g dest h l]
  simp only [hl, if_true]
  cases g.inh <;> simp only [Bool.false_eq_true, if_false, if_true] <;> split <;> rfl

/-- The group of a bundle that has issued: its threads' ages restart, and what remains of it may issue again. -/
def Group.retired (g : Group) (cycle : Nat) (ls : List Nat) : Group :=
  let g := g.modLanes ls fun x => { x with ready := cycle }
  { g with bundles := g.bundles ++ g.rest ls }

theorem State.group?_retire_self (s : State) (u : Cur) :
    (s.retire u).group? u.gid = (s.group? u.gid).map fun g => g.retired s.cycle (lanesOf u.lanes) :=
  (State.group?_modGroup s u.gid u.gid fun g => g.retired s.cycle (lanesOf u.lanes)).trans (if_pos rfl)

theorem Group.retired_eq (g : Group) (cycle : Nat) (ls : List Nat) :
    g.retired cycle ls = { g with lanes := (g.retired cycle ls).lanes, bundles := (g.retired cycle ls).bundles } := by
  unfold Group.retired
  rw [Group.modLanes_eq]

theorem Group.retired_block (g : Group) (cycle : Nat) {ls : List Nat} (h : ls.Nodup) (l : Nat) :
    ((g.retired cycle ls).lane l).block = (g.lane l).block := by
  have hl : (g.retired cycle ls).lane l = (g.modLanes ls fun x => { x with ready := cycle }).lane l := rfl
  rw [hl, Group.lane_modLanes _ _ _ h]
  split <;> rfl

/-- The group of lanes that wait at a cross-lane instruction. -/
def Group.waitingAt (g : Group) (i : Instr) (ls : List Nat) (cycle : Nat) : Group :=
  g.modLanes ls fun x => if x.block = some (.cross i) then x else { x with block := some (.cross i), since := cycle }

theorem Group.waitingAt_block (g : Group) (i : Instr) {ls : List Nat} (h : ls.Nodup) (cycle : Nat) {l : Nat} (hl : l ∈ ls) :
    ((g.waitingAt i ls cycle).lane l).block = some (.cross i) := by
  rw [Group.waitingAt, Group.lane_modLanes _ _ _ h, if_pos hl]
  by_cases hb : (g.lane l).block = some (.cross i)
  · rw [if_pos hb]
    exact hb
  · rw [if_neg hb]

/-- A bundle that waits at a cross-lane instruction only blocks its lanes. -/
theorem Env.waitCross_leaves {e : Env} {g : Group} (i : Instr) (hg : e.s.group? e.u.gid = some g) (hd : e.lanes.Nodup) :
    ∃ t g', e.waitCross i = .next t ∧ t.group? e.u.gid = some g' ∧ g'.v = g.v ∧ g'.sreg = g.sreg ∧
      ∀ l ∈ e.lanes, (g'.lane l).block = some (.cross i) := by
  have hgroup : ((e.s.modGroup e.u.gid fun g => g.waitingAt i e.lanes e.s.cycle).retire e.u).group? e.u.gid =
      some ((g.waitingAt i e.lanes e.s.cycle).retired e.s.cycle (lanesOf e.u.lanes)) := by
    rw [State.group?_retire_self, State.group?_modGroup, if_pos rfl, hg]
    rfl
  refine ⟨_, _, rfl, hgroup, ?_, ?_, fun l hl => ?_⟩
  · rw [Group.retired_eq, Group.waitingAt, Group.modLanes_eq]
  · rw [Group.retired_eq, Group.waitingAt, Group.modLanes_eq]
  · rw [Group.retired_block _ _ (lanesOf_nodup _), Group.waitingAt_block _ _ hd _ hl]

/-- The results of both operations, written into a group. -/
def Env.pairWrite (x y : Half) (ex ey : Env) (g : Group) : Group :=
  y.alu.write ey.act (ey.halfOuts y) (x.alu.write ex.act (ex.halfOuts x) g)

theorem Env.pairDone_of_noShadow {e : Env} (h : e.s.shadow = 0) (x y : Half) (ex ey : Env) :
    e.pairDone x y ex ey = e.commit (Env.pairWrite x y ex ey e.g) := by
  unfold Env.pairDone
  simp only [h, Nat.zero_le, if_true, Env.passShadow]
  exact ite_self (e.commit _)

theorem Env.awake_commit (e : Env) (g : Group) : e.awake.commit g = e.commit g := rfl

theorem SameData.pairWrite {g h : Group} (hd : SameData g h) (x y : Half) (ex ey : Env) :
    SameData (Env.pairWrite x y ex ey g) (Env.pairWrite x y ex ey h) := (hd.write _ _ _).write _ _ _

/-- What a pair word does once it has begun. -/
def Env.pairRun (e : Env) (x y : Instr) (hx hy : Half) (g : Group) : Out :=
  let ex := e.half g hx
  let ey := e.half g hy
  if !(ex.halfReady hx && ey.halfReady hy) then e.waitCross (.pair x y)
  else if hx.scan.isSome || hy.scan.isSome then e.awake.pairDone hx hy ex ey
  else e.pairDone hx hy ex ey

section
variable {x y : Instr} {hx hy : Half} {s : State} (hhx : halfOf x = some hx) (hhy : halfOf y = some hy)
include hhx hhy

theorem exec_pair_of_compatPort {u : Cur} {g : Group} (hu : s.cur = some u) (hg : s.group? u.gid = some g)
    (hc : g.compat = true) (hp : hx.namesPort = true ∨ hy.namesPort = true) :
    exec (.pair x y) s = .next (s.raise u.gid ⟨1, 11, (lanesOf u.lanes).headD 0, u.pc, 0, 0, u.lanes⟩) := by
  have hport : (g.compat && (hx.namesPort || hy.namesPort)) = true := by simpa [hc] using hp
  show execPair x y s = _
  simp only [execPair, hu, hg, hhx, hhy, hport, if_true]
  rfl

theorem exec_pair_of_begins {e : Env} {g : Group} (hb : Begins (.pair x y) s e) (hg : s.group? e.u.gid = some g)
    (hp : g.compat = true → hx.namesPort = false ∧ hy.namesPort = false) :
    exec (.pair x y) s = e.pairRun x y hx hy g := by
  have hport : (g.compat && (hx.namesPort || hy.namesPort)) = false := by
    cases hc : g.compat with
    | false => rfl
    | true => obtain ⟨h1, h2⟩ := hp hc; simp [h1, h2]
  have hparts : partsAt s (.pair x y) =
      [{ o := hx.alu.o, sg := hx.alu.sg }, { o := hy.alu.o, sg := hy.alu.sg }] := by
    simp only [partsAt, partsOf, hhx, hhy]
  show execPair x y s = _
  simp only [execPair, hb.group.1, hg, hhx, hhy, hport, Bool.false_eq_true, if_false]
  rw [← hparts]
  exact issue_of_begins hb _

end

/-- Where both may execute, both results are written into what the group held before the word. -/
theorem Env.pairRun_of_ready {e : Env} {g : Group} (x y : Instr) {hx hy : Half} (hs : e.s.shadow = 0) (hd : e.lanes.Nodup)
    (hrx : (e.half g hx).halfReady hx = true) (hry : (e.half g hy).halfReady hy = true) :
    ∃ w, SameData w (Env.pairWrite hx hy (e.half g hx) (e.half g hy) e.g) ∧ e.pairRun x y hx hy g = e.commit w := by
  simp only [Env.pairRun, hrx, hry, Bool.and_self, Bool.not_true, Bool.false_eq_true, if_false]
  split
  · rw [Env.pairDone_of_noShadow (e := e.awake) hs, Env.awake_commit]
    exact ⟨_, (e.awake_sameData hd).pairWrite _ _ _ _, rfl⟩
  · rw [Env.pairDone_of_noShadow hs]
    exact ⟨_, SameData.refl _, rfl⟩

/-- Settles O29, by whether the scans of the word may execute. -/
theorem pairWordsRunBothOperations : Obligations.PairWordsRunBothOperations := by
  intro x y hx hy s e g hhx hhy
  refine ⟨fun u hu hg hc hp => exec_pair_of_compatPort hhx hhy hu hg hc hp, fun hg hp hn hb => ?_⟩
  have hexec := exec_pair_of_begins hhx hhy hb hg hp
  have hd := hb.lanes_nodup
  have hes := hb.env_s
  refine ⟨fun l => by simp [Env.half], fun hrx hry => ?_, fun hnot => ?_⟩
  · obtain ⟨w, hw, hrun⟩ := Env.pairRun_of_ready x y (by rw [hes]; exact hn) hd hrx hry
    refine ⟨e.goneOn e.s w fun _ => e.next, ⟨_, hexec.trans hrun, e.after_group _ _ _⟩, ?_, ?_, ?_, ?_,
      fun l => ?_, fun l hl => ?_⟩
    · rw [Env.goneOn_v]; exact hw.v
    · rw [Env.goneOn_sreg]; exact hw.sreg
    · rw [Env.goneOn_astat]; exact congrArg (· ||| e.winOver) hw.astat
    · rw [Env.goneOn_queues]; exact hw.queues
    · rw [e.goneOn_lane_p _ _ _ hd]; exact hw.preds l
    · exact e.goneOn_epc _ _ _ hd hl
  · have hrun : e.pairRun x y hx hy g = e.waitCross (.pair x y) := by
      simp only [Env.pairRun, hnot, Bool.not_false, if_true]
    obtain ⟨t, g', ht, hg', hrest⟩ := Env.waitCross_leaves (.pair x y) (by rw [hes]; exact hg) hd
    exact ⟨g', ⟨t, hexec.trans (hrun.trans ht), hg'⟩, hrest⟩

end Sys2Proof.Machine
end

section
/-! Opcodes that only some groups may issue, and ILL (obligations O5 and O27). -/

namespace Sys2Proof.Machine

/-! ### Who may issue an opcode (03 R64, R65) -/

/-- The rights that an instruction needs are those of its opcode. -/
theorem needs_of_fields? {i : Instr} {f : Fields} (h : i.fields? = some f) : needs i = rightsOf f.opc := by
  cases i <;> cases h <;> rfl

theorem ops_of_needs {i : Instr} (h : needs i ≠ .all) : ∃ o, i.ops? = some o := by
  cases i
  case ptwait | tlbprb | walk | aliasq | aliasqClr | ctxfrz | ctxrst | partrst | qset | qsetDef | qosset | wset | wsetRd
      | eqpopSys | eqpopMig | tret | hpc | hmeet | hparkClr | hparkSet | hparkExit | hrd => exact ⟨_, rfl⟩
  all_goals exact (h rfl).elim

theorem State.rightsCode_handler (s : State) (g : Group) :
    s.rightsCode g .handler = if g.inh then none else some .handlerOnly := rfl

/-- Check 3 is the first that an instruction of a bundle meets (02 R25). -/
theorem State.stopOf_of_rightsCode {s : State} {g : Group} {r : Rights} {c : IllegalCode} (u : Cur) (ps : List Part)
    (h : s.rightsCode g r = some c) : s.stopOf u g r ps = some (1, c.num, (lanesOf u.lanes).headD 0) := by
  simp [State.stopOf, h]

theorem exec_of_rightsCode {i : Instr} {s : State} {u : Cur} {g : Group} {c : IllegalCode} (hu : s.cur = some u)
    (hg : s.group? u.gid = some g) (h : s.rightsCode g (needs i) = some c) :
    exec i s = .next (s.raise u.gid ⟨1, c.num, (lanesOf u.lanes).headD 0, u.pc, 0, 0, u.lanes⟩) := by
  have hall : needs i ≠ .all := fun hn => by rw [hn] at h; cases h
  obtain ⟨o, ho⟩ := ops_of_needs hall
  rw [exec_of_stop ho hu hg (State.stopOf_of_rightsCode u _ h)]

/-- Settles O5: check 3 comes first and looks at the rights of the opcode. -/
theorem restrictedOpcodesAreRefused : Obligations.RestrictedOpcodesAreRefused := by
  refine ⟨fun i s u g hu hg => ⟨fun hn hs => ?_, fun hn hi => ?_, fun hn hs => ?_, fun hn hi => ?_⟩, fun i f hf => ?_⟩
  · exact exec_of_rightsCode hu hg (c := .privileged) (by rw [hn, s.rightsCode_system, hs]; rfl)
  · exact exec_of_rightsCode hu hg (c := .handlerOnly) (by rw [hn, s.rightsCode_handler, hi]; rfl)
  · rw [hn, s.rightsCode_system, hs]
    rfl
  · rw [hn, s.rightsCode_handler, hi]
    rfl
  · rw [needs_of_fields? hf]
    exact ⟨rightsOf_eq f.opc .system, rightsOf_eq f.opc .handler⟩

/-! ### ILL (03 R75) -/

theorem decodeWord_of_ill {l : Len} {w : BitVec 128} (h : w.extractLsb' 2 8 = 0xFF) : decodeWord l w = .ok (.ill l) :=
  if_pos h

theorem exec_ill {s : State} {u : Cur} {g : Group} (n : Len) (hu : s.cur = some u) (hg : s.group? u.gid = some g) :
    exec (.ill n) s = .next (s.raise u.gid ⟨1, 2, (lanesOf u.lanes).headD 0, u.pc, 0, 0, u.lanes⟩) := by
  show execIll n s = _
  simp only [execIll, hu, hg]
  rfl

/-- Settles O27: the decoder looks at the opcode 0xFF before all else, and ILL begins through no check. -/
theorem illTrapsAlways : Obligations.IllTrapsAlways :=
  ⟨fun _ _ _ h => decodeWord_of_ill h, rfl, fun n _ _ _ hu hg => exec_ill n hu hg⟩

end Sys2Proof.Machine
end

section
/-! Words that the spec's tables write out (obligation O58). -/

namespace Sys2Proof

/-! ### Bytes of a number read back (00 R5) -/

theorem bytesNat_take_natBytes {k n : Nat} (v : Nat) (h : k ≤ n) : bytesNat ((natBytes n v).take k) = v % 256 ^ k := by
  induction k generalizing n v with
  | zero => simp [bytesNat, Nat.mod_one]
  | succ k ih =>
    obtain ⟨n, rfl⟩ : ∃ m, n = m + 1 := ⟨n - 1, by omega⟩
    rw [Nat.pow_succ', Nat.mod_mul, natBytes, List.take_succ_cons, bytesNat, ih _ (by omega), BitVec.toNat_ofNat]

@[simp] theorem natBytes_length (n v : Nat) : (natBytes n v).length = n := by
  induction n generalizing v with
  | zero => rfl
  | succ n ih => simp [natBytes, ih]

/-- The length bits of a number are those of its first byte (02 R23). -/
theorem lengthBits_ofNat (v : Nat) : (BitVec.ofNat 8 v).extractLsb' 0 2 = BitVec.ofNat 2 v := by
  apply BitVec.eq_of_toNat_eq
  simp only [BitVec.extractLsb'_toNat, BitVec.toNat_ofNat, Nat.shiftRight_zero]
  omega

/-- Where 16 bytes hold an instruction's length bits, decoding them reads the word of that length. -/
theorem decode_natBytes {l : Len} {v : Nat} (hl : Len.ofBits? (BitVec.ofNat 2 v) = some l) :
    decode (natBytes 16 v) = (decodeWord l (BitVec.ofNat 128 (v % 256 ^ l.bytes))).map
      fun i => (i, (natBytes 16 v).drop l.bytes) := by
  have hb : l.bytes ≤ 16 := by cases l <;> decide
  have hcons : natBytes 16 v = BitVec.ofNat 8 v :: natBytes 15 (v / 256) := rfl
  have hlen : ¬ (natBytes 16 v).length < l.bytes := by rw [natBytes_length]; omega
  have hword := bytesNat_take_natBytes v hb
  rw [hcons] at hlen hword ⊢
  simp only [decode, lengthBits_ofNat, hl, if_neg hlen, hword]
  cases decodeWord l _ <;> rfl

theorem decodeTableWord_of_ok {n v : Nat} {l : Len} {i : Instr} (hl : Len.ofBits? (BitVec.ofNat 2 (v % 2 ^ n)) = some l)
    (h : decodeWord l (BitVec.ofNat 128 (v % 2 ^ n % 256 ^ l.bytes)) = .ok i) : decodeTableWord n v = some i := by
  rw [decodeTableWord, decode_natBytes hl, h]
  rfl

theorem decodeTableWord_of_error {n v : Nat} {l : Len} {e : Reject}
    (hl : Len.ofBits? (BitVec.ofNat 2 (v % 2 ^ n)) = some l)
    (h : decodeWord l (BitVec.ofNat 128 (v % 2 ^ n % 256 ^ l.bytes)) = .error e) : decodeTableWord n v = none := by
  rw [decodeTableWord, decode_natBytes hl, h]
  rfl

theorem decodeTableWord_of_badLength {n v : Nat} (h : BitVec.ofNat 2 (v % 2 ^ n) = 3) : decodeTableWord n v = none := by
  obtain ⟨opc, hd⟩ := Machine.decode_of_badLength (bs := natBytes 16 (v % 2 ^ n)) rfl ((lengthBits_ofNat _).trans h)
  rw [decodeTableWord, hd]

/-- Settles O58: each word has length bits that name its length, and its fields are those of a row, or break the check
whose code 03 Table 8 gives; one word has length bits 0b11. -/
theorem specWordsDecode : Obligations.SpecWordsDecode := by
  unfold Obligations.SpecWordsDecode
  refine ⟨?nop, ?sprd, ?spwr, ?spwr96, ?iadd, ?st, ?fence, ?tlbprb, ?qset, ?eqpop, ?reservedType, ?unassigned, ?fma64,
    ?badLength, ?pair64⟩
  case spwr96 => exact decodeTableWord_of_ok (l := .w96) rfl (by decide +kernel)
  case reservedType =>
    exact decodeTableWord_of_error (l := .w64) (e := .illegal 0x50 .modifier) rfl (by decide +kernel)
  case unassigned =>
    exact decodeTableWord_of_error (l := .w64) (e := .illegal 0x06 .unassigned) rfl (by decide +kernel)
  case fma64 =>
    exact decodeTableWord_of_error (l := .w64) (e := .illegal 0x53 .lengthNotPermitted) rfl (by decide +kernel)
  case badLength => exact decodeTableWord_of_badLength rfl
  case pair64 =>
    exact decodeTableWord_of_error (l := .w64) (e := .illegal 0xFE .lengthNotPermitted) rfl (by decide +kernel)
  all_goals exact decodeTableWord_of_ok (l := .w64) rfl (by decide +kernel)

end Sys2Proof
end

section
/-! Shadow mismatches: one is retried, a second traps (obligation O28). -/

namespace Sys2Proof.Machine

/-! ### Fields of a record -/

/-- Fields from the highest down, none meeting the one above it. -/
def Descending (fs : List (Nat × Nat × Nat)) : Prop := fs.Pairwise fun a b => b.1 + b.2.1 ≤ a.1

/-- Fields that end at or below a bit make a number below its weight. -/
theorem ofFields_lt {fs : List (Nat × Nat × Nat)} {hi : Nat} (hd : Descending fs) (h : ∀ f ∈ fs, f.1 + f.2.1 ≤ hi) :
    ofFields fs < 2 ^ hi := by
  induction fs generalizing hi with
  | nil => exact Nat.two_pow_pos hi
  | cons f fs ih =>
    obtain ⟨lo, n, v⟩ := f
    obtain ⟨hbelow, hd⟩ := List.pairwise_cons.1 hd
    have htail : ofFields fs < 2 ^ lo := ih hd hbelow
    have hfield : v % 2 ^ n + 1 ≤ 2 ^ n := Nat.mod_lt v (Nat.two_pow_pos n)
    calc v % 2 ^ n * 2 ^ lo + ofFields fs < (v % 2 ^ n + 1) * 2 ^ lo := by rw [Nat.add_one_mul]; omega
      _ ≤ 2 ^ n * 2 ^ lo := Nat.mul_le_mul_right _ hfield
      _ = 2 ^ (lo + n) := by rw [Nat.pow_add, Nat.mul_comm]
      _ ≤ 2 ^ hi := Nat.pow_le_pow_right (by decide) (h _ List.mem_cons_self)

/-- A field reads back: those below it end below it, those above it begin above it. -/
theorem bitsOf_ofFields {fs : List (Nat × Nat × Nat)} {lo n v : Nat} (hd : Descending fs) (hm : (lo, n, v) ∈ fs) :
    bitsOf (ofFields fs) lo n = v % 2 ^ n := by
  induction fs with
  | nil => cases hm
  | cons f fs ih =>
    obtain ⟨hbelow, hrest⟩ := List.pairwise_cons.1 hd
    obtain rfl | hm := List.mem_cons.1 hm
    · have htail : ofFields fs < 2 ^ lo := ofFields_lt hrest hbelow
      rw [bitsOf, ofFields, Nat.mul_comm, Nat.mul_add_div (Nat.two_pow_pos lo), Nat.div_eq_of_lt htail, Nat.add_zero,
        Nat.mod_mod]
    · obtain ⟨k, hk⟩ := Nat.exists_eq_add_of_le (hbelow _ hm)
      have hhead : ∀ a, a * 2 ^ f.1 = 2 ^ lo * (2 ^ n * (2 ^ k * a)) := fun a => by
        rw [hk, Nat.pow_add, Nat.pow_add]; ring
      rw [← ih hrest hm, bitsOf, bitsOf, ofFields, hhead, Nat.mul_add_div (Nat.two_pow_pos lo), Nat.mul_add_mod]

theorem extractLsb'_recordOf {fs : List (Nat × Nat × Nat)} {lo n v : Nat} (hd : Descending fs) (hm : (lo, n, v) ∈ fs)
    (hw : lo + n ≤ 256) : (recordOf fs).extractLsb' lo n = BitVec.ofNat n v := by
  apply BitVec.eq_of_toNat_eq
  obtain ⟨k, hk⟩ := Nat.exists_eq_add_of_le hw
  rw [BitVec.extractLsb'_toNat, recordOf, BitVec.toNat_ofNat, BitVec.toNat_ofNat, ← bitsOf_ofFields hd hm, bitsOf,
    Nat.shiftRight_eq_div_pow, hk, Nat.pow_add, Nat.pow_add, Nat.mul_assoc, Nat.mod_mul_right_div_self,
    Nat.mod_mul_right_mod]

/-! ### What a mismatch does (04 R104, 17 R435) -/

/-- Kind and PC of the record of a mismatch (17 Table 3). -/
theorem shadowRecord_fields (result skey rkey elem unit : Nat) (pc : W64) (src ctx core : Nat) :
    (shadowRecord result skey rkey elem unit pc src ctx core).extractLsb' 0 8 = 7 ∧
    (shadowRecord result skey rkey elem unit pc src ctx core).extractLsb' 64 64 = pc := by
  refine ⟨extractLsb'_recordOf (v := 7) ?_ (by simp) (by decide),
    (extractLsb'_recordOf (v := pc.toNat) ?_ (by simp) (by decide)).trans (by simp)⟩
  all_goals simp [Descending]

/-- What no single write of a register, queue, lane or flag changes, a computing instruction's results leave as it is. -/
theorem Alu.write_keeps {β : Type} (f : Group → β) (hv : ∀ g r l v, f (Group.setVr g r l v) = f g)
    (hs : ∀ g r v, f (Group.setSr g r v) = f g) (hq : ∀ g q t, f (Group.push g q t) = f g)
    (hl : ∀ g l u, f (Group.modLane g l u) = f g) (hf : ∀ g w, f (Group.flag g w) = f g)
    (x : Alu) (act : List Nat) (outs : List (Nat × LaneOut)) (g : Group) : f (x.write act outs g) = f g := by
  have hvrs : ∀ (n r l v : Nat) (g : Group), f (g.setVrs r l n v) = f g := by
    intro n
    induction n with
    | zero => exact fun _ _ _ _ => rfl
    | succ n ih => exact fun r l v g => (ih _ _ _ _).trans (hv g r l _)
  have hdst : f (x.putDst act outs g) = f g := by
    unfold Alu.putDst
    split
    · unfold Group.putVecs
      split
      · split
        · rfl
        · exact hq _ _ _
      · exact foldl_keeps f _ (fun g l => hvrs _ _ l _ g) act g
    · split
      · exact hs _ _ _
      · rfl
    · exact foldl_keeps f _ (fun g r => hl g r.1 _) outs g
    · rfl
  have hpreds : ∀ g : Group, f (g.putPreds outs) = f g := by
    intro g
    unfold Group.putPreds
    refine foldl_keeps f _ (fun g r => ?_) outs g
    exact foldl_keeps f _ (fun g _ => hl g r.1 _) r.2.preds g
  rw [Alu.write_eq, hf, hpreds, hdst]

theorem Alu.write_seed (x : Alu) (act : List Nat) (outs : List (Nat × LaneOut)) (g : Group) :
    (x.write act outs g).seed = g.seed :=
  Alu.write_keeps (·.seed) (fun _ _ _ _ => rfl) (fun _ _ _ => rfl) (fun _ _ _ => rfl) (fun _ _ _ => rfl)
    (fun _ _ => rfl) x act outs g

theorem Alu.lanes_of_outs {x : Alu} {e : Env} {l : Nat} (h : l ∈ (x.outs e).map (·.1)) : l ∈ e.act := by
  simp only [Alu.outs, List.map_map, List.mem_map, Function.comp_apply, exists_eq_right] at h
  split at h
  · exact List.mem_of_mem_take h
  · exact h

theorem Alu.outs_ne_nil (x : Alu) {e : Env} (h : e.act ≠ []) : x.outs e ≠ [] := by
  simp only [Alu.outs, ne_eq, List.map_eq_nil_iff]
  split
  · simpa using h
  · exact h

/-- A trap names a lane whose result was checked. -/
theorem Env.badElem_mem (e : Env) {outs : List (Nat × LaneOut)} (h : outs ≠ []) (elems : Nat) :
    (e.badElem outs elems).1 ∈ outs.map (·.1) := by
  have hlt : Config.shadowElem e.s.freeCount % outs.length < (outs.map (·.1)).length := by
    rw [List.length_map]
    exact Nat.mod_lt _ (List.length_pos_of_ne_nil h)
  simp only [Env.badElem]
  rw [List.getD_eq_getElem _ _ hlt]
  exact List.getElem_mem hlt

section
variable (x : Alu) {e : Env} {outs : List (Nat × LaneOut)} (hne : outs ≠ []) (unit : Nat) (g : Group)
include hne

/-- One mismatch: the retry passes, and its flag is set beside the results. -/
theorem Alu.checked_of_oneMismatch (h : e.s.shadow = 1) :
    x.checked e outs unit g = e.finish (e.s.retryPassed e.g.core) (g.flag fRETRY) := by
  obtain ⟨r, rs, rfl⟩ := List.exists_cons_of_ne_nil hne
  simp [Alu.checked, h, Env.passShadow]

/-- Two mismatches: the results are dropped, a record goes to each queue, and the trap names a lane that was checked. -/
theorem Alu.checked_of_twoMismatches (h : 2 ≤ e.s.shadow) :
    ∃ (r : BitVec 256) (l : Nat), l ∈ outs.map (·.1) ∧ r.extractLsb' 0 8 = 7 ∧ r.extractLsb' 64 64 = e.u.pc ∧
      x.checked e outs unit g = .next
        (((({ e.s with freeCount := e.s.freeCount + 1, shadow := 0 }).postEq e.g.ctx r).postSys r).raise e.u.gid
          ⟨0x15, 0, l, e.u.pc, 0, r.setWidth 64, e.bundle⟩) := by
  have hmem := e.badElem_mem hne x.rty.elems
  obtain ⟨y, ys, rfl⟩ := List.exists_cons_of_ne_nil hne
  obtain ⟨hkind, hpc⟩ := shadowRecord_fields _ _ _ _ unit e.u.pc 0 e.g.ctx e.g.core
  refine ⟨_, _, hmem, hkind, hpc, ?_⟩
  simp only [Alu.checked, if_neg (show ¬ e.s.shadow ≤ 1 by omega)]
  rfl

end

/-- No instruction of the matrix path that computes in each lane has a result that a shadow unit checks (04 R103). -/
theorem unit_of_onPath {i : Instr} {x : Alu} (h : aluFor i = some x) (hp : onPath i = true) : x.unit? = none := by
  cases i
  case ixset | dqnt | qscl | qamax => cases h; rfl
  case qnt => cases h
  all_goals cases hp

theorem exec_of_checked {i : Instr} {x : Alu} {s : State} {e : Env} {unit : Nat} (h : aluFor i = some x)
    (hu : x.unit? = some unit) (hb : Begins i s e) :
    exec i s = x.checked e (x.outs e) unit (x.write e.act (x.outs e) e.g) := by
  have hfree : PathFree i s e := fun hp => by simp [unit_of_onPath h hp] at hu
  obtain ⟨hr, hl, hq⟩ := parts_of_aluFor s h
  rw [exec_of_aluFor h hb hfree]
  unfold runAlu issue1
  rw [← hr, ← hl, ← hq, issue_of_begins hb]
  simp only [hu]

/-- Settles O28, by the number of mismatches that the checked results meet. -/
theorem shadowMismatchesRetryOnceThenTrap : Obligations.ShadowMismatchesRetryOnceThenTrap := by
  intro i x s e h hu ⟨hb, hact⟩
  obtain ⟨unit, hu⟩ := Option.isSome_iff_exists.1 hu
  have hexec := exec_of_checked h hu hb
  have hne := x.outs_ne_nil hact
  refine ⟨fun h1 => ?_, fun h2 => ?_⟩
  · rw [x.checked_of_oneMismatch hne _ _ (by rw [hb.env_s]; exact h1)] at hexec
    refine ⟨_, ⟨_, hexec, e.after_group _ _ _⟩, ?_, ?_, ?_, ?_⟩
    · exact Env.goneOn_v _ _ _ _
    · exact Env.goneOn_sreg _ _ _ _
    · exact (Env.goneOn_seed _ _ _ _).trans (x.write_seed _ _ _)
    · exact Env.goneOn_astat _ _ _ _
  · obtain ⟨r, l, hl, hkind, hpc, htrap⟩ :=
      x.checked_of_twoMismatches hne unit (x.write e.act (x.outs e) e.g) (by rw [hb.env_s]; exact h2)
    rw [hb.env_s] at htrap
    exact ⟨r, l, Alu.lanes_of_outs hl, hkind, hpc, hexec.trans htrap⟩

end Sys2Proof.Machine
end

section
/-! What an instruction gives, read off what it computes in each lane (shared by obligations O12 to O18). Completion is O9. -/

namespace Sys2Proof.Machine

/-- Settles O9: the instruction begins, runs its operation, and no check of its result stands in the way. -/
theorem computingInstructionsComplete : Obligations.ComputingInstructionsComplete :=
  fun _ _ _ _ h hb hp hn => exec_of_computing h hb hp hn

/-! ### Elements side by side (04 R81) -/

theorem packRes_val_lt (w : Nat) (rs : List Res) : (packRes w rs).val < 2 ^ (w * rs.length) := by
  induction rs with
  | nil => simp [packRes]
  | cons r rs ih =>
    have hb : r.bits % 2 ^ w < 2 ^ w := Nat.mod_lt _ (Nat.two_pow_pos w)
    calc r.bits % 2 ^ w + 2 ^ w * (packRes w rs).val
      _ < 2 ^ w * ((packRes w rs).val + 1) := by rw [Nat.mul_succ]; omega
      _ ≤ 2 ^ w * 2 ^ (w * rs.length) := Nat.mul_le_mul_left _ ih
      _ = 2 ^ (w * (rs.length + 1)) := by rw [← Nat.pow_add, Nat.mul_succ, Nat.add_comm]

/-- An element of a packed result is that element's own. -/
theorem elemOf_packRes (w : Nat) {rs : List Res} {k : Nat} {r : Res} (h : rs[k]? = some r) :
    elemOf w (packRes w rs).val k = r.bits % 2 ^ w := by
  induction rs generalizing k with
  | nil => simp at h
  | cons q rs ih =>
    cases k with
    | zero =>
      obtain rfl : q = r := by simpa using h
      simp [elemOf, packRes]
    | succ k =>
      have hq : (packRes w (q :: rs)).val / 2 ^ w = (packRes w rs).val := by
        rw [packRes, Nat.add_mul_div_left _ _ (Nat.two_pow_pos w), Nat.div_eq_of_lt (Nat.mod_lt _ (Nat.two_pow_pos w)),
          Nat.zero_add]
      rw [← ih (k := k) (by simpa using h), elemOf, elemOf, Nat.mul_succ, Nat.add_comm, Nat.pow_add, ← Nat.div_div_eq_div_mul, hq]

theorem Ty.width_mul_elems (t : Ty) : t.width * t.elems = 32 * t.regs := by
  cases t with
  | i t => cases t <;> rfl
  | f t => cases t <;> rfl

theorem Ty.shape_of_word {t : Ty} (h : t.width = 32) : t.elems = 1 ∧ t.regs = 1 := by
  simp [Ty.elems, Ty.regs, h]

theorem Ty.shape_of_single {t : Ty} (h : t.width = 32 ∨ t.width = 64) :
    t.elems = 1 ∧ 32 * t.regs = t.width ∧ t.width / 32 = t.regs := by
  rcases h with h | h <;> simp [Ty.elems, Ty.regs, h]

theorem perElem_val_mod (t : Ty) (f : Nat → Res) : (perElem t f).val % 2 ^ (32 * t.regs) = (perElem t f).val := by
  have h := packRes_val_lt t.width ((List.range t.elems).map f)
  rw [List.length_map, List.length_range, Ty.width_mul_elems] at h
  exact Nat.mod_eq_of_lt h

theorem elemOf_perElem (t : Ty) (f : Nat → Res) {k : Nat} (h : k < t.elems) :
    elemOf t.width (perElem t f).val k = (f k).bits % 2 ^ t.width :=
  elemOf_packRes _ (by simp [h])

/-- A type of one element: the result is that of element 0. -/
theorem perElem_single {t : Ty} (h : t.elems = 1) (f : Nat → Res) :
    perElem t f = { val := (f 0).bits % 2 ^ t.width, flags := (f 0).flags } := by
  simp [perElem, h, packRes]

/-- The flags of elements delivered are ISAT where one of them is clamped (04 R80, R85). -/
theorem packRes_deliver_flags (w : Nat) (t : IntTy) (sat : Bool) (f : Nat → Int) (ks : List Nat) :
    (packRes w (ks.map fun k => t.deliver sat (f k))).flags =
      if sat = true ∧ ∃ k ∈ ks, t.fits (f k) = false then fISAT else 0 := by
  induction ks with
  | nil => simp [packRes]
  | cons k ks ih =>
    rw [List.map_cons, packRes, ih]
    cases sat with
    | false => simp [IntTy.deliver]
    | true => cases hk : t.fits (f k) <;> by_cases hks : ∃ j ∈ ks, t.fits (f j) = false <;> simp [IntTy.deliver, flagIf, hk, hks]

theorem IntTy.wrap_mod (t : IntTy) (v : Int) : t.wrap v % 2 ^ t.width = t.wrap v := by
  have h := Int.emod_lt_of_pos v (show (0 : Int) < (2 ^ t.width : Nat) by exact_mod_cast Nat.two_pow_pos t.width)
  exact Nat.mod_eq_of_lt (by unfold IntTy.wrap; omega)

theorem IntTy.deliver_bits (t : IntTy) (sat : Bool) (v : Int) :
    (t.deliver sat v).bits = t.wrap (if sat then t.clamp v else v) := by cases sat <;> rfl

/-! ### Flags gathered over lanes (04 R85) -/

theorem foldl_or_const {α : Type} {f : α → W32} {fl : W32} {ls : List α} (hf : ∀ l ∈ ls, f l = fl) (hne : fl = 0 ∨ ls ≠ [])
    (b : W32) : ls.foldl (fun a l => a ||| f l) b = b ||| fl := by
  have habsorb : ∀ ls : List α, (∀ l ∈ ls, f l = fl) → ls.foldl (fun a l => a ||| f l) (b ||| fl) = b ||| fl := by
    intro ls h
    induction ls with
    | nil => rfl
    | cons l ls ih =>
      rw [List.foldl_cons, h l List.mem_cons_self, BitVec.or_assoc, BitVec.or_self]
      exact ih fun k hk => h k (List.mem_cons_of_mem _ hk)
  cases ls with
  | nil =>
    obtain rfl : fl = 0 := hne.resolve_right (by simp)
    simp
  | cons l ls =>
    rw [List.foldl_cons, hf l List.mem_cons_self]
    exact habsorb ls fun k hk => hf k (List.mem_cons_of_mem _ hk)

/-! ### What an instruction computes -/

/-- The instruction, of the core path, computes `f` of each lane into a destination of shape `d`. For an instruction of the
model every part of it holds by definition. -/
def Computes (i : Instr) (o : Ops) (e : Env) (d : DstSig) (f : Nat → LaneOut) : Prop :=
  onPath i = false ∧ ∃ x, aluFor i = some x ∧ x.o = o ∧ x.sg.dst = d ∧ x.laneOut e = f

theorem sig_of_aluFor {i : Instr} {x : Alu} (h : aluFor i = some x) : x.sg = i.sig := by
  cases i <;> cases h <;> rfl

theorem DstSig.elem_of_vec {scl : Bool} {t : Ty} {n a : Nat} (h : DstSig.elem scl t = .vec n a) :
    DstSig.elem scl t = .vec t.regs t.regs := by
  cases scl with
  | false => rfl
  | true => cases h

section

variable {i : Instr} {o : Ops} {s : State} {e : Env} {scl : Bool} {f : Nat → LaneOut}

/-- The group that an instruction leaves is one. -/
theorem Leaves.unique {g g' : Group} (h : Leaves i s e g) (h' : Leaves i s e g') : g = g' := by
  obtain ⟨t, ht, hg⟩ := h
  obtain ⟨t', ht', hg'⟩ := h'
  obtain rfl : t = t' := Host.Outcome.next.inj (ht.symm.trans ht')
  exact Option.some.inj (hg.symm.trans hg')

/-- Each active lane's registers hold what it computes, and the flags are those of the active lanes. -/
theorem Computes.vec {t : Ty} (hc : Computes i o e (.elem scl t) f) (hb : Begins i s e) (hn : NoShadow s) (hv : VecDst i o e) :
    ∃ g', Leaves i s e g' ∧ (∀ l ∈ e.act, g'.vrs o.dst.toNat l t.regs = (f l).val % 2 ^ (32 * t.regs)) ∧
      g'.astat = e.act.foldl (fun a l => a ||| (f l).flags) (e.g.astat ||| e.winOver) := by
  obtain ⟨hpath, x, hx, rfl, hd, rfl⟩ := hc
  obtain ⟨⟨n, a, hdst⟩, hport⟩ := hv
  rw [← sig_of_aluFor hx, hd] at hdst
  have hvec := hd.trans (DstSig.elem_of_vec hdst)
  obtain ⟨g', hg', hval, -, -, -, -, hfl⟩ :=
    computingInstructionsWriteTheirResults i x s e hx hb (fun hp => by simp [hpath] at hp) hn
  exact ⟨g', hg', hval _ _ hvec hport, hfl fun m hm => by simp [hvec] at hm⟩

/-- As `Computes.vec`, for a type of 32 bits. -/
theorem Computes.word {t : Ty} (hc : Computes i o e (.elem scl t) f) (ht : t.width = 32) (hb : Begins i s e) (hn : NoShadow s)
    (hv : VecDst i o e) :
    ∃ g', Leaves i s e g' ∧ (∀ l ∈ e.act, g'.vr o.dst.toNat l = BitVec.ofNat 32 (f l).val) ∧
      g'.astat = e.act.foldl (fun a l => a ||| (f l).flags) (e.g.astat ||| e.winOver) := by
  obtain ⟨g', hg', hval, hfl⟩ := hc.vec hb hn hv
  refine ⟨g', hg', fun l hl => BitVec.eq_of_toNat_eq ?_, hfl⟩
  have h := hval l hl
  rwa [(Ty.shape_of_word ht).2, Group.vrs_one, Nat.mul_one] at h

/-- The registers hold one word for each active lane, and one set of flags is added. -/
theorem Computes.gives {t : Ty} (hc : Computes i o e (.elem scl t) f) (ht : t.width = 32) (hb : Begins i s e) (hn : NoShadow s)
    (hv : VecDst i o e) {r : Nat → W32} {fl : W32} (hr : ∀ l ∈ e.act, BitVec.ofNat 32 (f l).val = r l)
    (hfl : ∀ l ∈ e.act, (f l).flags = fl) (hne : fl = 0 ∨ e.act ≠ []) : Gives i o s e r fl := by
  obtain ⟨g', hg', hval, hflags⟩ := hc.word ht hb hn hv
  exact ⟨g', hg', fun l hl => (hval l hl).trans (hr l hl), hflags.trans (foldl_or_const hfl hne _)⟩

/-- The registers hold, element by element, integers delivered in a type. -/
theorem Computes.intElems {t : IntTy} {sat : Bool} {v : Nat → Nat → Int}
    (hc : Computes i o e (.elem scl (.i t)) fun l => perElem (.i t) fun k => t.deliver sat (v l k)) (hb : Begins i s e)
    (hn : NoShadow s) (hv : VecDst i o e) : IntElems i o t s e sat v := by
  obtain ⟨g', hg', hval, hfl⟩ := hc.vec hb hn hv
  refine ⟨g', hg', fun l hl k hk => ?_, hfl.trans (List.foldl_ext _ _ _ fun a l _ => ?_)⟩
  · rw [hval l hl, perElem_val_mod]
    refine (elemOf_perElem (.i t) _ hk).trans ?_
    rw [IntTy.deliver_bits, Ty.width, IntTy.wrap_mod]
  · rw [perElem, packRes_deliver_flags]

/-- Each active lane's destination predicate holds what it computes. -/
theorem Computes.tests (hc : Computes i o e .pred f) (hb : Begins i s e) (hn : NoShadow s) (ho : o.dst.toNat < 8)
    {p : Nat → Prop} {fl : Nat → W32} (hp : ∀ l ∈ e.act, (f l).val ≠ 0 ↔ p l) (hfl : ∀ l ∈ e.act, (f l).flags = fl l) :
    Tests i o s e p fl := by
  obtain ⟨hpath, x, hx, rfl, hd, rfl⟩ := hc
  obtain ⟨g', hg', -, -, -, -, hval, hflags⟩ :=
    computingInstructionsWriteTheirResults i x s e hx hb (fun hp => by simp [hpath] at hp) hn
  refine ⟨g', hg', fun l hl => ?_, (hflags fun n h => by simp [hd] at h).trans (List.foldl_ext _ _ _ fun a l hl => ?_)⟩
  · rw [hval hd l hl, ← hp l hl]
    by_cases h7 : x.o.dst.toNat = 7
    · simp [h7]
    · simp [h7, show x.o.dst.toNat < 7 by omega, Alu.laneOut]
  · rw [← hfl l hl]; rfl

end

end Sys2Proof.Machine
end

section
/-! Integer arithmetic, carries and division (obligations O12, O13 and O14). -/

namespace Sys2Proof.Machine

/-! ### Integer arithmetic (05 R112) -/

/-- Only the low bits of each element's result are delivered. -/
theorem packRes_congr {w : Nat} {f g : Nat → Res} {ks : List Nat}
    (h : ∀ k ∈ ks, (f k).bits % 2 ^ w = (g k).bits % 2 ^ w ∧ (f k).flags = (g k).flags) :
    packRes w (ks.map f) = packRes w (ks.map g) := by
  induction ks with
  | nil => rfl
  | cons k ks ih =>
    obtain ⟨hb, hf⟩ := h k List.mem_cons_self
    rw [List.map_cons, List.map_cons, packRes, packRes, ih fun j hj => h j (List.mem_cons_of_mem _ hj), hb, hf]

theorem IntTy.wrap_natCast_mod (t : IntTy) (n : Nat) : t.wrap (n : Int) % 2 ^ t.width = n % 2 ^ t.width := by
  rw [IntTy.wrap_mod, IntTy.wrap, ← Int.natCast_emod, Int.toNat_natCast]

theorem IntTy.val_elemOf_zero (t : IntTy) (a : Nat) : t.val (elemOf t.width a 0) = t.val a := by
  simp [IntTy.val, elemOf]

/-- A difference without its sign, as ISAD delivers it, lacks only the wrap. -/
theorem perElem_natAbs_sub (t : IntTy) (x y : Nat → Int) :
    perElem (.i t) (fun k => exact (x k - y k).natAbs) =
      perElem (.i t) fun k => t.deliver false (if x k < y k then y k - x k else x k - y k) :=
  packRes_congr fun k _ => ⟨by
    have habs : (if x k < y k then y k - x k else x k - y k) = ((x k - y k).natAbs : Int) := by split <;> omega
    rw [habs]
    exact (IntTy.wrap_natCast_mod t _).symm, rfl⟩

theorem natAbs_eq_ite (x : Int) : (x.natAbs : Int) = if x < 0 then -x else x := by split <;> omega

theorem clamp_eq_ite (x y z : Int) :
    min (max x y) z = if z < (if x < y then y else x) then z else if x < y then y else x := by
  rw [min_comm, max_def_lt, min_def_lt]

theorem perElem_wide64 (t : IntTy) (f : Nat → Res) : perElem (.i (IntTy.wide64 t)) f = packRes 64 [f 0] := by cases t <;> rfl
theorem perElem_wide32 (t : IntTy) (f : Nat → Res) : perElem (.i (IntTy.wide32 t)) f = packRes 32 [f 0] := by cases t <;> rfl

/-- Settles O12, by what each instruction computes on an element. -/
theorem integerArithmeticResults : Obligations.IntegerArithmeticResults := by
  intro o m s e hn
  refine ⟨?iadd, ?isub, ?imul, ?imulh, ?imad, ?imin, ?imax, ?iabs, ?ineg, ?isad, ?iavg, ?iclamp, ?imadw, ?idot2, ?idot4⟩
  case iadd | isub | imul | imulh | imad | ineg | iavg =>
    exact fun hb hv => Computes.intElems ⟨rfl, _, rfl, rfl, rfl, rfl⟩ hb hn hv
  case imin =>
    exact fun hb hv => Computes.intElems ⟨rfl, _, rfl, rfl, rfl, by simp only [← min_def]; rfl⟩ hb hn hv
  case imax =>
    exact fun hb hv => Computes.intElems ⟨rfl, _, rfl, rfl, rfl, by simp only [← max_def]; rfl⟩ hb hn hv
  case iabs =>
    exact fun hb hv => Computes.intElems ⟨rfl, _, rfl, rfl, rfl, by simp only [← natAbs_eq_ite]; rfl⟩ hb hn hv
  case isad =>
    exact fun hb hv => Computes.intElems ⟨rfl, _, rfl, rfl, rfl, funext fun l => perElem_natAbs_sub _ _ _⟩ hb hn hv
  case iclamp =>
    exact fun hb hv => Computes.intElems ⟨rfl, _, rfl, rfl, rfl, by simp only [← clamp_eq_ite]; rfl⟩ hb hn hv
  case imadw =>
    intro t ht hb hv
    obtain rfl : t = IntTy.wide64 m.ity := by rcases ht with ⟨hm, rfl⟩ | ⟨hm, rfl⟩ <;> rw [hm] <;> rfl
    refine Computes.intElems ⟨rfl, _, rfl, rfl, rfl, funext fun l => ?_⟩ hb hn hv
    dsimp only
    rw [perElem_wide64, IntTy.val_elemOf_zero, IntTy.val_elemOf_zero]
    rfl
  case idot2 | idot4 =>
    intro t ht hb hv
    obtain rfl : t = IntTy.wide32 m.ity := by rcases ht with ⟨hm, rfl⟩ | ⟨hm, rfl⟩ <;> rw [hm] <;> rfl
    exact Computes.intElems ⟨rfl, _, rfl, rfl, rfl, funext fun l => by rw [perElem_wide32]; rfl⟩ hb hn hv

/-! ### Carries (05 R113) -/

/-- As `Computes.vec`, for an integer type of 32 or 64 bits: one element fills the registers. -/
theorem Computes.whole {i : Instr} {o : Ops} {s : State} {e : Env} {scl : Bool} {t : IntTy} {f : Nat → LaneOut}
    (hc : Computes i o e (.elem scl (.i t)) f) (hw : t.width = 32 ∨ t.width = 64) (hb : Begins i s e) (hn : NoShadow s)
    (hv : VecDst i o e) :
    ∃ g', Leaves i s e g' ∧ (∀ l ∈ e.act, g'.vrs o.dst.toNat l (t.width / 32) = (f l).val % 2 ^ t.width) ∧
      g'.astat = e.act.foldl (fun a l => a ||| (f l).flags) (e.g.astat ||| e.winOver) := by
  obtain ⟨-, hregs, hdiv⟩ := Ty.shape_of_single (t := .i t) hw
  obtain ⟨g', hg', hval, hfl⟩ := hc.vec hb hn hv
  rw [hregs, ← hdiv] at hval
  exact ⟨g', hg', hval, hfl⟩

section

variable {x : Alu} {e : Env}

/-- Predicates written one for each lane. -/
theorem Group.lane_putPreds_single (g : Group) {f : Nat → LaneOut} {c : Nat} {v : Nat → Bool} (h : ∀ l, (f l).preds = [(c, v l)])
    {ls : List Nat} (hd : ls.Nodup) (k : Nat) :
    (g.putPreds (ls.map fun l => (l, f l))).lane k = if k ∈ ls then (g.lane k).setPred c (v k) else g.lane k := by
  induction ls generalizing g with
  | nil => rfl
  | cons l ls ih =>
    rw [List.nodup_cons] at hd
    have hcons : g.putPreds ((l :: ls).map fun l => (l, f l)) =
        (g.modLane l fun y => y.setPred c (v l)).putPreds (ls.map fun l => (l, f l)) := by
      simp [Group.putPreds, h]
    rw [hcons, ih _ hd.2, Group.lane_modLane]
    by_cases hk : k = l
    · subst hk; simp [hd.1]
    · simp [hk]

theorem Alu.putDst_lane_vec {n a : Nat} (hv : x.sg.dst = .vec n a) (act : List Nat) (outs : List (Nat × LaneOut)) (g : Group)
    (k : Nat) : (x.putDst act outs g).lane k = g.lane k := by
  simp only [Alu.putDst, hv, Group.putVecs]
  split
  · split <;> rfl
  · rw [Group.foldl_putVec_eq]; rfl

/-- A vector instruction that also writes one predicate leaves it in each active lane. -/
theorem Alu.write_predBeside {n a c : Nat} {v : Nat → Bool} (hv : x.sg.dst = .vec n a)
    (hp : ∀ l, (x.laneOut e l).preds = [(c, v l)]) (hd : e.act.Nodup) {l : Nat} (hl : l ∈ e.act) :
    (x.write e.act (x.outs e) e.g).lane l = (e.g.lane l).setPred c (v l) := by
  rw [Alu.write_eq, x.outs_of_not_scal e (by simp [hv])]
  refine (Group.lane_putPreds_single _ hp hd l).trans ?_
  rw [if_pos hl, Alu.putDst_lane_vec hv]

end

/-- Beside each active lane's registers the instruction leaves the predicate that it computes. -/
theorem Computes.predBeside {i : Instr} {o : Ops} {s : State} {e : Env} {scl : Bool} {t : Ty} {f : Nat → LaneOut} {g' : Group}
    {c : Nat} {v : Nat → Bool} (hc : Computes i o e (.elem scl t) f) (hb : Begins i s e) (hn : NoShadow s) (hv : VecDst i o e)
    (hp : ∀ l, (f l).preds = [(c, v l)]) (hco : c < 8) (hg' : Leaves i s e g') {l : Nat} (hl : l ∈ e.act) :
    (g'.lane l).pred c = if c = 7 then true else v l := by
  obtain ⟨hpath, x, hx, rfl, hd, rfl⟩ := hc
  obtain ⟨⟨n, a, hdst⟩, -⟩ := hv
  rw [← sig_of_aluFor hx] at hdst
  obtain rfl := hg'.unique ⟨_, exec_of_computing hx hb (fun hp => by simp [hpath] at hp) hn, e.after_group _ _ _⟩
  have hlane := Env.goneOn_lane_p e s (x.write e.act (x.outs e) e.g) (fun _ => e.next) hb.lanes_nodup l
  rw [Alu.write_predBeside hdst hp hb.act_nodup hl] at hlane
  have hpred : ∀ y z : Lane, y.p = z.p → y.pred c = z.pred c := fun y z hyz => by simp [Lane.pred, hyz]
  rw [hpred _ _ hlane, Lane.pred_setPred_self]
  split
  · rfl
  · rw [if_pos (by omega)]

/-- A carry of R113 reads its predicate, or 0 with CZ. -/
theorem carryIn_eq (m : ModI) (x : Lane) :
    ModI.carryIn m x = if m.opf.getLsbD 8 then 0 else if x.pred (m.opf.extractLsb' 12 3).toNat then 1 else 0 := by
  unfold ModI.carryIn
  cases x.pred (m.opf.extractLsb' 12 3).toNat <;> rfl

theorem carryIn_le_one (m : ModI) (x : Lane) : ModI.carryIn m x ≤ 1 := by
  rw [carryIn_eq]
  split
  · omega
  · split <;> omega

/-- The carry out of a sum below twice 2^w is whether it reaches 2^w. -/
theorem div_mod_two_eq_one {n r : Nat} (h : r < 2 * n) : (r / n % 2 == 1) = decide (n ≤ r) := by
  by_cases hr : n ≤ r
  · have hq : r / n = 1 := Nat.div_eq_of_lt_le (by omega) (by omega)
    simp [hq, hr]
  · simp [Nat.div_eq_of_lt (Nat.lt_of_not_le hr), hr]

/-- The difference of two numbers below 2^w and a borrow, as ISUBB takes it modulo 2^w. -/
theorem sub_borrow_mod {n u v c : Nat} (hv : v < n) (hc : c ≤ 1) :
    (((u + 2 * n - (v + c)) % n : Nat) : Int) = ((u : Int) - (v : Int) - (c : Int)) % (n : Int) := by
  rw [Int.natCast_emod, Int.natCast_sub (by omega)]
  push_cast
  rw [show (u : Int) + 2 * n - (v + c) = u - v - c + 2 * n by ring, Int.add_mul_emod_self_right]

/-- Settles O13: the sum and the difference fit 2^(w+1), so one predicate holds their carry. -/
theorem carriesPassThroughPredicates : Obligations.CarriesPassThroughPredicates := by
  intro o m s e hn hw w ci co cin
  have hcin : ∀ l, ModI.carryIn m (e.g.lane l) = cin l := fun l => carryIn_eq m _
  have hle : ∀ l, cin l ≤ 1 := fun l => hcin l ▸ carryIn_le_one m _
  have hlt : ∀ x, x % 2 ^ w < 2 ^ w := fun x => Nat.mod_lt _ (Nat.two_pow_pos w)
  have hco : co < 8 := (m.opf.extractLsb' 9 3).isLt
  have hflags : ∀ b : W32, e.act.foldl (fun a _ => a ||| (0 : W32)) b = b := fun b =>
    (foldl_or_const (fun _ _ => rfl) (.inl rfl) b).trans BitVec.or_zero
  refine ⟨fun hb hv => ?add, fun hb hv => ?sub⟩
  case add =>
    have hc : Computes (.iaddc o m) o e (.elem m.scl (.i m.ity)) fun l =>
        { val := (e.a l % 2 ^ w + e.b l % 2 ^ w + cin l) % 2 ^ w,
          preds := [(co, (e.a l % 2 ^ w + e.b l % 2 ^ w + cin l) / 2 ^ w % 2 == 1)] } :=
      ⟨rfl, _, rfl, rfl, rfl, by simp only [← hcin]; rfl⟩
    obtain ⟨g', hg', hval, hfl⟩ := hc.whole hw hb hn hv
    refine ⟨g', hg', hfl.trans (hflags _), fun l hl => ⟨(hval l hl).trans (Nat.mod_mod _ _), ?_⟩⟩
    have ha := hlt (e.a l)
    have hb' := hlt (e.b l)
    have hl' := hle l
    rw [hc.predBeside hb hn hv (fun _ => rfl) hco hg' hl, div_mod_two_eq_one (by omega)]
  case sub =>
    have hc : Computes (.isubb o m) o e (.elem m.scl (.i m.ity)) fun l =>
        { val := (e.a l % 2 ^ w + 2 ^ (w + 1) - (e.b l % 2 ^ w + cin l)) % 2 ^ w,
          preds := [(co, decide (e.a l % 2 ^ w < e.b l % 2 ^ w + cin l))] } :=
      ⟨rfl, _, rfl, rfl, rfl, by simp only [← hcin]; rfl⟩
    obtain ⟨g', hg', hval, hfl⟩ := hc.whole hw hb hn hv
    refine ⟨g', hg', hfl.trans (hflags _), fun l hl => ⟨?_, hc.predBeside hb hn hv (fun _ => rfl) hco hg' hl⟩⟩
    rw [hval l hl, Nat.mod_mod, Nat.pow_succ', sub_borrow_mod (hlt _) (hle l)]
    push_cast
    rfl

/-! ### Division (05 R114) -/

/-- The quotient truncated toward zero, from the magnitudes. -/
theorem tdiv_eq_ite (x y : Int) :
    x.tdiv y = if (x < 0 ↔ y < 0) then ((x.natAbs / y.natAbs : Nat) : Int) else -((x.natAbs / y.natAbs : Nat) : Int) := by
  have hsign : ∀ z : Int, z = if z < 0 then -(z.natAbs : Int) else z.natAbs := fun z => by split <;> omega
  conv_lhs => rw [hsign x, hsign y]
  by_cases hx : x < 0 <;> by_cases hy : y < 0
  all_goals simp only [hx, hy, if_true, if_false, iff_self, iff_false, false_iff, not_true, Int.neg_tdiv,
    Int.tdiv_neg, Int.neg_neg, Int.ofNat_tdiv]

theorem IntTy.wrap_val (t : IntTy) (a : Nat) : t.wrap (t.val a) = a % 2 ^ t.width := by
  have h : t.val a % (2 ^ t.width : Nat) = ((a % 2 ^ t.width : Nat) : Int) := by
    unfold IntTy.val
    dsimp only
    split <;> simp
  rw [IntTy.wrap, h, Int.toNat_natCast]

theorem intBin_single {t : IntTy} (ht : (Ty.i t).elems = 1) (f : Int → Int → Res) (a b : Nat) :
    intBin t f a b = { val := (f (t.val a) (t.val b)).bits % 2 ^ t.width, flags := (f (t.val a) (t.val b)).flags } := by
  rw [intBin, perElem_single ht, IntTy.val_elemOf_zero, IntTy.val_elemOf_zero]
  rfl

/-- What IDIV gives an element. -/
def quotientRes (t : IntTy) (sat : Bool) (x y : Int) : Res :=
  if y = 0 then ⟨2 ^ t.width - 1, divFlags x⟩ else t.deliver sat (x.tdiv y)

/-- What IREM gives an element. -/
def remainderRes (t : IntTy) (x y : Int) : Res :=
  if y = 0 then ⟨t.wrap x, divFlags x⟩ else exactInt t (x.tmod y)

theorem quotientRes_bits (t : IntTy) (sat : Bool) (x y : Int) : (quotientRes t sat x y).bits % 2 ^ t.width =
    if y = 0 then 2 ^ t.width - 1 else t.wrap (if sat then t.clamp (x.tdiv y) else x.tdiv y) := by
  unfold quotientRes
  split
  · exact Nat.mod_eq_of_lt (Nat.sub_lt (Nat.two_pow_pos _) Nat.one_pos)
  · rw [IntTy.deliver_bits, IntTy.wrap_mod]

theorem quotientRes_flags (t : IntTy) (sat : Bool) (x y : Int) : (quotientRes t sat x y).flags =
    (if y = 0 then divFlags x else 0) ||| if y ≠ 0 ∧ sat = true ∧ t.fits (x.tdiv y) = false then fISAT else 0 := by
  unfold quotientRes
  by_cases hy : y = 0
  · simp [hy]
  · cases sat <;> cases hf : t.fits (x.tdiv y) <;> simp [hy, IntTy.deliver, flagIf, hf]

theorem remainderRes_bits (t : IntTy) (a : Nat) (y : Int) : (remainderRes t (t.val a) y).bits % 2 ^ t.width =
    if y = 0 then a % 2 ^ t.width else t.wrap (t.val a - y * (t.val a).tdiv y) := by
  unfold remainderRes
  split
  · rw [IntTy.wrap_val, Nat.mod_mod]
  · rw [exactInt, Int.tmod_def]
    exact IntTy.wrap_mod t _

theorem remainderRes_flags (t : IntTy) (x y : Int) : (remainderRes t x y).flags = if y = 0 then divFlags x else 0 := by
  unfold remainderRes
  split <;> rfl

/-- Settles O14, by whether the divisor is zero. -/
theorem divisionResults : Obligations.DivisionResults := by
  intro o m s e hn hw w x y q fl
  have hone : (Ty.i m.ity).elems = 1 := (Ty.shape_of_single (t := .i m.ity) hw).1
  have hq : ∀ l, (x l).tdiv (y l) = q l := fun l => tdiv_eq_ite _ _
  refine ⟨fun hb hv => ?div, fun hb hv => ?rem⟩
  case div =>
    have hc : Computes (.idiv o m) o e (.elem m.scl (.i m.ity)) _ :=
      ⟨rfl, _, rfl, rfl, rfl, funext fun l => intBin_single hone (quotientRes m.ity m.sat) (e.a l) (e.b l)⟩
    obtain ⟨g', hg', hval, hfl⟩ := hc.whole hw hb hn hv
    refine ⟨g', hg', fun l hl => (hval l hl).trans ?_, hfl.trans (List.foldl_ext _ _ _ fun a l _ => ?_)⟩
    · rw [Nat.mod_mod, quotientRes_bits, ← hq]
    · rw [quotientRes_flags, ← hq, BitVec.or_assoc]
      rfl
  case rem =>
    have hc : Computes (.irem o m) o e (.elem m.scl (.i m.ity)) _ :=
      ⟨rfl, _, rfl, rfl, rfl, funext fun l => intBin_single hone (remainderRes m.ity) (e.a l) (e.b l)⟩
    obtain ⟨g', hg', hval, hfl⟩ := hc.whole hw hb hn hv
    refine ⟨g', hg', fun l hl => (hval l hl).trans ?_, hfl.trans (List.foldl_ext _ _ _ fun a l _ => ?_)⟩
    · rw [Nat.mod_mod, remainderRes_bits, ← hq]
    · rw [remainderRes_flags]
      rfl

end Sys2Proof.Machine
end

section
/-! Compares and tests (obligation O15). -/

namespace Sys2Proof.Machine

/-! ### Conditions (03 R68, 05 R115, R116) -/

/-- What a condition says of two integers, which are never unordered. -/
def Cc.ofInts (cc : Cc) (x y : Int) : Prop :=
  match cc with
  | .eq | .ueq => x = y
  | .ne | .one => x ≠ y
  | .lt | .ult => x < y
  | .le | .ule => x ≤ y
  | .gt | .ugt => y < x
  | .ge | .uge => y ≤ x
  | .num => True
  | .nan => False

theorem intCond_iff (cc : Cc) (x y : Int) : intCond cc x y = true ↔ Cc.ofInts cc x y := by
  unfold intCond
  rcases lt_trichotomy x y with h | h | h
  · rw [compare_lt_iff_lt.2 h]
    cases cc <;> simp [Cc.holds, Cc.ofInts, h, h.le, h.ne, h.not_gt, h.not_ge]
  · rw [compare_eq_iff_eq.2 h]
    cases cc <;> simp [Cc.holds, Cc.ofInts, h]
  · rw [compare_gt_iff_gt.2 h]
    cases cc <;> simp [Cc.holds, Cc.ofInts, h, h.le, h.ne', h.not_gt, h.not_ge]

/-- A NaN compares with nothing. -/
theorem FVal.cmp_of_nan {a b : FVal} (h : a.isNan = true ∨ b.isNan = true) : a.cmp b = none := by
  cases a <;> cases b <;> simp [FVal.isNan, FVal.cmp] at h ⊢

/-- The conditions that hold of the unordered. -/
theorem Cc.holds_none (cc : Cc) : Cc.holds cc none = true ↔
    cc = .ne ∨ cc = .nan ∨ cc = .ult ∨ cc = .ule ∨ cc = .ugt ∨ cc = .uge ∨ cc = .ueq := by
  cases cc <;> decide

theorem ite_or_ite (p q : Prop) [Decidable p] [Decidable q] (f : W32) :
    (if p then f else 0) ||| (if q then f else 0) = if p ∨ q then f else 0 := by
  by_cases hp : p <;> by_cases hq : q <;> simp [hp, hq]

theorem fCmpFlags_of_nan {a b : FVal} (h : a.isNan = true ∨ b.isNan = true) (cc : Cc) : fCmpFlags cc a b =
    if a.isSig = true ∨ b.isSig = true ∨ cc = .lt ∨ cc = .le ∨ cc = .gt ∨ cc = .ge then fNV else 0 := by
  have hsig : sigFlag [a, b] = if a.isSig = true ∨ b.isSig = true then fNV else 0 := by simp [sigFlag, flagIf]
  have hord : flagIf ((a.isNan || b.isNan) && (cc == .lt || cc == .le || cc == .gt || cc == .ge)) fNV =
      if cc = .lt ∨ cc = .le ∨ cc = .gt ∨ cc = .ge then fNV else 0 := by
    rw [show (a.isNan || b.isNan) = true by simpa using h]
    simp [flagIf, or_assoc]
  rw [fCmpFlags, hsig, hord, ite_or_ite]
  simp only [or_assoc]

/-- Settles O15: a predicate destination holds the condition, and only a NaN sets a flag. -/
theorem compareResults : Obligations.CompareResults := by
  refine ⟨fun o m s e hn ho => ⟨?icmp, ?itest⟩, ?fcmp⟩
  case icmp =>
    intro hb
    have hc : Computes (.icmp o m) o e .pred fun l => { val := (intCond m.cc (m.ity.val (e.a l)) (m.ity.val (e.b l))).toNat } :=
      ⟨rfl, _, rfl, rfl, rfl, rfl⟩
    refine hc.tests hb hn ho (fun l _ => ?_) fun _ _ => rfl
    rw [ne_eq, Bool.toNat_eq_zero, Bool.not_eq_false, intCond_iff]
    generalize m.cc = cc
    cases cc <;> exact Iff.rfl
  case itest =>
    intro hb hcc
    have hc : Computes (.itest o m) o e .pred fun l =>
        { val := (if m.cc == .eq then (e.a l &&& e.b l) % 2 ^ m.ity.width == 0
            else !((e.a l &&& e.b l) % 2 ^ m.ity.width == 0)).toNat } := ⟨rfl, _, rfl, rfl, rfl, rfl⟩
    refine hc.tests hb hn ho (fun l _ => ?_) fun _ _ => rfl
    rcases hcc with h | h <;> simp [h]
  case fcmp =>
    intro o m s e hn ho hb hnan
    have hc : Computes (.fcmp o m) o e .pred fun l =>
        { val := (Cc.holds m.cc ((m.fty.read (e.a l)).cmp (m.fty.read (e.b l)))).toNat,
          flags := fCmpFlags m.cc (m.fty.read (e.a l)) (m.fty.read (e.b l)) } := ⟨rfl, _, rfl, rfl, rfl, rfl⟩
    refine hc.tests hb hn ho (fun l hl => ?_) fun l hl => fCmpFlags_of_nan (hnan l hl) _
    rw [FVal.cmp_of_nan (hnan l hl), ← Cc.holds_none]
    simp

end Sys2Proof.Machine
end

section
/-! Logic, shifts, rotates, bit counts and moves on words (obligation O16). -/

namespace Sys2Proof.Machine

/-! ### Operations of the model as operations of 32-bit words (05 R120 to R122) -/

theorem ofNat_notW (x : W32) : BitVec.ofNat 32 (notW 32 x.toNat) = ~~~x := by
  refine BitVec.eq_of_toNat_eq ?_
  have hx := x.isLt
  rw [BitVec.toNat_not, BitVec.toNat_ofNat, notW, Nat.mod_eq_of_lt hx, Nat.mod_eq_of_lt (by omega)]

theorem ofNat_shl (x : W32) (n : Nat) : BitVec.ofNat 32 (if n ≥ 32 then 0 else x.toNat * 2 ^ n % 2 ^ 32) = x <<< n := by
  split
  · exact (BitVec.shiftLeft_eq_zero ‹_›).symm
  · refine BitVec.eq_of_toNat_eq ?_
    rw [BitVec.toNat_ofNat, Nat.mod_mod, BitVec.toNat_shiftLeft, Nat.shiftLeft_eq]

theorem ofNat_shr (x : W32) (n : Nat) : BitVec.ofNat 32 (if n ≥ 32 then 0 else x.toNat / 2 ^ n) = x >>> n := by
  split
  · exact (BitVec.ushiftRight_eq_zero ‹_›).symm
  · refine BitVec.eq_of_toNat_eq ?_
    rw [BitVec.toNat_ofNat, BitVec.toNat_ushiftRight, Nat.shiftRight_eq_div_pow,
      Nat.mod_eq_of_lt ((Nat.div_le_self _ _).trans_lt x.isLt)]

/-- A word read in S32 is its signed value. -/
theorem IntTy.val_s32 (x : W32) : IntTy.val .s32 x.toNat = x.toInt := by
  have hx := x.isLt
  rw [BitVec.toInt_eq_toNat_cond, IntTy.val]
  simp only [IntTy.width, IntTy.signed, Bool.true_and, decide_eq_true_eq, Nat.mod_eq_of_lt hx]
  split <;> split <;> omega

theorem ofNat_wrap_s32 (v : Int) : BitVec.ofNat 32 (IntTy.wrap .s32 v) = BitVec.ofInt 32 v := by
  refine BitVec.eq_of_toNat_eq ?_
  rw [BitVec.toNat_ofNat, BitVec.toNat_ofInt]
  exact IntTy.wrap_mod .s32 v

theorem ediv_of_abs_le {x d : Int} (hl : -d ≤ x) (hu : x < d) : x / d = if x < 0 then -1 else 0 := by
  split
  · exact ((Int.ediv_emod_unique (r := x + d) (by omega)).2 ⟨by omega, by omega, by omega⟩).1
  · exact Int.ediv_eq_zero_of_lt (by omega) hu

/-- Past 32 places a shift to the right gives copies of the sign. -/
theorem ofNat_shra (x : W32) (n : Nat) :
    BitVec.ofNat 32 (IntTy.wrap .s32 (IntTy.val .s32 x.toNat / 2 ^ min n 32)) = x.sshiftRight n := by
  have hdiv : x.toInt / 2 ^ min n 32 = x.toInt >>> n := by
    rw [Int.shiftRight_eq_div_pow]
    rcases Nat.le_total n 32 with hn | hn
    · rw [Nat.min_eq_left hn]
      norm_cast
    · have hl := x.le_toInt
      have hu := x.toInt_lt
      have hpow : (2 : Int) ^ 32 ≤ (2 ^ n : Nat) := by exact_mod_cast Nat.pow_le_pow_right (by omega) hn
      rw [Nat.min_eq_right hn, ediv_of_abs_le (by omega) (by omega), ediv_of_abs_le (by omega) (by omega)]
  rw [ofNat_wrap_s32, IntTy.val_s32, hdiv]
  rfl

theorem ofNat_rotl (x : W32) (n : Nat) : BitVec.ofNat 32 (rotl 32 x.toNat n) = x.rotateLeft n := by
  refine BitVec.eq_of_toNat_eq ?_
  have hr : n % 32 < 32 := Nat.mod_lt _ (by omega)
  rw [BitVec.toNat_ofNat, BitVec.toNat_rotateLeft, rotl, Nat.mod_mod]
  generalize n % 32 = r at hr
  have hpow : 2 ^ 32 = 2 ^ r * 2 ^ (32 - r) := by rw [← Nat.pow_add, Nat.add_sub_cancel' hr.le]
  have hhigh : x.toNat * 2 ^ r % 2 ^ 32 = 2 ^ r * (x.toNat % 2 ^ (32 - r)) := by
    rw [hpow, Nat.mul_comm, Nat.mul_mod_mul_left]
  have hlow : x.toNat / 2 ^ (32 - r) < 2 ^ r := Nat.div_lt_of_lt_mul (by rw [Nat.mul_comm, ← hpow]; exact x.isLt)
  have hsum : 2 ^ r * (x.toNat % 2 ^ (32 - r)) + x.toNat / 2 ^ (32 - r) < 2 ^ 32 := by
    have hq := Nat.mod_lt x.toNat (Nat.two_pow_pos (32 - r))
    calc _ < 2 ^ r * (x.toNat % 2 ^ (32 - r) + 1) := by rw [Nat.mul_succ]; omega
      _ ≤ 2 ^ 32 := hpow ▸ Nat.mul_le_mul_left _ hq
  rw [Nat.shiftLeft_eq, hhigh, Nat.shiftRight_eq_div_pow, ← Nat.two_pow_add_eq_or_of_lt hlow, ← Nat.mod_add_mod, hhigh,
    Nat.mod_eq_of_lt hsum]

theorem ofNat_rotr (x : W32) (n : Nat) : BitVec.ofNat 32 (rotl 32 x.toNat (32 - n % 32)) = x.rotateRight n := by
  have hr : n % 32 < 32 := Nat.mod_lt _ (by omega)
  rw [ofNat_rotl, BitVec.rotateLeft_def, BitVec.rotateRight_def]
  rcases Nat.eq_zero_or_pos (n % 32) with h | h
  · simp [h, BitVec.ushiftRight_eq_zero, BitVec.shiftLeft_eq_zero]
  · rw [Nat.mod_eq_of_lt (by omega : 32 - n % 32 < 32), Nat.sub_sub_self hr.le, BitVec.or_comm]

theorem bitList_eq (x : W32) : bitList 32 x.toNat = (List.range 32).map fun k => x.getLsbD k := by
  refine List.map_congr_left fun k _ => ?_
  rw [← BitVec.testBit_toNat, Nat.testBit_eq_decide_div_mod_eq]
  rfl

theorem length_bitList (x : W32) : ((bitList 32 x.toNat).filter id).length = ((List.range 32).filter fun k => x.getLsbD k).length := by
  rw [bitList_eq, List.filter_map, List.length_map]
  rfl

theorem testBit_ofBits (bs : List Bool) (i : Nat) : (ofBits bs).testBit i = bs.getD i false := by
  induction bs generalizing i with
  | nil => simp [ofBits]
  | cons b bs ih =>
    cases i with
    | zero => cases b <;> simp [ofBits, Nat.add_mod]
    | succ i =>
      rw [ofBits, Nat.testBit_succ, List.getD_cons_succ, ← ih i]
      congr 1
      cases b
      · simp
      · simp; omega

theorem ofNat_brev (x : W32) : BitVec.ofNat 32 (ofBits (bitList 32 x.toNat).reverse) = x.reverse := by
  refine BitVec.eq_of_getLsbD_eq fun i hi => ?_
  rw [BitVec.getLsbD_ofNat, testBit_ofBits, BitVec.getLsbD_reverse, bitList_eq, BitVec.getMsbD]
  simp [hi]

theorem ofNat_bswap (x : W32) : BitVec.ofNat 32 (bswap 32 x.toNat) =
    x.extractLsb' 0 8 ++ x.extractLsb' 8 8 ++ x.extractLsb' 16 8 ++ x.extractLsb' 24 8 := by
  have happ : ∀ {n : Nat} (u : BitVec n) (v : BitVec 8), (u ++ v).toNat = u.toNat * 2 ^ 8 + v.toNat := fun u v => by
    rw [BitVec.toNat_append, ← Nat.shiftLeft_add_eq_or_of_lt v.isLt, Nat.shiftLeft_eq]
  refine BitVec.eq_of_toNat_eq ?_
  have hx := x.isLt
  rw [happ, happ, happ, BitVec.toNat_ofNat]
  simp only [BitVec.extractLsb'_toNat, Nat.shiftRight_eq_div_pow, bswap, leBytes, leNat, List.reverse_cons, List.reverse_nil,
    List.nil_append, List.cons_append, BitVec.toNat_ofNat, Nat.div_div_eq_div_mul, Nat.reducePow, Nat.reduceMul]
  omega

/-! ### Instructions on N32 words -/

section

variable {i : Instr} {o : Ops} {s : State} {e : Env} {scl : Bool} {t : IntTy}

/-- The word that a source gives is its one element. -/
theorem elemOf_word (a : Nat) : elemOf 32 a 0 = (BitVec.ofNat 32 a).toNat := by simp [elemOf]

theorem Computes.givesBin {f : Nat → Nat → Nat} {v : W32 → W32 → W32}
    (hc : Computes i o e (.elem scl (.i t)) fun l => natBin t f (e.a l) (e.b l)) (ht : t = .n32) (hb : Begins i s e)
    (hn : NoShadow s) (hv : VecDst i o e) (hf : ∀ x y : W32, BitVec.ofNat 32 (f x.toNat y.toNat) = v x y) :
    Gives i o s e (fun l => v (BitVec.ofNat 32 (e.a l)) (BitVec.ofNat 32 (e.b l))) 0 := by
  subst ht
  refine hc.gives rfl hb hn hv (fun l _ => ?_) (fun l _ => by rw [natBin, perElem_single rfl]; rfl) (.inl rfl)
  rw [← hf, ← elemOf_word, ← elemOf_word, natBin, perElem_single rfl]
  exact BitVec.eq_of_toNat_eq (by simp [exact, Ty.width, IntTy.width])

theorem Computes.givesUn {f : Nat → Nat} {v : W32 → W32}
    (hc : Computes i o e (.elem scl (.i t)) fun l => natUn t f (e.a l)) (ht : t = .n32) (hb : Begins i s e) (hn : NoShadow s)
    (hv : VecDst i o e) (hf : ∀ x : W32, BitVec.ofNat 32 (f x.toNat) = v x) :
    Gives i o s e (fun l => v (BitVec.ofNat 32 (e.a l))) 0 :=
  Computes.givesBin (f := fun x _ => f x) (v := fun x _ => v x) hc ht hb hn hv fun x _ => hf x

theorem Computes.givesShift {f : Nat → Nat → Res} {v : W32 → Nat → W32}
    (hc : Computes i o e (.elem scl (.i t)) fun l => shiftOp t f (e.a l) (e.b l)) (ht : t = .n32) (hb : Begins i s e)
    (hn : NoShadow s) (hv : VecDst i o e)
    (hf : ∀ (x : W32) (n : Nat), BitVec.ofNat 32 (f x.toNat n).bits = v x n ∧ (f x.toNat n).flags = 0) :
    Gives i o s e (fun l => v (BitVec.ofNat 32 (e.a l)) (e.b l % 2 ^ 32)) 0 := by
  subst ht
  have hcount : ∀ b, countOf .n32 b 0 = b % 2 ^ 32 := fun b => by simp [countOf, elemOf, IntTy.width]
  have hone : ∀ l, shiftOp .n32 f (e.a l) (e.b l) =
      { val := (f (BitVec.ofNat 32 (e.a l)).toNat (e.b l % 2 ^ 32)).bits % 2 ^ 32,
        flags := (f (BitVec.ofNat 32 (e.a l)).toNat (e.b l % 2 ^ 32)).flags } := fun l => by
    rw [shiftOp, perElem_single rfl, hcount, ← elemOf_word]; rfl
  refine hc.gives rfl hb hn hv (fun l _ => ?_) (fun l _ => ?_) (.inl rfl)
  · rw [hone, ← (hf _ _).1]
    exact BitVec.eq_of_toNat_eq (by simp)
  · rw [hone]
    exact (hf _ _).2

end

/-- Settles O16: each operation on the model's numbers is that of 32-bit words. -/
theorem logicAndShiftResults : Obligations.LogicAndShiftResults := by
  intro o m s e hn ht hsat a b n
  have hw : m.ity.width = 32 := by rw [ht]; rfl
  refine ⟨?mov, ?and, ?or, ?xor, ?not, ?andn, ?orn, ?shl, ?shr, ?shra, ?rotl, ?rotr, ?popc, ?brev, ?bswap, ?sel⟩
  case mov =>
    exact fun hb hv => Computes.gives (t := .i m.ity) (f := fun l => { val := e.a l }) ⟨rfl, _, rfl, rfl, rfl, rfl⟩ hw hb hn hv
      (fun _ _ => rfl) (fun _ _ => rfl) (.inl rfl)
  case sel =>
    exact fun hb hv => Computes.gives (t := .i m.ity) (f := fun l =>
        { val := if (e.g.lane l).pred (m.opf.extractLsb' 12 3).toNat != m.opf.getLsbD 11 then e.a l else e.b l })
      ⟨rfl, _, rfl, rfl, rfl, rfl⟩ hw hb hn hv (fun _ _ => apply_ite (BitVec.ofNat 32) _ _ _) (fun _ _ => rfl) (.inl rfl)
  case and =>
    exact fun hb hv => Computes.givesBin (f := (· &&& ·)) ⟨rfl, _, rfl, rfl, rfl, rfl⟩ ht hb hn hv fun x y => by
      simp [BitVec.ofNat_and]
  case or =>
    exact fun hb hv => Computes.givesBin (f := (· ||| ·)) ⟨rfl, _, rfl, rfl, rfl, rfl⟩ ht hb hn hv fun x y => by
      simp [BitVec.ofNat_or]
  case xor =>
    exact fun hb hv => Computes.givesBin (f := (· ^^^ ·)) ⟨rfl, _, rfl, rfl, rfl, rfl⟩ ht hb hn hv fun x y => by
      simp [BitVec.ofNat_xor]
  case not =>
    exact fun hb hv => Computes.givesUn (f := notW m.ity.width) ⟨rfl, _, rfl, rfl, rfl, rfl⟩ ht hb hn hv fun x => by
      rw [hw, ofNat_notW]
  case andn =>
    exact fun hb hv => Computes.givesBin (f := fun x y => x &&& notW m.ity.width y) (v := fun x y => x &&& ~~~y)
      ⟨rfl, _, rfl, rfl, rfl, rfl⟩ ht hb hn hv fun x y => by
        rw [hw, BitVec.ofNat_and, ofNat_notW, BitVec.ofNat_toNat, BitVec.setWidth_eq]
  case orn =>
    exact fun hb hv => Computes.givesBin (f := fun x y => x ||| notW m.ity.width y) (v := fun x y => x ||| ~~~y)
      ⟨rfl, _, rfl, rfl, rfl, rfl⟩ ht hb hn hv fun x y => by
        rw [hw, BitVec.ofNat_or, ofNat_notW, BitVec.ofNat_toNat, BitVec.setWidth_eq]
  case shl =>
    exact fun hb hv => Computes.givesShift (f := fun x n => if m.sat then m.ity.deliver true (m.ity.val x * 2 ^ min n 128)
        else exact (if n ≥ m.ity.width then 0 else x * 2 ^ n % 2 ^ m.ity.width)) ⟨rfl, _, rfl, rfl, rfl, rfl⟩ ht hb hn hv
      fun x k => by rw [hsat, hw]; exact ⟨ofNat_shl x k, rfl⟩
  case shr =>
    exact fun hb hv => Computes.givesShift (f := fun x n => exact (if n ≥ m.ity.width then 0 else x / 2 ^ n))
      ⟨rfl, _, rfl, rfl, rfl, rfl⟩ ht hb hn hv fun x k => by rw [hw]; exact ⟨ofNat_shr x k, rfl⟩
  case shra =>
    exact fun hb hv => Computes.givesShift
      (f := fun x n => exactInt (IntTy.asSigned m.ity) (IntTy.val (IntTy.asSigned m.ity) x / 2 ^ min n (IntTy.asSigned m.ity).width))
      ⟨rfl, _, rfl, rfl, rfl, rfl⟩ ht hb hn hv fun x k => by rw [ht]; exact ⟨ofNat_shra x k, rfl⟩
  case rotl =>
    exact fun hb hv => Computes.givesShift (f := fun x n => exact (rotl m.ity.width x n)) ⟨rfl, _, rfl, rfl, rfl, rfl⟩ ht hb hn hv
      fun x k => by rw [hw]; exact ⟨ofNat_rotl x k, rfl⟩
  case rotr =>
    exact fun hb hv => Computes.givesShift (f := fun x n => exact (rotl m.ity.width x (m.ity.width - n % m.ity.width)))
      ⟨rfl, _, rfl, rfl, rfl, rfl⟩ ht hb hn hv fun x k => by rw [hw]; exact ⟨ofNat_rotr x k, rfl⟩
  case popc =>
    exact fun hb hv => Computes.givesUn (f := fun x => ((bitList m.ity.width x).filter id).length)
      (v := fun x => BitVec.ofNat 32 ((List.range 32).filter fun k => x.getLsbD k).length)
      ⟨rfl, _, rfl, rfl, rfl, rfl⟩ ht hb hn hv fun x => by rw [hw, length_bitList]
  case brev =>
    exact fun hb hv => Computes.givesUn (f := fun x => ofBits (bitList m.ity.width x).reverse)
      ⟨rfl, _, rfl, rfl, rfl, rfl⟩ ht hb hn hv fun x => by rw [hw, ofNat_brev]
  case bswap =>
    exact fun hb hv => Computes.givesUn (f := bswap m.ity.width) (v := fun x =>
        x.extractLsb' 0 8 ++ x.extractLsb' 8 8 ++ x.extractLsb' 16 8 ++ x.extractLsb' 24 8)
      ⟨rfl, _, rfl, rfl, rfl, rfl⟩ ht hb hn hv fun x => by rw [hw, ofNat_bswap]

end Sys2Proof.Machine
end

section
/-! Floating-point results on F32: signs, minimum and maximum, NaNs, and the fixed inputs of the special functions (obligations
O17 and O18). -/

namespace Sys2Proof.Machine

/-! ### Instructions on F32 words -/

section

variable {i : Instr} {o : Ops} {s : State} {e : Env} {scl : Bool} {t : FloatTy}

theorem fBin_word (f : Nat → Nat → Res) (a b : Nat) : fBin .f32 f a b =
    { val := (f (BitVec.ofNat 32 a).toNat (BitVec.ofNat 32 b).toNat).bits % 2 ^ 32,
      flags := (f (BitVec.ofNat 32 a).toNat (BitVec.ofNat 32 b).toNat).flags } := by
  rw [fBin, perElem_single rfl, ← elemOf_word, ← elemOf_word]
  rfl

/-- Each active lane's register holds the result of its words. -/
theorem Computes.floatBin {f : Nat → Nat → Res} (hc : Computes i o e (.elem scl (.f t)) fun l => fBin t f (e.a l) (e.b l))
    (ht : t = .f32) (hb : Begins i s e) (hn : NoShadow s) (hv : VecDst i o e) :
    ∃ g', Leaves i s e g' ∧ ∀ l ∈ e.act,
      g'.vr o.dst.toNat l = BitVec.ofNat 32 (f (BitVec.ofNat 32 (e.a l)).toNat (BitVec.ofNat 32 (e.b l)).toNat).bits := by
  subst ht
  obtain ⟨g', hg', hval, -⟩ := hc.word rfl hb hn hv
  refine ⟨g', hg', fun l hl => (hval l hl).trans (BitVec.eq_of_toNat_eq ?_)⟩
  rw [fBin_word]
  simp

theorem Computes.givesFloat {f : Nat → Nat → Res} {r : Nat → W32} {fl : W32}
    (hc : Computes i o e (.elem scl (.f t)) fun l => fBin t f (e.a l) (e.b l)) (ht : t = .f32) (hb : Begins i s e)
    (hn : NoShadow s) (hv : VecDst i o e)
    (hf : ∀ l ∈ e.act, BitVec.ofNat 32 (f (BitVec.ofNat 32 (e.a l)).toNat (BitVec.ofNat 32 (e.b l)).toNat).bits = r l ∧
      (f (BitVec.ofNat 32 (e.a l)).toNat (BitVec.ofNat 32 (e.b l)).toNat).flags = fl) (hne : fl = 0 ∨ e.act ≠ []) :
    Gives i o s e r fl := by
  subst ht
  refine hc.gives rfl hb hn hv (fun l hl => ?_) (fun l hl => ?_) hne
  · rw [fBin_word, ← (hf l hl).1]
    exact BitVec.eq_of_toNat_eq (by simp)
  · rw [fBin_word, ← (hf l hl).2]

end

/-! ### Signs (05 R124) -/

theorem ofNat_mod_sign (x : W32) : BitVec.ofNat 32 (x.toNat % 2 ^ 31) = x &&& 0x7FFFFFFF#32 := by
  refine BitVec.eq_of_toNat_eq ?_
  have h : (0x7FFFFFFF#32).toNat = 2 ^ 31 - 1 := rfl
  rw [BitVec.toNat_and, h, Nat.and_two_pow_sub_one_eq_mod, BitVec.toNat_ofNat]
  omega

theorem ofNat_add_sign (x : W32) : BitVec.ofNat 32 ((x.toNat + 2 ^ 31) % 2 ^ 32) = x ^^^ 0x80000000#32 := by
  refine BitVec.eq_of_toNat_eq ?_
  have hx := x.isLt
  have hhigh : (x.toNat ^^^ 2 ^ 31) / 2 ^ 31 = x.toNat / 2 ^ 31 ^^^ 1 := Nat.xor_div_two_pow
  have hlow : (x.toNat ^^^ 2 ^ 31) % 2 ^ 31 = x.toNat % 2 ^ 31 := Nat.xor_mod_two_pow.trans (Nat.xor_zero _)
  have hbit : x.toNat / 2 ^ 31 ^^^ 1 = 1 - x.toNat / 2 ^ 31 := by
    have : x.toNat / 2 ^ 31 < 2 := by omega
    interval_cases x.toNat / 2 ^ 31 <;> rfl
  rw [BitVec.toNat_xor, BitVec.toNat_ofNat, show (0x80000000#32).toNat = 2 ^ 31 from rfl]
  omega

theorem and_signBit (x : W32) : x &&& 0x80000000#32 = if x.msb then 0x80000000#32 else 0 := by
  refine BitVec.eq_of_toNat_eq ?_
  rw [BitVec.toNat_and, show (0x80000000#32).toNat = 2 ^ 31 from rfl, Nat.and_two_pow, BitVec.testBit_toNat,
    BitVec.msb_eq_getLsbD_last]
  cases x.getLsbD (32 - 1) <;> rfl

theorem ofNat_copy_sign (x y : W32) :
    BitVec.ofNat 32 (x.toNat % 2 ^ 31 + y.toNat / 2 ^ 31 * 2 ^ 31) = (x &&& 0x7FFFFFFF#32) ||| (y &&& 0x80000000#32) := by
  have hy := y.isLt
  have hsign : BitVec.ofNat 32 (y.toNat / 2 ^ 31 * 2 ^ 31) = y &&& 0x80000000#32 := by
    rw [and_signBit, BitVec.msb_eq_decide]
    rcases (by omega : y.toNat / 2 ^ 31 = 0 ∨ y.toNat / 2 ^ 31 = 1) with h | h
    · rw [h, decide_eq_false (by omega)]; rfl
    · rw [h, decide_eq_true (by omega)]; rfl
  rw [← ofNat_mod_sign, ← hsign, ← BitVec.ofNat_or, Nat.or_comm, Nat.mul_comm,
    ← Nat.two_pow_add_eq_or_of_lt (Nat.mod_lt _ (Nat.two_pow_pos 31)), Nat.add_comm]

/-! ### NaN operands (04 R79, 05 R124, R125) -/

theorem FloatTy.read_word (a : Nat) : FloatTy.f32.read (BitVec.ofNat 32 a).toNat = FloatTy.f32.read a := by
  have hmod : (BitVec.ofNat 32 a).toNat % 2 ^ 32 = a % 2 ^ 32 := by simp
  unfold FloatTy.read
  rw [show FloatTy.f32.width = 32 from rfl, hmod]

theorem FVal.isNan_neg (v : FVal) : v.neg.isNan = v.isNan := by cases v <;> rfl

theorem exactSum_of_nan (rm : Rm) {xs : List FVal} (h : xs.any FVal.isNan = true) : (exactSum rm xs).1 = .nan false := by
  unfold exactSum
  dsimp only
  rw [if_pos h]
  split <;> rfl

theorem FVal.mul_of_nan {a b : FVal} (h : a.isNan = true ∨ b.isNan = true) : (a.mul b).1 = .nan false := by
  cases a <;> cases b <;> simp [FVal.isNan, FVal.mul, FVal.mul?] at h ⊢

/-- A NaN result is canonical. -/
theorem roundWith_of_nan {t : FloatTy} {rm : Rm} {sat : Bool} {v : FVal × W32} (h : v.1 = .nan false) (fl : W32) :
    (roundWith t rm sat v fl).bits = t.canon := by
  rw [roundWith, h]; rfl

theorem fMinMax_bits (t : FloatTy) (mx : Bool) (x y : Nat) : (fMinMax t mx x y).bits =
    if (t.read x).isNan = true then (if (t.read y).isNan = true then t.canon else y)
    else if (t.read y).isNan = true then x else fPick t mx x y := by
  unfold fMinMax
  cases (t.read x).isNan <;> cases (t.read y).isNan <;> rfl

theorem fMinMaxM_of_nan {t : FloatTy} {x y : Nat} (h : (t.read x).isNan = true ∨ (t.read y).isNan = true) (mx : Bool) :
    (fMinMaxM t mx x y).bits = t.canon := by
  simp only [fMinMaxM, Bool.or_eq_true, h, if_true]

/-- Settles O17, by what each operation does with the sign bit and with a NaN. -/
theorem floatSignAndMinimumResults : Obligations.FloatSignAndMinimumResults := by
  intro o m s e hn ht a b nanA nanB
  refine ⟨?fabs, ?fneg, ?fcsgn, ?minMax, ?canonical⟩
  case fabs =>
    exact fun hb hv => Computes.givesFloat (f := fun x _ => exact (x % m.fty.signBit)) ⟨rfl, _, rfl, rfl, rfl, rfl⟩ ht hb hn hv
      (fun l _ => by rw [ht]; exact ⟨ofNat_mod_sign _, rfl⟩) (.inl rfl)
  case fneg =>
    exact fun hb hv => Computes.givesFloat (f := fun x _ => exact ((x + m.fty.signBit) % 2 ^ m.fty.width))
      ⟨rfl, _, rfl, rfl, rfl, rfl⟩ ht hb hn hv (fun l _ => by rw [ht]; exact ⟨ofNat_add_sign _, rfl⟩) (.inl rfl)
  case fcsgn =>
    exact fun hb hv => Computes.givesFloat (f := fun x y => exact (x % m.fty.signBit + y / m.fty.signBit * m.fty.signBit))
      ⟨rfl, _, rfl, rfl, rfl, rfl⟩ ht hb hn hv (fun l _ => by rw [ht]; exact ⟨ofNat_copy_sign _ _, rfl⟩) (.inl rfl)
  case minMax =>
    intro i hi hb hv
    have hc : ∃ mx, Computes i o e (.elem m.scl (.f m.fty)) fun l => fBin m.fty (fMinMax m.fty mx) (e.a l) (e.b l) := by
      simp only [List.mem_cons, List.not_mem_nil, or_false] at hi
      rcases hi with rfl | rfl
      · exact ⟨false, rfl, _, rfl, rfl, rfl, rfl⟩
      · exact ⟨true, rfl, _, rfl, rfl, rfl, rfl⟩
    obtain ⟨mx, hc⟩ := hc
    obtain ⟨g', hg', hval⟩ := hc.floatBin ht hb hn hv
    refine ⟨g', hg', fun l hl => ?_⟩
    rw [hval l hl, ht, fMinMax_bits, FloatTy.read_word, FloatTy.read_word]
    refine ⟨fun hx hy => ?_, fun hx hy => ?_, fun hx hy => ?_⟩
    · rw [if_pos hx, if_neg hy, BitVec.ofNat_toNat, BitVec.setWidth_eq]
    · rw [if_neg hx, if_pos hy, BitVec.ofNat_toNat, BitVec.setWidth_eq]
    · rw [if_pos hx, if_pos hy]; rfl
  case canonical =>
    intro i hi hb hv
    have hc : ∃ f : Nat → Nat → Res, Computes i o e (.elem m.scl (.f m.fty)) (fun l => fBin m.fty f (e.a l) (e.b l)) ∧
        ∀ x y, (m.fty.read x).isNan = true ∨ (m.fty.read y).isNan = true → (f x y).bits = m.fty.canon := by
      simp only [List.mem_cons, List.not_mem_nil, or_false] at hi
      rcases hi with rfl | rfl | rfl | rfl | rfl
      · exact ⟨fMinMaxM m.fty false, ⟨rfl, _, rfl, rfl, rfl, rfl⟩, fun _ _ h => fMinMaxM_of_nan h _⟩
      · exact ⟨fMinMaxM m.fty true, ⟨rfl, _, rfl, rfl, rfl, rfl⟩, fun _ _ h => fMinMaxM_of_nan h _⟩
      · exact ⟨fun x y => fAdd m.fty m.rm m.sat (m.fty.read x) (m.fty.read y), ⟨rfl, _, rfl, rfl, rfl, rfl⟩, fun x y h =>
          roundWith_of_nan (exactSum_of_nan _ (by simpa using h)) _⟩
      · exact ⟨fun x y => fAdd m.fty m.rm m.sat (m.fty.read x) (m.fty.read y).neg, ⟨rfl, _, rfl, rfl, rfl, rfl⟩, fun x y h =>
          roundWith_of_nan (exactSum_of_nan _ (by simpa [FVal.isNan_neg] using h)) _⟩
      · exact ⟨fun x y => fMul m.fty m.rm m.sat (m.fty.read x) (m.fty.read y), ⟨rfl, _, rfl, rfl, rfl, rfl⟩, fun x y h =>
          roundWith_of_nan (FVal.mul_of_nan h) _⟩
    obtain ⟨f, hc, hcanon⟩ := hc
    obtain ⟨g', hg', hval⟩ := hc.floatBin ht hb hn hv
    refine ⟨g', hg', fun l hl hnan => ?_⟩
    rw [hval l hl, hcanon _ _ (by rw [ht, FloatTy.read_word, FloatTy.read_word]; exact hnan), ht]
    rfl

/-! ### Special functions at zeros, infinities and NaNs (05 R132, Table 10) -/

/-- No NaN is flushed. -/
theorem flush_of_nan {x : Nat} (h : (FloatTy.f32.read x).isNan = true) (fast : Bool) : flush .f32 fast x = (x, 0) := by
  have hsub : FloatTy.f32.isSub x = false := by
    by_contra hs
    simp only [FloatTy.isSub, FloatTy.mbits, FloatTy.ebits, Bool.not_eq_false, Bool.and_eq_true, beq_iff_eq] at hs
    have hexp : x % 2 ^ 32 / 2 ^ 23 % 2 ^ 8 = 0 := by omega
    unfold FloatTy.read at h
    simp only [FloatTy.width, FloatTy.mbits, FloatTy.ebits, hexp] at h
    exact absurd h Bool.false_ne_true
  simp [flush, hsub]

theorem specialElem_of_nan {x : Nat} (h : (FloatTy.f32.read x).isNan = true) (f : SpecialFn) (fast : Bool) :
    (specialElem f .f32 fast x).bits = FloatTy.f32.canon := by
  unfold specialElem
  rw [flush_of_nan h]
  dsimp only
  cases hr : FloatTy.f32.read x with
  | nan sg => rfl
  | inf n => simp [hr, FVal.isNan] at h
  | fin n m e st => simp [hr, FVal.isNan] at h

theorem Res.orFlags_zero (r : Res) : Res.orFlags r 0 = r := by simp [Res.orFlags]

theorem specialElem_zero (f : SpecialFn) (fast neg : Bool) {r : Res} (h : fixedAtZero f .f32 neg = some r) :
    specialElem f .f32 fast (signed .f32 neg 0) = r := by
  have hread : FloatTy.f32.read (signed .f32 neg 0) = .fin neg 0 FloatTy.f32.qmin false := by cases neg <;> rfl
  have hflush : flush .f32 fast (signed .f32 neg 0) = (signed .f32 neg 0, 0) := by cases neg <;> cases fast <;> rfl
  unfold specialElem
  simp only [hflush, hread, h, if_true, Option.getD_some, Res.orFlags_zero]

theorem specialElem_inf (f : SpecialFn) (fast neg : Bool) {r : Res} (h : fixedAtInf f .f32 neg = some r) :
    specialElem f .f32 fast (signed .f32 neg 0x7F800000) = r := by
  have hread : FloatTy.f32.read (signed .f32 neg 0x7F800000) = .inf neg := by cases neg <;> rfl
  have hflush : flush .f32 fast (signed .f32 neg 0x7F800000) = (signed .f32 neg 0x7F800000, 0) := by
    cases neg <;> cases fast <;> rfl
  unfold specialElem
  simp only [hflush, hread, h, Option.getD_some, Res.orFlags_zero]

/-- A word is its sign and its magnitude. -/
theorem toNat_eq_signed {x c : W32} (h : x &&& 0x7FFFFFFF#32 = c) : x.toNat = signed .f32 x.msb c.toNat := by
  have hx := x.isLt
  have hc : c.toNat = x.toNat % 2 ^ 31 := by
    rw [← h, ← ofNat_mod_sign, BitVec.toNat_ofNat]
    omega
  rw [signed, BitVec.msb_eq_decide, hc, show FloatTy.signBit .f32 = 2 ^ 31 from rfl]
  simp only [decide_eq_true_eq]
  split <;> omega

/-- A zero is delivered as it is. -/
theorem fixedZero_word {x : W32} (h : x &&& 0x7FFFFFFF#32 = 0) : fixedZero .f32 x.msb = some ⟨x.toNat, 0⟩ := by
  rw [toNat_eq_signed h]
  rfl

/-- One of a sign. -/
theorem fixedInt_word (x : W32) :
    fixedInt .f32 (if x.msb then -1 else 1) = some ⟨(0x3F800000#32 ||| (x &&& 0x80000000#32)).toNat, 0⟩ := by
  rw [and_signBit]
  cases x.msb <;> rfl

section

variable {i : Instr} {o : Ops} {s : State} {e : Env} {scl fast : Bool} {t : FloatTy} {f : SpecialFn} {r : Nat → W32} {fl : W32}

/-- Where every active lane's operand has the magnitude `c`, the result is the one that Table 10 fixes. -/
theorem Computes.givesFixed {fix : Bool → Option Res} (c : W32)
    (hc : Computes i o e (.elem scl (.f t)) fun l => fUn t (specialElem f t fast) (e.a l)) (ht : t = .f32) (hn : NoShadow s)
    (hact : e.act ≠ []) (hfix : ∀ neg q, fix neg = some q → specialElem f .f32 fast (signed .f32 neg c.toNat) = q)
    (hb : Begins i s e) (hv : VecDst i o e) (hmag : ∀ l ∈ e.act, BitVec.ofNat 32 (e.a l) &&& 0x7FFFFFFF#32 = c)
    (hr : ∀ l ∈ e.act, fix (BitVec.ofNat 32 (e.a l)).msb = some ⟨(r l).toNat, fl⟩) : Gives i o s e r fl := by
  refine Computes.givesFloat (f := fun x _ => specialElem f t fast x) hc ht hb hn hv (fun l hl => ?_) (.inr hact)
  rw [ht, toNat_eq_signed (hmag l hl), hfix _ _ (hr l hl)]
  exact ⟨by simp, rfl⟩

end

/-- Settles O18: a NaN is never flushed, and zeros and infinities are the fixed inputs of Table 10. -/
theorem specialFunctionFixedInputs : Obligations.SpecialFunctionFixedInputs := by
  intro o m s e hn ht hact a isZero isInf at_
  refine ⟨?nan, ?exp2, ?exp, ?cos, ?sin, ?tanh, ?erf, ?gelu, ?rcp, ?log2, ?log, ?sinInf, ?cosInf, ?tanhInf⟩
  case nan =>
    intro i hi hb hv
    have hc : ∃ f, Computes i o e (.elem m.scl (.f m.fty)) fun l => fUn m.fty (specialElem f m.fty m.fast) (e.a l) := by
      simp only [List.mem_cons, List.not_mem_nil, or_false] at hi
      rcases hi with rfl | rfl | rfl | rfl | rfl | rfl | rfl | rfl | rfl | rfl | rfl | rfl | rfl | rfl <;>
        exact ⟨_, rfl, _, rfl, rfl, rfl, rfl⟩
    obtain ⟨f, hc⟩ := hc
    obtain ⟨g', hg', hval⟩ := Computes.floatBin (f := fun x _ => specialElem f m.fty m.fast x) hc ht hb hn hv
    refine ⟨g', hg', fun l hl hnan => ?_⟩
    rw [hval l hl, ht, specialElem_of_nan (by rw [FloatTy.read_word]; exact hnan)]
    rfl
  case exp2 | exp | cos | log2 | log =>
    exact fun hb hv hz => Computes.givesFixed 0 ⟨rfl, _, rfl, rfl, rfl, rfl⟩ ht hn hact
      (fun _ _ => specialElem_zero _ _ _) hb hv hz fun _ _ => rfl
  case sin | tanh | erf | gelu =>
    exact fun hb hv hz => Computes.givesFixed 0 ⟨rfl, _, rfl, rfl, rfl, rfl⟩ ht hn hact
      (fun _ _ => specialElem_zero _ _ _) hb hv hz fun l hl => fixedZero_word (hz l hl)
  case rcp =>
    intro hb hv hz
    have hzero : ∀ l ∈ e.act, BitVec.ofNat 32 (e.a l) = 0 := hz
    exact Computes.givesFixed 0 ⟨rfl, _, rfl, rfl, rfl, rfl⟩ ht hn hact (fun _ _ => specialElem_zero _ _ _) hb hv
      (fun l hl => by rw [hzero l hl]; rfl) fun l hl => by rw [hzero l hl]; rfl
  case sinInf | cosInf =>
    exact fun hb hv hz => Computes.givesFixed 0x7F800000#32 ⟨rfl, _, rfl, rfl, rfl, rfl⟩ ht hn hact
      (fun _ _ => specialElem_inf _ _ _) hb hv hz fun _ _ => rfl
  case tanhInf =>
    exact fun hb hv hz => Computes.givesFixed 0x7F800000#32 ⟨rfl, _, rfl, rfl, rfl, rfl⟩ ht hn hact
      (fun _ _ => specialElem_inf _ _ _) hb hv hz fun _ _ => fixedInt_word _

end Sys2Proof.Machine
end

section
/-! What the instructions of the matrix path share: how they begin, their checks, elements of accumulator tiles, and the bytes of
operand buffers and of local memory (obligations O46, O47 and O48). -/

namespace Sys2Proof.Machine

/-! ### How they begin (02 R32, 06 Table 6) -/

theorem exec_of_issue1 {i : Instr} {o : Ops} {s : State} {e : Env} {k : Env → Out} (he : exec i s = issue1 .all o i.sig s k)
    (hn : needs i = .all) (hl : i.len = o.len) (hp : partsAt s i = [{ o := o, sg := i.sig }]) (hb : Begins i s e) :
    exec i s = k e := by
  rw [he, issue1, ← hn, ← hl, ← hp, issue_of_begins hb]

/-- A group-level instruction of the matrix path runs where a lane is active and no FENCEX holds the path. -/
theorem Env.matrix_of_free {e : Env} (ha : e.act ≠ []) (hf : e.s.fenced e.g.team 4 = false) (k : Unit → Out) :
    e.matrix k = k () := by
  rw [Env.matrix, Env.once, if_neg (by simpa using ha), Env.pathFree_of_free hf]

theorem exec_of_matrix {i : Instr} {o : Ops} {s : State} {e : Env} {k : Env → Out}
    (he : exec i s = issue1 .all o i.sig s fun e => e.matrix fun _ => k e) (hn : needs i = .all) (hl : i.len = o.len)
    (hp : partsAt s i = [{ o := o, sg := i.sig }]) (hb : BeginsActive i s e) (hf : s.fenced e.g.team 4 = false) :
    exec i s = k e := by
  obtain ⟨hb, ha⟩ := hb
  rw [exec_of_issue1 he hn hl hp hb, Env.matrix_of_free ha (by rw [hb.env_s]; exact hf)]

@[simp] theorem badIf_eq_none {c : Bool} {a b : Nat} : badIf c a b = none ↔ c = false := by cases c <;> simp [badIf]

theorem Env.must_of_pass {e : Env} {l : List (Option Bad)} (h : ∀ x ∈ l, x = none) (k : Unit → Out) : e.must l k = k () := by
  have hl : firstBad l = none := List.findSome?_eq_none_iff.2 h
  rw [Env.must, hl]

theorem Env.must_of_first {e : Env} {x : Option Bad} {b : Bad} (h : x = some b) (l : List (Option Bad)) (k : Unit → Out) :
    e.must (x :: l) k = e.trapAux b.cause b.detail e.first (BitVec.ofNat 64 b.addr) (BitVec.ofNat 64 b.aux) := by
  rw [h]; rfl

theorem State.lmRange_eq_none {s : State} {team a n : Nat} : s.lmRange team a n = none ↔ a + n ≤ s.lmSize team := by
  simp only [State.lmRange]
  split <;> simp <;> omega

theorem State.lmSize_of_team {s : State} {team : Nat} {x : Team} (h : Tab.get? s.teams team = some x) :
    s.lmSize team = x.lmSize := by simp [State.lmSize, h]

/-! ### Shadow units with nothing pending (04 R104) -/

theorem Env.arrayCheck_of_noShadow {e : Env} (h : e.s.shadow = 0) (c : Cells) (unit : Nat)
    (see : Nat → Nat → Nat → Shadowed) (k : State → W32 → Out) : e.arrayCheck c unit see k = k e.s 0 := by
  have hp : e.s.passed e.g.core = e.s := by simp [State.passed, h]
  have hr : e.s.retryFlag = 0 := by simp [State.retryFlag, h, flagIf]
  rw [Env.arrayCheck, if_pos (.inl (by omega)), hp, hr]

theorem Env.outCheck_of_noShadow {e : Env} (h : e.s.shadow = 0) (m : ModX) (c : Cells) (k : State → W32 → Out) :
    e.outCheck m c k = k e.s 0 := by
  unfold Env.outCheck
  split
  · exact Env.arrayCheck_of_noShadow h _ _ _ _
  · rfl

/-! ### Entries written one after another -/

/-- An entry that no write of a row names reads as before. -/
theorem Tab.read_foldl_write_out {α γ : Type} [DecidableEq α] (d : α) (key : γ → Nat) (val : γ → α) (ls : List γ) (t : Tab α)
    {y : Nat} (h : ∀ x ∈ ls, y ≠ key x) :
    Tab.read d (ls.foldl (fun t x => Tab.write d t (key x) (val x)) t) y = Tab.read d t y := by
  induction ls generalizing t with
  | nil => rfl
  | cons x ls ih =>
    rw [List.foldl_cons, ih _ fun z hz => h z (List.mem_cons_of_mem _ hz), Tab.read_write_ne _ _ _ (h x List.mem_cons_self)]

/-- An entry that some write names, all that name it writing one value, reads as that value. -/
theorem Tab.read_foldl_write_in {α γ : Type} [DecidableEq α] (d : α) (key : γ → Nat) (val : γ → α) {ls : List γ} (t : Tab α)
    {y : γ} (hy : y ∈ ls) (h : ∀ x ∈ ls, key x = key y → val x = val y) :
    Tab.read d (ls.foldl (fun t x => Tab.write d t (key x) (val x)) t) (key y) = val y := by
  induction ls generalizing t y with
  | nil => cases hy
  | cons x ls ih =>
    rw [List.foldl_cons]
    by_cases hin : ∃ z ∈ ls, key z = key y
    · obtain ⟨z, hz, hkey⟩ := hin
      have hval := h z (List.mem_cons_of_mem _ hz) hkey
      rw [← hkey, ← hval]
      exact ih _ hz fun w hw hk => (h w (List.mem_cons_of_mem _ hw) (hk.trans hkey)).trans hval.symm
    · have hx : x = y ∨ y ∈ ls := by simpa [eq_comm] using hy
      obtain rfl : x = y := hx.resolve_right fun hm => hin ⟨y, hm, rfl⟩
      rw [Tab.read_foldl_write_out d key val ls _ fun z hz hk => hin ⟨z, hz, hk.symm⟩, Tab.read_write_self]

/-! ### Elements of accumulator tiles (06 R138, R139) -/

/-- Row and column of an element lie below 64, so its key names tile, row and column. -/
theorem accKey_inj {core t t' j j' k k' : Nat} (hj : j < 64) (hj' : j' < 64) (hk : k < 64) (hk' : k' < 64)
    (h : accKey core t j k = accKey core t' j' k') : t = t' ∧ j = j' ∧ k = k' := by
  unfold accKey at h
  omega

theorem descM_le (d : Nat) : descM d ≤ 64 := Nat.mod_lt _ (by decide)
theorem descN_le (d : Nat) : descN d ≤ 64 := Nat.mod_lt _ (by decide)

theorem mem_tileRegion {m n : Nat} {x : Nat × Nat} : x ∈ tileRegion m n ↔ x.1 < m ∧ x.2 < n := by
  simp only [tileRegion, List.mem_flatMap, List.mem_map, List.mem_range]
  constructor
  · rintro ⟨i, hi, j, hj, rfl⟩
    exact ⟨hi, hj⟩
  · rintro ⟨hi, hj⟩
    exact ⟨x.1, hi, x.2, hj, rfl⟩

/-- Elements written one after another are writes of accumulator memory alone. -/
theorem State.foldl_setElem {γ : Type} (core : Nat) (el : γ → Nat × Nat × Nat) (v : γ → W32) (ls : List γ) (s : State) :
    ∃ b, ls.foldl (fun s x => s.setElem core (el x).1 (el x).2.1 (el x).2.2 (v x)) s =
      { s with acc := ls.foldl (fun t x => Tab.write 0 t (accKey core (el x).1 (el x).2.1 (el x).2.2) (v x)) s.acc, accBad := b } := by
  induction ls generalizing s with
  | nil => exact ⟨s.accBad, rfl⟩
  | cons x ls ih =>
    obtain ⟨b, hb⟩ := ih (s.setElem core (el x).1 (el x).2.1 (el x).2.2 (v x))
    exact ⟨b, by simp only [List.foldl_cons, hb]; rfl⟩

/-- What writing a region of a tile does to accumulator memory. -/
def accCells (core tile : Nat) (c : Cells) (t : Tab W32) : Tab W32 :=
  c.foldl (fun t x => Tab.write 0 t (accKey core tile x.1 x.2.1) (BitVec.ofNat 32 x.2.2.bits)) t

theorem State.setCells_eq (s : State) (core tile : Nat) (c : Cells) :
    ∃ b, s.setCells core tile c = { s with acc := accCells core tile c s.acc, accBad := b } :=
  State.foldl_setElem core (fun x : Nat × Nat × Res => (tile, x.1, x.2.1)) (fun x => BitVec.ofNat 32 x.2.2.bits) c s

theorem accCells_out {core tile y : Nat} {c : Cells} (t : Tab W32) (h : ∀ x ∈ c, y ≠ accKey core tile x.1 x.2.1) :
    Tab.read 0 (accCells core tile c t) y = Tab.read 0 t y := Tab.read_foldl_write_out _ _ _ _ _ h

/-- The results of a function over the first `m` rows and `n` columns. -/
def cellsOf (m n : Nat) (f : Nat → Nat → Res) : Cells := (tileRegion m n).map fun x => (x.1, x.2, f x.1 x.2)

theorem mem_cellsOf {m n : Nat} {f : Nat → Nat → Res} {x : Nat × Nat × Res} :
    x ∈ cellsOf m n f ↔ x.1 < m ∧ x.2.1 < n ∧ x.2.2 = f x.1 x.2.1 := by
  simp only [cellsOf, List.mem_map, mem_tileRegion]
  constructor
  · rintro ⟨y, ⟨hj, hk⟩, rfl⟩
    exact ⟨hj, hk, rfl⟩
  · rintro ⟨hj, hk, hf⟩
    exact ⟨(x.1, x.2.1), ⟨hj, hk⟩, by simp [← hf]⟩

/-- An element of a region that is written reads as its result. -/
theorem accCells_in {m n j k : Nat} (core tile : Nat) (f : Nat → Nat → Res) (t : Tab W32) (hm : m ≤ 64) (hn : n ≤ 64) (hj : j < m)
    (hk : k < n) : Tab.read 0 (accCells core tile (cellsOf m n f) t) (accKey core tile j k) = BitVec.ofNat 32 (f j k).bits := by
  refine Tab.read_foldl_write_in 0 (fun x : Nat × Nat × Res => accKey core tile x.1 x.2.1) (fun x => BitVec.ofNat 32 x.2.2.bits) t
    (y := (j, k, f j k)) (mem_cellsOf.2 ⟨hj, hk, rfl⟩) fun x hx hkey => ?_
  obtain ⟨hxj, hxk, hxf⟩ := mem_cellsOf.1 hx
  obtain ⟨-, h1, h2⟩ := accKey_inj (by omega) (j' := j) (by omega) (by omega) (k' := k) (by omega) hkey
  rw [hxf, h1, h2]

/-! ### Bytes read and written (00 R5) -/

theorem Memory.bytes_congr {m m' : Memory} {a n : Nat} (h : ∀ c, a ≤ c → c < a + n → Memory.byte m' c = Memory.byte m c) :
    Memory.bytes m' a n = Memory.bytes m a n := by
  induction n generalizing a with
  | zero => rfl
  | succ n ih =>
    rw [Memory.bytes, Memory.bytes, h a (by omega) (by omega), ih fun c hc hlt => h c (by omega) (by omega)]

theorem leBytes_leNat (bs : List Byte) : leBytes bs.length (leNat bs) = bs := by
  induction bs with
  | nil => rfl
  | cons b bs ih =>
    have hlow : BitVec.ofNat 8 (b.toNat + 256 * leNat bs) = b := by
      apply BitVec.eq_of_toNat_eq
      have := b.isLt
      rw [BitVec.toNat_ofNat]
      omega
    have hrest : (b.toNat + 256 * leNat bs) / 256 = leNat bs := by have := b.isLt; omega
    rw [List.length_cons, leBytes, leNat, hlow, hrest, ih]

/-- A number read from memory, as bytes again. -/
theorem leBytes_num (m : Memory) (a n : Nat) : leBytes n (Memory.num m a n) = Memory.bytes m a n := by
  have h := leBytes_leNat (Memory.bytes m a n)
  rwa [Memory.bytes_length] at h

theorem leBytes_zero (n : Nat) : leBytes n 0 = List.replicate n 0 := by
  induction n with
  | zero => rfl
  | succ n ih => rw [leBytes, Nat.zero_div, ih]; rfl

/-- Rows from an address up at a pitch, written in order; a row may be left as it is. -/
def Memory.putRows (m : Memory) (a p : Nat) (f : Nat → Option (List Byte)) : Nat → Memory
  | 0 => m
  | k + 1 =>
    match f k with
    | some bs => Memory.setBytes (Memory.putRows m a p f k) (a + k * p) bs
    | none => Memory.putRows m a p f k

section
variable (m : Memory) {a p n : Nat} {f : Nat → Option (List Byte)} {rows : Nat}
  (hf : ∀ k < rows, ∀ bs, f k = some bs → bs.length = n)
include hf

/-- A byte in no row that is written is as before. -/
theorem Memory.byte_putRows_out {c : Nat} (hc : ∀ k < rows, f k ≠ none → c < a + k * p ∨ a + k * p + n ≤ c) :
    Memory.byte (Memory.putRows m a p f rows) c = Memory.byte m c := by
  induction rows with
  | zero => rfl
  | succ r ih =>
    have hrest := ih (fun k hk => hf k (by omega)) fun k hk => hc k (by omega)
    rw [Memory.putRows]
    cases hr : f r with
    | none => exact hrest
    | some bs =>
      rw [Memory.byte_setBytes_out _ _ _ _ ?_, hrest]
      rw [hf r (by omega) bs hr]
      exact hc r (by omega) (by simp [hr])

/-- Rows no longer than the pitch read back. -/
theorem Memory.bytes_putRows (hp : n ≤ p) {k : Nat} (hk : k < rows) :
    Memory.bytes (Memory.putRows m a p f rows) (a + k * p) n = (f k).getD (Memory.bytes m (a + k * p) n) := by
  induction rows with
  | zero => omega
  | succ r ih =>
    have hlast : ∀ c, a + k * p ≤ c → c < a + k * p + n → k < r → Memory.byte (Memory.putRows m a p f (r + 1)) c =
        Memory.byte (Memory.putRows m a p f r) c := by
      intro c hl hu hkr
      rw [Memory.putRows]
      cases hr : f r with
      | none => rfl
      | some bs =>
        have hrow : (k + 1) * p ≤ r * p := Nat.mul_le_mul_right p hkr
        rw [Nat.add_one_mul] at hrow
        exact Memory.byte_setBytes_out _ _ _ _ (.inl (by omega))
    by_cases hkr : k < r
    · rw [Memory.bytes_congr fun c hl hu => hlast c hl hu hkr]
      exact ih (fun k hk => hf k (by omega)) hkr
    · obtain rfl : k = r := by omega
      cases hr : f k with
      | none =>
        rw [Option.getD_none]
        refine Memory.bytes_congr fun c hl hu => ?_
        refine Memory.byte_putRows_out m hf fun i hi hne => ?_
        have hik : i ≠ k := fun h => hne (h ▸ hr)
        have hrow : (i + 1) * p ≤ k * p := Nat.mul_le_mul_right p (by omega)
        rw [Nat.add_one_mul] at hrow
        omega
      | some bs =>
        have hlen := hf k (by omega) bs hr
        simp only [Memory.putRows, hr, Option.getD_some]
        rw [← hlen, Memory.bytes_setBytes]

end

/-! ### Local memory as the matrix path sees and writes it (07 R172, R187) -/

/-- Writes of the core path that the matrix path does not see at a look: some of the newest. -/
def State.hidden (s : State) (x : Team) : List Late := x.coreLate.take (Config.late s.freeCount % (x.coreLate.length + 1))

theorem State.lmLook_of_noTeam {s : State} {t : Nat} (h : Tab.get? s.teams t = none) : s.lmLook false t = (s, []) := by
  simp [State.lmLook, h]

theorem State.lmLook_of_seen {s : State} {t : Nat} {x : Team} (h : Tab.get? s.teams t = some x) (hl : x.coreLate = []) :
    s.lmLook false t = (s, x.lm) := by simp [State.lmLook, h, hl]

theorem State.lmLook_of_late {s : State} {t : Nat} {x : Team} (h : Tab.get? s.teams t = some x) (hl : x.coreLate ≠ []) :
    s.lmLook false t =
      ({ s with freeCount := s.freeCount + 1 }.modTeam t fun y => { y with coreLate := s.hidden x }, hideLate x.lm (s.hidden x)) := by
  simp only [State.lmLook, h, Bool.false_eq_true, if_false, List.isEmpty_iff, hl]
  rfl

/-- A look at local memory changes what is hidden of teams, and counts a choice. -/
theorem State.lmLook_eq (s : State) (t : Nat) : ∃ n ts, (s.lmLook false t).1 = { s with freeCount := n, teams := ts } := by
  cases h : Tab.get? s.teams t with
  | none => exact ⟨s.freeCount, s.teams, by rw [State.lmLook_of_noTeam h]⟩
  | some x =>
    by_cases hl : x.coreLate = []
    · exact ⟨s.freeCount, s.teams, by rw [State.lmLook_of_seen h hl]⟩
    · exact ⟨_, _, by rw [State.lmLook_of_late h hl]; rfl⟩

@[simp] theorem State.lmLook_mem (s : State) (t : Nat) : (s.lmLook false t).1.mem = s.mem := by
  obtain ⟨n, ts, h⟩ := s.lmLook_eq t; rw [h]
@[simp] theorem State.lmLook_acc (s : State) (t : Nat) : (s.lmLook false t).1.acc = s.acc := by
  obtain ⟨n, ts, h⟩ := s.lmLook_eq t; rw [h]
@[simp] theorem State.lmLook_ob (s : State) (t : Nat) : (s.lmLook false t).1.ob = s.ob := by
  obtain ⟨n, ts, h⟩ := s.lmLook_eq t; rw [h]
@[simp] theorem State.lmLook_obMem (s : State) (t : Nat) : (s.lmLook false t).1.obMem = s.obMem := by
  obtain ⟨n, ts, h⟩ := s.lmLook_eq t; rw [h]
@[simp] theorem State.lmLook_shadow (s : State) (t : Nat) : (s.lmLook false t).1.shadow = s.shadow := by
  obtain ⟨n, ts, h⟩ := s.lmLook_eq t; rw [h]

/-- No byte of local memory changes by it. -/
theorem State.lmLook_lm (s : State) (t k : Nat) :
    (Tab.get? (s.lmLook false t).1.teams k).map (·.lm) = (Tab.get? s.teams k).map (·.lm) := by
  cases h : Tab.get? s.teams t with
  | none => rw [State.lmLook_of_noTeam h]
  | some x =>
    by_cases hl : x.coreLate = []
    · rw [State.lmLook_of_seen h hl]
    · rw [State.lmLook_of_late h hl]
      simp only [State.modTeam, Tab.get?_modify]
      split
      · cases Tab.get? s.teams k <;> rfl
      · rfl

/-- What is seen depends on the teams and on the choices made so far. -/
theorem State.lmLook_congr {s u : State} (ht : u.teams = s.teams) (hc : u.freeCount = s.freeCount) (t : Nat) :
    (u.lmLook false t).2 = (s.lmLook false t).2 := by
  cases h : Tab.get? s.teams t with
  | none => rw [State.lmLook_of_noTeam h, State.lmLook_of_noTeam (ht ▸ h)]
  | some x =>
    by_cases hl : x.coreLate = []
    · rw [State.lmLook_of_seen h hl, State.lmLook_of_seen (ht ▸ h) hl]
    · rw [State.lmLook_of_late h hl, State.lmLook_of_late (ht ▸ h) hl, State.hidden, State.hidden, hc]

theorem State.lmNum_eq (s : State) (k a n : Nat) :
    s.lmNum k a n = (((Tab.get? s.teams k).map (·.lm)).map fun l => Memory.num l a n).getD 0 := by
  unfold State.lmNum
  cases Tab.get? s.teams k <;> rfl

theorem sameLocal_of_lm {s t : State} (h : ∀ k, (Tab.get? t.teams k).map (·.lm) = (Tab.get? s.teams k).map (·.lm)) :
    SameLocal s t := fun k a n => by rw [State.lmNum_eq, State.lmNum_eq, h k]

/-- An engine's writes to local memory are writes of the team's bytes. -/
theorem State.lmPuts_eq (s : State) (cls t : Nat) (ws : List (Nat × List Byte)) :
    ∃ ts, s.lmPuts cls t ws = { s with teams := ts } ∧
      (Tab.get? ts t).map (·.lm) = ((Tab.get? s.teams t).map (·.lm)).map fun m =>
        ws.foldl (fun m w => Memory.setBytes m w.1 w.2) m := by
  induction ws generalizing s with
  | nil => exact ⟨s.teams, rfl, by cases Tab.get? s.teams t <;> rfl⟩
  | cons w ws ih =>
    obtain ⟨ts, hs, hlm⟩ := ih (s.lmEngine cls t w.1 w.2)
    refine ⟨ts, hs, hlm.trans ?_⟩
    simp only [State.lmEngine, State.modTeam, Tab.get?_modify, if_true]
    cases Tab.get? s.teams t <;> rfl

/-- Rows written in order. -/
theorem Memory.foldl_setBytes_rows (m : Memory) (a p : Nat) (f : Nat → List Byte) (rows : Nat) :
    ((List.range rows).map fun i => (a + i * p, f i)).foldl (fun m w => Memory.setBytes m w.1 w.2) m =
      Memory.putRows m a p (fun i => some (f i)) rows := by
  induction rows with
  | zero => rfl
  | succ r ih => rw [List.range_succ, List.map_append, List.foldl_append, ih]; rfl

end Sys2Proof.Machine
end

section
/-! Records of the operand buffer: what OBRES, OBFILL, OBDROP, OBQRY, IXGATH and the loads of the matrix path put into them
(obligation O46). -/

namespace Sys2Proof.Machine

/-! ### Records (06 R134 to R137) -/

@[simp] theorem State.obRec_setRec_self (s : State) (core h : Nat) (r : ObRec) : (s.setRec core h r).obRec core h = r := by
  simp [State.obRec, State.setRec, Tab.read]

theorem State.obRec_congr {s t : State} (h : t.ob = s.ob) (core k : Nat) : t.obRec core k = s.obRec core k := by
  rw [State.obRec, State.obRec, h]

theorem State.get?_setRec_ne (s : State) {core h k : Nat} (r : ObRec) (hk : k ≠ core * 32 + h % 32) :
    Tab.get? (s.setRec core h r).ob k = Tab.get? s.ob k := Tab.get?_set_ne _ _ hk

/-- A handle fails its check by cause 0xD, with the handle itself in TAUX (06 Table 6, order 1). -/
theorem State.handleBad_some {s : State} {core team ref : Nat} {b : Bad} (h : s.handleBad core team ref = some b) :
    b.cause = 0xD ∧ b.addr = 0 ∧ b.aux = ref % 65536 := by
  simp only [State.handleBad] at h
  split at h
  · cases h; exact ⟨rfl, rfl, rfl⟩
  · split at h
    · cases h; exact ⟨rfl, rfl, rfl⟩
    · split at h
      · cases h; exact ⟨rfl, rfl, rfl⟩
      · cases h

/-- Bytes of a row from the block of its reference up. -/
def ObRec.rowLen (r : ObRec) (ref : Nat) : Nat := r.pitch - 4 * refK0 ref * r.ty.width

/-- The rows that a list of entries gathers, each as its entry says. -/
def State.gathers (s : State) (core : Nat) (lm : Memory) (r : ObRec) (ref : Nat) (es : List (Option Nat)) : State :=
  es.zipIdx.foldl (fun s x => s.gatherTo core lm r ref x.2 x.1) s

/-- The bytes that an entry gives a row of `n` bytes; none leaves the row. -/
def entryBytes (lm : Memory) (n : Nat) (e : Option Nat) : Option (List Byte) :=
  e.map fun x => if x / 2 ^ 31 = 1 then List.replicate n 0 else Memory.bytes lm (x % 2 ^ 22) n

theorem entryBytes_length {lm : Memory} {n : Nat} {e : Option Nat} {bs : List Byte} (h : entryBytes lm n e = some bs) :
    bs.length = n := by
  obtain ⟨x, -, rfl⟩ := Option.map_eq_some_iff.1 h
  split <;> simp

theorem obAddr_row (core : Nat) (r : ObRec) (ref k lo : Nat) :
    obAddr core r ((refRow ref + k) * r.pitch + lo) = obAddr core r (refRow ref * r.pitch + lo) + k * r.pitch := by
  unfold obAddr
  rw [Nat.add_mul]
  omega

theorem State.gatherTo_eq (s : State) (core : Nat) (lm : Memory) (r : ObRec) (ref k : Nat) (e : Option Nat) :
    s.gatherTo core lm r ref k e =
      match entryBytes lm (r.rowLen ref) e with
      | some bs => s.obWrite core r ((refRow ref + k) * r.pitch + 4 * refK0 ref * r.ty.width) bs
      | none => s := by
  cases e with
  | none => rfl
  | some x =>
    simp only [State.gatherTo, entryBytes, Option.map_some, ObRec.rowLen]
    split
    · rw [leBytes_zero]
    · rw [leBytes_num]

theorem State.gathers_range (s : State) (core : Nat) (lm : Memory) (r : ObRec) (ref : Nat) (f : Nat → Option Nat) (rows : Nat) :
    ∃ b, s.gathers core lm r ref ((List.range rows).map f) =
      { s with
        obMem := Memory.putRows s.obMem (obAddr core r (refRow ref * r.pitch + 4 * refK0 ref * r.ty.width)) r.pitch
          (fun k => entryBytes lm (r.rowLen ref) (f k)) rows
        obBad := b } := by
  induction rows with
  | zero => exact ⟨s.obBad, rfl⟩
  | succ n ih =>
    obtain ⟨b, hb⟩ := ih
    have hlast : s.gathers core lm r ref ((List.range (n + 1)).map f) =
        (s.gathers core lm r ref ((List.range n).map f)).gatherTo core lm r ref n (f n) := by
      simp [State.gathers, List.range_succ, List.zipIdx_append]
    rw [hlast, hb, State.gatherTo_eq]
    cases h : entryBytes lm (r.rowLen ref) (f n) with
    | none => exact ⟨b, by simp only [Memory.putRows, h]⟩
    | some bs => exact ⟨_, by simp only [Memory.putRows, h, ← obAddr_row]; rfl⟩

/-- What a write of one segment leaves, bytes put into a record leave. -/
theorem State.fillSegs_keeps {β : Type} {f : State → β} (hf : ∀ s core r off bs, f (State.obWrite s core r off bs) = f s) (s : State)
    (core : Nat) (r : ObRec) (gs : List (W64 × Nat × Nat)) (bs : List Byte) : f (s.fillSegs core r gs bs) = f s := by
  induction gs generalizing s bs with
  | nil => rfl
  | cons g gs ih => exact (ih _ _).trans (hf s core r g.2.2 _)

/-- Gathered rows are rows of the operand buffer, written in order. -/
theorem State.gathers_eq (s : State) (core : Nat) (lm : Memory) (r : ObRec) (ref : Nat) (es : List (Option Nat)) :
    ∃ b, s.gathers core lm r ref es =
      { s with
        obMem := Memory.putRows s.obMem (obAddr core r (refRow ref * r.pitch + 4 * refK0 ref * r.ty.width)) r.pitch
          (fun k => entryBytes lm (r.rowLen ref) (es.getD k none)) es.length
        obBad := b } := by
  have hes : (List.range es.length).map (fun k => es.getD k none) = es :=
    List.ext_getElem (by simp) fun k _ hk => by simp [List.getElem?_eq_getElem hk]
  have h := s.gathers_range core lm r ref (fun k => es.getD k none) es.length
  rwa [hes] at h

@[simp] theorem Env.entries_length (e : Env) (f : Nat → Nat) (v rows : Nat) : (e.entries f v rows).length = rows := by
  simp [Env.entries]

/-! ### Long-latency destinations (02 R44) -/

theorem Group.isEmpty_setEmpty_true (g : Group) {d : DReg} (h : ∀ q n l, d = .port q n l → l < 32) :
    (g.setEmpty d true).isEmpty d = true := by
  cases d with
  | vec r l => exact Tab.read_write_self false g.vEmpty (32 * r + l) true
  | scal r => exact Tab.read_write_self false g.sEmpty r true
  | port q n l =>
    simp only [Group.setEmpty, Group.isEmpty, Tab.read_write_self, if_true, BitVec.getLsbD_or, getLsbD_maskOf_self (h q n l rfl),
      Bool.or_true]

/-- Marking one register empty fills none. -/
theorem Group.isEmpty_setEmpty_of_empty (g : Group) (d x : DReg) (h : g.isEmpty x = true) :
    (g.setEmpty d true).isEmpty x = true := by
  cases d <;> cases x <;> simp_all only [Group.setEmpty, Group.isEmpty, Tab.read_write]
  case vec.vec => split <;> simp_all
  case scal.scal => split <;> simp_all
  case port.port => split <;> simp_all

theorem Group.isEmpty_markEmpty_of_empty (g : Group) (ds : List DReg) (x : DReg) (h : g.isEmpty x = true) :
    (g.markEmpty ds).isEmpty x = true := by
  induction ds generalizing g with
  | nil => exact h
  | cons d ds ih => exact ih _ (g.isEmpty_setEmpty_of_empty d x h)

theorem Group.isEmpty_markEmpty (g : Group) {ds : List DReg} {d : DReg} (hd : d ∈ ds) (h : ∀ q n l, d = .port q n l → l < 32) :
    (g.markEmpty ds).isEmpty d = true := by
  induction ds generalizing g with
  | nil => cases hd
  | cons x ds ih =>
    obtain rfl | hd := List.mem_cons.1 hd
    · exact Group.isEmpty_markEmpty_of_empty _ ds d (g.isEmpty_setEmpty_true h)
    · exact ih _ hd

@[simp] theorem Env.goneOn_isEmpty (e : Env) (s : State) (g : Group) (dest : Nat → W64) (d : DReg) :
    (e.goneOn s g dest).isEmpty d = g.isEmpty d := by
  cases d <;> simp only [Group.isEmpty, Env.goneOn_vEmpty, Env.goneOn_sEmpty, Env.goneOn_awaited]

/-- What an instruction's results go to is empty until they arrive. -/
theorem Group.isEmpty_await (g : Group) {ds : List DReg} (fl : W32) {d : DReg} (hd : d ∈ ds)
    (h : ∀ q n l, g.into d = .port q n l → l < 32) : (g.await ds fl).isEmpty (g.into d) = true := by
  have hdue : ∀ (x : Group) (l : List (DReg × W32)), ({ x with due := l } : Group).isEmpty (g.into d) = x.isEmpty (g.into d) :=
    fun x l => by cases g.into d <;> rfl
  rw [Group.await, hdue]
  exact Group.isEmpty_markEmpty _ (List.mem_map_of_mem hd) h

/-- Results that set out leave their registers empty; nothing else of the state that they were read from changes. -/
theorem Env.result_next {e : Env} {s : State} {ws : List (DReg × W64)} {x : Out} (hx : x = e.result s e.g ws) (hne : ws ≠ [])
    (h : ∀ w ∈ ws, ∀ q n l, e.g.into w.1 = .port q n l → l < 32) :
    ∃ t g', x = .next t ∧ t.group? e.u.gid = some g' ∧
      (t.mem = s.mem ∧ t.acc = s.acc ∧ t.ob = s.ob ∧ t.obMem = s.obMem) ∧
      (∀ w ∈ ws, g'.isEmpty (e.g.into w.1) = true) ∧
      t.results = s.results ++ [⟨e.u.gid, ws.map fun w => (e.g.into w.1, w.2), false⟩] := by
  obtain ⟨w, ws, rfl⟩ := List.exists_cons_of_ne_nil hne
  refine ⟨_, _, hx, Env.after_group _ _ _ _, ⟨?_, ?_, ?_, ?_⟩, fun x hx => ?_, ?_⟩
  · exact Env.after_mem _ _ _ _
  · exact Env.after_acc _ _ _ _
  · exact Env.after_ob _ _ _ _
  · exact Env.after_obMem _ _ _ _
  · rw [Env.goneOn_isEmpty]
    exact Group.isEmpty_await _ _ (List.mem_map_of_mem hx) (h x hx)
  · exact Env.after_results _ _ _ _

/-! ### What reading placed ranges leaves alone (07 R181, 14 R388) -/

section
variable {β : Type} {f : State → β} (hframe : ∀ s pa v, f (State.setFrameW s pa v) = f s) (hqueue : ∀ s x, f { s with migQueue := x } = f s)
  (hovf : ∀ s x, f { s with migOvf := x } = f s)
include hframe hqueue hovf

theorem State.migrate_keeps (s : State) (src ctx fr : Nat) : f (s.migrate src ctx fr) = f s := by
  simp only [State.migrate]
  split
  · rfl
  · split
    · exact (hqueue _ _).trans (hframe s _ _)
    · exact (hovf _ _).trans (hframe s _ _)

theorem State.countLine_keeps (s : State) (pa : Nat) : f (s.countLine pa) = f s := by
  simp only [State.countLine, apply_ite f, State.migrate_keeps hframe hqueue hovf, hframe, ite_self]

/-- Access counters and notifications of migrations apart, what is accessed leaves the state as it is. -/
theorem State.touch_keeps (s : State) (ps : List Placed) : f (s.touch ps) = f s :=
  foldl_keeps f _ (fun s _ => foldl_keeps f _ (fun s _ => s.countLine_keeps hframe hqueue hovf _) _ s) ps s

/-- The same of what is read, the reader's clock apart. -/
theorem State.touchRead_keeps (hclock : ∀ s x, f { s with dieClock := x } = f s) (s : State) (d : Nat) (ps : List Placed) :
    f (s.touchRead d ps) = f s :=
  (hclock (s.touch ps) _).trans (s.touch_keeps hframe hqueue hovf ps)

end

/-- Bytes read from placed ranges into a record leave memory, records and results. -/
theorem State.fillSegs_touchRead (s : State) (d : Nat) (ps : List Placed) (core : Nat) (r : ObRec) (segs : List (W64 × Nat × Nat))
    (bs : List Byte) : ((s.touchRead d ps).fillSegs core r segs bs).mem = s.mem ∧
      ((s.touchRead d ps).fillSegs core r segs bs).ob = s.ob ∧ ((s.touchRead d ps).fillSegs core r segs bs).results = s.results := by
  have hmem : (s.touchRead d ps).mem = s.mem :=
    State.touchRead_keeps (f := fun s => s.mem) (fun _ _ _ => rfl) (fun _ _ => rfl) (fun _ _ => rfl) (fun _ _ => rfl) s d ps
  have hob : (s.touchRead d ps).ob = s.ob :=
    State.touchRead_keeps (f := fun s => s.ob) (fun _ _ _ => rfl) (fun _ _ => rfl) (fun _ _ => rfl) (fun _ _ => rfl) s d ps
  have hres : (s.touchRead d ps).results = s.results :=
    State.touchRead_keeps (f := fun s => s.results) (fun _ _ _ => rfl) (fun _ _ => rfl) (fun _ _ => rfl) (fun _ _ => rfl) s d ps
  exact ⟨(State.fillSegs_keeps (f := fun s => s.mem) (fun _ _ _ _ _ => rfl) _ core r segs bs).trans hmem,
    (State.fillSegs_keeps (f := fun s => s.ob) (fun _ _ _ _ _ => rfl) _ core r segs bs).trans hob,
    (State.fillSegs_keeps (f := fun s => s.results) (fun _ _ _ _ _ => rfl) _ core r segs bs).trans hres⟩

/-! ### A scalar destination -/

/-- The instruction completes with a value in its scalar destination, and leaves memory, local memory and vector registers. -/
def SetsScalar (i : Instr) (o : Ops) (s : State) (e : Env) (v : W64) (t : State) : Prop :=
  exec i s = .next t ∧ t.mem = s.mem ∧ t.teams = s.teams ∧
    ∃ g', t.group? e.u.gid = some g' ∧ g'.sr o.dst.toNat = v ∧ g'.v = e.g.v ∧ g'.astat = e.g.astat ||| e.winOver

theorem setsScalar_of_exec {i : Instr} {o : Ops} {s t : State} {e : Env} {v : W64} (h : exec i s = e.setScalar t o.dst.toNat v)
    (hm : t.mem = s.mem) (ht : t.teams = s.teams) :
    ∃ u, SetsScalar i o s e v u ∧ u.ob = t.ob ∧ u.obMem = t.obMem := by
  refine ⟨_, ⟨h, by simp [hm], by simp [ht], _, e.after_group _ _ _, ?_, Env.goneOn_v _ _ _ _, Env.goneOn_astat _ _ _ _⟩,
    Env.after_ob _ _ _ _, Env.after_obMem _ _ _ _⟩
  unfold Group.sr
  rw [Env.goneOn_sreg]
  exact Group.sr_setSr_self _ _ _

/-! ### OBRES, OBFILL, OBDROP, OBQRY (R147 to R150) -/

section
variable {o : Ops} {m : ModX} {s : State} {e : Env} (hf : s.fenced e.g.team 4 = false)
include hf

/-- The record that OBRES asks for, generation and range apart. -/
def Env.asked (e : Env) (m : ModX) : ObRec :=
  obNew e.g.team 0 (e.a e.first % 2 ^ 32) m.afmt.code.toNat (e.b e.first)

/-- A record takes its range, whose bytes become zero. -/
def State.newRecord (s : State) (core i : Nat) (r : ObRec) : State :=
  ({ s with obMem := Memory.zero s.obMem (obAddr core r 0) (r.size * 1024) }.obCover (obAddr core r 0) (r.size * 1024)).setRec core i r

theorem exec_obres_of_bad (hb : BeginsActive (.obres o m) s e) {n : Nat}
    (hn : obresBad (e.asked m) (e.a e.first % 2 ^ 32) (e.b e.first) = n) (h0 : n ≠ 0) :
    exec (.obres o m) s = e.setScalar s o.dst.toNat (BitVec.ofNat 64 (2 ^ 63 + n)) := by
  obtain ⟨k, rfl⟩ := Nat.exists_eq_succ_of_ne_zero h0
  rw [exec_of_matrix (show exec (.obres o m) s = execObres o m s from rfl) rfl rfl rfl hb hf, hb.1.env_s]
  simp only [Env.asked] at hn
  simp only [Env.ga, Env.gb, hn]

/-- A good request goes to the lowest free record, and takes the lowest free range. -/
theorem exec_obres_of_good (hb : BeginsActive (.obres o m) s e)
    (h0 : obresBad (e.asked m) (e.a e.first % 2 ^ 32) (e.b e.first) = 0) :
    exec (.obres o m) s =
      match (List.range 32).find? fun i => !(s.obRec e.g.core i).live with
      | none => e.setScalar s o.dst.toNat (BitVec.ofNat 64 (2 ^ 63 + 1))
      | some i =>
        match s.freeRange e.g.core (e.a e.first % 2 ^ 32) with
        | none => e.setScalar s o.dst.toNat (BitVec.ofNat 64 (2 ^ 63 + 2))
        | some a => e.setScalar (s.newRecord e.g.core i { e.asked m with gen := (s.obRec e.g.core i).gen, start := a }) o.dst.toNat
            (BitVec.ofNat 64 ((s.obRec e.g.core i).gen * 32 + i)) := by
  rw [exec_of_matrix (show exec (.obres o m) s = execObres o m s from rfl) rfl rfl rfl hb hf, hb.1.env_s]
  simp only [Env.asked] at h0
  simp only [Env.ga, Env.gb, h0]
  rfl

theorem exec_obfill (hb : BeginsActive (.obfill o m) s e) {x : Team} (hx : Tab.get? s.teams e.g.team = some x)
    (hh : s.handleBad e.g.core e.g.team (e.a e.first) = none) (hA : e.a e.first < 2 ^ 35) (hB : bitsOf (e.b e.first) 22 10 = 0)
    (hoff : bitsOf (e.a e.first) 16 19 + (m.opf.toNat + 1) * 64 ≤ (s.obRec e.g.core (e.a e.first)).size * 1024)
    (h64 : bitsOf (e.a e.first) 16 19 % 64 = 0) (h16 : e.b e.first % 2 ^ 22 % 16 = 0)
    (hlm : e.b e.first % 2 ^ 22 + (m.opf.toNat + 1) * 64 ≤ x.lmSize)
    (hbad : s.lmBad e.g.team (e.b e.first % 2 ^ 22) ((m.opf.toNat + 1) * 64) = false) :
    exec (.obfill o m) s = e.finish ((s.lmLook false e.g.team).1.obWrite e.g.core (s.obRec e.g.core (e.a e.first))
      (bitsOf (e.a e.first) 16 19) (Memory.bytes (s.lmLook false e.g.team).2 (e.b e.first % 2 ^ 22) ((m.opf.toNat + 1) * 64))) e.g := by
  rw [exec_of_matrix (show exec (.obfill o m) s = execObfill o m s from rfl) rfl rfl rfl hb hf, hb.1.env_s]
  rw [Env.must_of_pass, if_neg (by simpa [Env.gb] using hbad), ← leBytes_num]
  · rfl
  · simp only [List.forall_mem_cons, List.not_mem_nil, false_imp_iff, implies_true, and_true, badIf_eq_none, State.lmRange_eq_none,
      Bool.or_eq_false_iff, bne_eq_false_iff_eq, decide_eq_false_iff_not, Nat.not_lt, State.lmSize_of_team hx]
    exact ⟨hh, ⟨Nat.div_eq_of_lt hA, hB⟩, hoff, ⟨h64, h16⟩, hlm⟩

/-- OBDROP and OBQRY look at a handle of sixteen bits. -/
theorem exec_obdrop (hb : BeginsActive (.obdrop o m) s e) (hA : e.a e.first < 2 ^ 16) :
    exec (.obdrop o m) s =
      if s.ownRecord e.g.core e.g.team (e.a e.first) then
        e.setScalar (s.setRec e.g.core (e.a e.first) (s.obRec e.g.core (e.a e.first)).free) o.dst.toNat
          (BitVec.ofNat 64 ((s.obRec e.g.core (e.a e.first)).count + if (s.obRec e.g.core (e.a e.first)).unc then 2 ^ 16 else 0))
      else e.setScalar s o.dst.toNat (BitVec.allOnes 64) := by
  rw [exec_of_matrix (show exec (.obdrop o m) s = execObdrop o m s from rfl) rfl rfl rfl hb hf, hb.1.env_s]
  exact Env.must_of_pass (by simpa [Env.ga] using hA) _

theorem exec_obqry (hb : BeginsActive (.obqry o m) s e) (hA : e.a e.first < 2 ^ 16) :
    exec (.obqry o m) s = e.setScalar s o.dst.toNat
      (if s.ownRecord e.g.core e.g.team (e.a e.first) then (s.obRec e.g.core (e.a e.first)).word else 0) := by
  rw [exec_of_matrix (show exec (.obqry o m) s = execObqry o m s from rfl) rfl rfl rfl hb hf, hb.1.env_s]
  exact Env.must_of_pass (by simpa [Env.ga] using hA) _

/-! ### IXGATH and the loads (R151, R152) -/

theorem exec_ixgath (hb : BeginsActive (.ixgath o m) s e) {x : Team} (hx : Tab.get? s.teams e.g.team = some x)
    (hh : s.handleBad e.g.core e.g.team (e.a e.first) = none) (href : refReserved (e.a e.first) = none)
    (hres : entReserved (e.entries e.b o.b.val.toNat m.rowCount) = none)
    (hrange : s.refRange e.g.core (e.a e.first) m.rowCount 0 = none)
    (halign : entAlign (e.entries e.b o.b.val.toNat m.rowCount) = none)
    (hsize : ∀ y, some y ∈ e.entries e.b o.b.val.toNat m.rowCount → y / 2 ^ 31 ≠ 1 → y % 2 ^ 22 +
      ((s.obRec e.g.core (e.a e.first)).rowLen (e.a e.first)) ≤ x.lmSize)
    (hbad : ∀ y ∈ e.entries e.b o.b.val.toNat m.rowCount, s.rowBad e.g.team
      ((s.obRec e.g.core (e.a e.first)).rowLen (e.a e.first)) y = false) :
    exec (.ixgath o m) s = e.finish ((s.lmLook false e.g.team).1.gathers e.g.core (s.lmLook false e.g.team).2
      (s.obRec e.g.core (e.a e.first)) (e.a e.first) (e.entries e.b o.b.val.toNat m.rowCount)) e.g := by
  rw [exec_of_matrix (show exec (.ixgath o m) s = execIxgath o m s from rfl) rfl rfl rfl hb hf, hb.1.env_s]
  rw [Env.must_of_pass, if_neg (by simpa [Env.ga, ObRec.rowLen] using hbad)]
  · rfl
  · simp only [List.forall_mem_cons, List.not_mem_nil, false_imp_iff, implies_true, and_true, List.findSome?_eq_none_iff]
    refine ⟨hh, href, hres, hrange, halign, fun y hy => ?_⟩
    cases y with
    | none => rfl
    | some y =>
      dsimp only
      split
      · rfl
      · rw [State.lmRange_eq_none, State.lmSize_of_team hx]
        exact hsize y hy ‹_›

omit hf in
theorem Env.access_of_ok (e : Env) {accs : List Acc} {s' : State} {ps : List Placed} {k : State → List Placed → Out}
    (h : e.s.check e.asker accs [] 1 = .ok s' ps) : e.access accs [] 1 k = k s' ps := by rw [Env.access, h]

omit hf in
theorem exec_of_load {q : Instr × Bool × Bool} (hq : q ∈ [(Instr.mld o m, false, false), (.mldSca o m, true, false), (.mldt o m, false, true)])
    (hb : Begins q.1 s e) : exec q.1 s = e.mld o m q.2.1 q.2.2 := by
  simp only [List.mem_cons, List.not_mem_nil, or_false] at hq
  obtain rfl | rfl | rfl := hq
  · exact exec_of_issue1 (show exec (.mld o m) s = execMld o m s from rfl) rfl rfl rfl hb
  · exact exec_of_issue1 (show exec (.mldSca o m) s = execMldSca o m s from rfl) rfl rfl rfl hb
  · exact exec_of_issue1 (show exec (.mldt o m) s = execMldt o m s from rfl) rfl rfl rfl hb

/-- A load whose references, ranges and translations pass puts the bytes of its segments into the record. -/
theorem Env.mld_eq {r : ObRec} {sca tr : Bool} {segs : List (W64 × Nat × Nat)} {s' : State} {ps : List Placed} (hs : e.s = s) (ha : e.act ≠ [])
    (hh : s.handleBad e.g.core e.g.team (e.a e.first) = none) (hr : r = s.obRec e.g.core (e.a e.first))
    (href : refReserved (e.a e.first) = none) (hB : e.b e.first / 2 ^ 64 < 2 ^ 32)
    (hrange : s.refRange e.g.core (e.a e.first) m.rowCount 0 = none) (hsca : sca = true → r.ty = .q4)
    (htr : tr = true → r.ty ≠ .q4 ∧ e.b e.first % 2 ^ 64 % (r.ty.width / 8) = 0 ∧
      (IntTy.s32.val (e.b e.first / 2 ^ 64)).natAbs % (r.ty.width / 8) = 0)
    (hsegs : segs = mldSegs r (e.a e.first) (e.b e.first % 2 ^ 64) m.rowCount (IntTy.s32.val (e.b e.first / 2 ^ 64)) sca tr)
    (hcheck : s.check e.asker (rangeAccs e.first e.mask .read (segs.map fun g => (g.1, g.2.1))) [] 1 = .ok s' ps)
    (hwait : ∀ y ∈ ps, s'.waitsAt (coreDie e.g.core) false y = false)
    (hbad : (s'.touchRead (coreDie e.g.core) ps).badPlace ps = none) :
    e.mld o m sca tr = e.result ((s'.touchRead (coreDie e.g.core) ps).fillSegs e.g.core r segs
        ((s'.touchRead (coreDie e.g.core) ps).pull ps)) e.g
      [(.scal o.dst.toNat, BitVec.ofNat 64 (segs.map fun g => g.2.1).sum)] := by
  subst hs hr hsegs
  rw [Env.mld, Env.matrix_of_free ha hf, Env.must_of_pass]
  · have hw : ps.any (s'.waitsAt (coreDie e.g.core) false) = false := List.any_eq_false.2 (by simpa using hwait)
    refine (e.access_of_ok hcheck).trans ?_
    simp only [hw, hbad, List.sum_eq_foldl, List.foldl_map, Bool.false_eq_true, if_false]
    rfl
  · simp only [List.forall_mem_cons, List.not_mem_nil, false_imp_iff, implies_true, and_true, badIf_eq_none, Bool.or_eq_false_iff,
      Bool.and_eq_false_imp, bne_eq_false_iff_eq, beq_eq_false_iff_ne]
    exact ⟨hh, href, Nat.div_eq_of_lt hB, hrange, ⟨hsca, fun h => (htr h).1⟩, fun h => (htr h).2⟩

/-- What takes a reference traps on a handle that is stale, free or another team's, before any other check. -/
theorem exec_of_badHandle {i : Instr} (hi : i ∈ [Instr.obfill o m, .ixgath o m, .mld o m, .mldSca o m, .mldt o m])
    (hb : BeginsActive i s e) {b : Bad} (hh : s.handleBad e.g.core e.g.team (e.a e.first) = some b) :
    exec i s = .next (s.raise e.u.gid ⟨0xD, b.detail, e.first, e.u.pc, 0, BitVec.ofNat 64 (e.a e.first % 65536), e.bundle⟩) := by
  obtain ⟨hcause, haddr, haux⟩ := State.handleBad_some hh
  have hs := hb.1.env_s
  have htrap : exec i s = e.trapAux b.cause b.detail e.first (BitVec.ofNat 64 b.addr) (BitVec.ofNat 64 b.aux) := by
    have hload : ∀ sca tr, e.mld o m sca tr =
        e.trapAux b.cause b.detail e.first (BitVec.ofNat 64 b.addr) (BitVec.ofNat 64 b.aux) := fun sca tr => by
      rw [Env.mld, Env.matrix_of_free hb.2 (by rw [hs]; exact hf)]
      exact Env.must_of_first (by rw [hs]; exact hh) _ _
    simp only [List.mem_cons, List.not_mem_nil, or_false] at hi
    obtain rfl | rfl | rfl | rfl | rfl := hi
    · rw [exec_of_matrix (show exec (.obfill o m) s = execObfill o m s from rfl) rfl rfl rfl hb hf]
      exact Env.must_of_first (by rw [hs]; exact hh) _ _
    · rw [exec_of_matrix (show exec (.ixgath o m) s = execIxgath o m s from rfl) rfl rfl rfl hb hf]
      exact Env.must_of_first (by rw [hs]; exact hh) _ _
    · exact (exec_of_load (q := (.mld o m, false, false)) (by simp) hb.1).trans (hload _ _)
    · exact (exec_of_load (q := (.mldSca o m, true, false)) (by simp) hb.1).trans (hload _ _)
    · exact (exec_of_load (q := (.mldt o m, false, true)) (by simp) hb.1).trans (hload _ _)
  rw [htrap, hcause, haddr, haux, Env.trapAux, hs]
  rfl

end

/-- Settles O46, by instruction. -/
theorem operandBufferInstructionsComplete : Obligations.OperandBufferInstructionsComplete := by
  intro o m s e hf core team A B r look sets
  refine ⟨fun x hx hl => ?_, fun hb => ⟨fun n hn h0 => ?_, fun h0 hfull => ?_, fun i hi h0 hdead hlow => ?_⟩,
    fun x hb hx hh hA hB hoff h64 h16 hlm hbad => ?_, fun hA => ⟨fun hb => ⟨fun hown => ?_, fun hown => ?_⟩, fun hb => ?_⟩,
    fun x hb hx hh href hres hrange halign hsize hbad => ?_,
    fun q hq hb hh s' ps href hB hrange hsca htr hcheck hwait hbad => ?_, fun i hi hb b hh => ?_⟩
  · exact congrArg Prod.snd (State.lmLook_of_seen hx hl)
  · exact setsScalar_of_exec (exec_obres_of_bad hf hb hn h0) rfl rfl
  · have h := exec_obres_of_good hf hb h0
    rw [List.find?_eq_none.2 (by simpa using hfull)] at h
    exact setsScalar_of_exec h rfl rfl
  · have h := exec_obres_of_good hf hb h0
    have hfind : (List.range 32).find? (fun i => !(s.obRec e.g.core i).live) = some i :=
      List.find?_range_eq_some.2 ⟨by simpa using hdead, List.mem_range.2 hi, by simpa using hlow⟩
    rw [hfind] at h
    refine ⟨fun hnone => ?_, fun a ha => ?_⟩
    · rw [show s.freeRange e.g.core (e.a e.first % 2 ^ 32) = none from hnone] at h
      exact setsScalar_of_exec h rfl rfl
    · rw [show s.freeRange e.g.core (e.a e.first % 2 ^ 32) = some a from ha] at h
      obtain ⟨t, ht, hob, hmem⟩ := setsScalar_of_exec h rfl rfl
      refine ⟨t, ht, (State.obRec_congr hob _ _).trans (State.obRec_setRec_self _ _ _ _), fun k hk => ?_, fun off hlt => ?_⟩
      · rw [hob]
        exact State.get?_setRec_ne _ _ (by rw [Nat.mod_eq_of_lt hi]; exact hk)
      · rw [hmem]
        refine (Memory.byte_zero _ _ _ _).trans (if_pos ⟨?_, ?_⟩)
        · show core * 524288 + a * 1024 + 0 ≤ _
          omega
        · show _ < core * 524288 + a * 1024 + 0 + A % 2 ^ 32 * 1024
          omega
  · have hlen := Memory.bytes_setBytes look.1.obMem (obAddr core r (bitsOf A 16 19)) (Memory.bytes look.2 (B % 2 ^ 22) ((m.opf.toNat + 1) * 64))
    rw [Memory.bytes_length] at hlen
    refine ⟨_, exec_obfill hf hb hx hh hA hB hoff h64 h16 hlm hbad, ?_, ?_, Env.after_teams _ _ _ _, ?_, fun c hc => ?_⟩
    · exact (Env.after_ob _ _ _ _).trans (State.lmLook_ob _ _)
    · exact (Env.after_mem _ _ _ _).trans (State.lmLook_mem _ _)
    · rw [Env.after_obMem]
      exact hlen
    · rw [Env.after_obMem, ← s.lmLook_obMem team]
      exact Memory.byte_setBytes_out _ _ _ _ (by rw [Memory.bytes_length]; exact hc)
  · obtain ⟨t, ht, hob, -⟩ := setsScalar_of_exec ((exec_obdrop hf hb hA).trans (if_neg (by rw [hown]; simp))) rfl rfl
    exact ⟨t, ht, hob⟩
  · obtain ⟨t, ht, hob, -⟩ := setsScalar_of_exec ((exec_obdrop hf hb hA).trans (if_pos hown)) rfl rfl
    have hrec := (State.obRec_congr hob _ _).trans (State.obRec_setRec_self s core A r.free)
    refine ⟨t, ht, by rw [hrec]; rfl, by rw [hrec]; rfl, fun k hk => ?_⟩
    rw [hob]
    exact State.get?_setRec_ne _ _ hk
  · obtain ⟨t, ht, hob, -⟩ := setsScalar_of_exec (exec_obqry hf hb hA) rfl rfl
    exact ⟨t, ht, hob⟩
  · obtain ⟨b, hg⟩ := look.1.gathers_eq core look.2 r A (e.entries e.b o.b.val.toNat m.rowCount)
    have hexec := exec_ixgath hf hb hx hh href hres hrange halign hsize hbad
    rw [show State.gathers _ _ _ _ _ _ = _ from hg] at hexec
    have hbytes : ∀ k < m.rowCount, Memory.bytes (Memory.putRows look.1.obMem (obAddr core r (refRow A * r.pitch + 4 * refK0 A * r.ty.width))
        r.pitch (fun k => entryBytes look.2 (r.rowLen A) ((e.entries e.b o.b.val.toNat m.rowCount).getD k none)) m.rowCount)
        (obAddr core r ((refRow A + k) * r.pitch + 4 * refK0 A * r.ty.width)) (r.rowLen A) =
        (entryBytes look.2 (r.rowLen A) ((e.entries e.b o.b.val.toNat m.rowCount).getD k none)).getD
          (Memory.bytes s.obMem (obAddr core r ((refRow A + k) * r.pitch + 4 * refK0 A * r.ty.width)) (r.rowLen A)) := fun k hk => by
      rw [obAddr_row, ← s.lmLook_obMem team]
      exact Memory.bytes_putRows _ (fun _ _ _ h => entryBytes_length h) (Nat.sub_le _ _) hk
    rw [Env.entries_length] at hexec
    refine ⟨_, hexec, ?_, ?_, Env.after_teams _ _ _ _, fun k hk => ⟨fun y hy => ?_, fun hy => ?_⟩⟩
    · exact (Env.after_ob _ _ _ _).trans (State.lmLook_ob _ _)
    · exact (Env.after_mem _ _ _ _).trans (State.lmLook_mem _ _)
    · rw [Env.after_obMem]
      refine (hbytes k hk).trans ?_
      rw [List.getD_eq_getElem?_getD, hy]
      rfl
    · rw [Env.after_obMem]
      refine (hbytes k hk).trans ?_
      rw [List.getD_eq_getElem?_getD, hy]
      rfl
  · have hload := (exec_of_load hq hb.1).trans (Env.mld_eq hf hb.1.env_s hb.2 hh rfl href hB hrange hsca htr rfl hcheck hwait hbad)
    obtain ⟨t, g', ht, hg, ⟨hmem, -, hob, hobMem⟩, hempty, hres⟩ :=
      Env.result_next hload (List.cons_ne_nil _ _) (by simp [Group.into])
    obtain ⟨hmem', hob', hres'⟩ := s'.fillSegs_touchRead (coreDie core) ps core r
      (mldSegs r A (B % 2 ^ 64) m.rowCount (IntTy.s32.val (B / 2 ^ 64)) q.2.1 q.2.2) ((s'.touchRead (coreDie core) ps).pull ps)
    exact ⟨t, g', ht, hg, hmem.trans hmem', hob.trans hob', hobMem, hempty _ List.mem_cons_self, by rw [hres]; exact congrArg (· ++ _) hres'⟩
  · exact ⟨(State.handleBad_some hh).1, exec_of_badHandle hf hi hb hh⟩

end Sys2Proof.Machine
end

section
/-! Accumulator tiles to and from registers, local memory and global memory, and quantised blocks (obligation O47). -/

namespace Sys2Proof.Machine

/-! ### What the instructions check (06 R164 to R167, Table 6) -/

theorem State.cellsBad_of_noPoison {s : State} (h : s.accBad = []) (core tile : Nat) (region : List (Nat × Nat)) :
    s.cellsBad core tile region = false := by simp [State.cellsBad, h]

theorem State.descBad_pass {s : State} {core team d : Nat} {pitch : Bool} (hd : d < 2 ^ 30)
    (hp : pitch = false → bitsOf d 17 13 = 0) (ht : s.tileBad core team (descT d) = none) :
    ∀ x ∈ s.descBad core team d pitch, x = none := by
  simp only [State.descBad, List.forall_mem_cons, List.not_mem_nil, false_imp_iff, implies_true, and_true, badIf_eq_none,
    Bool.or_eq_false_iff, bne_eq_false_iff_eq, Bool.and_eq_false_imp, Bool.not_eq_true']
  exact ⟨⟨Nat.div_eq_of_lt hd, hp⟩, ht⟩

theorem Env.accCheck_of_pass {e : Env} (h : ∀ l ∈ e.act, bitsOf (e.a l) 17 15 = 0 ∧ e.s.tileBad e.g.core e.g.team (e.a l % 32) = none)
    (k : Unit → Out) : e.accCheck k = k () := by
  have hdesc : e.act.find? (fun l => bitsOf (e.a l) 17 15 != 0) = none :=
    List.find?_eq_none.2 fun l hl => by simp [(h l hl).1]
  have htile : e.act.find? (fun l => (e.s.tileBad e.g.core e.g.team (e.a l % 32)).isSome) = none :=
    List.find?_eq_none.2 fun l hl => by simp [(h l hl).2]
  simp only [Env.accCheck, hdesc, htile]

theorem or_zeroFlags (f : W32) : f ||| 0 = f := BitVec.or_zero

/-! ### A region of a tile written -/

/-- The instruction completes with the first `M` rows and `N` columns of a tile written, and leaves every other element, memory, local
memory and records. -/
def WritesTile (i : Instr) (s : State) (e : Env) (T M N : Nat) (fl : W32) (f : Nat → Nat → W32) : Prop :=
  ∃ t g', exec i s = .next t ∧ t.group? e.u.gid = some g' ∧
    (∀ j < M, ∀ k < N, t.elem e.g.core T j k = f j k) ∧
    (∀ x, (∀ j < M, ∀ k < N, x ≠ accKey e.g.core T j k) → Tab.read 0 t.acc x = Tab.read 0 s.acc x) ∧
    g'.v = e.g.v ∧ g'.sreg = e.g.sreg ∧ g'.astat = e.g.astat ||| fl ||| e.winOver ∧ t.mem = s.mem ∧ SameLocal s t ∧ t.ob = s.ob

/-- Nothing but what teams see of local memory differs. -/
def SameButLooks (s u : State) : Prop :=
  u.mem = s.mem ∧ u.acc = s.acc ∧ u.ob = s.ob ∧ ∀ k, (Tab.get? u.teams k).map (·.lm) = (Tab.get? s.teams k).map (·.lm)

theorem sameButLooks_refl (s : State) : SameButLooks s s := ⟨rfl, rfl, rfl, fun _ => rfl⟩

theorem sameButLooks_lmLook (s : State) (t : Nat) : SameButLooks s (s.lmLook false t).1 :=
  ⟨s.lmLook_mem t, s.lmLook_acc t, s.lmLook_ob t, s.lmLook_lm t⟩

theorem writesTile_of_exec {i : Instr} {s u : State} {e : Env} {T M N : Nat} {fl : W32} {F : Nat → Nat → Res} (hM : M ≤ 64) (hN : N ≤ 64)
    (hu : SameButLooks s u) (h : exec i s = e.finish (u.setCells e.g.core T (cellsOf M N F)) (e.g.flag fl)) :
    WritesTile i s e T M N fl fun j k => BitVec.ofNat 32 (F j k).bits := by
  obtain ⟨hmem, hacc, hob, hlm⟩ := hu
  obtain ⟨b, hcells⟩ := u.setCells_eq e.g.core T (cellsOf M N F)
  rw [hcells] at h
  refine ⟨_, _, h, Env.after_group _ _ _ _, fun j hj k hk => ?_, fun x hx => ?_, Env.goneOn_v _ _ _ _, Env.goneOn_sreg _ _ _ _,
    Env.goneOn_astat _ _ _ _, (Env.after_mem _ _ _ _).trans hmem, sameLocal_of_lm fun k => ?_, (Env.after_ob _ _ _ _).trans hob⟩
  · rw [State.elem, Env.after_acc]
    exact accCells_in _ _ _ _ hM hN hj hk
  · rw [Env.after_acc, ← hacc]
    refine accCells_out _ fun y hy => ?_
    obtain ⟨hj, hk, -⟩ := mem_cellsOf.1 hy
    exact hx _ hj _ hk
  · rw [Env.after_teams]
    exact hlm k

/-! ### Rows of local memory written -/

/-- The instruction completes with `M` rows of `n` bytes written to local memory from `a` up at pitch `p`, and leaves every other byte,
memory, accumulator memory and records. -/
def WritesRows (i : Instr) (s : State) (e : Env) (a M : Nat) (fl : W32) (p n : Nat) (f : Nat → List Byte) : Prop :=
  ∃ t g' x', exec i s = .next t ∧ t.group? e.u.gid = some g' ∧ Tab.get? t.teams e.g.team = some x' ∧
    (∀ j < M, Memory.bytes x'.lm (a + j * p) n = f j) ∧
    (∀ c, (∀ j < M, c < a + j * p ∨ a + j * p + n ≤ c) → Memory.byte x'.lm c = BitVec.ofNat 8 (s.lmNum e.g.team c 1)) ∧
    g'.v = e.g.v ∧ g'.sreg = e.g.sreg ∧ g'.astat = e.g.astat ||| fl ||| e.winOver ∧ t.mem = s.mem ∧ t.acc = s.acc ∧ t.ob = s.ob

theorem ofNat_lmNum_one {s : State} {team : Nat} {x : Team} (h : Tab.get? s.teams team = some x) (c : Nat) :
    BitVec.ofNat 8 (s.lmNum team c 1) = Memory.byte x.lm c := by
  simp [State.lmNum, h, Memory.num, Memory.bytes, leNat]

theorem writesRows_of_exec {i : Instr} {s u : State} {e : Env} {a M p n : Nat} {fl : W32} {f : Nat → List Byte}
    (hf : ∀ j < M, (f j).length = n) (hp : n ≤ p) (hteam : (Tab.get? s.teams e.g.team).isSome = true) (hu : SameButLooks s u)
    (h : exec i s = e.finish (u.lmPuts 4 e.g.team ((List.range M).map fun i => (a + i * p, f i))) (e.g.flag fl)) :
    WritesRows i s e a M fl p n f := by
  obtain ⟨hmem, hacc, hob, hlm⟩ := hu
  obtain ⟨x, hx⟩ := Option.isSome_iff_exists.1 hteam
  obtain ⟨ts, hputs, hrows⟩ := u.lmPuts_eq 4 e.g.team ((List.range M).map fun i => (a + i * p, f i))
  rw [hlm, hx, Option.map_some, Option.map_some, Memory.foldl_setBytes_rows, Option.map_eq_some_iff] at hrows
  obtain ⟨x', hx', hxlm⟩ := hrows
  rw [hputs] at h
  have hlen : ∀ k < M, ∀ bs, some (f k) = some bs → bs.length = n := fun k hk bs hbs => Option.some.inj hbs ▸ hf k hk
  refine ⟨_, _, x', h, Env.after_group _ _ _ _, ?_, fun j hj => ?_, fun c hc => ?_, Env.goneOn_v _ _ _ _, Env.goneOn_sreg _ _ _ _,
    Env.goneOn_astat _ _ _ _, (Env.after_mem _ _ _ _).trans hmem, (Env.after_acc _ _ _ _).trans hacc,
    (Env.after_ob _ _ _ _).trans hob⟩
  · rw [Env.after_teams]
    exact hx'
  · rw [hxlm]
    exact Memory.bytes_putRows x.lm hlen hp hj
  · rw [hxlm, ofNat_lmNum_one hx]
    exact Memory.byte_putRows_out x.lm hlen fun k hk _ => hc k hk

theorem WritesRows.congr {i : Instr} {s : State} {e : Env} {a M p n : Nat} {fl : W32} {f f' : Nat → List Byte}
    (h : WritesRows i s e a M fl p n f) (hf : ∀ j < M, f j = f' j) : WritesRows i s e a M fl p n f' := by
  obtain ⟨t, g', x', hx, hg, hteam, hrows, hrest⟩ := h
  exact ⟨t, g', x', hx, hg, hteam, fun j hj => (hrows j hj).trans (hf j hj), hrest⟩

/-- The results of a row among those of a region. -/
theorem filter_tileRegion (m n j : Nat) : (tileRegion m n).filter (fun x => x.1 == j) =
    if j < m then (List.range n).map fun k => (j, k) else [] := by
  induction m with
  | zero => rfl
  | succ m ih =>
    have hlast : tileRegion (m + 1) n = tileRegion m n ++ (List.range n).map fun k => (m, k) := by
      simp [tileRegion, List.range_succ]
    rw [hlast, List.filter_append, ih, List.filter_map]
    obtain hj | rfl | hj := Nat.lt_trichotomy j m
    · simp [hj, show j < m + 1 by omega, show ¬ m = j by omega, Function.comp_def]
    · simp [Function.comp_def]
    · simp [show ¬ j < m by omega, show ¬ j < m + 1 by omega, show ¬ m = j by omega, Function.comp_def]

theorem rowBytes_cellsOf {m j : Nat} (n w : Nat) (F : Nat → Nat → Res) (hj : j < m) :
    rowBytes (cellsOf m n F) w j = (List.range n).flatMap fun k => leBytes w (F j k).bits := by
  have h := filter_tileRegion m n j
  rw [if_pos hj] at h
  rw [rowBytes, cellsOf, List.filter_map, Function.comp_def]
  simp only [h, List.map_map, List.flatMap_map]
  rfl

theorem length_flatMap_leBytes (n w : Nat) (f : Nat → Nat) : ((List.range n).flatMap fun k => leBytes w (f k)).length = n * w := by
  simp [List.length_flatMap]

theorem topKBytes_length {val : Bool} {r : List (Nat × Nat)} : (topKBytes val r).length = r.length * if val then 8 else 4 := by
  cases val
  · simp [topKBytes]
  · simp only [topKBytes, if_true, List.length_append, List.length_flatMap, leBytes_length, List.map_const', List.sum_replicate,
      smul_eq_mul]
    omega

theorem State.topkRow_length (s : State) (core : Nat) (lm : Memory) (t n m out k colbase : Nat) (val mrg int low : Bool) :
    (s.topkRow core lm t n m out k colbase val mrg int low).length = k * if val then 8 else 4 := by
  rw [State.topkRow, topKBytes_length, topK, List.length_map, List.length_range]

/-! ### Transfers, strikes and results by lane -/

section
variable {s : State} {e : Env}

/-- A transfer's address, descriptor and rows pass their checks. -/
theorem State.transferBad_pass {core team d a w n p : Nat} (ha : a % w = 0) (hd : d < 2 ^ 30)
    (ht : s.tileBad core team (descT d) = none) (hfit : ∀ j < descM d, a + j * p + n ≤ s.lmSize team) :
    ∀ x ∈ [badIf (a % w != 0) 0xE 5] ++ s.descBad core team d true ++ (List.range (descM d)).map fun i => s.lmRange team (a + i * p) n,
      x = none := by
  simp only [List.forall_mem_append, List.forall_mem_cons, List.not_mem_nil, false_imp_iff, implies_true, and_true, badIf_eq_none,
    bne_eq_false_iff_eq, List.forall_mem_map, List.mem_range, State.lmRange_eq_none]
  exact ⟨⟨ha, State.descBad_pass hd nofun ht⟩, hfit⟩

/-- The delivered elements of a tile, in the state that an instruction begins in. -/
theorem Env.outCells_eq (hs : e.s = s) (m : ModX) (d : Nat) : e.outCells m d = cellsOf (descM d) (descN d) fun j k =>
    ofmtElem (ModX.ofmt m) (m.opf.getLsbD 5) (s.elem e.g.core (descT d) j k).toNat := by rw [← hs]; rfl

theorem State.engineStrike_of_none {c : Nat} {ws : List Write} (h : s.strikes c 1 ws = []) (core gid : Nat) (who : W64) :
    s.engineStrike c core gid who ws = s := by
  unfold State.engineStrike
  rw [h]

/-- Strikes depend on the context's descriptor alone. -/
theorem State.strikes_congr {t : State} (h : t.desc = s.desc) (c bit : Nat) (ws : List Write) :
    t.strikes c bit ws = s.strikes c bit ws := by
  have hword : t.descW = s.descW := by unfold State.descW; rw [h]
  have hstruck : t.struck = s.struck := by unfold State.struck; rw [hword]
  rw [State.strikes, State.strikes, hword, hstruck]

/-- Poison that goes with what is written is poison of memory, or of the writes that wait. -/
theorem State.markCells_keeps {β : Type} {f : State → β} (hp : ∀ s x, f { s with poison := x } = f s)
    (hw : ∀ s x, f { s with tableWrites := x } = f s) (core tile cols w : Nat) (ps : List Placed) :
    f (s.markCells core tile cols w ps) = f s := by
  refine foldl_keeps f _ (fun s k => ?_) _ s
  split
  · simp only [State.markWritten]
    split
    · exact hw _ _
    · simp only [State.setPoison, if_true, apply_ite f, hp, ite_self]
  · rfl

theorem qntLanes_lanes (sr : Bool) (f : Nat → List Nat → LaneOut) (seed : W64) (ls : List Nat) :
    (qntLanes sr f seed ls).2.map (·.1) = ls := by
  induction ls generalizing seed with
  | nil => rfl
  | cons l ls ih => exact congrArg (l :: ·) (ih _)

/-- The result of a lane, among results of distinct lanes. -/
theorem find?_lane_of_mem {β : Type} {outs : List (Nat × β)} (h : (outs.map (·.1)).Nodup) {x : Nat × β} (hx : x ∈ outs) :
    outs.find? (fun r => r.1 == x.1) = some x := by
  induction outs with
  | nil => cases hx
  | cons y outs ih =>
    rw [List.map_cons, List.nodup_cons] at h
    obtain rfl | hx := List.mem_cons.1 hx
    · simp
    · have hne : y.1 ≠ x.1 := fun he => h.1 (he ▸ List.mem_map_of_mem hx)
      rw [List.find?_cons, beq_eq_false_iff_ne.2 hne]
      exact ih h.2 hx

/-- Registers of no lane that is written, or beside those that are written, stay. -/
theorem Group.vr_foldl_putVec_out (g : Group) (o : Ops) (n : Nat) {ls : List Nat} (f : Nat → Nat) (hls : ∀ l ∈ ls, l < 32) {q l : Nat}
    (h : l ∉ ls ∨ q < o.dst.toNat ∨ o.dst.toNat + n ≤ q) (hl : l < 32) :
    (ls.foldl (fun g l => g.putVec o n l (f l)) g).vr q l = g.vr q l := by
  induction ls generalizing g with
  | nil => rfl
  | cons k ls ih =>
    have hk := hls k List.mem_cons_self
    have hkl : l ≠ k ∨ q < o.dst.toNat ∨ o.dst.toNat + n ≤ q := h.imp_left fun hn he => hn (he ▸ List.mem_cons_self)
    rw [List.foldl_cons, ih _ (fun x hx => hls x (List.mem_cons_of_mem _ hx)) (h.imp_left fun hn hm => hn (List.mem_cons_of_mem _ hm))]
    exact Group.vr_setVrs_out _ _ _ _ _ fun i hi => by omega

/-- The value of a lane among results, 0 for a lane without one. -/
def laneVal (outs : List (Nat × LaneOut)) (l : Nat) : Nat :=
  match outs.find? fun r => r.1 == l with
  | some r => r.2.val
  | none => 0

theorem laneVal_of_mem {outs : List (Nat × LaneOut)} (h : (outs.map (·.1)).Nodup) {x : Nat × LaneOut} (hx : x ∈ outs) :
    laneVal outs x.1 = x.2.val := by rw [laneVal, find?_lane_of_mem h hx]

end

/-! ### ACCLD and ACCST (R164, R165) -/

/-- A lane's entry of a port is that lane's. -/
theorem Group.lane_of_into {g : Group} {r l q n k : Nat} (h : g.into (.vec r l) = .port q n k) : k = l := by
  unfold Group.into at h
  by_cases hp : g.isPort r = true
  · simp only [hp, if_true, DReg.port.injEq] at h
    exact h.2.2.symm
  · simp only [hp, Bool.false_eq_true, if_false, reduceCtorEq] at h

theorem Begins.act_sorted {i : Instr} {s : State} {e : Env} (h : Begins i s e) : e.act.Pairwise (· < ·) := by
  obtain ⟨_, _, _, _, he, _⟩ := h
  rw [he]
  exact ((List.pairwise_lt_range.filter _).filter _).filter _

/-- Of writes in ascending order the last that names an entry stays. -/
theorem Tab.read_foldl_write_last {α : Type} [DecidableEq α] (d : α) (key : Nat → Nat) (val : Nat → α) {ls : List Nat} (t : Tab α)
    (hs : ls.Pairwise (· < ·)) {l : Nat} (hl : l ∈ ls) (h : ∀ k ∈ ls, l < k → key k ≠ key l) :
    Tab.read d (ls.foldl (fun t l => Tab.write d t (key l) (val l)) t) (key l) = val l := by
  obtain ⟨xs, ys, rfl⟩ := List.append_of_mem hl
  have hlate : ∀ k ∈ ys, l < k := (List.pairwise_cons.1 (List.pairwise_append.1 hs).2.1).1
  rw [List.foldl_append, List.foldl_cons, Tab.read_foldl_write_out d key val ys _ fun k hk hkey =>
    h k (List.mem_append_right _ (List.mem_cons_of_mem _ hk)) (hlate k hk) hkey.symm, Tab.read_write_self]

section
variable {o : Ops} {m : ModX} {s : State} {e : Env} (hf : s.fenced e.g.team 4 = false)
include hf

/-- The key of the element that a lane of ACCLD or ACCST names. -/
def Env.elemKey (e : Env) (m : ModX) (l : Nat) : Nat :=
  accKey e.g.core (accElem m (e.a l) l).1 (accElem m (e.a l) l).2.1 (accElem m (e.a l) l).2.2

theorem exec_accld (hb : BeginsActive (.accld o m) s e) (hacc : s.accBad = [])
    (hd : ∀ l ∈ e.act, bitsOf (e.a l) 17 15 = 0 ∧ s.tileBad e.g.core e.g.team (e.a l % 32) = none) :
    exec (.accld o m) s =
      e.result s e.g (e.act.map fun l => (.vec o.dst.toNat l, (Tab.read 0 s.acc (e.elemKey m l)).setWidth 64)) := by
  have hs := hb.1.env_s
  rw [exec_of_matrix (show exec (.accld o m) s = execAccld o m s from rfl) rfl rfl rfl hb hf, Env.accCheck_of_pass (by rwa [hs]), hs]
  exact if_neg (by simp [State.cellsBad_of_noPoison hacc])

theorem exec_accst (hb : BeginsActive (.accst o m) s e)
    (hd : ∀ l ∈ e.act, bitsOf (e.a l) 17 15 = 0 ∧ s.tileBad e.g.core e.g.team (e.a l % 32) = none) :
    ∃ b, exec (.accst o m) s = e.finish { s with
      acc := e.act.foldl (fun t l => Tab.write 0 t (e.elemKey m l) (BitVec.ofNat 32 (e.b l))) s.acc, accBad := b } e.g := by
  have hs := hb.1.env_s
  rw [exec_of_matrix (show exec (.accst o m) s = execAccst o m s from rfl) rfl rfl rfl hb hf, Env.accCheck_of_pass (by rwa [hs]), hs]
  obtain ⟨b, h⟩ := State.foldl_setElem e.g.core (fun l => accElem m (e.a l) l) (fun l => BitVec.ofNat 32 (e.b l)) e.act s
  exact ⟨b, congrArg (e.finish · e.g) h⟩

theorem accld_gives (hb : BeginsActive (.accld o m) s e) (hacc : s.accBad = [])
    (hd : ∀ l ∈ e.act, bitsOf (e.a l) 17 15 = 0 ∧ s.tileBad e.g.core e.g.team (e.a l % 32) = none) :
    ∃ t g', exec (.accld o m) s = .next t ∧ t.group? e.u.gid = some g' ∧ t.acc = s.acc ∧ t.mem = s.mem ∧
      (∀ l ∈ e.act, g'.isEmpty (e.g.into (.vec o.dst.toNat l)) = true) ∧ t.results = s.results ++
        [⟨e.u.gid, e.act.map fun l => (e.g.into (.vec o.dst.toNat l), (Tab.read 0 s.acc (e.elemKey m l)).setWidth 64), false⟩] := by
  have hport : ∀ w ∈ e.act.map fun l => (DReg.vec o.dst.toNat l, (Tab.read 0 s.acc (e.elemKey m l)).setWidth 64),
      ∀ q n k, e.g.into w.1 = .port q n k → k < 32 := by
    intro w hw q n k h
    obtain ⟨l, hl, rfl⟩ := List.mem_map.1 hw
    have hlt := hb.1.lane_lt (hb.1.act_sub_lanes hl)
    rwa [Group.lane_of_into h]
  obtain ⟨t, g', ht, hg, ⟨hmem, hacc', -, -⟩, hempty, hres⟩ :=
    Env.result_next (exec_accld hf hb hacc hd) (by simpa using hb.2) hport
  refine ⟨t, g', ht, hg, hacc', hmem, fun l hl => hempty _ (List.mem_map_of_mem hl), ?_⟩
  rw [hres, List.map_map]
  rfl

theorem accst_stores (hb : BeginsActive (.accst o m) s e)
    (hd : ∀ l ∈ e.act, bitsOf (e.a l) 17 15 = 0 ∧ s.tileBad e.g.core e.g.team (e.a l % 32) = none) :
    ∃ t, exec (.accst o m) s = .next t ∧ t.mem = s.mem ∧ t.teams = s.teams ∧
      (∀ l ∈ e.act, (∀ k ∈ e.act, l < k → e.elemKey m k ≠ e.elemKey m l) →
        Tab.read 0 t.acc (e.elemKey m l) = BitVec.ofNat 32 (e.b l)) ∧
      ∀ x, (∀ l ∈ e.act, x ≠ e.elemKey m l) → Tab.read 0 t.acc x = Tab.read 0 s.acc x := by
  obtain ⟨b, h⟩ := exec_accst hf hb hd
  refine ⟨_, h, Env.after_mem _ _ _ _, Env.after_teams _ _ _ _, fun l hl hlast => ?_, fun x hx => ?_⟩
  · rw [Env.after_acc]
    exact Tab.read_foldl_write_last 0 (e.elemKey m) _ _ hb.1.act_sorted hl hlast
  · rw [Env.after_acc]
    exact Tab.read_foldl_write_out 0 (e.elemKey m) _ _ _ hx

/-! ### ACCZ, ACCCVT, ACCLM.IN (R166, R167) -/

theorem accz_writes (hb : BeginsActive (.accz o m) s e) (hd : e.a e.first % 2 ^ 32 < 2 ^ 30)
    (hpitch : bitsOf (e.a e.first % 2 ^ 32) 17 13 = 0)
    (ht : s.tileBad e.g.core e.g.team (descT (e.a e.first % 2 ^ 32)) = none) :
    WritesTile (.accz o m) s e (descT (e.a e.first % 2 ^ 32)) (descM (e.a e.first % 2 ^ 32)) (descN (e.a e.first % 2 ^ 32)) 0
      fun _ _ => 0 := by
  refine writesTile_of_exec (F := fun _ _ => exact 0) (descM_le _) (descN_le _) (sameButLooks_refl s) ?_
  have hg : e.g.flag 0 = e.g := by simp [Group.flag]
  rw [exec_of_matrix (show exec (.accz o m) s = execAccz o m s from rfl) rfl rfl rfl hb hf, hb.1.env_s, hg]
  exact Env.must_of_pass (State.descBad_pass hd (fun _ => hpitch) ht) _

/-- The elements that a conversion in place delivers. -/
def Env.converted (e : Env) (s : State) (k : Nat → Int → Res) : Cells :=
  cellsOf (descM (e.a e.first % 2 ^ 32)) (descN (e.a e.first % 2 ^ 32)) fun i j =>
    k (s.elem e.g.core (descT (e.a e.first % 2 ^ 32)) i j).toNat (IntTy.s32.val (e.b e.first))

theorem Env.acccvt_eq (hs : e.s = s) (ha : e.act ≠ []) (hn : NoShadow s) (hacc : s.accBad = []) (hd : e.a e.first % 2 ^ 32 < 2 ^ 30)
    (hpitch : bitsOf (e.a e.first % 2 ^ 32) 17 13 = 0)
    (ht : s.tileBad e.g.core e.g.team (descT (e.a e.first % 2 ^ 32)) = none) (k : Nat → Int → Res) (checked : Bool) :
    e.acccvt k checked = e.finish (s.setCells e.g.core (descT (e.a e.first % 2 ^ 32)) (e.converted s k))
      (e.g.flag (cellFlags (e.converted s k))) := by
  subst hs
  rw [Env.acccvt, Env.matrix_of_free ha hf]
  refine (Env.must_of_pass (State.descBad_pass hd (fun _ => hpitch) ht) _).trans ?_
  rw [if_neg (by simp [State.cellsBad_of_noPoison hacc])]
  dsimp only
  split
  · rw [Env.arrayCheck_of_noShadow hn, or_zeroFlags]
    rfl
  · rw [or_zeroFlags]
    rfl

theorem acccvt_writes {i : Instr} {k : Nat → Int → Res} {checked : Bool} (hx : exec i s = e.acccvt k checked) (hb : BeginsActive i s e)
    (hn : NoShadow s) (hacc : s.accBad = []) (hd : e.a e.first % 2 ^ 32 < 2 ^ 30) (hpitch : bitsOf (e.a e.first % 2 ^ 32) 17 13 = 0)
    (ht : s.tileBad e.g.core e.g.team (descT (e.a e.first % 2 ^ 32)) = none) :
    WritesTile i s e (descT (e.a e.first % 2 ^ 32)) (descM (e.a e.first % 2 ^ 32)) (descN (e.a e.first % 2 ^ 32))
      (cellFlags (e.converted s k)) fun j l => BitVec.ofNat 32
        (k (s.elem e.g.core (descT (e.a e.first % 2 ^ 32)) j l).toNat (IntTy.s32.val (e.b e.first))).bits :=
  writesTile_of_exec (descM_le _) (descN_le _) (sameButLooks_refl s)
    (hx.trans (Env.acccvt_eq hf hb.1.env_s hb.2 hn hacc hd hpitch ht k checked))

theorem acclmIn_writes (hb : BeginsActive (.acclmIn o m) s e) (hd : e.a e.first % 2 ^ 32 < 2 ^ 30)
    (ht : s.tileBad e.g.core e.g.team (descT (e.a e.first % 2 ^ 32)) = none) (ha : e.b e.first % 2 ^ 32 % 4 = 0)
    (hfit : ∀ j < descM (e.a e.first % 2 ^ 32), e.b e.first % 2 ^ 32 + j * rowPitch (e.a e.first % 2 ^ 32) 4 +
      descN (e.a e.first % 2 ^ 32) * 4 ≤ s.lmSize e.g.team)
    (hbad : ∀ j < descM (e.a e.first % 2 ^ 32), s.lmBad e.g.team (e.b e.first % 2 ^ 32 + j * rowPitch (e.a e.first % 2 ^ 32) 4)
      (descN (e.a e.first % 2 ^ 32) * 4) = false) :
    WritesTile (.acclmIn o m) s e (descT (e.a e.first % 2 ^ 32)) (descM (e.a e.first % 2 ^ 32)) (descN (e.a e.first % 2 ^ 32)) 0
      fun j k => BitVec.ofNat 32 (Memory.num (s.lmLook false e.g.team).2
        (e.b e.first % 2 ^ 32 + j * rowPitch (e.a e.first % 2 ^ 32) 4 + 4 * k) 4) := by
  refine writesTile_of_exec (F := fun j k => exact (Memory.num (s.lmLook false e.g.team).2
    (e.b e.first % 2 ^ 32 + j * rowPitch (e.a e.first % 2 ^ 32) 4 + 4 * k) 4)) (descM_le _) (descN_le _)
    (sameButLooks_lmLook s e.g.team) ?_
  have hg : e.g.flag 0 = e.g := by simp [Group.flag]
  rw [exec_of_matrix (show exec (.acclmIn o m) s = execAcclmIn o m s from rfl) rfl rfl rfl hb hf, hb.1.env_s, hg]
  refine (Env.must_of_pass (State.transferBad_pass ha hd ht hfit) _).trans ?_
  rw [if_neg (by simpa [Env.ga, Env.gb] using hbad)]
  rfl

/-! ### ACCLM.OUT and MTOPK (R163, R167) -/

theorem acclmOut_stores (hb : BeginsActive (.acclmOut o m) s e) (hn : NoShadow s) (hacc : s.accBad = [])
    (hd : e.a e.first % 2 ^ 32 < 2 ^ 30) (ht : s.tileBad e.g.core e.g.team (descT (e.a e.first % 2 ^ 32)) = none)
    (ha : e.b e.first % 2 ^ 32 % ofmtBytes (ModX.ofmt m) = 0)
    (hfit : ∀ j < descM (e.a e.first % 2 ^ 32), e.b e.first % 2 ^ 32 + j * rowPitch (e.a e.first % 2 ^ 32) (ofmtBytes (ModX.ofmt m)) +
      descN (e.a e.first % 2 ^ 32) * ofmtBytes (ModX.ofmt m) ≤ s.lmSize e.g.team)
    (hp : descN (e.a e.first % 2 ^ 32) * ofmtBytes (ModX.ofmt m) ≤ rowPitch (e.a e.first % 2 ^ 32) (ofmtBytes (ModX.ofmt m)))
    (hteam : (Tab.get? s.teams e.g.team).isSome = true) :
    WritesRows (.acclmOut o m) s e (e.b e.first % 2 ^ 32) (descM (e.a e.first % 2 ^ 32))
      (cellFlags (e.outCells m (e.a e.first % 2 ^ 32))) (rowPitch (e.a e.first % 2 ^ 32) (ofmtBytes (ModX.ofmt m)))
      (descN (e.a e.first % 2 ^ 32) * ofmtBytes (ModX.ofmt m)) fun j =>
        (List.range (descN (e.a e.first % 2 ^ 32))).flatMap fun k => leBytes (ofmtBytes (ModX.ofmt m))
          (ofmtElem (ModX.ofmt m) (m.opf.getLsbD 5) (s.elem e.g.core (descT (e.a e.first % 2 ^ 32)) j k).toNat).bits := by
  have hs := hb.1.env_s
  refine WritesRows.congr (f := fun j => rowBytes (e.outCells m (e.a e.first % 2 ^ 32)) (ofmtBytes (ModX.ofmt m)) j)
    (writesRows_of_exec (fun j hj => ?_) hp hteam (sameButLooks_refl s) ?_) fun j hj => ?_
  · rw [Env.outCells_eq hs, rowBytes_cellsOf _ _ _ hj, length_flatMap_leBytes]
  · rw [exec_of_matrix (show exec (.acclmOut o m) s = execAcclmOut o m s from rfl) rfl rfl rfl hb hf]
    refine (Env.must_of_pass (by rw [hs]; exact State.transferBad_pass ha hd ht hfit) _).trans ?_
    dsimp only
    rw [if_neg (by simp [State.cellsBad_of_noPoison (hs ▸ hacc)]), Env.outCheck_of_noShadow (by rw [hs]; exact hn), or_zeroFlags, hs]
    rfl
  · rw [Env.outCells_eq hs, rowBytes_cellsOf _ _ _ hj]

theorem mtopk_stores (hb : BeginsActive (.mtopk o m) s e) (hacc : s.accBad = []) (hd : e.a e.first % 2 ^ 32 < 2 ^ 17)
    (ht : s.tileBad e.g.core e.g.team (descT (e.a e.first % 2 ^ 32)) = none) (hB : bitsOf (e.b e.first) 22 10 = 0)
    (ha : e.b e.first % 2 ^ 32 % 4 = 0)
    (hfit : e.b e.first % 2 ^ 32 + descM (e.a e.first % 2 ^ 32) * (m.rowCount * if m.opf.getLsbD 7 then 8 else 4) ≤ s.lmSize e.g.team)
    (hteam : (Tab.get? s.teams e.g.team).isSome = true)
    (hbad : m.opf.getLsbD 8 = true → s.lmBad e.g.team (e.b e.first % 2 ^ 32)
      (descM (e.a e.first % 2 ^ 32) * (m.rowCount * if m.opf.getLsbD 7 then 8 else 4)) = false) :
    WritesRows (.mtopk o m) s e (e.b e.first % 2 ^ 32) (descM (e.a e.first % 2 ^ 32)) 0
      (m.rowCount * if m.opf.getLsbD 7 then 8 else 4) (m.rowCount * if m.opf.getLsbD 7 then 8 else 4) fun j =>
        s.topkRow e.g.core (s.lmLook false e.g.team).2 (descT (e.a e.first % 2 ^ 32)) (descN (e.a e.first % 2 ^ 32)) j
          (e.b e.first % 2 ^ 32 + j * (m.rowCount * if m.opf.getLsbD 7 then 8 else 4)) m.rowCount (e.b e.first / 2 ^ 32)
          (m.opf.getLsbD 7) (m.opf.getLsbD 8) (m.opf.getLsbD 9) (m.opf.getLsbD 6) := by
  refine writesRows_of_exec (fun j _ => State.topkRow_length ..) le_rfl hteam (sameButLooks_lmLook s e.g.team) ?_
  have haddr : e.b e.first % 2 ^ 22 = e.b e.first % 2 ^ 32 := by unfold bitsOf at hB; omega
  have hg : e.g.flag 0 = e.g := by simp [Group.flag]
  rw [exec_of_matrix (show exec (.mtopk o m) s = execMtopk o m s from rfl) rfl rfl rfl hb hf, hb.1.env_s, hg]
  dsimp only [Env.ga, Env.gb]
  rw [haddr, Env.must_of_pass]
  · rw [if_neg ?_]
    simpa [State.cellsBad_of_noPoison hacc] using hbad
  · simp only [List.forall_mem_cons, List.not_mem_nil, false_imp_iff, implies_true, and_true, badIf_eq_none, bne_eq_false_iff_eq,
      State.lmRange_eq_none]
    exact ⟨hB, ha, Nat.div_eq_of_lt hd, ht, hfit⟩

/-! ### MST (R167, 17 R452) -/

theorem exec_mst (hb : BeginsActive (.mst o m) s e) (hd : e.a e.first % 2 ^ 32 < 2 ^ 30)
    (ht : s.tileBad e.g.core e.g.team (descT (e.a e.first % 2 ^ 32)) = none)
    (ha : e.b e.first % 2 ^ 64 % ofmtBytes (ModX.ofmt m) = 0) {s' : State} {ps : List Placed}
    (hcheck : s.check e.asker (rangeAccs e.first e.mask .write ((List.range (descM (e.a e.first % 2 ^ 32))).map fun j =>
      (BitVec.ofNat 64 (e.b e.first) + BitVec.ofNat 64 (j * rowPitch (e.a e.first % 2 ^ 32) (ofmtBytes (ModX.ofmt m))),
        descN (e.a e.first % 2 ^ 32) * ofmtBytes (ModX.ofmt m)))) [] 1 = .ok s' ps)
    (hwait : ∀ y ∈ ps, s'.waitsAt (coreDie e.g.core) true y = false) (hn : s'.shadow = 0) :
    exec (.mst o m) s = .next ((e.after (((s'.touch ps).push (coreDie e.g.core) e.g.ctx ps
        ((List.range (descM (e.a e.first % 2 ^ 32))).flatMap
          (rowBytes (e.outCells m (e.a e.first % 2 ^ 32)) (ofmtBytes (ModX.ofmt m))))).markCells e.g.core
            (descT (e.a e.first % 2 ^ 32)) (descN (e.a e.first % 2 ^ 32)) (ofmtBytes (ModX.ofmt m)) ps)
        (e.g.flag (cellFlags (e.outCells m (e.a e.first % 2 ^ 32)))) fun _ => e.next).engineStrike e.g.ctx e.g.core e.u.gid 0 (writesAt ps)) := by
  have hs := hb.1.env_s
  rw [exec_of_matrix (show exec (.mst o m) s = execMst o m s from rfl) rfl rfl rfl hb hf, Env.must_of_pass]
  · refine (e.access_of_ok (hs ▸ hcheck)).trans ?_
    have hw : ps.any (s'.waitsAt (coreDie e.g.core) true) = false := List.any_eq_false.2 (by simpa using hwait)
    rw [if_neg (by simp [hw])]
    refine (Env.outCheck_of_noShadow (e := { e with s := s' }) hn _ _ _).trans ?_
    rw [or_zeroFlags]
    rfl
  · rw [hs]
    simp only [List.forall_mem_append, List.forall_mem_cons, List.not_mem_nil, false_imp_iff, implies_true, and_true, badIf_eq_none,
      bne_eq_false_iff_eq]
    exact ⟨by simpa [Env.gb] using ha, State.descBad_pass hd nofun ht⟩

theorem mst_stores (hb : BeginsActive (.mst o m) s e) (hd : e.a e.first % 2 ^ 32 < 2 ^ 30)
    (ht : s.tileBad e.g.core e.g.team (descT (e.a e.first % 2 ^ 32)) = none)
    (ha : e.b e.first % 2 ^ 64 % ofmtBytes (ModX.ofmt m) = 0) {s' : State} {ps : List Placed}
    (hcheck : s.check e.asker (rangeAccs e.first e.mask .write ((List.range (descM (e.a e.first % 2 ^ 32))).map fun j =>
      (BitVec.ofNat 64 (e.b e.first) + BitVec.ofNat 64 (j * rowPitch (e.a e.first % 2 ^ 32) (ofmtBytes (ModX.ofmt m))),
        descN (e.a e.first % 2 ^ 32) * ofmtBytes (ModX.ofmt m)))) [] 1 = .ok s' ps)
    (hwait : ∀ y ∈ ps, s'.waitsAt (coreDie e.g.core) true y = false) (hn : s'.shadow = 0) {pushed : State}
    (hpush : pushed = (s'.touch ps).push (coreDie e.g.core) e.g.ctx ps ((List.range (descM (e.a e.first % 2 ^ 32))).flatMap
      (rowBytes (e.outCells m (e.a e.first % 2 ^ 32)) (ofmtBytes (ModX.ofmt m)))))
    (hstrike : pushed.strikes e.g.ctx 1 (writesAt ps) = []) :
    ∃ t g', exec (.mst o m) s = .next t ∧ t.group? e.u.gid = some g' ∧ t.mem = pushed.mem ∧ t.teams = pushed.teams ∧
      t.acc = pushed.acc ∧ g'.v = e.g.v ∧ g'.sreg = e.g.sreg ∧
      g'.astat = e.g.astat ||| cellFlags (e.outCells m (e.a e.first % 2 ^ 32)) ||| e.winOver := by
  have h := exec_mst hf hb hd ht ha hcheck hwait hn
  rw [← hpush, State.engineStrike_of_none] at h
  · refine ⟨_, _, h, Env.after_group _ _ _ _, ?_, ?_, ?_, Env.goneOn_v _ _ _ _, Env.goneOn_sreg _ _ _ _, Env.goneOn_astat _ _ _ _⟩
    · exact (Env.after_mem _ _ _ _).trans (State.markCells_keeps (f := fun s => s.mem) (fun _ _ => rfl) (fun _ _ => rfl) _ _ _ _ _)
    · exact (Env.after_teams _ _ _ _).trans (State.markCells_keeps (f := fun s => s.teams) (fun _ _ => rfl) (fun _ _ => rfl) _ _ _ _ _)
    · exact (Env.after_acc _ _ _ _).trans (State.markCells_keeps (f := fun s => s.acc) (fun _ _ => rfl) (fun _ _ => rfl) _ _ _ _ _)
  · rw [State.strikes_congr ((Env.after_desc _ _ _ _).trans
      (State.markCells_keeps (f := fun s => s.desc) (fun _ _ => rfl) (fun _ _ => rfl) _ _ _ _ _))]
    exact hstrike

/-! ### QNT (R169) -/

/-- What a lane of QNT gives for its draws. -/
def Env.qntOut (e : Env) (m : ModX) (l : Nat) (qs : List Nat) : LaneOut :=
  qntLane (ModX.qt m) (ModX.vty m) (Rm.ofBits (m.opf.extractLsb' 2 2)) (if m.expl then some (e.b l) else none) qs (m.opf.getLsbD 4) (e.a l)

theorem exec_qnt (hb : BeginsActive (.qnt o m) s e) :
    exec (.qnt o m) s = e.finish s ((aluOf (.qnt o m) o .b32 fun _ _ _ _ => { val := 0 }).write e.act
      (qntLanes (m.opf.getLsbD 4) (e.qntOut m) e.g.seed e.act).2
      { e.g with seed := (qntLanes (m.opf.getLsbD 4) (e.qntOut m) e.g.seed e.act).1 }) := by
  have hs := hb.1.env_s
  rw [exec_of_issue1 (show exec (.qnt o m) s = execQnt o m s from rfl) rfl rfl rfl hb.1, Env.pathFree_of_free (by rw [hs]; exact hf),
    Env.commit, hs]
  rfl

theorem qnt_gives (hb : BeginsActive (.qnt o m) s e) (hv : VecDst (.qnt o m) o e) :
    ∃ t g', exec (.qnt o m) s = .next t ∧ t.group? e.u.gid = some g' ∧
      g'.seed = (qntLanes (m.opf.getLsbD 4) (e.qntOut m) e.g.seed e.act).1 ∧ g'.sreg = e.g.sreg ∧
      (∀ x ∈ (qntLanes (m.opf.getLsbD 4) (e.qntOut m) e.g.seed e.act).2, g'.vrs o.dst.toNat x.1 5 = x.2.val % 2 ^ 160) ∧
      (∀ q l, l ∉ e.act ∨ q < o.dst.toNat ∨ o.dst.toNat + 5 ≤ q → l < 32 → g'.vr q l = e.g.vr q l) ∧
      g'.astat = e.g.astat ||| (qntLanes (m.opf.getLsbD 4) (e.qntOut m) e.g.seed e.act).2.foldl (fun w x => w ||| x.2.flags) 0 |||
        e.winOver ∧ t.mem = s.mem ∧ t.acc = s.acc := by
  have hlanes := qntLanes_lanes (m.opf.getLsbD 4) (e.qntOut m) e.g.seed e.act
  have hx := exec_qnt hf hb
  revert hlanes hx
  generalize qntLanes (m.opf.getLsbD 4) (e.qntOut m) e.g.seed e.act = out
  intro hlanes hx
  have hlt : ∀ l ∈ e.act, l < 32 := fun l hl => hb.1.lane_lt (hb.1.act_sub_lanes hl)
  obtain ⟨hwv, hws, -⟩ := (aluOf (.qnt o m) o .b32 fun _ _ _ _ => { val := 0 }).write_keeps_putDst e.act out.2 { e.g with seed := out.1 }
  have hput : (aluOf (.qnt o m) o .b32 fun _ _ _ _ => { val := 0 }).putDst e.act out.2 { e.g with seed := out.1 } =
      e.act.foldl (fun g l => g.putVec o 5 l (laneVal out.2 l)) { e.g with seed := out.1 } :=
    if_neg fun h => Bool.false_ne_true (hv.2.symm.trans h)
  rw [hput] at hwv hws
  refine ⟨_, _, hx, Env.after_group _ _ _ _, ?_, ?_, fun x hxo => ?_, fun q l hql hl => ?_, ?_, Env.after_mem _ _ _ _, Env.after_acc _ _ _ _⟩
  · rw [Env.goneOn_seed, Alu.write_seed]
  · rw [Env.goneOn_sreg, hws, Group.foldl_putVec_eq]
  · have hmem : x.1 ∈ e.act := hlanes ▸ List.mem_map_of_mem hxo
    have hvrs := Group.vrs_foldl_putVec { e.g with seed := out.1 } o 5 (laneVal out.2) hb.1.act_nodup hlt (hlt _ hmem)
    rw [if_pos hmem, laneVal_of_mem (hlanes ▸ hb.1.act_nodup) hxo] at hvrs
    refine (Group.vrs_congr fun k _ => ?_).trans hvrs
    simp only [Group.vr, Env.goneOn_v, hwv]
  · have hout := Group.vr_foldl_putVec_out { e.g with seed := out.1 } o 5 (laneVal out.2) hlt hql hl
    refine Eq.trans ?_ hout
    simp only [Group.vr, Env.goneOn_v, hwv]
  · rw [Env.goneOn_astat, Alu.write_astat, foldl_or_eq]

end

/-- Settles O47, by instruction. -/
theorem accumulatorAndQuantiseInstructionsComplete : Obligations.AccumulatorAndQuantiseInstructionsComplete := by
  intro o m s e hf hn hacc core team d B T M N a look tile rows fits
  refine ⟨fun i hi hb hd => ⟨?_, ?_⟩, fun hd ht => ⟨fun hpitch => ⟨fun hb => accz_writes hf hb hd hpitch ht, fun hb => ?_, fun hb => ?_⟩,
    fun ha hfit hbad hb => acclmIn_writes hf hb hd ht ha hfit hbad,
    fun ha hfit hp hteam hb => acclmOut_stores hf hb hn hacc hd ht ha hfit hp hteam,
    fun s' ps hb ha hcheck hwait hn' hstrike => mst_stores hf hb hd ht ha hcheck hwait hn' rfl hstrike⟩,
    fun hb hd ht hB ha hfit hteam hbad => mtopk_stores hf hb hacc hd ht hB ha hfit hteam hbad, fun hb hv => qnt_gives hf hb hv⟩
  · rintro rfl
    exact accld_gives hf hb hacc hd
  · rintro rfl
    exact accst_stores hf hb hd
  · exact acccvt_writes hf (exec_of_issue1 (show exec (.acccvtI2f o m) s = execAcccvtI2f o m s from rfl) rfl rfl rfl hb.1) hb hn hacc hd
      hpitch ht
  · exact acccvt_writes hf (exec_of_issue1 (show exec (.acccvtF2i o m) s = execAcccvtF2i o m s from rfl) rfl rfl rfl hb.1) hb hn hacc hd
      hpitch ht

end Sys2Proof.Machine
end

section
/-! Matrix products: how they begin, what they write, the claims they take, and the gang latch (obligation O48). -/

namespace Sys2Proof.Machine

/-! ### Elements that a product writes (06 R154 to R158) -/

/-- The upper half of a wide result, as it goes to the tile above. -/
def upperHalf (F : Nat → Nat → Res) (j k : Nat) : Res := ⟨(F j k).bits / 2 ^ 32, 0⟩

/-- Accumulator memory once a product has written its tile, or its pair of tiles, with the results of a function. -/
def Product.put (p : Product) (core : Nat) (F : Nat → Nat → Res) (t : Tab W32) : Tab W32 :=
  if p.wide then accCells core (descT p.desc + 1) (cellsOf (descM p.desc) (descN p.desc) (upperHalf F))
    (accCells core (descT p.desc) (cellsOf (descM p.desc) (descN p.desc) F) t)
  else accCells core (descT p.desc) (cellsOf (descM p.desc) (descN p.desc) F) t

theorem Product.mem_tiles {p : Product} {q : Nat} : q ∈ p.tiles ↔ q = descT p.desc ∨ (p.wide = true ∧ q = descT p.desc + 1) := by
  unfold Product.tiles
  by_cases hw : p.wide = true <;> simp [hw]

theorem Product.put_out (p : Product) (core : Nat) (F : Nat → Nat → Res) (t : Tab W32) {y : Nat}
    (h : ∀ q ∈ p.tiles, ∀ j < descM p.desc, ∀ k < descN p.desc, y ≠ accKey core q j k) :
    Tab.read 0 (p.put core F t) y = Tab.read 0 t y := by
  have hlow : Tab.read 0 (accCells core (descT p.desc) (cellsOf (descM p.desc) (descN p.desc) F) t) y = Tab.read 0 t y :=
    accCells_out t fun x hx => h _ (Product.mem_tiles.2 (.inl rfl)) _ (mem_cellsOf.1 hx).1 _ (mem_cellsOf.1 hx).2.1
  unfold Product.put
  split
  · rw [accCells_out _ fun x hx => h _ (Product.mem_tiles.2 (.inr ⟨‹_›, rfl⟩)) _ (mem_cellsOf.1 hx).1 _ (mem_cellsOf.1 hx).2.1, hlow]
  · exact hlow

theorem Product.put_low (p : Product) (core : Nat) (F : Nat → Nat → Res) (t : Tab W32) {j k : Nat} (hj : j < descM p.desc)
    (hk : k < descN p.desc) : Tab.read 0 (p.put core F t) (accKey core (descT p.desc) j k) = BitVec.ofNat 32 (F j k).bits := by
  have hM := descM_le p.desc
  have hN := descN_le p.desc
  have hlow := accCells_in core (descT p.desc) F t hM hN hj hk
  unfold Product.put
  split
  · rw [accCells_out _ fun x hx hkey => ?_, hlow]
    obtain ⟨hx1, hx2, -⟩ := mem_cellsOf.1 hx
    obtain ⟨ht, -, -⟩ := accKey_inj (by omega) (by omega) (by omega) (by omega) hkey
    omega
  · exact hlow

theorem Product.put_high {p : Product} (hw : p.wide = true) (core : Nat) (F : Nat → Nat → Res) (t : Tab W32) {j k : Nat}
    (hj : j < descM p.desc) (hk : k < descN p.desc) :
    Tab.read 0 (p.put core F t) (accKey core (descT p.desc + 1) j k) = BitVec.ofNat 32 ((F j k).bits / 2 ^ 32) := by
  rw [Product.put, if_pos hw]
  exact accCells_in core _ (upperHalf F) _ (descM_le _) (descN_le _) hj hk

theorem State.writeProduct_eq (s : State) (core : Nat) (p : Product) (F : Nat → Nat → Res) :
    ∃ b, s.writeProduct core p (cellsOf (descM p.desc) (descN p.desc) F) = { s with acc := p.put core F s.acc, accBad := b } := by
  obtain ⟨b, hb⟩ := s.setCells_eq core (descT p.desc) (cellsOf (descM p.desc) (descN p.desc) F)
  unfold State.writeProduct Product.put
  split
  · have hup : (cellsOf (descM p.desc) (descN p.desc) F).map (fun x => (x.1, x.2.1, (⟨x.2.2.bits / 2 ^ 32, 0⟩ : Res))) =
        cellsOf (descM p.desc) (descN p.desc) (upperHalf F) := by
      rw [cellsOf, List.map_map]
      rfl
    obtain ⟨b', hb'⟩ := ({ s with acc := accCells core (descT p.desc) (cellsOf (descM p.desc) (descN p.desc) F) s.acc, accBad := b } :
      State).setCells_eq core (descT p.desc + 1) (cellsOf (descM p.desc) (descN p.desc) (upperHalf F))
    exact ⟨b', by simp only [hb, hup, hb']⟩
  · exact ⟨b, hb⟩

/-- The result of an element, computed from the operands and the tile as they stand in a state. -/
def State.cellOf (s : State) (core : Nat) (lm : Memory) (p : Product) (j k : Nat) : Res :=
  p.cell (s.aRow core lm p j) (s.obRow core p.b k p.k) (s.start core p j k)

theorem State.product_eq (s : State) (core : Nat) (lm : Memory) (p : Product) :
    s.product core lm p = cellsOf (descM p.desc) (descN p.desc) (s.cellOf core lm p) := rfl

theorem State.obRow_congr {s t : State} (hob : t.ob = s.ob) (hmem : t.obMem = s.obMem) (core ref k n : Nat) :
    t.obRow core ref k n = s.obRow core ref k n := by
  have hnum : t.obNum = s.obNum := by unfold State.obNum; rw [hmem]
  unfold State.obRow
  rw [State.obRec_congr hob, hnum]

/-! ### Claims (06 R143, R144) -/

/-- One claim of a handle. -/
def State.claimOne (s : State) (core h : Nat) : State :=
  if (s.obRec core h).unc then s
  else if (s.obRec core h).count ≤ 1 then s.setRec core h { s.obRec core h with count := 0 }.free
  else s.setRec core h { s.obRec core h with count := (s.obRec core h).count - 1 }

theorem State.claim_eq (s : State) (core : Nat) (hs : List Nat) : s.claim core hs = hs.foldl (fun s h => s.claimOne core h) s := rfl

/-- Claims change records alone. -/
theorem State.claim_keeps {β : Type} {f : State → β} (h : ∀ s x, f { s with ob := x } = f s) (s : State) (core : Nat) (hs : List Nat) :
    f (s.claim core hs) = f s := by
  rw [State.claim_eq]
  refine foldl_keeps f _ (fun s k => ?_) hs s
  unfold State.claimOne
  split
  · rfl
  · split
    · exact h _ _
    · exact h _ _

/-- They depend on records alone. -/
theorem State.claim_congr {s t : State} (h : t.ob = s.ob) (core : Nat) (hs : List Nat) : (t.claim core hs).ob = (s.claim core hs).ob := by
  simp only [State.claim_eq]
  induction hs generalizing s t with
  | nil => exact h
  | cons k hs ih =>
    refine ih ?_
    simp only [State.claimOne, State.obRec_congr h]
    split
    · exact h
    · split
      · simp only [State.setRec, h]
      · simp only [State.setRec, h]

/-! ### How a product begins -/

section
variable {o : Ops} {m : ModX} {s : State} {e : Env}

/-- A product as its instruction names it; MMAG adds its entries, and the port that gave them. -/
def Env.namedProduct (e : Env) (o : Ops) (m : ModX) (op : Nat) : Product :=
  e.productOf m op (if op = 3 then e.entries e.a o.a.val.toNat (descM (e.c e.first % 2 ^ 32)) else [])
    (if op = 3 then (e.g.popped o (Instr.mmag o m).sig).head? else none)

/-- Index-vector lanes beyond the first register that are not empty hold nothing up (06 R153). -/
theorem Env.partner_of_full {rows : Nat} (h : ∀ l ∈ e.act, l + 32 < rows → e.g.isEmpty (.vec (o.a.val.toNat + 1) l) = false)
    (k : Env → Out) : e.partner o rows k = k e := by
  unfold Env.partner
  split
  · rfl
  · have hlate : (e.act.filter fun l => decide (l + 32 < rows) && e.g.isEmpty (.vec (o.a.val.toNat + 1) l)) = [] := by
      refine List.filter_eq_nil_iff.2 fun l hl => ?_
      simp only [Bool.and_eq_true, decide_eq_true_eq, not_and]
      exact fun hlt => by simp [h l hl hlt]
    simp only [hlate]

theorem exec_mmag (hb : BeginsActive (.mmag o m) s e)
    (h : ∀ l ∈ e.act, l + 32 < descM (e.c e.first % 2 ^ 32) → e.g.isEmpty (.vec (o.a.val.toNat + 1) l) = false) :
    exec (.mmag o m) s = e.product m (e.namedProduct o m 3) := by
  have hk := issue_of_begins hb.1 fun e => if e.act.isEmpty then e.commit e.g
    else e.partner o (descM (e.gc % 2 ^ 32)) fun e' => e'.product m (e'.productOf m 3
      (e'.entries e'.a o.a.val.toNat (descM (e.gc % 2 ^ 32))) (e'.g.popped o (Instr.mmag o m).sig).head?)
  rw [show needs (.mmag o m) = .all from rfl, show (Instr.mmag o m).len = o.len from rfl,
    show partsAt s (.mmag o m) = [{ o := o, sg := (Instr.mmag o m).sig, reg := s.mmagSpan o (Instr.mmag o m).sig }] from rfl] at hk
  rw [show exec (.mmag o m) s = execMmag o m s from rfl]
  refine hk.trans ?_
  rw [if_neg (by simpa using hb.2)]
  exact Env.partner_of_full h _

/-- MMA, MMAW, MDIST and MMAG with their OP. -/
def products (o : Ops) (m : ModX) : List (Instr × Nat) := [(.mma o m, 0), (.mmaw o m, 1), (.mdist o m, 2), (.mmag o m, 3)]

theorem exec_product {x : Instr × Nat} (hx : x ∈ products o m) (hb : BeginsActive x.1 s e)
    (h : x.2 = 3 → ∀ l ∈ e.act, l + 32 < descM (e.c e.first % 2 ^ 32) → e.g.isEmpty (.vec (o.a.val.toNat + 1) l) = false) :
    exec x.1 s = e.product m (e.namedProduct o m x.2) := by
  simp only [products, List.mem_cons, List.not_mem_nil, or_false] at hx
  obtain rfl | rfl | rfl | rfl := hx
  · exact exec_of_issue1 (show exec (.mma o m) s = execMma o m s from rfl) rfl rfl rfl hb.1
  · exact exec_of_issue1 (show exec (.mmaw o m) s = execMmaw o m s from rfl) rfl rfl rfl hb.1
  · exact exec_of_issue1 (show exec (.mdist o m) s = execMdist o m s from rfl) rfl rfl rfl hb.1
  · exact exec_mmag hb (h rfl)

theorem Env.product_of_bad (hf : s.fenced e.g.team 4 = false) (hs : e.s = s) (ha : e.act ≠ []) {p : Product} {b : Bad}
    (h : s.productBad e.g.core e.g.team p = some b) :
    e.product m p = e.trapAux b.cause b.detail e.first (BitVec.ofNat 64 b.addr) (BitVec.ofNat 64 b.aux) := by
  subst hs
  rw [Env.product, Env.matrix_of_free ha hf]
  exact Env.must_of_first h _ _

theorem Env.product_of_pass (hf : s.fenced e.g.team 4 = false) (hs : e.s = s) (ha : e.act ≠ []) {p : Product}
    (h : s.productBad e.g.core e.g.team p = none) (hrow : ∀ y ∈ p.ents, s.rowBad e.g.team (p.k * p.af.width / 8) y = false)
    (hpoison : s.productPoison e.g.core p = false) :
    e.product m p = if m.opf.getLsbD 0 then e.gangIssue p else e.runProduct p := by
  subst hs
  have hany : p.ents.any (e.s.rowBad e.g.team (p.k * p.af.width / 8)) = false := List.any_eq_false.2 (by simpa using hrow)
  rw [Env.product, Env.matrix_of_free ha hf, Env.must_of_pass (by simpa using h), if_neg (by simp [hany, hpoison])]

/-! ### A product issued alone -/

theorem Env.runProduct_of_exhausted {p : Product} {h : Nat} (hx : p.uses.find? (e.s.exhausted e.g.core p.uses) = some h) :
    e.runProduct p = e.trapAux 0xD 4 e.first 0 (BitVec.ofNat 64 h) := by
  rw [Env.runProduct]
  simp only [hx]

theorem Env.runProduct_eq (hs : e.s = s) (hn : NoShadow s) {p : Product} (hc : ∀ h ∈ p.uses, s.exhausted e.g.core p.uses h = false) :
    e.runProduct p = e.finish (((s.lmLook false e.g.team).1.writeProduct e.g.core p (s.product e.g.core (s.lmLook false e.g.team).2 p)).claim
      e.g.core p.uses) (e.g.flag (cellFlags (s.product e.g.core (s.lmLook false e.g.team).2 p))) := by
  subst hs
  have hfind : p.uses.find? (e.s.exhausted e.g.core p.uses) = none := List.find?_eq_none.2 (by simpa using hc)
  rw [Env.runProduct]
  simp only [hfind]
  refine (Env.arrayCheck_of_noShadow (e := { e with s := (e.s.lmLook false e.g.team).1 }) ((State.lmLook_shadow _ _).trans hn) _ _ _ _).trans ?_
  rw [or_zeroFlags]

theorem runProduct_writes {i : Instr} (hs : e.s = s) (hn : NoShadow s) {p : Product} (hx : exec i s = e.runProduct p)
    (hc : ∀ h ∈ p.uses, s.exhausted e.g.core p.uses h = false) :
    ∃ t g', exec i s = .next t ∧ t.group? e.u.gid = some g' ∧
      t.acc = p.put e.g.core (s.cellOf e.g.core (s.lmLook false e.g.team).2 p) s.acc ∧ t.ob = (s.claim e.g.core p.uses).ob ∧
      t.obMem = s.obMem ∧ t.mem = s.mem ∧ t.teams = (s.lmLook false e.g.team).1.teams ∧
      g'.astat = e.g.astat ||| cellFlags (s.product e.g.core (s.lmLook false e.g.team).2 p) ||| e.winOver ∧ g'.v = e.g.v ∧
      g'.sreg = e.g.sreg := by
  rw [Env.runProduct_eq hs hn hc] at hx
  obtain ⟨b, hw⟩ := (s.lmLook false e.g.team).1.writeProduct_eq e.g.core p (s.cellOf e.g.core (s.lmLook false e.g.team).2 p)
  rw [State.product_eq s e.g.core, hw] at hx
  refine ⟨_, _, hx, Env.after_group _ _ _ _, ?_, ?_, ?_, ?_, ?_, Env.goneOn_astat _ _ _ _, Env.goneOn_v _ _ _ _, Env.goneOn_sreg _ _ _ _⟩
  · rw [Env.after_acc, State.claim_keeps (f := fun s => s.acc) fun _ _ => rfl]
    exact congrArg (p.put e.g.core (s.cellOf e.g.core (s.lmLook false e.g.team).2 p)) (State.lmLook_acc s e.g.team)
  · rw [Env.after_ob]
    refine State.claim_congr ?_ _ _
    exact State.lmLook_ob s e.g.team
  · rw [Env.after_obMem, State.claim_keeps (f := fun s => s.obMem) fun _ _ => rfl]
    exact State.lmLook_obMem _ _
  · rw [Env.after_mem, State.claim_keeps (f := fun s => s.mem) fun _ _ => rfl]
    exact State.lmLook_mem _ _
  · rw [Env.after_teams, State.claim_keeps (f := fun s => s.teams) fun _ _ => rfl]

end

/-! ### Groups of a team and of a bundle -/

theorem Tab.mem_of_get? {α : Type} {t : Tab α} {k : Nat} {v : α} (h : Tab.get? t k = some v) : (k, v) ∈ t := by
  induction t with
  | nil => cases h
  | cons y t ih =>
    rw [Tab.get?_cons] at h
    split at h
    · cases h
      exact List.mem_cons.2 (.inl (Prod.ext (Eq.symm ‹_›) rfl))
    · exact List.mem_cons_of_mem _ (ih h)

theorem Tab.isSome_get?_of_mem {α : Type} {t : Tab α} {y : Nat × α} (h : y ∈ t) : (Tab.get? t y.1).isSome = true := by
  induction t with
  | nil => cases h
  | cons x t ih =>
    rw [Tab.get?_cons]
    split
    · rfl
    · obtain rfl | h := List.mem_cons.1 h
      · exact absurd rfl ‹_›
      · exact ih h

/-- What neither pops nor blocks change, an instruction sees of its group as the state holds it. -/
theorem Begins.group_keeps {β : Type} {f : Group → β} (hpop : ∀ g q, f (Group.pop g q) = f g)
    (hlanes : ∀ g ls, f { g with lanes := ls } = f g) {i : Instr} {s : State} {e : Env} (h : Begins i s e) {g : Group}
    (hg : s.group? e.u.gid = some g) : f e.g = f g := by
  obtain ⟨_, g', hg', _, he, _⟩ := h
  obtain rfl : g' = g := Option.some.inj (hg'.symm.trans hg)
  rw [he]
  refine (foldl_keeps f Group.pop hpop _ _).trans ?_
  rw [Group.blockLanes_eq]
  exact hlanes _ _

/-- The group of a bundle, with team, index and GANG as its instruction sees them. -/
theorem Begins.stored {i : Instr} {s : State} {e : Env} (h : Begins i s e) :
    ∃ g, s.group? e.u.gid = some g ∧ e.g.team = g.team ∧ e.g.gix = g.gix ∧ e.g.gang = g.gang := by
  obtain ⟨-, g, hg⟩ := h.group
  exact ⟨g, hg, h.group_keeps (f := (·.team)) (fun _ _ => rfl) (fun _ _ => rfl) hg,
    h.group_keeps (f := (·.gix)) (fun _ _ => rfl) (fun _ _ => rfl) hg, h.group_keeps (f := (·.gang)) (fun _ _ => rfl) (fun _ _ => rfl) hg⟩

/-! ### The latch (06 R159 to R161) -/

/-- Is a group held at the latch? -/
def Group.atLatch (g : Group) : Bool := g.hold.any fun h => h.kind.isGang

theorem State.latched_some {s : State} {team l : Nat} {z : Member} (h : s.latched team l = some z) :
    ∃ y ∈ s.teamGroups team, y.1 = z.gid ∧ y.2.gix = l ∧ y.2.atLatch = true := by
  obtain ⟨y, hy, hz⟩ := List.exists_of_findSome?_eq_some h
  refine ⟨y, hy, ?_⟩
  split at hz
  · split at hz
    · split at hz
      · cases hz
        exact ⟨rfl, ‹_›, by simp [Group.atLatch, HoldKind.isGang, *]⟩
      · cases hz
    · cases hz
  · cases hz

/-- A gang of two or more is not complete while groups of one index alone are held. -/
theorem State.members_eq_none {s : State} {team k : Nat} {gang : W32} (hlen : 2 ≤ (lanesOf gang).length)
    (h : ∀ l z, s.latched team l = some z → l = k) : s.members team gang = none := by
  unfold State.members
  refine if_neg fun hall => ?_
  have hone : ∀ l ∈ lanesOf gang, l = k := fun l hl => by
    obtain ⟨z, hz⟩ := Option.isSome_iff_exists.1 (List.filterMap_length_eq_length.1 hall l hl)
    exact h l z hz
  have hnodup := lanesOf_nodup gang
  match hl : lanesOf gang with
  | [] => simp [hl] at hlen
  | [_] => simp [hl] at hlen
  | a :: b :: ls =>
    rw [hl] at hone hnodup
    have hab : a = b := (hone a (by simp)).trans (hone b (by simp)).symm
    simp [hab] at hnodup

/-- The groups of a team at the latch in the order in which their gangs are looked at: the newcomer first. -/
def State.latchOrder (s : State) (gid team : Nat) : List (Nat × Group) :=
  ((s.teamGroups team).filter fun y => y.2.atLatch).filter (fun y => y.1 == gid) ++
    ((s.teamGroups team).filter fun y => y.2.atLatch).filter fun y => y.1 != gid

theorem State.meetGang_eq (s : State) (gid core team : Nat) : s.meetGang gid core team =
    match (s.latchOrder gid team).findSome? fun y => s.members team y.2.gang with
    | some ms => s.joint core team ms
    | none => s := rfl

/-- While no gang of a group at the latch is complete, none meets. -/
theorem State.meetGang_of_none {s : State} {gid core team : Nat}
    (h : ∀ y ∈ s.teamGroups team, y.2.atLatch = true → s.members team y.2.gang = none) : s.meetGang gid core team = s := by
  have hfind : (s.latchOrder gid team).findSome? (fun y => s.members team y.2.gang) = none := by
    refine List.findSome?_eq_none_iff.2 fun y hy => ?_
    have hmem : y ∈ (s.teamGroups team).filter fun y => y.2.atLatch :=
      (List.mem_append.1 hy).elim List.mem_of_mem_filter List.mem_of_mem_filter
    exact h y (List.mem_of_mem_filter hmem) (List.mem_filter.1 hmem).2
  rw [State.meetGang_eq, hfind]

/-- The gang of the newcomer meets if it is complete. -/
theorem State.meetGang_of_own {s : State} {gid core team : Nat} {ms : List Member} {x : Nat × Group} (hx : x ∈ s.teamGroups team)
    (hgid : x.1 = gid) (hat : x.2.atLatch = true)
    (h : ∀ y ∈ s.teamGroups team, y.1 = gid → s.members team y.2.gang = some ms) : s.meetGang gid core team = s.joint core team ms := by
  have hown : x ∈ ((s.teamGroups team).filter fun y => y.2.atLatch).filter fun y => y.1 == gid :=
    List.mem_filter.2 ⟨List.mem_filter.2 ⟨hx, hat⟩, by simpa using hgid⟩
  obtain ⟨y, ys, hys⟩ := List.exists_cons_of_ne_nil (List.ne_nil_of_mem hown)
  have hy : y ∈ ((s.teamGroups team).filter fun y => y.2.atLatch).filter fun y => y.1 == gid := hys ▸ List.mem_cons_self
  obtain ⟨hheld, hygid⟩ := List.mem_filter.1 hy
  rw [State.meetGang_eq, State.latchOrder, hys, List.cons_append, List.findSome?_cons,
    h y (List.mem_of_mem_filter hheld) (beq_iff_eq.1 hygid)]

theorem State.mem_of_members {s : State} {team : Nat} {gang : W32} {ms : List Member} (h : s.members team gang = some ms) {z : Member}
    (hz : z ∈ ms) : (s.group? z.gid).isSome = true := by
  unfold State.members at h
  dsimp only at h
  split at h
  · cases h
    obtain ⟨l, -, hl⟩ := List.mem_filterMap.1 hz
    obtain ⟨y, hy, hgid, -⟩ := State.latched_some hl
    rw [← hgid]
    exact Tab.isSome_get?_of_mem (List.mem_of_mem_filter hy)
  · cases h

section
variable {s : State} {e : Env}

/-- The hold of a group that waits at the latch with a product. -/
def Env.latchHold (e : Env) (s : State) (p : Product) : Hold :=
  ⟨.gang p, if e.g.inh then s.cycle else e.g.retry.getD s.cycle, maskOf e.lanes, e.u.pc, e.next, e.winOver⟩

/-- The state with the bundle's group at the latch. -/
def Env.latch (e : Env) (s : State) (p : Product) : State :=
  { s with cur := none }.modGroup e.u.gid fun g => { g with hold := some (e.latchHold s p), bundles := [] }

theorem Env.gangIssue_of_badGang {p : Product} (h : hasLane e.g.gang e.g.gix = false ∨ (lanesOf e.g.gang).length < 2) :
    e.gangIssue p = e.trap 0x10 1 e.first :=
  if_pos (by simpa using h)

theorem Env.gangIssue_of_missing {p : Product} (hg : hasLane e.g.gang e.g.gix = true) (hl : 2 ≤ (lanesOf e.g.gang).length)
    (h : ¬ ∀ l ∈ e.g.liveLanes, l ∈ e.lanes) : e.gangIssue p = e.trap 0x10 2 e.first := by
  rw [Env.gangIssue, if_neg (by simp [hg]; omega), if_pos (by simpa using h)]

theorem Env.gangIssue_eq (hs : e.s = s) {p : Product} (hg : hasLane e.g.gang e.g.gix = true) (hl : 2 ≤ (lanesOf e.g.gang).length)
    (h : ∀ l ∈ e.g.liveLanes, l ∈ e.lanes) :
    e.gangIssue p = .next ((e.latch s p).meetGang e.u.gid e.g.core e.g.team) := by
  subst hs
  rw [Env.gangIssue, if_neg (by simp [hg]; omega), if_neg (by simpa using h)]
  rfl

/-- Groups of a team with one at the latch: that one, held, and the others as they were. -/
theorem Env.mem_latch {p : Product} {y : Nat × Group} (h : y ∈ (e.latch s p).teamGroups e.g.team) :
    ∃ z ∈ s.teamGroups e.g.team, y.1 = z.1 ∧ y.2.gix = z.2.gix ∧ y.2.gang = z.2.gang ∧ (y.1 ≠ e.u.gid → y = z) := by
  obtain ⟨hy, hteam⟩ := List.mem_filter.1 h
  obtain ⟨z, hz, hyz⟩ := List.mem_map.1 hy
  refine ⟨z, List.mem_filter.2 ⟨hz, ?_⟩, ?_⟩
  · subst hyz
    revert hteam
    dsimp only
    split <;> exact id
  · split at hyz
    · subst hyz
      exact ⟨rfl, rfl, rfl, fun hne => absurd ‹_› hne⟩
    · subst hyz
      exact ⟨rfl, rfl, rfl, fun _ => rfl⟩

theorem Env.group_latch {p : Product} {g : Group} (hg : s.group? e.u.gid = some g) :
    (e.latch s p).group? e.u.gid = some { g with hold := some (e.latchHold s p), bundles := [] } := by
  rw [Env.latch, State.group?_modGroup, if_pos rfl]
  exact congrArg (Option.map _) hg

/-- One group alone of a team carries the bundle's number. -/
def OneOf (s : State) (e : Env) : Prop := ∀ y ∈ s.teamGroups e.g.team, y.1 = e.u.gid → s.group? e.u.gid = some y.2

theorem OneOf.latched (hone : OneOf s e) {g : Group} (hg : s.group? e.u.gid = some g) (hgix : e.g.gix = g.gix) (hgang : e.g.gang = g.gang)
    {p : Product} {y : Nat × Group} (hy : y ∈ (e.latch s p).teamGroups e.g.team) (hgid : y.1 = e.u.gid) :
    y.2.gix = e.g.gix ∧ y.2.gang = e.g.gang := by
  obtain ⟨z, hz, h1, h2, h3, -⟩ := Env.mem_latch hy
  obtain rfl := Option.some.inj (hg.symm.trans (hone z hz (h1.symm.trans hgid)))
  exact ⟨h2.trans hgix.symm, h3.trans hgang.symm⟩

/-- With no other group of the team at the latch the newcomer waits there. -/
theorem Env.meetGang_of_alone {i : Instr} (hb : Begins i s e) (hone : OneOf s e) (hl : 2 ≤ (lanesOf e.g.gang).length) {p : Product}
    (h : ∀ y ∈ s.teamGroups e.g.team, y.1 ≠ e.u.gid → y.2.atLatch = false) :
    (e.latch s p).meetGang e.u.gid e.g.core e.g.team = e.latch s p := by
  obtain ⟨g, hg, -, hgix, hgang⟩ := hb.stored
  have hheld : ∀ y ∈ (e.latch s p).teamGroups e.g.team, y.2.atLatch = true → y.1 = e.u.gid := fun y hy hat => by
    obtain ⟨z, hz, h1, -, -, hne⟩ := Env.mem_latch hy
    by_contra hgid
    obtain rfl := hne hgid
    rw [h y hz hgid] at hat
    cases hat
  have hnone : (e.latch s p).members e.g.team e.g.gang = none := State.members_eq_none hl fun l z hz => by
    obtain ⟨y, hy, -, hyl, hat⟩ := State.latched_some hz
    exact hyl.symm.trans (hone.latched hg hgix hgang hy (hheld y hy hat)).1
  refine State.meetGang_of_none fun y hy hat => ?_
  rw [(hone.latched hg hgix hgang hy (hheld y hy hat)).2]
  exact hnone

/-- When the newcomer's own gang is complete, that gang meets. -/
theorem Env.meetGang_of_complete {i : Instr} (hb : Begins i s e) (hone : OneOf s e) {p : Product} {ms : List Member}
    (h : (e.latch s p).members e.g.team e.g.gang = some ms) :
    (e.latch s p).meetGang e.u.gid e.g.core e.g.team = (e.latch s p).joint e.g.core e.g.team ms := by
  obtain ⟨g, hg, hteam, hgix, hgang⟩ := hb.stored
  have hown : (e.u.gid, ({ g with hold := some (e.latchHold s p), bundles := [] } : Group)) ∈ (e.latch s p).teamGroups e.g.team :=
    List.mem_filter.2 ⟨Tab.mem_of_get? (Env.group_latch hg), by simp [hteam]⟩
  refine State.meetGang_of_own hown rfl rfl fun y hy hgid => ?_
  rw [(hone.latched hg hgix hgang hy hgid).2]
  exact h

end
/-! ### The joint operation (06 R160 to R162) -/

/-- Accumulator memory once every member of a gang has written its product. -/
def jointPut (core : Nat) (F : Product → Nat → Nat → Res) (ms : List Member) (t : Tab W32) : Tab W32 :=
  ms.foldl (fun t x => x.p.put core (F x.p) t) t

theorem State.writeJoint_eq (core : Nat) (F : Product → Nat → Nat → Res) (ms : List Member) (s : State) :
    ∃ b, ms.foldl (fun t x => t.writeProduct core x.p (cellsOf (descM x.p.desc) (descN x.p.desc) (F x.p))) s =
      { s with acc := jointPut core F ms s.acc, accBad := b } := by
  induction ms generalizing s with
  | nil => exact ⟨s.accBad, rfl⟩
  | cons x ms ih =>
    obtain ⟨b, hb⟩ := s.writeProduct_eq core x.p (F x.p)
    obtain ⟨b', hb'⟩ := ih (s.writeProduct core x.p (cellsOf (descM x.p.desc) (descN x.p.desc) (F x.p)))
    exact ⟨b', by rw [List.foldl_cons, hb', hb]; rfl⟩

/-- Products that write other tiles leave an element. -/
theorem jointPut_out (core : Nat) (F : Product → Nat → Nat → Res) {ms : List Member} (t : Tab W32) {T j k : Nat} (hj : j < 64) (hk : k < 64)
    (h : ∀ x ∈ ms, T ∉ x.p.tiles) : Tab.read 0 (jointPut core F ms t) (accKey core T j k) = Tab.read 0 t (accKey core T j k) := by
  induction ms generalizing t with
  | nil => rfl
  | cons x ms ih =>
    have hM := descM_le x.p.desc
    have hN := descN_le x.p.desc
    refine (ih (x.p.put core (F x.p) t) fun y hy => h y (List.mem_cons_of_mem _ hy)).trans ?_
    refine Product.put_out _ _ _ _ fun q hq j' hj' k' hk' hkey => ?_
    obtain ⟨rfl, -, -⟩ := accKey_inj hj (by omega) hk (by omega) hkey
    exact h x List.mem_cons_self hq

/-- Where no tiles overlap, every member's tile holds its product. -/
theorem jointPut_low (core : Nat) (F : Product → Nat → Nat → Res) {ms : List Member} (t : Tab W32) (h : overlapTiles ms = false) {z : Member}
    (hz : z ∈ ms) {j k : Nat} (hj : j < descM z.p.desc) (hk : k < descN z.p.desc) :
    Tab.read 0 (jointPut core F ms t) (accKey core (descT z.p.desc) j k) = BitVec.ofNat 32 (F z.p j k).bits := by
  induction ms generalizing t with
  | nil => cases hz
  | cons x ms ih =>
    obtain ⟨hx, hrest⟩ := Bool.or_eq_false_iff.1 h
    obtain rfl | hz := List.mem_cons.1 hz
    · have hM := descM_le z.p.desc
      have hN := descN_le z.p.desc
      have hother : ∀ y ∈ ms, descT z.p.desc ∉ y.p.tiles := fun y hy hT =>
        List.any_eq_false.1 hx y hy (List.any_eq_true.2 ⟨_, Product.mem_tiles.2 (.inl rfl), by simpa using hT⟩)
      exact (jointPut_out core F _ (by omega) (by omega) hother).trans (z.p.put_low core (F z.p) t hj hk)
    · exact ih _ hrest hz

theorem overlapTiles_of_gangCode {y : Member} {ms : List Member} (h : gangCode y ms = 0) : overlapTiles ms = false := by
  unfold gangCode at h
  dsimp only at h
  split at h
  · cases h
  · split at h
    · cases h
    · split at h
      · cases h
      · split at h
        · cases h
        · exact Bool.eq_false_iff.2 ‹_›

/-- A result depends on accumulator memory, records and the operand buffer. -/
theorem State.cellOf_congr {s t : State} (hacc : t.acc = s.acc) (hob : t.ob = s.ob) (hmem : t.obMem = s.obMem) (core : Nat) (lm : Memory)
    (p : Product) : t.cellOf core lm p = s.cellOf core lm p := by
  have helem : t.elem = s.elem := by unfold State.elem; rw [hacc]
  funext j k
  rw [State.cellOf, State.cellOf, State.start, State.start, State.aRow, State.aRow, State.obRow_congr hob hmem, State.obRow_congr hob hmem,
    helem]

/-- An instruction that completes at the latch changes groups and what they are charged. -/
theorem State.endMember_keeps {β : Type} {f : State → β} (hgroups : ∀ s x, f { s with groups := x } = f s)
    (hgrids : ∀ s x, f { s with grids := x } = f s) (s : State) (x : Member) (fl : W32) : f (s.endMember x fl) = f s := by
  unfold State.endMember State.releaseGroup
  split
  · exact hgroups _ _
  · exact (hgrids _ _).trans ((hgroups _ _).trans (hgroups _ _))

theorem Group.hold_release (g : Group) (cycle : Nat) : (g.release cycle).hold = none := by
  unfold Group.release
  split
  · assumption
  · rfl

/-- A member leaves the latch, and other groups stay. -/
theorem State.group?_endMember (s : State) (x : Member) (fl : W32) (k : Nat) :
    (k ≠ x.gid → (s.endMember x fl).group? k = s.group? k) ∧
    (∀ g, s.group? x.gid = some g → ∃ g', (s.endMember x fl).group? x.gid = some g' ∧ g'.hold = none) := by
  refine ⟨fun hk => ?_, fun g hg => ?_⟩
  · unfold State.endMember State.releaseGroup
    split
    · rw [State.group?_modGroup, if_neg hk]
    · rw [State.group?_charge, State.group?_setGroup_ne _ _ hk, State.group?_modGroup, if_neg hk]
  · unfold State.endMember State.releaseGroup
    rw [State.group?_modGroup, if_pos rfl, hg]
    exact ⟨_, (State.group?_charge _ _ _).trans (State.group?_setGroup_self _ _ _), Group.hold_release _ _⟩

/-- Once every member has left, none of them is held. -/
theorem State.hold_endMembers (fl : W32) {ms : List Member} {s : State} {k : Nat} (hk : (s.group? k).isSome = true)
    (h : k ∈ ms.map (·.gid) ∨ ∃ g, s.group? k = some g ∧ g.hold = none) :
    ∃ g, (ms.foldl (fun t x => t.endMember x fl) s).group? k = some g ∧ g.hold = none := by
  induction ms generalizing s with
  | nil => exact h.resolve_left (by simp)
  | cons x ms ih =>
    obtain ⟨g, hg⟩ := Option.isSome_iff_exists.1 hk
    obtain ⟨hother, hown⟩ := s.group?_endMember x fl k
    by_cases hkx : k = x.gid
    · subst hkx
      obtain ⟨g', hg', hnone⟩ := hown g hg
      exact ih (by rw [hg']; rfl) (.inr ⟨g', hg', hnone⟩)
    · have hsame := hother hkx
      refine ih (by rw [hsame]; exact hk) ?_
      obtain hmem | hnone := h
      · rw [List.map_cons, List.mem_cons] at hmem
        exact .inl (hmem.resolve_left hkx)
      · exact .inr (by rw [hsame]; exact hnone)

/-- Banks kept, counts enough, the members agreed and no poison or mismatch in the way: the joint operation runs. -/
theorem State.joint_eq {s : State} {core team : Nat} {y : Member} {ys : List Member} (hn : NoShadow s)
    (hz : ∀ z ∈ y :: ys, s.bankLost core team z = none ∧ s.productPoison core z.p = false) (hcode : gangCode y (y :: ys) = 0)
    (hc : ∀ h ∈ jointUses (y :: ys), s.exhausted core (jointUses (y :: ys)) h = false) :
    s.joint core team (y :: ys) = s.runJoint core team (y :: ys) := by
  have hbank : (y :: ys).any (fun x => (s.bankLost core team x).isSome) = false :=
    List.any_eq_false.2 fun z hzm => by simp [(hz z hzm).1]
  have hpoison : (y :: ys).any (fun x => s.productPoison core x.p) = false :=
    List.any_eq_false.2 fun z hzm => by simp [(hz z hzm).2]
  have hover : (y :: ys).any (fun x => (s.overRead core (y :: ys) x).isSome) = false := by
    refine List.any_eq_false.2 fun z hzm => ?_
    have hb := hc (z.p.b % 65536) (List.mem_append_left _ (List.mem_eraseDups.2 (List.mem_map.2 ⟨z, hzm, rfl⟩)))
    have ha : z.p.gathers = false → s.exhausted core (jointUses (y :: ys)) (z.p.a % 65536) = false := fun hg =>
      hc _ (List.mem_append_right _ (List.mem_filterMap.2 ⟨z, hzm, by simp [hg]⟩))
    unfold State.overRead
    cases hg : z.p.gathers with
    | true => simp [hb]
    | false => simp [hb, ha hg]
  have hshadow : ¬ 2 ≤ s.shadow := by rw [show s.shadow = 0 from hn]; omega
  unfold State.joint
  dsimp only
  rw [if_neg (by simp [hbank]), if_neg (by simp [hover]), if_neg (by simp [hcode]), if_neg (by simp [hpoison]), if_neg hshadow]

/-- The flags of all members, which go to each of them (04 R86). -/
def State.jointFlags (s : State) (core team : Nat) (ms : List Member) : W32 :=
  ms.foldl (fun f x => f ||| cellFlags (s.product core (s.lmLook false team).2 x.p))
    (ms.foldl (fun f x => match x.g.hold with | some h => f ||| h.flags | none => f) s.retryFlag)

theorem State.runJoint_eq {s : State} (hn : NoShadow s) (core team : Nat) (ms : List Member) :
    ∃ b, s.runJoint core team ms = ms.foldl (fun t x => t.endMember x (s.jointFlags core team ms))
      ({ (s.lmLook false team).1 with
        acc := jointPut core (s.cellOf core (s.lmLook false team).2) ms s.acc, accBad := b }.claim core (jointUses ms)) := by
  obtain ⟨b, hb⟩ := State.writeJoint_eq core (s.cellOf core (s.lmLook false team).2) ms (s.lmLook false team).1
  rw [State.lmLook_acc] at hb
  have hpass : (s.lmLook false team).1.passed core = (s.lmLook false team).1 :=
    if_pos ((State.lmLook_shadow s team).trans hn)
  refine ⟨b, ?_⟩
  rw [← hb, State.runJoint]
  simp only [List.foldl_map, hpass]
  rfl

/-- Every member's tile holds its product, the members leave the latch, and the claims are taken. -/
theorem State.runJoint_writes {s : State} (hn : NoShadow s) (core team : Nat) {ms : List Member} (ho : overlapTiles ms = false) :
    (∀ z ∈ ms, ∀ j < descM z.p.desc, ∀ k < descN z.p.desc, (s.runJoint core team ms).elem core (descT z.p.desc) j k =
      BitVec.ofNat 32 (s.cellOf core (s.lmLook false team).2 z.p j k).bits) ∧
    (∀ z ∈ ms, (s.group? z.gid).isSome = true → ∃ g', (s.runJoint core team ms).group? z.gid = some g' ∧ g'.hold = none) ∧
    (s.runJoint core team ms).ob = (s.claim core (jointUses ms)).ob ∧ (s.runJoint core team ms).mem = s.mem := by
  obtain ⟨b, h⟩ := State.runJoint_eq hn core team ms
  have hgroup : ∀ k, (s.lmLook false team).1.group? k = s.group? k := fun k => by
    obtain ⟨n, ts, hl⟩ := s.lmLook_eq team
    rw [hl]
    rfl
  rw [h]
  refine ⟨fun z hz j hj k hk => ?_, fun z hz hsome => ?_, ?_, ?_⟩
  · rw [State.elem, foldl_keeps (fun t : State => t.acc) _ (State.endMember_keeps (fun _ _ => rfl) (fun _ _ => rfl) · · _),
      State.claim_keeps (f := fun s => s.acc) fun _ _ => rfl]
    exact jointPut_low core _ _ ho hz hj hk
  · refine State.hold_endMembers _ ?_ (.inl (List.mem_map_of_mem hz))
    rw [State.claim_keeps (f := fun s => s.group? z.gid) fun _ _ => rfl]
    exact (congrArg Option.isSome (hgroup z.gid)).trans hsome
  · rw [foldl_keeps (fun t : State => t.ob) _ (State.endMember_keeps (fun _ _ => rfl) (fun _ _ => rfl) · · _)]
    refine State.claim_congr ?_ _ _
    exact State.lmLook_ob s team
  · rw [foldl_keeps (fun t : State => t.mem) _ (State.endMember_keeps (fun _ _ => rfl) (fun _ _ => rfl) · · _),
      State.claim_keeps (f := fun s => s.mem) fun _ _ => rfl]
    exact State.lmLook_mem s team

/-! ### A product with GANG -/

section
variable {s : State} {e : Env} {i : Instr} {p : Product}

/-- The newcomer waits at the latch, and nothing else changes. -/
theorem gangIssue_waits (hb : Begins i s e) (hx : exec i s = e.gangIssue p) (hg : hasLane e.g.gang e.g.gix = true)
    (hl : 2 ≤ (lanesOf e.g.gang).length) (hall : ∀ l ∈ e.g.liveLanes, l ∈ e.lanes) (hone : OneOf s e)
    (h : ∀ y ∈ s.teamGroups e.g.team, y.1 ≠ e.u.gid → ∀ h, y.2.hold = some h → h.kind.isGang = false) :
    ∃ t g' h, exec i s = .next t ∧ t.group? e.u.gid = some g' ∧ g'.hold = some h ∧ h.kind = .gang p ∧ h.pc = e.u.pc ∧
      t.acc = s.acc ∧ t.ob = s.ob ∧ t.mem = s.mem := by
  obtain ⟨g, hgroup, -⟩ := hb.stored
  have hother : ∀ y ∈ s.teamGroups e.g.team, y.1 ≠ e.u.gid → y.2.atLatch = false := fun y hy hne => by
    unfold Group.atLatch
    cases hy2 : y.2.hold with
    | none => rfl
    | some k => exact h y hy hne k hy2
  rw [Env.gangIssue_eq hb.env_s hg hl hall, Env.meetGang_of_alone hb hone hl hother] at hx
  exact ⟨_, _, _, hx, Env.group_latch hgroup, rfl, rfl, rfl, rfl, rfl, rfl⟩

/-- The newcomer completes its gang, and every member's product is written, computed from the state before. -/
theorem gangIssue_joins (hb : Begins i s e) (hn : NoShadow s) (hx : exec i s = e.gangIssue p) (hg : hasLane e.g.gang e.g.gix = true)
    (hl : 2 ≤ (lanesOf e.g.gang).length) (hall : ∀ l ∈ e.g.liveLanes, l ∈ e.lanes) (hone : OneOf s e) {u : State} {y : Member}
    {ys : List Member} (hu : e.holdFor s (.gang p) = .next u) (hms : u.members e.g.team e.g.gang = some (y :: ys))
    (hz : ∀ z ∈ y :: ys, u.bankLost e.g.core e.g.team z = none ∧ u.productPoison e.g.core z.p = false)
    (hcode : gangCode y (y :: ys) = 0)
    (hc : ∀ h ∈ jointUses (y :: ys), s.exhausted e.g.core (jointUses (y :: ys)) h = false) :
    ∃ t, exec i s = .next t ∧
      (∀ z ∈ y :: ys, ∀ j < descM z.p.desc, ∀ k < descN z.p.desc, t.elem e.g.core (descT z.p.desc) j k =
        BitVec.ofNat 32 (s.cellOf e.g.core (s.lmLook false e.g.team).2 z.p j k).bits) ∧
      (∀ z ∈ y :: ys, ∃ g', t.group? z.gid = some g' ∧ g'.hold = none) ∧
      t.ob = (s.claim e.g.core (jointUses (y :: ys))).ob ∧ t.mem = s.mem := by
  obtain rfl : e.latch s p = u := by injection (show (.next (e.latch s p) : Out) = .next u from hu)
  have hlook : ((e.latch s p).lmLook false e.g.team).2 = (s.lmLook false e.g.team).2 :=
    State.lmLook_congr (s := s) (u := e.latch s p) rfl rfl _
  have hcell : ∀ lm q, (e.latch s p).cellOf e.g.core lm q = s.cellOf e.g.core lm q := fun lm q =>
    State.cellOf_congr (s := s) (t := e.latch s p) rfl rfl rfl _ lm q
  obtain ⟨helem, hheld, hob, hmem⟩ := State.runJoint_writes (s := e.latch s p) hn e.g.core e.g.team (overlapTiles_of_gangCode hcode)
  rw [Env.gangIssue_eq hb.env_s hg hl hall, Env.meetGang_of_complete hb hone hms, State.joint_eq (s := e.latch s p) hn hz hcode hc] at hx
  refine ⟨_, hx, fun z hzm j hj k hk => ?_, fun z hzm => hheld z hzm (State.mem_of_members hms hzm),
    hob.trans (State.claim_congr (s := s) (t := e.latch s p) rfl _ _), hmem⟩
  rw [helem z hzm j hj k hk, hlook, hcell]

end

/-- Settles O48, by the checks that a product passes and by its GANG field. That a gang's MMAG members read their rows at the joint
point is the model's reading (DEDUCED, log 50). -/
theorem productsComplete : Obligations.ProductsComplete := by
  intro o m s e hf hn core team nrows look x hx hb hfull p T cell
  have hs := hb.1.env_s
  have hexec : exec x.1 s = e.product m p := exec_product hx hb hfull
  refine ⟨fun b hbad => ?_, fun hok hrow hpoison => ?_⟩
  · rw [hexec, Env.product_of_bad hf hs hb.2 hbad, Env.trapAux, hs]
  have hpass := hexec.trans (Env.product_of_pass hf hs hb.2 hok hrow hpoison)
  refine ⟨fun hgang => ⟨fun h hh => ?_, fun hc => ?_⟩, fun hgang => ?_⟩
  · rw [hpass, if_neg (by rw [hgang]; exact Bool.false_ne_true), Env.runProduct_of_exhausted (by rw [hs]; exact hh), Env.trapAux, hs]
  · rw [if_neg (by rw [hgang]; exact Bool.false_ne_true)] at hpass
    obtain ⟨t, g', ht, hg, hacc, hob, hobMem, hmem, hteams, hflags, hv, hsreg⟩ := runProduct_writes hs hn hpass hc
    refine ⟨t, g', ht, hg, fun j hj k hk => ⟨?_, fun hwide => ?_⟩, fun y hy => ?_, hob, hobMem, hmem, hteams, hflags, hv, hsreg⟩
    · rw [State.elem, hacc]
      exact Product.put_low p _ _ _ hj hk
    · rw [State.elem, hacc]
      exact Product.put_high (p := p) (beq_iff_eq.2 hwide) _ _ _ hj hk
    · rw [hacc]
      exact Product.put_out p _ _ _ hy
  · rw [if_pos hgang] at hpass
    refine ⟨fun hbad => ?_, fun hg hl => ⟨fun hmiss => ?_, fun hall hone => ⟨fun hother => ?_, fun u y ys hu hms hz hcode hc => ?_⟩⟩⟩
    · exact hpass.trans (by rw [Env.gangIssue_of_badGang hbad, Env.trap, Env.trapAux, hs])
    · exact hpass.trans (by rw [Env.gangIssue_of_missing hg hl hmiss, Env.trap, Env.trapAux, hs])
    · exact gangIssue_waits hb.1 hpass hg hl hall hone hother
    · obtain ⟨t, ht, helem, hheld, hob, hmem⟩ := gangIssue_joins hb.1 hn hpass hg hl hall hone hu hms hz hcode hc
      exact ⟨t, ht, fun z hzm _ => helem z hzm, hheld, hob, hmem⟩

end Sys2Proof.Machine
end

section
/-! A local atomic whose destination is a queue port (obligation O35, refuted). -/

namespace Sys2Proof.Machine

/-! ### Where the value of ATOML to a port goes

A long-latency result named for a port goes to the entry that the instruction pushes (02 R53): `Env.result` sends it to
`e.g.into d`. The statement says so of the loads, and of ATOML and CASL that the value sets out for the register named. -/

/-- The loaded program's group in compatibility mode, in which v248 to v255 are queue ports (02 R52). -/
def portGroup : Group := { loadGroup with compat := true }

/-- That group, its lane 0 about to issue alone. -/
def ported : State := { loaded.setGroup 0 portGroup with cur := some ⟨0, 1, 0x10000, true⟩ }

/-- Destination v248, source A the literal 0 and source B the literal 1. -/
def portOps : Ops := ⟨.w64, false, 7, 248, ⟨.lit, 0, false⟩, ⟨.lit, 1, false⟩, .zero, 0, 0, 0, 0⟩

/-- ATOML.ADD of 1 to the word at local address 0, its old value to port 0. -/
def atomlToPort : Instr := .atoml portOps ⟨0, .rlx, .thread, .b32⟩

/-- What the instruction sees. -/
def portedEnv : Env := ported.issueEnv atomlToPort.len (partsAt ported atomlToPort) ⟨0, 1, 0x10000, true⟩ portGroup

theorem begins_atomlToPort : Begins atomlToPort ported portedEnv :=
  ⟨rfl, portGroup, Tab.get?_set_self _ _ _, by decide +kernel, rfl, by decide +kernel, by decide +kernel⟩

/-- The registers that the results on their way are for, in the state that follows. -/
def resultDests : Out → List DReg
  | .next t => t.results.flatMap fun r => r.writes.map (·.1)
  | _ => []

/-- Refutes O35: the old value of ATOML to v248 in compatibility mode sets out for slot 0 of port 0, where the statement says v248. -/
theorem not_localAccessesCompleteAtOnce : ¬ Obligations.LocalAccessesCompleteAtOnce := by
  intro h
  obtain ⟨-, -, -, -, -, -, -, hatoml, -⟩ := h portOps ⟨0, .rlx, .thread, .b32⟩ ported portedEnv
  have hgood : (0 + 4 ≤ ported.lmSize portedEnv.g.team ∧ 0 % 4 = 0 ∧ ported.lmBad portedEnv.g.team 0 4 = false) := by
    decide +kernel
  obtain ⟨t, ⟨-, hexec, -⟩, hresults, -⟩ := hatoml 0 begins_atomlToPort (by decide +kernel) (by decide +kernel) hgood
  have hport : resultDests (exec atomlToPort ported) = [.port 0 0 0] := by decide +kernel
  have hvec : resultDests (exec atomlToPort ported) = [.vec 248 0] := by
    rw [show exec atomlToPort ported = .next t from hexec, resultDests, hresults]
    rfl
  exact absurd (hport.symm.trans hvec) (by decide)

end Sys2Proof.Machine
end

section
/-! Fences block, mark or hold, and hints leave registers and local memory (obligation O38). -/

namespace Sys2Proof.Machine

/-! ### A bundle that goes on with its registers as they are -/

/-- What was answered is a next state in which the bundle's group is `g'`, with the registers that the instruction saw and no new flag
but that of a window source; local memory is as in `s`. -/
def RunsOn (x : Out) (s : State) (e : Env) (t : State) (g' : Group) : Prop :=
  x = .next t ∧ t.group? e.u.gid = some g' ∧ g'.v = e.g.v ∧ g'.sreg = e.g.sreg ∧ g'.astat = e.g.astat ||| e.winOver ∧
    t.teams = s.teams

section
variable {x : Out} {s u : State} {e : Env}

theorem runsOn_of_finish {g : Group} (hg : ∃ ls, g = { e.g with lanes := ls }) (hx : x = e.finish u g) (ht : u.teams = s.teams) :
    RunsOn x s e (e.after u g fun _ => e.next) (e.goneOn u g fun _ => e.next) := by
  obtain ⟨ls, rfl⟩ := hg
  exact ⟨hx, e.after_group _ _ _, Env.goneOn_v _ _ _ _, Env.goneOn_sreg _ _ _ _, Env.goneOn_astat _ _ _ _,
    (Env.after_teams _ _ _ _).trans ht⟩

theorem runsOn_of_finish_same (hx : x = e.finish u e.g) (ht : u.teams = s.teams) :
    RunsOn x s e (e.after u e.g fun _ => e.next) (e.goneOn u e.g fun _ => e.next) := runsOn_of_finish ⟨e.g.lanes, rfl⟩ hx ht

/-- As a bundle goes on its lanes keep what blocks them. -/
theorem Env.goneOn_block (e : Env) (s : State) (g : Group) (dest : Nat → W64) (h : e.lanes.Nodup) (l : Nat) :
    ((e.goneOn s g dest).lane l).block = (g.lane l).block := by
  rw [e.goneOn_lane s g dest h l]
  dsimp only
  split_ifs <;> rfl

end

/-! ### FENCE (07 R186, 08 R229) -/

/-- Lanes wait until their reads, or their writes too, have been performed. -/
def Group.drain (g : Group) (ls : List Nat) (r w far : Bool) (cycle : Nat) : Group :=
  g.modLanes ls fun x => { x with block := some (.drain r w far), since := cycle }

theorem Group.drain_eq (g : Group) (ls : List Nat) (r w far : Bool) (cycle : Nat) :
    g.drain ls r w far cycle = { g with lanes := (g.drain ls r w far cycle).lanes } := Group.modLanes_eq _ _ _

theorem Group.drain_block (g : Group) {ls : List Nat} (hls : ls.Nodup) (r w far : Bool) (cycle : Nat) {l : Nat} (hl : l ∈ ls) :
    ((g.drain ls r w far cycle).lane l).block = some (.drain r w far) := by
  rw [Group.drain, Group.lane_modLanes _ _ _ hls, if_pos hl]

/-- The mark that FENCE.REL sends. -/
def Env.fenceMark (e : Env) (s : State) (sc : Scope) : Req :=
  e.req ⟨⟨e.first, e.mask, 0, 0, .read⟩, 0, []⟩ .fence .b32 .rlx sc s.nextId 0 0 []

section
variable {o : Ops} {m : ModM} {s : State} {e : Env}

/-- FENCE by its order: it waits for all accesses, for reads, marks, or does nothing. -/
theorem exec_fence (hb : Begins (.fence o m) s e) :
    exec (.fence o m) s =
      match m.ord with
      | .rlx => if m.scope == .thread then e.commit e.g else e.commit (e.g.drain e.act true true (farScope m.scope) s.cycle)
      | .acq => e.commit (e.g.drain e.act true false (farScope m.scope) s.cycle)
      | .ar => e.commit (e.g.drain e.act true true (farScope m.scope) s.cycle)
      | .rel =>
        if e.act.isEmpty then e.commit e.g
        else e.finish (({ s with nextId := s.nextId + 1 } : State).sendReq (e.fenceMark s m.scope)) e.g :=
  exec_of_issue1 (show exec (.fence o m) s = execFence o m s from rfl) rfl rfl rfl hb

/-- A FENCE that waits blocks its active threads and goes on. -/
theorem fence_blocks (hb : Begins (.fence o m) s e) {r w : Bool}
    (hx : exec (.fence o m) s = e.commit (e.g.drain e.act r w (farScope m.scope) s.cycle)) :
    ∃ t g', RunsOn (exec (.fence o m) s) s e t g' ∧ t.mem = s.mem ∧ (∀ l ∈ e.lanes, g'.epc l = e.next) ∧
      ∀ l ∈ e.act, (g'.lane l).block = some (.drain r w (farScope m.scope)) := by
  have hs := hb.env_s
  refine ⟨_, _, runsOn_of_finish ⟨_, Group.drain_eq _ _ _ _ _ _⟩ hx (by rw [hs]), (Env.after_mem _ _ _ _).trans (by rw [hs]),
    fun l hl => e.goneOn_epc _ _ _ hb.lanes_nodup hl, fun l hl => ?_⟩
  rw [Env.goneOn_block _ _ _ _ hb.lanes_nodup]
  exact Group.drain_block _ hb.act_nodup _ _ _ _ hl

/-- Any other FENCE leaves its threads as they are. -/
theorem fence_passes {u : State} (hb : Begins (.fence o m) s e) (hx : exec (.fence o m) s = e.finish u e.g)
    (hm : u.mem = s.mem) (ht : u.teams = s.teams) :
    ∃ t g', RunsOn (exec (.fence o m) s) s e t g' ∧ t.mem = s.mem ∧ (∀ l ∈ e.lanes, g'.epc l = e.next) ∧
      t.fabric = u.fabric ∧ ∀ l, (g'.lane l).block = (e.g.lane l).block :=
  ⟨_, _, runsOn_of_finish_same hx ht, (Env.after_mem _ _ _ _).trans hm,
    fun _ hl => e.goneOn_epc _ _ _ hb.lanes_nodup hl, Env.after_fabric _ _ _ _,
    fun l => e.goneOn_block _ _ _ hb.lanes_nodup l⟩

end

/-! ### FENCEX (07 R189) -/

section
variable {o : Ops} {m : ModM} {s : State} {e : Env}

/-- A fence is recorded. -/
def State.addFence (s : State) (f : FenceX) : State := { s with nextId := s.nextId + 1, fences := s.fences ++ [f] }

/-- A group is held until a fence completes. -/
def State.holdFence (s : State) (e : Env) (f : FenceX) : State :=
  s.modGroup e.u.gid fun g => { g with hold := some ⟨.fencex f.id, s.cycle, e.bundle, e.u.pc, e.next, 0⟩, bundles := [] }

theorem State.group?_holdFence {s : State} {e : Env} {g : Group} (hg : s.group? e.u.gid = some g) (f : FenceX) :
    (s.holdFence e f).group? e.u.gid =
      some { g with hold := some ⟨.fencex f.id, s.cycle, e.bundle, e.u.pc, e.next, 0⟩, bundles := [] } := by
  rw [State.holdFence, State.group?_modGroup, if_pos rfl, hg]
  rfl

/-- What FENCEX records of the accesses, nodes, sends and gangs before it, by its first class. -/
def Env.fenceOf (e : Env) (m : ModM) (s : State) : FenceX :=
  let x := (m.opf.extractLsb' 0 3).toNat
  { id := s.nextId, gid := e.u.gid, team := e.g.team, x := x, y := (m.opf.extractLsb' 3 3).toNat, scope := m.scope,
    tags := if x = 0 then (s.inFlight e.u.gid (BitVec.allOnes 32)).map (·.tag) else [],
    nodes := s.startedNodes e.g.team x,
    sends := if x = 3 then (s.sends.filter fun d => d.src == e.g.team).map (·.id) else []
    gangs := if x = 4 then (s.teamGroups e.g.team).flatMap fun k => match k.2.hold with
      | some h => (match h.kind with | .gang _ => [(k.1, h.since)] | _ => [])
      | none => []
      else [] }

/-- FENCEX records a fence, and holds its group where the second class is the core's. -/
theorem exec_fencex (hb : BeginsActive (.fencex o m) s e) :
    exec (.fencex o m) s =
      .next (if (e.fenceOf m s).y = 0 then
        (e.after (s.addFence (e.fenceOf m s)) e.g fun _ => e.next).holdFence e (e.fenceOf m s)
      else e.after (s.addFence (e.fenceOf m s)) e.g fun _ => e.next) := by
  obtain ⟨hb, ha⟩ := hb
  refine (exec_of_issue1 (show exec (.fencex o m) s = execFencex o m s from rfl) rfl rfl rfl hb).trans ?_
  dsimp only
  rw [if_neg (by simpa using ha)]
  rfl

/-- A fence whose accesses are performed ends, and with it the hold of its group. -/
theorem exec_fencexComplete {n : Nat} {f : FenceX} {g : Group} {h : Hold} (hf : s.fences[n]? = some f) (hd : s.fenceDone f = true)
    (hg : s.group? f.gid = some g) (hh : g.hold = some h) (hk : h.kind = .fencex f.id) :
    ∃ t, exec (.fencexComplete n) s = .next t ∧ t.fences = s.fences.eraseIdx n ∧
      t.group? f.gid = some { g with hold := none } := by
  obtain ⟨ts, hts⟩ : ∃ ts, (if f.x = 0 then (if f.y = 0 then { s with fences := s.fences.eraseIdx n }
      else State.seeCore { s with fences := s.fences.eraseIdx n } f.team)
      else if f.y = 0 then State.seeEngine { s with fences := s.fences.eraseIdx n } f.team (fun c => c == f.x)
      else { s with fences := s.fences.eraseIdx n }) = { s with fences := s.fences.eraseIdx n, teams := ts } := by
    split_ifs <;> exact ⟨_, rfl⟩
  have hexec : exec (.fencexComplete n) s = _ := show execFencexComplete n s = _ by
    simp only [execFencexComplete, hf, hd, if_true, hts]
    rfl
  refine ⟨_, hexec, rfl, ?_⟩
  rw [State.group?_modGroup, if_pos rfl]
  show (s.group? f.gid).map _ = _
  simp [hg, hh, hk]

end

/-! ### Hints (08 R231 to R233) -/

section
variable {i : Instr} {s : State} {e : Env} {fetch : Bool} {f : State → Nat → State} {vas : List W64}

/-- A hint none of whose walks waits or stops the context goes on in the state that its walks leave. -/
theorem hinted_runsOn (hb : Begins i s e) (hx : exec i s = e.hinted fetch f vas) {r : State × List (Acc × Tr)} {h : State}
    (hr : r = s.translateAll e.asker ((vas.filter canonical).map fun va => ⟨e.first, e.mask, va, 1, .read⟩))
    (hh : h = r.1.hints e.asker e.u.gid e.mask fetch f vas) (hw : ∀ t ∈ r.2, t.2 ≠ .wait) (hc : h.cur.isSome = true)
    (ht : h.teams = s.teams) :
    ∃ t g', RunsOn (exec i s) s e t g' ∧ t.mem = h.mem ∧ ∀ l ∈ e.lanes, g'.epc l = e.next := by
  have hwait : (r.2.any fun t => t.2 == .wait) = false := List.any_eq_false.2 fun t hm => by simpa using hw t hm
  have hfin : exec i s = e.finish h e.g := by
    rw [hx, Env.hinted, hb.env_s]
    simp only [← hr, ← hh, hwait, Option.isNone_eq_false_iff.2 hc, Bool.false_eq_true, if_false]
  exact ⟨_, _, runsOn_of_finish_same hfin ht, Env.after_mem _ _ _ _, fun _ hl => e.goneOn_epc _ _ _ hb.lanes_nodup hl⟩

/-- The pages of a residency hint of the bundle; none where no lane is active. -/
def Env.residOf (e : Env) (o : Ops) : List W64 :=
  if e.act = [] then [] else residPages (Ops.globalEa o (e.a e.first)) (e.b e.first % 2 ^ 32)

/-- A bundle that issues is the chosen one. -/
theorem Begins.cur_isSome (hb : Begins i s e) : e.s.cur.isSome = true := by
  rw [hb.env_s, hb.group.1]
  rfl

/-- A residency hint of no pages is a hint that does nothing. -/
theorem Env.resid_eq (o : Ops) (hc : e.s.cur.isSome = true) : e.resid o fetch f = e.hinted fetch f (e.residOf o) := by
  by_cases ha : e.act = []
  · have hnil : e.hinted fetch f [] = if e.s.cur.isNone then .next e.s else e.commit e.g := rfl
    rw [Env.residOf, if_pos ha, hnil, Option.isNone_eq_false_iff.2 hc, Env.resid, ha]
    rfl
  · rw [Env.resid, Env.residOf, if_neg ha, if_neg (by simpa using ha)]

/-- The record of a tier migration, with its kind and its source. -/
theorem migRecord_fields (src ctx part tier count frame : Nat) :
    (migRecord src ctx part tier count frame).extractLsb' 0 8 = 0x30 ∧
    (migRecord src ctx part tier count frame).extractLsb' 40 8 = BitVec.ofNat 8 src := by
  refine ⟨extractLsb'_recordOf (v := 0x30) ?_ (by simp) (by decide), extractLsb'_recordOf (v := src) ?_ (by simp) (by decide)⟩
  all_goals simp [Descending]

/-- A frame of a partition with QUEUED clear, the queue not full, gets one record (14 R388). -/
theorem State.migrate_queue {x : State} {f : Nat} (src ctx : Nat) (h1 : 1 ≤ bitsOf (x.frameW (f * 65536)).toNat 0 7)
    (h64 : bitsOf (x.frameW (f * 65536)).toNat 0 7 ≤ 64) (hq : bitsOf (x.frameW (f * 65536)).toNat 26 1 = 0)
    (hlen : x.migQueue.length < 4096) :
    ∃ part tier count, (x.migrate src ctx f).migQueue = x.migQueue ++ [migRecord src ctx part tier count f] := by
  have hpost : x.migrate src ctx f = x.postMigration src ctx f := by
    rw [State.migrate, if_neg (by omega), if_pos hlen]
  rw [hpost]
  exact ⟨_, _, _, rfl⟩

end

/-- Settles O38, by the order of the fence and the walks of the hint. -/
theorem fencesAndHints : Obligations.FencesAndHints := by
  intro o m s e ran blocks hinted pages
  refine ⟨fun hb => ?_, fun hb => ?_, fun n f g h hf hd hg hh hk => exec_fencexComplete hf hd hg hh hk,
    fun hb hw hc ht => ?_, fun hb hw hc ht => ?_, fun hb hw hc ht => ?_, fun hb hw hc ht => ?_, fun x f h1 h64 hq hlen => ?_⟩
  · have hx := exec_fence hb
    have hs := hb.env_s
    cases ho : m.ord with
    | rlx =>
      rw [ho] at hx
      by_cases hsc : m.scope = .thread
      · obtain ⟨t, g', hr, hm, hn, hfab, hbl⟩ := fence_passes (u := e.s) hb (hx.trans (if_pos (by simp [hsc]))) (by rw [hs]) (by rw [hs])
        exact ⟨t, g', hr, hm, hn, nofun, nofun, fun _ hne => absurd hsc hne, fun _ _ => ⟨hfab.trans (by rw [hs]), hbl⟩, nofun⟩
      · obtain ⟨t, g', hr, hm, hn, hbl⟩ := fence_blocks hb (hx.trans (if_neg (by simpa using hsc)))
        exact ⟨t, g', hr, hm, hn, nofun, nofun, fun _ _ => hbl, fun _ heq => absurd heq hsc, nofun⟩
    | acq =>
      rw [ho] at hx
      obtain ⟨t, g', hr, hm, hn, hbl⟩ := fence_blocks hb hx
      exact ⟨t, g', hr, hm, hn, fun _ => hbl, nofun, nofun, nofun, nofun⟩
    | ar =>
      rw [ho] at hx
      obtain ⟨t, g', hr, hm, hn, hbl⟩ := fence_blocks hb hx
      exact ⟨t, g', hr, hm, hn, nofun, fun _ => hbl, nofun, nofun, nofun⟩
    | rel =>
      rw [ho] at hx
      by_cases ha : e.act = []
      · obtain ⟨t, g', hr, hm, hn, -⟩ := fence_passes (u := e.s) hb (hx.trans (if_pos (by simp [ha]))) (by rw [hs]) (by rw [hs])
        exact ⟨t, g', hr, hm, hn, nofun, nofun, nofun, nofun, fun _ hne => absurd ha hne⟩
      · obtain ⟨t, g', hr, hm, hn, hfab, -⟩ := fence_passes hb (hx.trans (if_neg (by simpa using ha))) rfl rfl
        exact ⟨t, g', hr, hm, hn, nofun, nofun, nofun, nofun, fun _ _ => ⟨_, hfab, rfl, rfl, rfl⟩⟩
  · have hx := exec_fencex hb
    obtain ⟨-, hg, hv, hsr, hst, ht⟩ := runsOn_of_finish_same (s := s) (u := s.addFence (e.fenceOf m s)) (e := e) rfl rfl
    have hm : (e.after (s.addFence (e.fenceOf m s)) e.g fun _ => e.next).mem = s.mem := Env.after_mem _ _ _ _
    have hf : (e.after (s.addFence (e.fenceOf m s)) e.g fun _ => e.next).fences = s.fences ++ [e.fenceOf m s] :=
      Env.after_fences _ _ _ _
    by_cases hy : (e.fenceOf m s).y = 0
    · rw [if_pos hy] at hx
      exact ⟨_, _, _, ⟨hx, State.group?_holdFence hg _, hv, hsr, hst, ht⟩, hm, hf, rfl, rfl, rfl, rfl, fun _ => ⟨_, rfl, rfl⟩,
        fun hne => absurd hy hne⟩
    · rw [if_neg hy] at hx
      exact ⟨_, _, _, ⟨hx, hg, hv, hsr, hst, ht⟩, hm, hf, rfl, rfl, rfl, rfl, fun h0 => absurd h0 hy,
        fun _ l hl => e.goneOn_epc _ _ _ hb.1.lanes_nodup hl⟩
  · exact hinted_runsOn hb (exec_of_issue1 (show exec (.pref o m) s = execPref o m s from rfl) rfl rfl rfl hb) rfl rfl hw hc ht
  · have hx := exec_of_issue1 (show exec (.residNear o m) s = execResidNear o m s from rfl) rfl rfl rfl hb
    exact hinted_runsOn hb (hx.trans (Env.resid_eq o hb.cur_isSome)) rfl rfl hw hc ht
  · have hx := exec_of_issue1 (show exec (.residCold o m) s = execResidCold o m s from rfl) rfl rfl rfl hb
    exact hinted_runsOn hb (hx.trans (Env.resid_eq o hb.cur_isSome)) rfl rfl hw hc ht
  · have hx := exec_of_issue1 (show exec (.residHbm o m) s = execResidHbm o m s from rfl) rfl rfl rfl hb
    exact hinted_runsOn hb (hx.trans (Env.resid_eq o hb.cur_isSome)) rfl rfl hw hc ht
  · obtain ⟨part, tier, count, hmig⟩ := State.migrate_queue 1 e.g.ctx h1 h64 hq hlen
    exact ⟨_, hmig, migRecord_fields 1 e.g.ctx part tier count f⟩

end Sys2Proof.Machine
end

section
/-! What a home does beside serving: counters, poison, clocks and the records that they owe (obligations O33 and O37). -/

namespace Sys2Proof.Machine

/-! ### The books of a home -/

/-- What serving an access may change beside what it is asked for: access counters and migrations (14 R388), poison and its reports
(17 R431 to R433), marks of changed frames (R448) and clocks (07 R181). -/
structure Books where
  frame : Tab W64
  migQueue : List (BitVec 256)
  migOvf : Nat
  poison : List Nat
  mirrorBad : List Nat
  scrubSeen : List Nat
  sysQueue : List (BitVec 256)
  seqLost : Nat
  dirty : List Nat
  dieClock : Tab Nat
  homeClock : List Stamp

def State.books (s : State) : Books :=
  ⟨s.frame, s.migQueue, s.migOvf, s.poison, s.mirrorBad, s.scrubSeen, s.sysQueue, s.seqLost, s.dirty, s.dieClock, s.homeClock⟩

def State.withBooks (s : State) (b : Books) : State :=
  { s with
    frame := b.frame, migQueue := b.migQueue, migOvf := b.migOvf, poison := b.poison, mirrorBad := b.mirrorBad,
    scrubSeen := b.scrubSeen, sysQueue := b.sysQueue, seqLost := b.seqLost, dirty := b.dirty, dieClock := b.dieClock,
    homeClock := b.homeClock }

/-- `t` is `s` but for the books. -/
def OnlyBooks (s t : State) : Prop := ∃ b, t = s.withBooks b

theorem OnlyBooks.refl (s : State) : OnlyBooks s s := ⟨s.books, rfl⟩

theorem OnlyBooks.trans {s t u : State} (h : OnlyBooks s t) (k : OnlyBooks t u) : OnlyBooks s u := by
  obtain ⟨b, rfl⟩ := h
  obtain ⟨c, rfl⟩ := k
  exact ⟨c, rfl⟩

theorem OnlyBooks.ite {s t u : State} {p : Prop} [Decidable p] (h : OnlyBooks s t) (k : OnlyBooks s u) :
    OnlyBooks s (if p then t else u) := by
  split
  · exact h
  · exact k

theorem OnlyBooks.foldl {γ : Type} {f : State → γ → State} (h : ∀ s x, OnlyBooks s (f s x)) (l : List γ) (s : State) :
    OnlyBooks s (l.foldl f s) := by
  induction l generalizing s with
  | nil => exact .refl s
  | cons x l ih => exact (h s x).trans (ih _)

theorem onlyBooks_setFrameW (s : State) (pa : Nat) (v : W64) : OnlyBooks s (s.setFrameW pa v) :=
  ⟨{ s.books with frame := _ }, rfl⟩

theorem onlyBooks_migQueue (s : State) (q : List (BitVec 256)) : OnlyBooks s { s with migQueue := q } :=
  ⟨{ s.books with migQueue := q }, rfl⟩

theorem onlyBooks_migOvf (s : State) (n : Nat) : OnlyBooks s { s with migOvf := n } := ⟨{ s.books with migOvf := n }, rfl⟩

theorem onlyBooks_migrate (s : State) (src ctx f : Nat) : OnlyBooks s (s.migrate src ctx f) := by
  unfold State.migrate State.postMigration
  exact .ite (.refl s) (.ite ((onlyBooks_setFrameW s _ _).trans (onlyBooks_migQueue _ _))
    ((onlyBooks_setFrameW s _ _).trans (onlyBooks_migOvf _ _)))

theorem onlyBooks_countLine (s : State) (pa : Nat) : OnlyBooks s (s.countLine pa) :=
  .ite (.refl s) (.ite (onlyBooks_setFrameW s _ _)
    (.ite ((onlyBooks_setFrameW s _ _).trans (onlyBooks_migrate _ _ _ _)) (onlyBooks_setFrameW s _ _)))

theorem onlyBooks_countAccess (s : State) (pa n : Nat) : OnlyBooks s (s.countAccess pa n) :=
  .foldl (fun s _ => onlyBooks_countLine s _) _ s

theorem onlyBooks_setPoison (s : State) (pa : Nat) (bad : Bool) : OnlyBooks s (s.setPoison pa bad) :=
  .ite (.ite (.refl s) ⟨{ s.books with poison := _ }, rfl⟩) ⟨{ s.books with poison := _, mirrorBad := _ }, rfl⟩

theorem onlyBooks_taint (s : State) (pa : Nat) (bad : List Nat) : OnlyBooks s (s.taint pa bad) :=
  .foldl (fun s _ => onlyBooks_setPoison s _ _) _ s

theorem onlyBooks_postSys (s : State) (r : BitVec 256) : OnlyBooks s (s.postSys r) :=
  .ite ⟨{ s.books with sysQueue := _ }, rfl⟩ ⟨{ s.books with seqLost := _ }, rfl⟩

theorem onlyBooks_reportBad (s : State) (pa row : Nat) : OnlyBooks s (s.reportBad pa row) :=
  .ite (.refl s) (.trans ⟨{ s.books with scrubSeen := _ }, rfl⟩ (onlyBooks_postSys _ _))

theorem onlyBooks_markDirty (s : State) (pa : Nat) : OnlyBooks s (s.markDirty pa) :=
  .ite ⟨{ s.books with dirty := _ }, rfl⟩ (.refl s)

theorem onlyBooks_stampAt (s : State) (pa n : Nat) (c : List Nat) : OnlyBooks s (s.stampAt pa n c) :=
  .ite (.refl s) ⟨{ s.books with homeClock := _ }, rfl⟩

theorem onlyBooks_stampRing (s : State) (line : Nat) (c : List Nat) : OnlyBooks s (s.stampRing line c) := by
  unfold State.stampRing
  split
  · exact onlyBooks_stampAt s _ _ _
  · exact .refl s

/-- The requests of the fabric once write `num` of die `d` has been applied at a range: reads that have looked there note it. -/
def State.noted (s : State) (pa n d num : Nat) : List Req := (s.noteOver pa n d num).fabric

/-- A write that is applied leaves a clock and a note. -/
theorem State.land_eq (s : State) (pa n d num : Nat) (c : List Nat) :
    ∃ b, s.land pa n d num c = ({ s with fabric := if isLocal pa then s.noted pa n d num else s.fabric } : State).withBooks b := by
  unfold State.land
  split
  · obtain ⟨b, hb⟩ := onlyBooks_stampAt s pa n c
    rw [hb]
    exact ⟨b, rfl⟩
  · exact ⟨s.books, rfl⟩

/-- The requests of the fabric once `r` has been served with clock `c`: those that its threads have sent since merge it. -/
def State.told (s : State) (r : Req) (c : List Nat) : List Req := (s.gain r c).fabric

theorem State.gain_eq (s : State) (r : Req) (c : List Nat) :
    ∃ b, s.gain r c = ({ s with fabric := s.told r c } : State).withBooks b := ⟨{ s.books with dieClock := _ }, rfl⟩

/-- The results that await their registers once `r` has been answered with `x`. -/
def Req.answer (r : Req) (rs : List Result) (x : Nat) : List Result :=
  match r.dests with
  | [] => rs
  | ds => rs ++ [⟨r.gid, writesOf r.sz x ds, true⟩]

theorem Req.answer_of_dests {r : Req} (h : r.dests ≠ []) (rs : List Result) (x : Nat) :
    r.answer rs x = rs ++ [⟨r.gid, writesOf r.sz x r.dests, true⟩] := by
  unfold Req.answer
  split
  · exact absurd ‹_› h
  · rfl

theorem State.reply_eq (s : State) (r : Req) (x : Nat) : s.reply r x = { s with results := r.answer s.results x } := by
  cases hd : r.dests <;> simp [State.reply, Req.answer, hd]

/-! ### Bytes of plain memory at their home (07 R174, R177) -/

/-- A byte of memory that no control atom, counted line or retired frame covers. -/
structure Plain (s : State) (a : Nat) : Prop where
  noAtom : s.special? (a / 32) = none
  noQueue : s.queueOfAtom (a / 32) = none
  notCounted : s.isCounted a = false
  inUse : s.retiredAt a = false

theorem State.homeByte_of_plain {s : State} {a : Nat} (h : Plain s a) : s.homeByte a = Memory.byte s.mem a := by
  simp [State.homeByte, h.noAtom, h.notCounted]

theorem State.homeRead_of_plain {s : State} {pa n : Nat} (h : ∀ a, pa ≤ a → a < pa + n → Plain s a) :
    s.homeRead pa n = Memory.bytes s.mem pa n := by
  induction n generalizing pa with
  | zero => rfl
  | succ n ih =>
    rw [State.homeRead, Memory.bytes, State.homeByte_of_plain (h pa (by omega) (by omega)),
      ih fun a ha hl => h a (by omega) (by omega)]

theorem State.mergeAtom_of_plain {s : State} {pa : Nat} (h : s.isCounted pa = false) (bs : List Byte) :
    ∃ b, s.mergeAtom pa bs = ({ s with mem := Memory.setBytes s.mem pa bs } : State).withBooks b := by
  obtain ⟨b, hb⟩ : OnlyBooks s (if bs.length = 32 then s.setPoison pa false else if s.poisonedAt pa then s.reportBad pa 0 else s) :=
    .ite (onlyBooks_setPoison s _ _) (.ite (onlyBooks_reportBad s _ _) (.refl s))
  have hc : ¬ (s.withBooks b).isCounted pa = true := by rw [show (s.withBooks b).isCounted pa = s.isCounted pa from rfl, h]; simp
  obtain ⟨c, hd⟩ := onlyBooks_markDirty { s.withBooks b with mem := Memory.setBytes s.mem pa bs } pa
  refine ⟨c, ?_⟩
  rw [State.mergeAtom, hb]
  exact (if_neg hc).trans hd

theorem State.homeWrite_of_plain {s : State} {pa : Nat} (h : Plain s pa) (bs : List Byte) : s.homeWrite pa bs = s.mergeAtom pa bs := by
  simp [State.homeWrite, h.noAtom, h.noQueue, h.inUse]

theorem Memory.setBytes_append (m : Memory) (a : Nat) (bs cs : List Byte) :
    Memory.setBytes m a (bs ++ cs) = Memory.setBytes (Memory.setBytes m a bs) (a + bs.length) cs := by
  induction bs generalizing m a with
  | nil => rfl
  | cons b bs ih => rw [List.cons_append, Memory.setBytes, Memory.setBytes, ih, List.length_cons, Nat.add_assoc, Nat.add_comm 1]

theorem Memory.setBytes_take_drop (m : Memory) (a n : Nat) (bs : List Byte) :
    Memory.setBytes (Memory.setBytes m a (bs.take n)) (a + n) (bs.drop n) = Memory.setBytes m a bs := by
  by_cases hn : n ≤ bs.length
  · have h := Memory.setBytes_append m a (bs.take n) (bs.drop n)
    rw [List.take_append_drop, List.length_take, Nat.min_eq_left hn] at h
    exact h.symm
  · rw [List.take_of_length_le (by omega), List.drop_eq_nil_of_le (by omega)]
    rfl

/-- Bytes written atom by atom are written as they stand. -/
theorem State.homeWrites_of_plain {s : State} {pa fuel : Nat} {bs : List Byte} (hf : pa % 32 + bs.length ≤ 32 * fuel)
    (h : ∀ a, pa ≤ a → a < pa + bs.length → Plain s a) :
    ∃ b, s.homeWrites pa bs fuel = ({ s with mem := Memory.setBytes s.mem pa bs } : State).withBooks b := by
  induction fuel generalizing s pa bs with
  | zero =>
    obtain rfl : bs = [] := List.eq_nil_of_length_eq_zero (by omega)
    exact ⟨s.books, rfl⟩
  | succ fuel ih =>
    cases bs with
    | nil => exact ⟨s.books, rfl⟩
    | cons x xs =>
      obtain ⟨b, hb⟩ := State.mergeAtom_of_plain (h pa (by omega) (by simp)).notCounted ((x :: xs).take (32 - pa % 32))
      have hstep : s.homeWrites pa (x :: xs) (fuel + 1) =
          (s.homeWrite pa ((x :: xs).take (32 - pa % 32))).homeWrites (pa + (32 - pa % 32)) ((x :: xs).drop (32 - pa % 32)) fuel := rfl
      obtain ⟨c, hc⟩ := ih (s := ({ s with mem := Memory.setBytes s.mem pa ((x :: xs).take (32 - pa % 32)) } : State).withBooks b)
        (pa := pa + (32 - pa % 32)) (bs := (x :: xs).drop (32 - pa % 32)) (by rw [List.length_drop]; omega)
        fun a ha hl => by
          rw [List.length_drop] at hl
          obtain ⟨h1, h2, h3, h4⟩ := h a (by omega) (by omega)
          exact ⟨h1, h2, h3, h4⟩
      refine ⟨c, ?_⟩
      rw [hstep, State.homeWrite_of_plain (h pa (by omega) (by simp)), hb, hc]
      exact congrArg (fun m => ({ s with mem := m } : State).withBooks c) (Memory.setBytes_take_drop s.mem pa _ _)

/-- Poison and retirement are of whole atoms. -/
theorem State.poisonedAt_congr (s : State) {a b : Nat} (h : a / 32 = b / 32) : s.poisonedAt a = s.poisonedAt b := by
  have h128 : a / 128 = b / 128 := by omega
  have hframe : a / 65536 = b / 65536 := by omega
  rw [State.poisonedAt, State.poisonedAt, State.atomKey, State.atomKey, State.isCounted, State.isCounted, State.retiredAt,
    State.retiredAt, h, h128, hframe]

/-- A range none of whose bytes is poisoned is not poisoned. -/
theorem State.poisoned_of_clean {s : State} {pa n : Nat} (hn : 1 ≤ n) (h : ∀ a, pa ≤ a → a < pa + n → s.poisonedAt a = false) :
    s.poisoned pa n = false := by
  refine List.any_eq_false.2 fun i hi => ?_
  rw [List.mem_range] at hi
  have hin := h (max pa (pa / 32 * 32 + 32 * i)) (Nat.le_max_left _ _) (by omega)
  rw [s.poisonedAt_congr (b := max pa (pa / 32 * 32 + 32 * i)) (by omega), hin]
  simp

/-! ### Numbers of bytes (00 R5) -/

theorem leNat_mod (bs : List Byte) : leNat bs % 256 ^ bs.length = leNat bs := by rw [← leNat_leBytes, leBytes_leNat]

theorem Memory.num_mod (m : Memory) (a n : Nat) : Memory.num m a n % 256 ^ n = Memory.num m a n := by
  have h := leNat_mod (Memory.bytes m a n)
  rwa [Memory.bytes_length] at h

/-! ### A request served at its home (07 R181, 08 R214 to R220) -/

theorem State.looked_fresh {r : Req} (h : r.seen = none) (s : State) :
    s.looked r = (leNat (s.homeRead r.pa r.size), s.clockAt r.pa r.size) := by simp [State.looked, h]

theorem State.remoteStrikes_none {r : Req} (h : r.remote = none) (s : State) : s.remoteStrikes r = s := by simp [State.remoteStrikes, h]

theorem State.countFor_none {r : Req} (h : r.remote = none) (s : State) : s.countFor r = s.countAccess r.pa r.size := by
  simp [State.countFor, h]

/-- A read, counted-consuming or not, of sound bytes is counted, told and answered. -/
theorem State.applyReq_load {s : State} {r : Req} (hk : r.kind = .read ∨ r.kind = .consume) (hp : s.poisoned r.pa r.size = false) :
    ∃ b, s.applyReq r = ({ s with
      fabric := s.told r (s.looked r).2
      results := r.answer s.results (s.looked r).1 } : State).withBooks b := by
  obtain ⟨b, hb⟩ := onlyBooks_countAccess s r.pa r.size
  obtain ⟨c, hc⟩ := State.gain_eq (s.withBooks b) r (s.looked r).2
  refine ⟨c, ?_⟩
  have happly : s.applyReq r = ((s.countAccess r.pa r.size).gain r (s.looked r).2).reply r (s.looked r).1 := by
    obtain hk | hk := hk <;> simp [State.applyReq, hk, hp]
  rw [happly, State.reply_eq, hb, hc]
  rfl

/-- A write puts its data at its address. -/
theorem State.applyReq_write {s : State} {r : Req} (hk : r.kind = .write) (hn : r.data.length ≤ 128)
    (hp : ∀ a, r.pa ≤ a → a < r.pa + r.data.length → Plain s a) :
    ∃ b, s.applyReq r = ({ s with
      mem := Memory.setBytes s.mem r.pa r.data,
      fabric := if isLocal r.pa then s.noted r.pa r.size r.die r.num else s.fabric } : State).withBooks b := by
  obtain ⟨b, hb⟩ := onlyBooks_countAccess s r.pa r.size
  obtain ⟨c, hc⟩ := State.homeWrites_of_plain (s := s.withBooks b) (pa := r.pa) (fuel := 5) (bs := r.data) (by omega)
    fun a ha hl => let ⟨h1, h2, h3, h4⟩ := hp a ha hl; ⟨h1, h2, h3, h4⟩
  obtain ⟨d, hd⟩ := onlyBooks_taint (({ s with mem := Memory.setBytes s.mem r.pa r.data } : State).withBooks c) r.pa r.bad
  obtain ⟨f, hf⟩ := State.land_eq (({ s with mem := Memory.setBytes s.mem r.pa r.data } : State).withBooks d) r.pa r.size r.die r.num
    (r.clock.set r.die r.num)
  refine ⟨f, ?_⟩
  simp only [State.applyReq, hk, hb, hc]
  exact (congrArg (fun x : State => x.land r.pa r.size r.die r.num (r.clock.set r.die r.num)) hd).trans hf

/-- What an atomic leaves: the answer and, where it writes, the bytes. -/
theorem State.exchanged {s : State} {r : Req} {c k : List Nat} {x : Nat} {bs : List Byte} (hn : bs.length ≤ 32)
    (hp : ∀ a, r.pa ≤ a → a < r.pa + bs.length → Plain s a) :
    ∃ f b, ((((s.countAccess r.pa r.size).gain r c).reply r x).homeWrites r.pa bs 2).land r.pa r.size r.die r.num k =
      ({ s with mem := Memory.setBytes s.mem r.pa bs, fabric := f, results := r.answer s.results x } : State).withBooks b := by
  obtain ⟨b, hb⟩ := onlyBooks_countAccess s r.pa r.size
  obtain ⟨d, hd⟩ := State.gain_eq (s.withBooks b) r c
  obtain ⟨e, he⟩ := State.homeWrites_of_plain
    (s := ({ s with fabric := s.told r c, results := r.answer s.results x } : State).withBooks d) (pa := r.pa) (fuel := 2) (bs := bs) (by omega) fun a ha hl => let ⟨h1, h2, h3, h4⟩ := hp a ha hl; ⟨h1, h2, h3, h4⟩
  obtain ⟨g, hg⟩ := State.land_eq (({ s with
    mem := Memory.setBytes s.mem r.pa bs, fabric := s.told r c, results := r.answer s.results x } : State).withBooks e)
    r.pa r.size r.die r.num k
  refine ⟨if isLocal r.pa then ({ s with fabric := s.told r c } : State).noted r.pa r.size r.die r.num else s.told r c, g, ?_⟩
  rw [hb, hd, State.reply_eq]
  exact (congrArg (fun x : State => x.land r.pa r.size r.die r.num k) he).trans hg

/-- An atomic sends the old value and writes the new one. -/
theorem State.applyReq_atom {s : State} {r : Req} {op : Nat} {fl : Bool} (hk : r.kind = .atom op fl)
    (hp : s.poisoned r.pa r.size = false) (hr : r.remote = none) (hn : r.size ≤ 32)
    (hm : ∀ a, r.pa ≤ a → a < r.pa + r.size → Plain s a) :
    ∃ f b, s.applyReq r = ({ s with
      mem := Memory.setBytes s.mem r.pa (leBytes r.size (atomNew op r.size (Memory.num s.mem r.pa r.size) (leNat r.data))),
      fabric := f, results := r.answer s.results (Memory.num s.mem r.pa r.size) } : State).withBooks b := by
  obtain ⟨f, b, h⟩ := State.exchanged (s := s) (r := r) (c := s.clockAt r.pa r.size) (k := joinClock r.clock (s.clockAt r.pa r.size))
    (x := Memory.num s.mem r.pa r.size)
    (bs := leBytes r.size (atomNew op r.size (Memory.num s.mem r.pa r.size) (leNat r.data))) (by simpa using hn) (by simpa using hm)
  refine ⟨f, b, ?_⟩
  rw [← h]
  simp [State.applyReq, hk, hp, State.remoteStrikes_none hr, State.countFor_none hr, State.homeRead_of_plain hm, Memory.num]

/-- A compare-and-swap that finds its value writes its data. -/
theorem State.applyReq_cas_hit {s : State} {r : Req} (hk : r.kind = .cas) (hp : s.poisoned r.pa r.size = false) (hr : r.remote = none)
    (hn : r.size ≤ 32) (hd : r.data.length = r.size) (hm : ∀ a, r.pa ≤ a → a < r.pa + r.size → Plain s a)
    (heq : Memory.num s.mem r.pa r.size = leNat r.cmp) :
    ∃ f b, s.applyReq r = ({ s with
      mem := Memory.setBytes s.mem r.pa r.data,
      fabric := f, results := r.answer s.results (Memory.num s.mem r.pa r.size) } : State).withBooks b := by
  obtain ⟨f, b, h⟩ := State.exchanged (s := s) (r := r) (c := s.clockAt r.pa r.size) (k := joinClock r.clock (s.clockAt r.pa r.size))
    (x := Memory.num s.mem r.pa r.size) (bs := r.data) (hd ▸ hn) (hd ▸ hm)
  refine ⟨f, b, ?_⟩
  rw [← h]
  rw [Memory.num] at heq
  simp [State.applyReq, hk, hp, State.remoteStrikes_none hr, State.countFor_none hr, State.homeRead_of_plain hm, Memory.num, heq]

/-- Another compare-and-swap is answered alone. -/
theorem State.applyReq_cas_miss {s : State} {r : Req} (hk : r.kind = .cas) (hp : s.poisoned r.pa r.size = false) (hr : r.remote = none)
    (hm : ∀ a, r.pa ≤ a → a < r.pa + r.size → Plain s a) (hne : Memory.num s.mem r.pa r.size ≠ leNat r.cmp) :
    ∃ b, s.applyReq r = ({ s with
      fabric := s.told r (s.clockAt r.pa r.size),
      results := r.answer s.results (Memory.num s.mem r.pa r.size) } : State).withBooks b := by
  obtain ⟨b, hb⟩ := onlyBooks_countAccess s r.pa r.size
  obtain ⟨c, hc⟩ := State.gain_eq (s.withBooks b) r (s.clockAt r.pa r.size)
  refine ⟨c, ?_⟩
  rw [Memory.num] at hne
  simp only [State.applyReq, hk, hp, State.remoteStrikes_none hr, State.countFor_none hr, State.homeRead_of_plain hm, hne, if_false,
    State.reply_eq, hb, hc, Bool.false_eq_true]
  rfl

/-- HOME_ACCESS applies a read, an atomic or a compare-and-swap that its home may serve. -/
theorem exec_homeAccess {s t : State} {n : Nat} {r : Req} (hn : s.fabric[n]? = some r) (hs : s.servable n = true)
    (ht : s.isTableLine r.pa = false) (hk : r.kind = .read ∨ (∃ op f, r.kind = .atom op f) ∨ r.kind = .cas)
    (h : (s.takeReq r).applyReq r = t) : exec (.homeAccess n) s = .next t := by
  subst h
  have hw : s.isTableWrite r = false := by simp [State.isTableWrite, ht]
  change execHomeAccess n s = _
  obtain hk | ⟨op, f, hk⟩ | hk := hk <;> simp [execHomeAccess, hn, hs, hw, hk]

/-- HOME_ACCESS applies a write that is alone. -/
theorem exec_homeAccess_write {s t : State} {n : Nat} {r : Req} (hn : s.fabric[n]? = some r) (hs : s.servable n = true)
    (ht : s.isTableLine r.pa = false) (hk : r.kind = .write) (hm : s.mates r = [r])
    (h : (s.takeReq r).applyReq r = t) : exec (.homeAccess n) s = .next t := by
  subst h
  have hw : s.isTableWrite r = false := by simp [State.isTableWrite, ht]
  change execHomeAccess n s = _
  simp [execHomeAccess, hn, hs, hw, hk, hm]

/-- A served request is no more among those that were told. -/
theorem State.notMem_told (s : State) (r : Req) (c : List Nat) : r ∉ (s.takeReq r).told r c := by
  intro h
  obtain ⟨x, hx, hxr⟩ := List.mem_map.1 (show r ∈ ((s.fabric.filter fun x => x != r).map _) from h)
  have hne : x ≠ r := by simpa using (List.mem_filter.1 hx).2
  split at hxr
  case isTrue hlt =>
    have htag : x.tag = r.tag := by rw [← hxr]
    simp [htag] at hlt
  case isFalse => exact hne hxr

/-- A lone write is no more among those that noted it. -/
theorem State.notMem_noted {s : State} {r : Req} (hk : r.kind = .write) (hm : s.mates r = [r]) (pa n d num : Nat) :
    r ∉ (s.takeReq r).noted pa n d num := by
  intro h
  obtain ⟨x, hx, hxr⟩ := List.mem_map.1 (show r ∈ ((s.fabric.filter fun x => x != r).map _) from h)
  obtain ⟨hx, hne⟩ := List.mem_filter.1 hx
  have hlike : x.tag = r.tag ∧ x.kind = r.kind ∧ x.pa = r.pa := by
    split at hxr <;> rw [← hxr] <;> exact ⟨rfl, rfl, rfl⟩
  have hmate : x ∈ s.mates r := by
    simp [State.mates, hk, hx, hlike]
  rw [hm, List.mem_singleton] at hmate
  simp [hmate] at hne

theorem State.notMem_takeReq (s : State) (r : Req) : r ∉ (s.takeReq r).fabric := by simp [State.takeReq]

/-- Bytes written are the number read back, and the others stand. -/
theorem Memory.setBytes_holds (m : Memory) (pa : Nat) (bs : List Byte) :
    Memory.num (Memory.setBytes m pa bs) pa bs.length = leNat bs ∧
      ∀ a, ¬ (pa ≤ a ∧ a < pa + bs.length) → Memory.byte (Memory.setBytes m pa bs) a = Memory.byte m a :=
  ⟨by rw [Memory.num, Memory.bytes_setBytes], fun a h => Memory.byte_setBytes_out _ _ _ _ (by omega)⟩

/-- Settles O33: each kind of request by what its home leaves beside the books. -/
theorem homesServeAccesses : Obligations.HomesServeAccesses := by
  unfold Obligations.HomesServeAccesses
  intro s n r hn hs ht hr h1 h32 hlen hclean old inside answers holds
  have hclear : ∀ a, r.pa ≤ a → a < r.pa + r.size → Plain (s.takeReq r) a := fun a ha hl => by
    obtain ⟨hatom, hqueue, hcounted, hbad⟩ := hclean a ha hl
    exact ⟨hatom, hqueue, hcounted, (Bool.or_eq_false_iff.1 hbad).2⟩
  have hpoison : (s.takeReq r).poisoned r.pa r.size = false :=
    State.poisoned_of_clean h1 fun a ha hl => (hclean a ha hl).2.2.2
  have hsame : holds s old := ⟨(Memory.num_mod _ _ _).symm, fun _ _ => rfl⟩
  have hput : ∀ (bs : List Byte) (x : Nat), bs.length = r.size → leNat bs = x % 256 ^ r.size → ∀ t : State,
      t.mem = Memory.setBytes s.mem r.pa bs → holds t x := by
    intro bs x hb hx t hmem
    obtain ⟨hin, hout⟩ := Memory.setBytes_holds s.mem r.pa bs
    rw [hb] at hin hout
    refine ⟨?_, ?_⟩
    · rw [hmem, hin, hx]
    · rw [hmem]
      exact hout
  have hdata : leNat r.data = leNat r.data % 256 ^ r.size := by rw [← hlen, leNat_mod]
  refine ⟨fun hk hseen => ?_, fun hk hm => ?_, fun op f hk => ?_, fun hk => ?_⟩
  · obtain ⟨b, h⟩ := State.applyReq_load (.inl hk) hpoison
    rw [State.looked_fresh hseen, State.homeRead_of_plain hclear] at h
    exact ⟨_, exec_homeAccess hn hs ht (.inl hk) h, fun hd => Req.answer_of_dests hd _ _, rfl, rfl,
      State.notMem_told s r ((s.takeReq r).clockAt r.pa r.size)⟩
  · obtain ⟨b, h⟩ := State.applyReq_write hk (by omega) (hlen ▸ hclear)
    refine ⟨_, exec_homeAccess_write hn hs ht hk hm h, ?_, rfl, rfl, ?_⟩
    · exact hput _ _ hlen hdata _ rfl
    · change r ∉ if isLocal r.pa then (s.takeReq r).noted r.pa r.size r.die r.num else (s.takeReq r).fabric
      split
      · exact State.notMem_noted hk hm _ _ _ _
      · exact State.notMem_takeReq s r
  · obtain ⟨g, b, h⟩ := State.applyReq_atom hk hpoison hr h32 hclear
    refine ⟨_, exec_homeAccess hn hs ht (.inr (.inl ⟨op, f, hk⟩)) h, fun hd => Req.answer_of_dests hd _ _, ?_, rfl⟩
    exact hput _ _ (leBytes_length _ _) (leNat_leBytes _ _) _ rfl
  · by_cases heq : old = leNat r.cmp
    · obtain ⟨g, b, h⟩ := State.applyReq_cas_hit hk hpoison hr h32 hlen hclear heq
      rw [if_pos heq]
      refine ⟨_, exec_homeAccess hn hs ht (.inr (.inr hk)) h, fun hd => Req.answer_of_dests hd _ _, ?_, rfl⟩
      exact hput _ _ hlen hdata _ rfl
    · obtain ⟨b, h⟩ := State.applyReq_cas_miss hk hpoison hr hclear heq
      rw [if_neg heq]
      exact ⟨_, exec_homeAccess hn hs ht (.inr (.inr hk)) h, fun hd => Req.answer_of_dests hd _ _, hsame, rfl⟩

end Sys2Proof.Machine
end

section
/-! Counted lines at their homes: the count that a context holds, what a fill, a decrement and a release leave (obligation O37). -/

namespace Sys2Proof.Machine

/-! ### The count of lines that a context holds (07 R193, R200) -/

/-- A field reads back as it was set. -/
theorem bitsOf_setBitsOf (v lo n x : Nat) : bitsOf (setBitsOf v lo n x) lo n = x % 2 ^ n := by
  have hle : 2 ^ lo * (v / 2 ^ lo % 2 ^ n) ≤ v :=
    le_trans (Nat.mul_le_mul_left _ (Nat.mod_le _ _)) (Nat.mul_div_le v _)
  have hsub : v / 2 ^ lo - v / 2 ^ lo % 2 ^ n = 2 ^ n * (v / 2 ^ lo / 2 ^ n) := by
    have := Nat.mod_add_div (v / 2 ^ lo) (2 ^ n)
    omega
  rw [bitsOf, setBitsOf, Nat.add_mul_div_right _ _ (Nat.two_pow_pos lo), bitsOf, Nat.mul_comm _ (2 ^ lo), Nat.sub_mul_div, hsub,
    Nat.mul_add_mod, Nat.mod_mod]

/-- The descriptors once CL_HELD of `c` is `v`: the field crosses words 18 and 19. -/
def heldDesc (d : Tab W64) (c v : Nat) : Tab W64 :=
  let x := setBitsOf ((Tab.read 0 d (c * 64 + 18)).toNat + (Tab.read 0 d (c * 64 + 19)).toNat * 2 ^ 64) 48 24 v
  Tab.write 0 (Tab.write 0 d (c * 64 + 18) (BitVec.ofNat 64 (x % 2 ^ 64))) (c * 64 + 19) (BitVec.ofNat 64 (x / 2 ^ 64))

/-- Both words of a field are written (the values stay variables, so that nothing evaluates them). -/
theorem State.setDescW_pair (s : State) (c w : Nat) (a b : W64) (p : Prop) [Decidable p] :
    ∃ d, (if p then (s.setDescW c w a).setDescW c (w + 1) b else s.setDescW c w a) = { s with desc := d } := by
  split
  · exact ⟨_, rfl⟩
  · exact ⟨_, rfl⟩

/-- A field that is set changes the descriptors alone. -/
theorem State.setField_eq (s : State) (c blk lo n v : Nat) : ∃ d, s.setField c blk lo n v = { s with desc := d } :=
  s.setDescW_pair c _ _ _ _

theorem State.setDescW_both (s : State) (c w : Nat) (a b : W64) :
    (if 48 + 24 > 64 then (s.setDescW c w a).setDescW c (w + 1) b else s.setDescW c w a) =
      { s with desc := Tab.write 0 (Tab.write 0 s.desc (c * 64 + w) a) (c * 64 + (w + 1)) b } := rfl

theorem State.setClHeld_eq (s : State) (c v : Nat) : s.setClHeld c v = { s with desc := heldDesc s.desc c v } :=
  s.setDescW_both c 18 _ _

theorem State.clHeld_of_desc {s : State} {d : Tab W64} {c v : Nat} (h : s.desc = heldDesc d c v) (hv : v < 2 ^ 24) : s.clHeld c = v := by
  have hfield := bitsOf_setBitsOf ((Tab.read 0 d (c * 64 + 18)).toNat + (Tab.read 0 d (c * 64 + 19)).toNat * 2 ^ 64) 48 24 v
  have hne : c * 64 + 18 ≠ c * 64 + 19 := by omega
  change bitsOf ((Tab.read 0 s.desc (c * 64 + 18)).toNat + (Tab.read 0 s.desc (c * 64 + 19)).toNat * 2 ^ 64) 48 24 = v
  rw [h, heldDesc, Tab.read_write_self, Tab.read_write_ne _ _ _ hne, Tab.read_write_self]
  rw [Nat.mod_eq_of_lt hv] at hfield
  generalize setBitsOf _ 48 24 v = x at hfield ⊢
  rw [bitsOf] at hfield ⊢
  simp only [BitVec.toNat_ofNat]
  omega

/-- A fill is admitted only where the context may hold one line more. -/
theorem State.held_of_admitted {s : State} {c line : Nat} {ring : Bool} (h : s.fillStatus c line ring = 0) :
    s.clHeld c + 1 < 2 ^ 24 := by
  have hquota : s.clQuota c < 2 ^ 24 := Nat.mod_lt _ (by decide)
  unfold State.fillStatus at h
  dsimp only at h
  split_ifs at h with hspecial hhbm hcounted hroom hset
  omega

/-! ### What a fill leaves (07 R193, 08 R226) -/

/-- The rings once a line has become a counted slot. -/
def State.ringFilled (s : State) (line : Nat) : Tab (Nat × Nat × Nat × Nat) :=
  match s.ringOfLine line with
  | none => s.ring
  | some k => Tab.modify s.ring k fun v => (v.1, v.2.1 - 1, (v.2.2.1 + 1) % 2 ^ 32, v.2.2.2)

/-- The state once `line` is counted by `c`. -/
def State.filled (s : State) (c line count : Nat) (data : List Byte) : State :=
  { s with
    counted := Tab.set s.counted line (c, count)
    countedData := Memory.setBytes (Memory.zero s.countedData (128 * line) 128) (128 * line) data
    desc := heldDesc s.desc c (s.clHeld c + 1)
    ring := s.ringFilled line }

theorem State.fillLine_eq (s : State) (c line count : Nat) (data : List Byte) (bad : List Nat) :
    ∃ b, s.fillLine c line count data bad = (s.filled c line count data).withBooks b := by
  refine ⟨{ s.books with poison := bad.map (fun i => 4 * line + i + 2 ^ 60) ++ s.poison }, ?_⟩
  unfold State.fillLine State.filled State.ringFilled
  simp only [State.setClHeld_eq]
  change (match s.ringOfLine line with | none => _ | some k => _) = _
  cases s.ringOfLine line <;> rfl

theorem State.countedFill_admitted {s : State} {c line : Nat} {ring : Bool} (hst : s.fillStatus c line ring = 0)
    (hret : s.retiredAt (128 * line) = false) (count : Nat) (data : List Byte) (bad : List Nat) :
    s.countedFill c line count data bad ring = (s.fillLine c line count data bad, 0) := by
  rw [State.countedFill, if_pos ⟨hst, hret⟩]

theorem State.countedFill_refused {s : State} {c line : Nat} {ring : Bool}
    (h : ¬ (s.fillStatus c line ring = 0 ∧ s.retiredAt (128 * line) = false)) (count : Nat) (data : List Byte) (bad : List Nat) :
    s.countedFill c line count data bad ring = (s, s.fillStatus c line ring) := by
  rw [State.countedFill, if_neg h]

/-- A line that is filled is counted with its count, and its data stand. -/
theorem State.filled_line {s : State} {c line count : Nat} {data : List Byte} (h : data.length = 128) :
    Tab.get? (s.filled c line count data).counted line = some (c, count) ∧
      Memory.bytes (s.filled c line count data).countedData (128 * line) 128 = data :=
  ⟨Tab.get?_set_self _ _ _, by rw [State.filled, ← h]; exact Memory.bytes_setBytes _ _ _⟩

/-! ### What a decrement or a release leaves (07 R194, R196) -/

theorem State.ringDrop_eq (s : State) (line : Nat) (drain : Bool) :
    s.ringDrop line drain = { s with ring := (s.ringDrop line drain).ring } := by
  unfold State.ringDrop
  split <;> rfl

/-- A dropped line is counted no more, and memory stands. -/
theorem State.dropLine_line (s : State) (line : Nat) (drain : Bool) :
    Tab.get? (s.dropLine line drain).counted line = none ∧ (s.dropLine line drain).mem = s.mem := by
  unfold State.dropLine
  split
  case h_1 h => exact ⟨h, rfl⟩
  case h_2 e h =>
    rw [State.ringDrop_eq, State.setClHeld_eq]
    exact ⟨(Tab.get?_erase _ _ _).trans (if_pos rfl), rfl⟩

/-- A consuming read's decrement. -/
theorem State.decLine_line {s : State} {line c k : Nat} (h : Tab.get? s.counted line = some (c, k)) :
    Tab.get? (s.decLine line).counted line = (if k ≤ 1 then none else some (c, k - 1)) ∧ (s.decLine line).mem = s.mem := by
  simp only [State.decLine, h]
  split
  · exact s.dropLine_line line true
  · exact ⟨Tab.get?_set_self _ _ _, rfl⟩

/-! ### Records and freezes change no counted line (07 R200, 14 R373) -/

/-- The same lines are counted in `t` as in `s`. -/
def SameLines (s t : State) : Prop := t.counted = s.counted

theorem SameLines.refl (s : State) : SameLines s s := Eq.refl s.counted

theorem SameLines.trans {s t u : State} (h : SameLines s t) (k : SameLines t u) : SameLines s u := Eq.trans k h

theorem SameLines.ite {s t u : State} {p : Prop} [Decidable p] (h : SameLines s t) (k : SameLines s u) :
    SameLines s (if p then t else u) := by
  split
  · exact h
  · exact k

theorem SameLines.foldl {γ : Type} {f : State → γ → State} (h : ∀ s x, SameLines s (f s x)) (l : List γ) (s : State) :
    SameLines s (l.foldl f s) := foldl_keeps State.counted f h l s

theorem OnlyBooks.sameLines {s t : State} (h : OnlyBooks s t) : SameLines s t := by
  obtain ⟨b, rfl⟩ := h
  exact .refl s

theorem sameLines_setField (s : State) (c blk lo n v : Nat) : SameLines s (s.setField c blk lo n v) := by
  obtain ⟨d, hd⟩ := s.setField_eq c blk lo n v
  rw [hd]
  exact .refl s

theorem sameLines_signal (s : State) (c : Nat) : SameLines s (s.signal c) :=
  .ite (.refl s) (.ite (.refl s) (.refl s))

theorem sameLines_advanceRing (s : State) (c k : Nat) : SameLines s (s.advanceRing c k) := by
  unfold State.advanceRing
  split
  · exact (sameLines_setField s _ _ _ _ _).trans (.ite (sameLines_signal _ _) (.refl _))
  · exact (sameLines_setField s _ _ _ _ _).trans (.ite (sameLines_signal _ _) (.refl _))
  · exact sameLines_setField s _ _ _ _ _

theorem sameLines_mergeAtom (s : State) (pa : Nat) (bs : List Byte) : SameLines s (s.mergeAtom pa bs) := by
  have hpoison : OnlyBooks s (if bs.length = 32 then s.setPoison pa false else if s.poisonedAt pa then s.reportBad pa 0 else s) :=
    .ite (onlyBooks_setPoison s _ _) (.ite (onlyBooks_reportBad s _ _) (.refl s))
  have hpoke : ∀ u : State, SameLines u (u.poke pa bs) := fun u =>
    (onlyBooks_markDirty { u with mem := Memory.setBytes u.mem pa bs } pa).sameLines
  exact hpoison.sameLines.trans (.ite rfl (hpoke _))

theorem sameLines_leaveStamp (s : State) (pa n : Nat) (c : List Nat) : SameLines s (s.leaveStamp pa n c) := .ite (.refl s) rfl

theorem sameLines_writeRecord (s : State) (d c k pa : Nat) (bs : List Byte) : SameLines s (s.writeRecord d c k pa bs) := by
  have hcount : SameLines s (s.countWrite d) := .refl s
  have hhold : ∀ (u : State) (bs : List (Nat × Byte)) (w : WriteBy) (x : List Nat), SameLines u (u.hold bs pa w d x) :=
    fun u _ _ _ => .refl u
  have hnote : ∀ (u : State) (n m : Nat), SameLines u (u.noteOver pa n d m) := fun u _ _ => .refl u
  exact hcount.trans (.ite (hhold _ _ _ _) (.trans (.foldl (fun u _ => sameLines_mergeAtom u _ _) _ _)
    (.trans (sameLines_leaveStamp _ _ _ _) (.trans (hnote _ _ _) (sameLines_advanceRing _ _ _)))))

theorem sameLines_eqAppend (s : State) (c : Nat) (r : BitVec 256) : SameLines s (s.eqAppend c r) :=
  .ite (.trans (.ite (.refl s) (sameLines_setField s _ _ _ _ _)) (sameLines_setField _ _ _ _ _ _)) (sameLines_writeRecord s _ _ _ _ _)

theorem sameLines_stopCtx (s : State) (c : Nat) : SameLines s (s.stopCtx c) := by
  have hfurrow : ∀ (u : State) (k : Nat) (f : Furrow), SameLines u (u.freezeFurrow k f) := fun u _ _ => .refl u
  refine .foldl (fun u kf => ?_) s.furrows s
  exact .ite (hfurrow u kf.1 kf.2) (.refl u)

theorem sameLines_setFrozen (s : State) (c cause : Nat) : SameLines s (s.setFrozen c cause) :=
  .trans (.trans (sameLines_setField s _ _ _ _ _) (sameLines_setField _ _ _ _ _ _)) (.ite (sameLines_setField _ _ _ _ _ _) (.refl _))

theorem sameLines_freeze (s : State) (c cause src core : Nat) (va : W64) (pa : Nat) (pc : W64) (toEq : Bool) :
    SameLines s (s.freeze c cause src core va pa pc toEq) := by
  unfold State.freeze
  refine .ite (.refl s) ?_
  extract_lets u r ok v w
  have hu : SameLines s u := (sameLines_stopCtx s c).trans (sameLines_setFrozen _ c cause)
  have hv : SameLines u v := .ite (sameLines_eqAppend u c r) (.refl u)
  have hw : SameLines v w := (onlyBooks_postSys v r).sameLines
  clear_value w v ok r u
  exact hu.trans (.ite (.refl u) (hv.trans (hw.trans (.ite (sameLines_signal w c) (.refl w)))))

/-- Posting with `post` changes no counted line. This is of the function, not of the state that it gives: comparing that state with
the function's body, the kernel would evaluate where the queue's next record goes. -/
structure PostKeepsLines (post : State → Nat → BitVec 256 → State) : Prop where
  same : ∀ s c r, SameLines s (post s c r)

theorem postEq_keepsLines : PostKeepsLines State.postEq := by
  delta State.postEq
  refine ⟨fun s c r => ?_⟩
  generalize s.eqSlot c = slot
  cases slot with
  | none => exact sameLines_eqAppend s c r
  | some a => exact .ite (sameLines_eqAppend s c r) (sameLines_freeze s _ _ _ _ _ _ _ _)

theorem sameLines_postRead (s : State) (c kind src core count : Nat) (va : W64) (pa : Nat) (pc : W64) :
    SameLines s (s.postRead c kind src core count va pa pc) :=
  (sameLines_setField s _ _ _ _ _).trans (postEq_keepsLines.same _ _ _)

/-- The owner's release ends the line. -/
theorem State.releaseLine_own {s : State} {line c k : Nat} (h : Tab.get? s.counted line = some (c, k)) (src core : Nat) (va pc : W64) :
    Tab.get? (s.releaseLine c line src core va pc).1.counted line = none := by
  simp only [State.releaseLine, h, if_true]
  split
  · exact (s.dropLine_line line true).1
  · rw [sameLines_postRead (s.dropLine line true)]
    exact (s.dropLine_line line true).1

/-- Another context's release does nothing. -/
theorem State.releaseLine_other {s : State} {line c d k : Nat} (h : Tab.get? s.counted line = some (d, k)) (hne : d ≠ c)
    (src core : Nat) (va pc : W64) : (s.releaseLine c line src core va pc).1 = s := by
  simp only [State.releaseLine, h, if_neg hne]

/-! ### A fill and its answer (07 R193) -/

theorem State.nodeReply_none {r : Req} (h : r.node = none) (s : State) (st : Nat) : s.nodeReply r st = s := by simp [State.nodeReply, h]

theorem State.strikeFill_none {r : Req} (h : r.node = none) (s : State) : s.strikeFill r = s := by simp [State.strikeFill, h]

/-- A fill that has been answered leaves its clock, and a note on reads that have looked. -/
theorem State.settled_eq (s : State) (pa n line : Nat) (r : Req) :
    ∃ f b, (s.land pa n r.die r.num r.clock).stampRing line r.clock = ({ s with fabric := f } : State).withBooks b := by
  obtain ⟨b, hb⟩ := State.land_eq s pa n r.die r.num r.clock
  obtain ⟨c, hc⟩ := onlyBooks_stampRing (s.land pa n r.die r.num r.clock) line r.clock
  refine ⟨if isLocal pa then s.noted pa n r.die r.num else s.fabric, c, ?_⟩
  rw [hc, hb]
  rfl

/-- A fill that is admitted counts its line and is answered with 0. -/
theorem State.applyReq_fill {s : State} {r : Req} {count : Nat} (hk : r.kind = .fill count) (hn : r.node = none)
    (hst : s.fillStatus r.ctx (r.pa / 128) false = 0) (hret : s.retiredAt (128 * (r.pa / 128)) = false) :
    ∃ f b, s.applyReq r = ({ s.filled r.ctx (r.pa / 128) count r.data with
      fabric := f, results := r.answer s.results 0 } : State).withBooks b := by
  obtain ⟨b, hb⟩ := onlyBooks_countAccess s r.pa r.size
  have hfill := State.countedFill_admitted (s := s.withBooks b) hst hret count r.data r.bad
  obtain ⟨c, hc⟩ := State.fillLine_eq (s.withBooks b) r.ctx (r.pa / 128) count r.data r.bad
  obtain ⟨f, d, hd⟩ := State.settled_eq
    (({ s.filled r.ctx (r.pa / 128) count r.data with results := r.answer s.results 0 } : State).withBooks c) r.pa 128 (r.pa / 128) r
  refine ⟨f, d, ?_⟩
  simp only [State.applyReq, hk, hb, hfill, hc, State.reply_eq, State.nodeReply_none hn, State.strikeFill_none hn, if_true]
  exact hd

/-- A fill that is not is answered alone. -/
theorem State.applyReq_fill_refused {s : State} {r : Req} {count : Nat} (hk : r.kind = .fill count) (hn : r.node = none)
    (h : ¬ (s.fillStatus r.ctx (r.pa / 128) false = 0 ∧ s.retiredAt (128 * (r.pa / 128)) = false)) :
    ∃ f b, s.applyReq r = ({ s with
      fabric := f, results := r.answer s.results (s.fillStatus r.ctx (r.pa / 128) false) } : State).withBooks b := by
  obtain ⟨b, hb⟩ := onlyBooks_countAccess s r.pa r.size
  have hfill := State.countedFill_refused (s := s.withBooks b) h count r.data r.bad
  simp only [State.applyReq, hk, hb, hfill, State.reply_eq, State.nodeReply_none hn, State.strikeFill_none hn]
  split
  · exact State.settled_eq
      (({ s with results := r.answer s.results (s.fillStatus r.ctx (r.pa / 128) false) } : State).withBooks b) r.pa 128 (r.pa / 128) r
  · exact ⟨s.fabric, b, rfl⟩

/-! ### A ring's fill (08 R226) -/

/-- The control atom of a ring names it, and its entry stands. -/
theorem State.ring_of_atom {s : State} {atom k : Nat} (h : s.ringOfAtom atom = some k) :
    Tab.get? s.ring k = some (Tab.read (0, 0, 0, 0) s.ring k) := by
  obtain ⟨e, he, rfl⟩ := Option.map_eq_some_iff.1 h
  obtain ⟨v, hv⟩ := Option.isSome_iff_exists.1 (Tab.isSome_get?_of_mem (List.mem_of_find?_eq_some he))
  rw [Tab.read, hv, Option.getD_some]

/-- The line of the slot at TAIL of a ring. -/
def State.slotAt (s : State) (k : Nat) : Nat := s.ringFirst k + (Tab.read (0, 0, 0, 0) s.ring k).1

/-- The state once the slot at TAIL of ring `k` is filled. -/
def State.ringAdvanced (s : State) (c k count : Nat) (data : List Byte) : State :=
  (s.filled c (s.slotAt k) count data).modRing k fun x =>
    (((Tab.read (0, 0, 0, 0) s.ring k).1 + 1) % s.ringLines k, x.2)

/-- TAIL, FREE and FILLS move. -/
theorem State.ring_ringAdvanced {s : State} {k atom : Nat} (hatom : s.ringOfAtom atom = some k)
    (hline : s.ringOfLine (s.slotAt k) = some k) (c count : Nat) (data : List Byte) :
    let v := Tab.read (0, 0, 0, 0) s.ring k
    Tab.read (0, 0, 0, 0) (s.ringAdvanced c k count data).ring k =
      ((v.1 + 1) % s.ringLines k, v.2.1 - 1, (v.2.2.1 + 1) % 2 ^ 32, v.2.2.2) := by
  simp only [State.ringAdvanced, State.modRing, State.filled, State.ringFilled, hline]
  rw [Tab.read, Tab.get?_modify, if_pos rfl, Tab.get?_modify, if_pos rfl, State.ring_of_atom hatom]
  rfl

/-- A ring's fill that is admitted fills the slot at TAIL and returns it. -/
theorem State.ringFill_admitted {s : State} {c pa k : Nat} (hatom : s.ringOfAtom (pa / 32) = some k)
    (hfree : (Tab.read (0, 0, 0, 0) s.ring k).2.1 ≠ 0)
    (hst : s.fillStatus c (s.slotAt k) true = 0) (hret : s.retiredAt (128 * s.slotAt k) = false) (count : Nat) (data : List Byte)
    (bad : List Nat) :
    ∃ b, s.ringFill c pa count data bad =
      ((s.ringAdvanced c k count data).withBooks b, (Tab.read (0, 0, 0, 0) s.ring k).1 * 2 ^ 16) := by
  obtain ⟨b, hb⟩ := s.fillLine_eq c (s.slotAt k) count data bad
  refine ⟨b, ?_⟩
  rw [State.slotAt] at hst hret hb
  simp only [State.ringFill, hatom, if_neg hfree, State.countedFill_admitted hst hret, hret, and_self, if_true, hb]
  rfl

/-- A ring's fill that is admitted is answered with TAIL. -/
theorem State.applyReq_ringFill {s : State} {r : Req} {count k : Nat} (hk : r.kind = .ringFill count) (hn : r.node = none)
    (hatom : s.ringOfAtom (r.pa / 32) = some k) (hfree : (Tab.read (0, 0, 0, 0) s.ring k).2.1 ≠ 0)
    (hst : s.fillStatus r.ctx (s.slotAt k) true = 0) (hret : s.retiredAt (128 * s.slotAt k) = false) :
    ∃ f b, s.applyReq r = ({ s.ringAdvanced r.ctx k count r.data with
      fabric := f, results := r.answer s.results ((Tab.read (0, 0, 0, 0) s.ring k).1 * 2 ^ 16) } : State).withBooks b := by
  have htargets : (s.targets r).drop 1 = [(128 * s.slotAt k, 128)] := by
    simp [State.targets, hk, hatom, State.slotAt]
  obtain ⟨b, hb⟩ := (onlyBooks_countAccess s r.pa 32).trans (onlyBooks_countAccess _ (128 * s.slotAt k) 128)
  obtain ⟨c, hc⟩ := State.ringFill_admitted (s := s.withBooks b) hatom hfree hst hret count r.data r.bad
  have hzero : (Tab.read (0, 0, 0, 0) (s.withBooks b).ring k).1 * 2 ^ 16 % 2 ^ 16 = 0 := Nat.mul_mod_left _ _
  obtain ⟨d, hd⟩ := onlyBooks_stampAt (({ s.ringAdvanced r.ctx k count r.data with
    results := r.answer s.results ((Tab.read (0, 0, 0, 0) s.ring k).1 * 2 ^ 16) } : State).withBooks c) r.pa 32 r.clock
  obtain ⟨e, he⟩ := State.land_eq (({ s.ringAdvanced r.ctx k count r.data with
    results := r.answer s.results ((Tab.read (0, 0, 0, 0) s.ring k).1 * 2 ^ 16) } : State).withBooks d) (128 * s.slotAt k) 128
    r.die r.num r.clock
  refine ⟨_, e, Eq.trans ?_ ((congrArg (fun x : State => x.land (128 * s.slotAt k) 128 r.die r.num r.clock) hd).trans he)⟩
  simp only [State.applyReq, hk, htargets, List.foldl_cons, List.foldl_nil, hb, hc, State.reply_eq, State.nodeReply_none hn,
    hzero, if_true]
  rfl

/-- A fill of no ring is answered with 6. -/
theorem State.applyReq_ringFill_none {s : State} {r : Req} {count : Nat} (hk : r.kind = .ringFill count) (hn : r.node = none)
    (hatom : s.ringOfAtom (r.pa / 32) = none) :
    ∃ b, s.applyReq r = ({ s with results := r.answer s.results 6 } : State).withBooks b := by
  have htargets : (s.targets r).drop 1 = [] := by simp [State.targets, hk, hatom]
  obtain ⟨b, hb⟩ := onlyBooks_countAccess s r.pa 32
  refine ⟨b, ?_⟩
  have hfill : ∀ d e, (s.withBooks b).ringFill r.ctx r.pa count d e = (s.withBooks b, 6) := fun d e => by
    have hatom' : (s.withBooks b).ringOfAtom (r.pa / 32) = none := hatom
    simp only [State.ringFill, hatom']
  simp only [State.applyReq, hk, htargets, List.foldl_nil, hb, hfill, State.reply_eq, State.nodeReply_none hn]
  rfl

/-! ### The events -/

/-- A request is given to its home, and its event is over. -/
theorem exec_countedFill {s t : State} {n : Nat} {r : Req} {c : Nat} (hn : s.fabric[n]? = some r) (hs : s.servable n = true)
    (hk : r.kind = .fill c) (ht : s.isTableWrite r = false) (h : (s.takeReq r).applyReq r = t) : exec (.countedFill n) s = .next t := by
  subst h
  change execCountedFill n s = _
  simp [execCountedFill, hn, hs, ht, hk]

theorem exec_countedRelease {s : State} {n : Nat} {r : Req} (hn : s.fabric[n]? = some r) (hs : s.servable n = true)
    (hk : r.kind = .release) : exec (.countedRelease n) s = .next ((s.takeReq r).applyReq r) := by
  change execCountedRelease n s = _
  simp [execCountedRelease, hn, hs, hk]

theorem exec_ringFill {s t : State} {n line : Nat} {r : Req} {c : Nat} (hn : s.fabric[n]? = some r) (hs : s.servable n = true)
    (hk : r.kind = .ringFill c)
    (hline : ((s.targets r).drop 1 = [] ∧ line = 0) ∨ (s.targets r).drop 1 = [(128 * line, 128)])
    (ht : s.isTableLine (128 * line) = false) (hh : s.lineHeld (128 * line) = false) (h : (s.takeReq r).applyReq r = t) :
    exec (.ringFill n) s = .next t := by
  subst h
  change execRingFill n s = _
  obtain ⟨hslot, rfl⟩ | hslot := hline
  · simp only [execRingFill, hn, hk, hs, hslot, ht, hh, Bool.not_true, Bool.or_self, Bool.false_eq_true, if_false]
  · simp only [execRingFill, hn, hk, hs, hslot, Nat.mul_div_cancel_left line (Nat.succ_pos 127), ht, hh, Bool.not_true, Bool.or_self,
      Bool.false_eq_true, if_false]

/-- A lone consuming read of a counted line is answered, and then counted. -/
theorem exec_consumingRead {s : State} {n : Nat} {r : Req} (hn : s.fabric[n]? = some r) (hs : s.servable n = true)
    (hk : r.kind = .consume) (hm : s.mates r = [r]) (hc : s.isCounted r.pa = true) :
    ∃ c, exec (.consumingRead n) s = .next ((((s.takeReq r).applyReq r).stampRing (r.pa / 128) c).decLine (r.pa / 128)) := by
  have hc' : (s.takeReq r).isCounted r.pa = true := hc
  refine ⟨joinClock (joinClock [] r.clock) ((s.takeReq r).clockAt r.pa r.size), ?_⟩
  change execConsumingRead n s = _
  simp [execConsumingRead, hn, hs, hk, hm, hc']

/-- Settles O37: each event by what it leaves beside the books. -/
theorem countedLinesFillAndDrain : Obligations.CountedLinesFillAndDrain := by
  unfold Obligations.CountedLinesFillAndDrain
  intro s n r hn hs hnode line st
  have hframe : s.retiredAt (128 * line) = s.retiredAt r.pa := by
    rw [State.retiredAt, State.retiredAt, show 128 * line / 65536 = r.pa / 65536 by simp only [line]; omega]
  refine ⟨fun c hk ht hlen _ hd => ?_, fun c k hk hcount hpoison hm => ?_, fun c k hk hcount => ?_,
    fun c hk hatom ht hh hd => ?_, fun c k hk hatom => ?_⟩
  · by_cases hok : st = 0 ∧ s.retiredAt r.pa = false
    · obtain ⟨hst, hret⟩ := hok
      obtain ⟨f, b, h⟩ := State.applyReq_fill (s := s.takeReq r) hk hnode hst (hframe.trans hret)
      obtain ⟨hcounted, hdata⟩ := State.filled_line (s := s.takeReq r) (c := r.ctx) (line := line) (count := c) hlen
      refine ⟨_, exec_countedFill hn hs hk ht h, rfl, ?_, fun _ _ => ⟨?_, hcounted, hdata⟩, fun hne => absurd hst hne⟩
      · rw [hst]
        exact Req.answer_of_dests hd _ _
      · exact State.clHeld_of_desc rfl (State.held_of_admitted hst)
    · obtain ⟨f, b, h⟩ := State.applyReq_fill_refused (s := s.takeReq r) hk hnode (hframe ▸ hok)
      exact ⟨_, exec_countedFill hn hs hk ht h, rfl, Req.answer_of_dests hd _ _, fun hst hret => absurd ⟨hst, hret⟩ hok,
        fun _ => ⟨rfl, rfl⟩⟩
  · obtain ⟨b, h⟩ := State.applyReq_load (s := s.takeReq r) (.inr hk) hpoison
    have hcounted : s.isCounted r.pa = true := by rw [State.isCounted, Tab.has, hcount]; rfl
    obtain ⟨x, hx⟩ := exec_consumingRead hn hs hk hm hcounted
    obtain ⟨d, hstamp⟩ := onlyBooks_stampRing ((s.takeReq r).applyReq r) line x
    have hstill : Tab.get? (((s.takeReq r).applyReq r).stampRing line x).counted line = some (c, k) := by
      rw [hstamp, h]
      exact hcount
    obtain ⟨hdec, hmem⟩ := State.decLine_line hstill
    refine ⟨_, hx, hmem.trans ?_, hdec⟩
    rw [hstamp, h]
    rfl
  · obtain ⟨b, hb⟩ := (onlyBooks_stampRing (s.takeReq r) line r.clock).trans (onlyBooks_countAccess _ r.pa 128)
    have happly : (s.takeReq r).applyReq r = (((s.takeReq r).withBooks b).releaseLine r.ctx line 0 r.core r.va r.pc).1 := by
      simp only [State.applyReq, hk, hnode, Option.isSome_none, Bool.false_eq_true, if_false, State.nodeReply_none hnode]
      rw [← hb]
    have hstill : Tab.get? ((s.takeReq r).withBooks b).counted line = some (c, k) := hcount
    refine ⟨_, exec_countedRelease hn hs hk, fun hown => ?_, fun hne => ?_⟩
    · subst hown
      rw [happly]
      exact State.releaseLine_own hstill _ _ _ _
    · rw [happly, State.releaseLine_other hstill hne]
      exact ⟨rfl, rfl⟩
  · obtain ⟨b, h⟩ := State.applyReq_ringFill_none (s := s.takeReq r) hk hnode hatom
    have hnone : (s.targets r).drop 1 = [] := by simp [State.targets, hk, hatom]
    exact ⟨_, exec_ringFill hn hs hk (.inl ⟨hnone, rfl⟩) ht hh h, rfl, rfl, Req.answer_of_dests hd _ _⟩
  · intro v slot hfree hst hslot ht hh hret hlen _ hd
    obtain ⟨f, b, h⟩ := State.applyReq_ringFill (s := s.takeReq r) hk hnode hatom hfree hst hret
    have hone : (s.targets r).drop 1 = [(128 * slot, 128)] := by simp [State.targets, hk, hatom, slot, v]
    obtain ⟨hcounted, hdata⟩ := State.filled_line (s := s.takeReq r) (c := r.ctx) (line := slot) (count := c) hlen
    refine ⟨_, exec_ringFill hn hs hk (.inr hone) ht hh h, rfl, hcounted, hdata, ?_, Req.answer_of_dests hd _ _, ?_⟩
    · exact State.clHeld_of_desc rfl (State.held_of_admitted hst)
    · exact State.ring_ringAdvanced (s := s.takeReq r) hatom hslot r.ctx c r.data

end Sys2Proof.Machine
end

section
/-! Which lane's access traps, and with which cause (obligation O31). -/

namespace Sys2Proof.Machine

/-! ### How the accesses of chapter 8 begin -/

/-- A store begins as other instructions do, its source B being data. -/
theorem exec_of_issueStore {i : Instr} {o : Ops} {s : State} {e : Env} {k : Env → Out} (he : exec i s = issueStore o i.sig s k)
    (hn : needs i = .all) (hl : i.len = o.len) (hp : partsAt s i = [{ o := o, sg := i.sig, data := some 1 }]) (hb : Begins i s e) :
    exec i s = k e := by
  rw [he, issueStore, ← hn, ← hl, ← hp, issue_of_begins hb]

section
variable {o : Ops} {m : ModM} {s : State} {e : Env}

theorem exec_ld (hb : Begins (.ld o m) s e) : exec (.ld o m) s = e.loadGlobal o m m.scl .read :=
  exec_of_issue1 (show exec (.ld o m) s = execLd o m s from rfl) rfl rfl rfl hb
theorem exec_ldc (hb : Begins (.ldc o m) s e) : exec (.ldc o m) s = e.loadGlobal o m false .consume :=
  exec_of_issue1 (show exec (.ldc o m) s = execLdc o m s from rfl) rfl rfl rfl hb
theorem exec_st (hb : Begins (.st o m) s e) : exec (.st o m) s = e.storeGlobal o m :=
  exec_of_issueStore (show exec (.st o m) s = execSt o m s from rfl) rfl rfl rfl hb
theorem exec_atom (hb : Begins (.atom o m) s e) : exec (.atom o m) s = e.atomics o m false :=
  exec_of_issue1 (show exec (.atom o m) s = execAtom o m s from rfl) rfl rfl rfl hb
theorem exec_atomr (hb : Begins (.atomr o m) s e) : exec (.atomr o m) s = e.atomics o m true :=
  exec_of_issue1 (show exec (.atomr o m) s = execAtomr o m s from rfl) rfl rfl rfl hb

/-- What CAS sends for a checked access: C is written where B is found. -/
def Env.casReq (e : Env) (o : Ops) (m : ModM) (s : State) (p : Placed) : Req :=
  e.req p .cas m.sz m.ord m.scope s.nextId (e.c p.acc.lane) (e.b p.acc.lane) (destRegs o m.sz false p.acc.lane)

theorem exec_cas (hb : Begins (.cas o m) s e) :
    exec (.cas o m) s = e.access (e.accs o false m.sz.bytes .both) (basesOf (e.accs o false m.sz.bytes .both)) m.sz.bytes
      fun u ps => e.roomFor u ps.length (e.send u m.ord m.scope (ps.map (e.casReq o m u)) (ps.map writeOf)) :=
  exec_of_issue1 (show exec (.cas o m) s = execCas o m s from rfl) rfl rfl rfl hb

/-- Each access of lanes to global memory passes the checks of Table 2 before all else. -/
theorem exec_global {i : Instr} (hi : i ∈ [Instr.ld o m, .st o m, .ldc o m, .atom o m, .atomr o m, .cas o m]) (hscl : m.scl = false)
    (hb : Begins i s e) : ∃ k K, exec i s =
      e.access (e.accs o false m.sz.bytes k) (basesOf (e.accs o false m.sz.bytes k)) m.sz.bytes K := by
  simp only [List.mem_cons, List.not_mem_nil, or_false] at hi
  obtain rfl | rfl | rfl | rfl | rfl | rfl := hi
  · exact ⟨.read, _, (exec_ld hb).trans (by rw [hscl]; rfl)⟩
  · exact ⟨.write, _, (exec_st hb).trans (by rw [Env.storeGlobal, hscl])⟩
  · exact ⟨.read, _, exec_ldc hb⟩
  · exact ⟨.both, _, exec_atom hb⟩
  · exact ⟨.both, _, exec_atomr hb⟩
  · exact ⟨.both, _, exec_cas hb⟩

theorem Env.localAtomics_checks (e : Env) (o : Ops) (m : ModM) (f : Nat → Nat → Nat) : ∃ K, e.localAtomics o m f =
    e.localCheck (e.localAccs o false m.sz.bytes) (basesL (e.localAccs o false m.sz.bytes)) m.sz.bytes K := by
  unfold Env.localAtomics
  exact ⟨_, rfl⟩

/-- Each access of lanes to local memory passes the checks of Table 2 before all else. -/
theorem exec_local {i : Instr} (hi : i ∈ [Instr.ldl o m, .stl o m, .atoml o m, .casl o m]) (hscl : m.scl = false) (hb : Begins i s e) :
    ∃ K, exec i s = e.localCheck (e.localAccs o false m.sz.bytes) (basesL (e.localAccs o false m.sz.bytes)) m.sz.bytes K := by
  simp only [List.mem_cons, List.not_mem_nil, or_false] at hi
  obtain rfl | rfl | rfl | rfl := hi
  · exact ⟨_, (exec_of_issue1 (show exec (.ldl o m) s = execLdl o m s from rfl) rfl rfl rfl hb).trans (by rw [hscl])⟩
  · exact ⟨_, (exec_of_issue1 (show exec (.stl o m) s = execStl o m s from rfl) rfl rfl rfl hb).trans (by rw [hscl])⟩
  · rw [exec_of_issue1 (show exec (.atoml o m) s = execAtoml o m s from rfl) rfl rfl rfl hb]
    exact e.localAtomics_checks o m _
  · rw [exec_of_issue1 (show exec (.casl o m) s = execCasl o m s from rfl) rfl rfl rfl hb]
    exact e.localAtomics_checks o m _

/-! ### The lowest lane that fails a check (08 Table 2) -/

/-- The lowest lane of which a test holds is the first found. -/
theorem find?_lowest {ls : List Nat} (hs : ls.Pairwise (· < ·)) {p : Nat → Bool} {l : Nat} (hl : l ∈ ls) (hp : p l = true)
    (hlow : ∀ k ∈ ls, k < l → p k = false) : ls.find? p = some l := by
  induction ls with
  | nil => cases hl
  | cons x ls ih =>
    rw [List.pairwise_cons] at hs
    obtain rfl | hmem := List.mem_cons.1 hl
    · exact List.find?_cons_of_pos hp
    · rw [List.find?_cons_of_neg (by simp [hlow x List.mem_cons_self (hs.1 l hmem)])]
      exact ih hs.2 hmem fun k hk => hlow k (List.mem_cons_of_mem _ hk)

theorem alignDetail_two_pow (d : Nat) : alignDetail (2 ^ d) = d := by
  rw [alignDetail, Nat.log2_two_pow, if_pos rfl]

theorem Env.access_of_trap {accs : List Acc} {bases : List (Nat × W64)} {n c d l : Nat} {u : State} {a x : W64}
    {k : State → List Placed → Out} (h : e.s.check e.asker accs bases n = .trap u c d l a x) :
    e.access accs bases n k = .next (u.raise e.u.gid ⟨c, d, l, e.u.pc, a, x, e.bundle⟩) := by
  rw [Env.access, h]
  rfl

theorem State.check_of_notCanonical {accs : List Acc} {a : Acc} (h : accs.find? (fun a => !canonical a.va) = some a) (q : Asker)
    (bases : List (Nat × W64)) (n : Nat) : s.check q accs bases n = .trap s 7 1 a.lane a.va 0 := by
  rw [State.check, h]

theorem State.check_of_misaligned {accs : List Acc} {bases : List (Nat × W64)} {n : Nat} {b : Nat × W64}
    (hc : ∀ a ∈ accs, canonical a.va = true) (h : bases.find? (fun b => b.2.toNat % n != 0) = some b) (q : Asker) :
    s.check q accs bases n = .trap s 8 (alignDetail n) b.1 b.2 0 := by
  have hnone : accs.find? (fun a => !canonical a.va) = none := List.find?_eq_none.2 fun a ha => by simp [hc a ha]
  rw [State.check, hnone]
  simp only [h]

theorem Env.accs_lanes (e : Env) (o : Ops) (n : Nat) (k : AccKind) :
    e.accs o false n k = e.act.map fun l => ⟨l, bitMask l, Ops.globalEa o (e.a l), n, k⟩ := rfl

/-- The lowest active lane with an address that is not canonical. -/
theorem check_of_lane_notCanonical (hb : e.act.Pairwise (· < ·)) {l : Nat} (hl : l ∈ e.act)
    (hbad : canonical (Ops.globalEa o (e.a l)) = false)
    (hlow : ∀ k ∈ e.act, k < l → canonical (Ops.globalEa o (e.a k)) = true) (n : Nat) (k : AccKind) :
    e.s.check e.asker (e.accs o false n k) (basesOf (e.accs o false n k)) n = .trap e.s 7 1 l (Ops.globalEa o (e.a l)) 0 := by
  refine State.check_of_notCanonical (a := ⟨l, bitMask l, Ops.globalEa o (e.a l), n, k⟩) ?_ _ _ _
  rw [Env.accs_lanes, List.find?_map,
    find?_lowest hb hl (by simp [hbad]) fun j hj hlt => by simp [hlow j hj hlt]]
  rfl

/-- With canonical addresses, the lowest active lane with one that is no multiple of the size. -/
theorem check_of_lane_misaligned (hb : e.act.Pairwise (· < ·)) {l n : Nat} (hl : l ∈ e.act)
    (hc : ∀ k ∈ e.act, canonical (Ops.globalEa o (e.a k)) = true) (hbad : (Ops.globalEa o (e.a l)).toNat % n ≠ 0)
    (hlow : ∀ k ∈ e.act, k < l → (Ops.globalEa o (e.a k)).toNat % n = 0) (k : AccKind) :
    e.s.check e.asker (e.accs o false n k) (basesOf (e.accs o false n k)) n =
      .trap e.s 8 (alignDetail n) l (Ops.globalEa o (e.a l)) 0 := by
  refine State.check_of_misaligned (b := (l, Ops.globalEa o (e.a l))) (by simpa [Env.accs_lanes] using hc) ?_ _
  rw [Env.accs_lanes, basesOf, List.map_map, List.find?_map,
    find?_lowest hb hl (by simpa using hbad) fun j hj hlt => by simp [hlow j hj hlt]]
  rfl

theorem Env.localAccs_lanes (e : Env) (o : Ops) (n : Nat) :
    e.localAccs o false n = e.act.map fun l => (l, Ops.localEa o (e.a l), n) := rfl

theorem localCheck_of_lane_beyond (hb : e.act.Pairwise (· < ·)) {l n : Nat} (hl : l ∈ e.act)
    (hbad : e.s.lmSize e.g.team < Ops.localEa o (e.a l) + n)
    (hlow : ∀ k ∈ e.act, k < l → Ops.localEa o (e.a k) + n ≤ e.s.lmSize e.g.team) (K : Unit → Out) :
    e.localCheck (e.localAccs o false n) (basesL (e.localAccs o false n)) n K =
      e.trapAux 7 2 l (BitVec.ofNat 64 (Ops.localEa o (e.a l))) 0 := by
  rw [Env.localCheck, Env.localAccs_lanes, List.find?_map,
    find?_lowest hb hl (by simpa using hbad) fun j hj hlt => by simpa using hlow j hj hlt]
  rfl

theorem localCheck_of_lane_misaligned (hb : e.act.Pairwise (· < ·)) {l n : Nat} (hl : l ∈ e.act)
    (hin : ∀ k ∈ e.act, Ops.localEa o (e.a k) + n ≤ e.s.lmSize e.g.team) (hbad : Ops.localEa o (e.a l) % n ≠ 0)
    (hlow : ∀ k ∈ e.act, k < l → Ops.localEa o (e.a k) % n = 0) (K : Unit → Out) :
    e.localCheck (e.localAccs o false n) (basesL (e.localAccs o false n)) n K =
      e.trapAux 8 (alignDetail n) l (BitVec.ofNat 64 (Ops.localEa o (e.a l))) 0 := by
  have hnone : (e.localAccs o false n).find? (fun a => decide (e.s.lmSize e.g.team < a.2.1 + a.2.2)) = none :=
    List.find?_eq_none.2 fun a ha => by
      obtain ⟨k, hk, rfl⟩ := List.mem_map.1 ha
      simpa using hin k hk
  rw [Env.localCheck, hnone, Env.localAccs_lanes, basesL, List.map_map, List.find?_map,
    find?_lowest hb hl (by simpa using hbad) fun j hj hlt => by simp [hlow j hj hlt]]
  rfl

end

/-- Settles O31: the checks of Table 2 come first, and the first access that fails one is that of the lowest lane. -/
theorem memoryAccessesTrapInOrder : Obligations.MemoryAccessesTrapInOrder := by
  intro o m s e l d hscl hd hl n ga la
  have hdetail : alignDetail m.sz.bytes = d := hd ▸ alignDetail_two_pow d
  refine ⟨fun i hi hb => ?_, fun i hi hb => ?_⟩
  · obtain ⟨k, K, hx⟩ := exec_global hi hscl hb
    have hs := hb.env_s
    refine ⟨fun hbad hlow => ?_, fun hc hbad hlow => ?_⟩
    · rw [hx, Env.access_of_trap (check_of_lane_notCanonical hb.act_sorted hl hbad hlow _ _), hs]
    · rw [hx, Env.access_of_trap (check_of_lane_misaligned hb.act_sorted hl hc hbad hlow _), hs, hdetail]
  · obtain ⟨K, hx⟩ := exec_local hi hscl hb
    have hs := hb.env_s
    refine ⟨fun hbad hlow => ?_, fun hin hbad hlow => ?_⟩
    · rw [hx, localCheck_of_lane_beyond hb.act_sorted hl (hs ▸ hbad) (hs ▸ hlow), Env.trapAux, hs]
    · rw [hx, localCheck_of_lane_misaligned hb.act_sorted hl (hs ▸ hin) hbad hlow, Env.trapAux, hs, hdetail]

end Sys2Proof.Machine
end

section
/-! Accesses of threads that pass their checks set out (obligations O30 and O36). -/

namespace Sys2Proof.Machine

/-! ### What passed checks answer (08 Table 2) -/

theorem State.translateAll_accs (s : State) (q : Asker) (accs : List Acc) : (s.translateAll q accs).2.map (·.1) = accs := by
  induction accs generalizing s with
  | nil => rfl
  | cons a as ih => simp [State.translateAll, ih]

/-- The placed access that an answered translation gives. -/
def placedOf (t : Acc × Tr) : Option Placed :=
  match t.2 with
  | .ok pa _ en => some (Placed.mk t.1 pa en)
  | _ => none

/-- Where every translation succeeds, the placed accesses are those asked for, in order. -/
theorem filterMap_placedOf {ts : List (Acc × Tr)} (h : ∀ t ∈ ts, ∃ pa leaf en, t.2 = .ok pa leaf en) :
    (ts.filterMap placedOf).map (·.acc) = ts.map (·.1) := by
  induction ts with
  | nil => rfl
  | cons t ts ih =>
    obtain ⟨pa, leaf, en, ht⟩ := h t List.mem_cons_self
    have hp : placedOf t = some ⟨t.1, pa, en⟩ := by rw [placedOf, ht]
    rw [List.filterMap_cons, hp, List.map_cons, List.map_cons, ih fun x hx => h x (List.mem_cons_of_mem _ hx)]

/-- Checks 4 to 7 pass: every page translates, and the writes have set their D bits. -/
structure Translated (s : State) (q : Asker) (accs : List Acc) (s' : State) (ps : List Placed) : Prop where
  ok : ∀ t ∈ (s.translateAll q accs).2, ∃ pa leaf en, t.2 = .ok pa leaf en
  placed : ps = (s.translateAll q accs).2.filterMap placedOf
  dirty : (s.translateAll q accs).1.setDirtyBits q accs = some s'

theorem State.translated_of_checkTranslated {s s' : State} {q : Asker} {accs : List Acc} {ps : List Placed}
    (h : s.checkTranslated q accs true = .ok s' ps) : Translated s q accs s' ps := by
  rw [State.checkTranslated] at h
  simp only at h
  split at h
  · cases h
  rename_i hstop
  split at h
  · cases h
  rename_i hwait
  split at h
  · cases h
  rename_i hmiss
  split at h
  · cases h
  rename_i hprot
  split at h
  · cases h
  split at h
  · cases h
  rename_i hnone
  split at h
  · rename_i u hu
    cases h
    refine ⟨fun t ht => ?_, rfl, hu⟩
    rw [List.findSome?_eq_none_iff] at hmiss hprot
    have h1 := hmiss t ht
    have h2 := hprot t ht
    cases htr : t.2 with
    | ok pa leaf en => exact ⟨pa, leaf, en, rfl⟩
    | miss l e p => simp [htr] at h1
    | prot d => simp [htr] at h2
    | wait => exact absurd (List.any_eq_true.2 ⟨t, ht, by simp [htr]⟩) hwait
    | stop => exact absurd (List.any_eq_true.2 ⟨t, ht, by simp [htr]⟩) hstop
  · cases h

theorem State.translated_of_check {s s' : State} {q : Asker} {accs : List Acc} {bases : List (Nat × W64)} {n : Nat} {ps : List Placed}
    (h : s.check q accs bases n = .ok s' ps) : Translated s q accs s' ps := by
  rw [State.check] at h
  split at h
  · cases h
  · split at h
    · cases h
    · exact State.translated_of_checkTranslated h

/-- The accesses that pass are placed, each in its turn. -/
theorem Translated.accs {s s' : State} {q : Asker} {accs : List Acc} {ps : List Placed} (h : Translated s q accs s' ps) :
    ps.map (·.acc) = accs := by
  rw [h.placed, filterMap_placedOf h.ok, State.translateAll_accs]

/-! ### Requests sent (07 R181) -/

/-- One request joins the fabric, with a number and a clock. -/
theorem State.sendReq_eq (s : State) (r : Req) :
    ∃ d n c, s.sendReq r = { s with fabric := s.fabric ++ [{ r with num := n, clock := c }], dieClock := d } := by
  rw [State.sendReq]
  cases r.kind.writes
  · exact ⟨s.dieClock, Tab.read 0 s.dieClock (9 * r.die + r.die), _, rfl⟩
  · exact ⟨(s.countWrite r.die).dieClock, Tab.read 0 (s.countWrite r.die).dieClock (9 * r.die + r.die), _, rfl⟩

/-- Requests that set out join the fabric in order, each with a number and a clock; no other part of the state changes but the clocks of
dies. -/
theorem State.foldl_sendReq (s : State) (rs : List Req) :
    ∃ sent d, rs.foldl State.sendReq s = { s with fabric := s.fabric ++ sent, dieClock := d } ∧ sent.length = rs.length ∧
      ∀ (k : Nat) (r : Req), rs[k]? = some r → ∃ n c, sent[k]? = some { r with num := n, clock := c } := by
  induction rs generalizing s with
  | nil => exact ⟨[], s.dieClock, by simp, rfl, fun k r h => by simp at h⟩
  | cons r rs ih =>
    obtain ⟨d, n, c, hr⟩ := s.sendReq_eq r
    obtain ⟨sent, d', hs, hlen, hk⟩ := ih (s.sendReq r)
    refine ⟨{ r with num := n, clock := c } :: sent, d', ?_, by simp [hlen], fun k x hx => ?_⟩
    · rw [List.foldl_cons, hs, hr]
      simp
    · cases k with
      | zero => cases hx; exact ⟨n, c, rfl⟩
      | succ k => exact hk k x hx

/-! ### Registers that wait for results -/

theorem Group.markEmpty_keeps {β : Type} {f : Group → β} (hf : ∀ g d, f (Group.setEmpty g d true) = f g) (g : Group) (ds : List DReg) :
    f (g.markEmpty ds) = f g := foldl_keeps f _ hf ds g

/-- Destinations that begin to wait change neither registers nor flags. -/
theorem Group.await_keeps {β : Type} {f : Group → β} (hempty : ∀ g d, f (Group.setEmpty g d true) = f g)
    (hqueue : ∀ g x, f { g with queues := x } = f g) (hdue : ∀ g x, f { g with due := x } = f g) (g : Group) (ds : List DReg) (fl : W32) :
    f (g.await ds fl) = f g := by
  rw [Group.await]
  refine (hdue _ _).trans ((Group.markEmpty_keeps hempty _ _).trans ?_)
  split
  · exact hqueue _ _
  · rfl

theorem Group.setEmpty_ctx (g : Group) (d : DReg) (b : Bool) : (g.setEmpty d b).ctx = g.ctx := by cases d <;> rfl

section
variable (g : Group) (ds : List DReg) (fl : W32)
@[simp] theorem Group.await_v : (g.await ds fl).v = g.v :=
  Group.await_keeps (f := fun g => g.v) (fun g d => g.setEmpty_v d _) (fun _ _ => rfl) (fun _ _ => rfl) g ds fl
@[simp] theorem Group.await_sreg : (g.await ds fl).sreg = g.sreg :=
  Group.await_keeps (f := fun g => g.sreg) (fun g d => g.setEmpty_sreg d _) (fun _ _ => rfl) (fun _ _ => rfl) g ds fl
@[simp] theorem Group.await_astat : (g.await ds fl).astat = g.astat :=
  Group.await_keeps (f := fun g => g.astat) (fun g d => g.setEmpty_astat d _) (fun _ _ => rfl) (fun _ _ => rfl) g ds fl
@[simp] theorem Group.await_ctx : (g.await ds fl).ctx = g.ctx :=
  Group.await_keeps (f := fun g => g.ctx) (fun g d => g.setEmpty_ctx d _) (fun _ _ => rfl) (fun _ _ => rfl) g ds fl
end

/-- The flags of an instruction wait with each of its results. -/
theorem Group.mem_due_await (g : Group) {ds : List DReg} {fl : W32} {d : DReg} (hd : d ∈ ds) (hfl : fl ≠ 0) :
    (g.into d, fl) ∈ (g.await ds fl).due := by
  simp only [Group.await, if_neg hfl]
  exact List.mem_append_left _ (List.mem_map_of_mem (f := fun x => (x, fl)) (List.mem_map_of_mem hd))

/-- An acquire changes what its lanes wait for alone. -/
theorem Group.acquire_eq (g : Group) (cycle : Nat) (o : MemOrd) (sc : Scope) (ls : List Nat) :
    g.acquire cycle o sc ls = { g with lanes := (g.acquire cycle o sc ls).lanes } := by
  rw [Group.acquire]
  split
  · exact Group.modLanes_eq _ _ _
  · rfl

section
variable (g : Group) (cycle : Nat) (o : MemOrd) (sc : Scope) (ls : List Nat)
@[simp] theorem Group.acquire_v : (g.acquire cycle o sc ls).v = g.v := by rw [Group.acquire_eq]
@[simp] theorem Group.acquire_sreg : (g.acquire cycle o sc ls).sreg = g.sreg := by rw [Group.acquire_eq]
@[simp] theorem Group.acquire_astat : (g.acquire cycle o sc ls).astat = g.astat := by rw [Group.acquire_eq]
@[simp] theorem Group.acquire_ctx : (g.acquire cycle o sc ls).ctx = g.ctx := by rw [Group.acquire_eq]
@[simp] theorem Group.acquire_due : (g.acquire cycle o sc ls).due = g.due := by rw [Group.acquire_eq]
end

@[simp] theorem Group.acquire_isEmpty (g : Group) (cycle : Nat) (o : MemOrd) (sc : Scope) (ls : List Nat) (d : DReg) :
    (g.acquire cycle o sc ls).isEmpty d = g.isEmpty d := by
  rw [Group.acquire_eq]
  cases d <;> rfl

/-! ### An instruction that sends requests completes -/

/-- The next state, in which the bundle's group is `g'`, after an instruction has sent the requests `rs` from the state `s'`: they are in
the fabric in order, their destinations wait for them with the flag of a window source, and nothing else of registers, memory and
local memory changes. -/
structure Sends (x : Out) (e : Env) (s' : State) (rs : List Req) (t : State) (g' : Group) : Prop where
  next : x = .next t
  group : t.group? e.u.gid = some g'
  mem : t.mem = s'.mem
  teams : t.teams = s'.teams
  take : t.fabric.take s'.fabric.length = s'.fabric
  length : t.fabric.length = s'.fabric.length + rs.length
  sent : ∀ (k : Nat) (r : Req), rs[k]? = some r →
    ∃ n c, (t.fabric.drop s'.fabric.length)[k]? = some { r with dests := r.dests.map e.g.into, num := n, clock := c }
  v : g'.v = e.g.v
  sreg : g'.sreg = e.g.sreg
  astat : g'.astat = (e.g.astat ||| if ∀ r ∈ rs, r.dests = [] then e.winOver else 0)
  waits : ∀ r ∈ rs, ∀ d ∈ r.dests, g'.isEmpty (e.g.into d) = true ∧ (e.winOver ≠ 0 → (e.g.into d, e.winOver) ∈ g'.due)
  epc : ∀ l ∈ e.lanes, g'.epc l = e.next

theorem State.strikes_nil (s : State) (c bit : Nat) : s.strikes c bit [] = [] := by
  simp [State.strikes]

/-- Requests whose writes strike no watchpoint. -/
theorem Env.sends_of_send {x : Out} {e : Env} {s' : State} {o : MemOrd} {sc : Scope} {rs : List Req} {ws : List Write}
    (hx : x = e.send s' o sc rs ws) (hstrike : s'.strikes e.g.ctx 0 ws = []) (hd : e.lanes.Nodup)
    (hport : ∀ r ∈ rs, ∀ d ∈ r.dests, ∀ q n l, e.g.into d = .port q n l → l < 32) : ∃ t g', Sends x e s' rs t g' := by
  obtain ⟨sent, d, hfold, hlen, hsent⟩ := State.foldl_sendReq { s' with nextId := s'.nextId + 1 }
    (rs.map fun (r : Req) => { r with dests := r.dests.map e.g.into })
  generalize hu : ({ s' with nextId := s'.nextId + 1, fabric := s'.fabric ++ sent, dieClock := d } : State) = u
  have hfold : (rs.map fun (r : Req) => { r with dests := r.dests.map e.g.into }).foldl State.sendReq { s' with nextId := s'.nextId + 1 }
      = u := by rw [hfold, ← hu]
  generalize hg : (e.g.await (rs.flatMap (·.dests)) e.winOver).acquire u.cycle o sc e.act = g
  generalize hw : (if (rs.flatMap (·.dests)).isEmpty then e.winOver else 0) = fl
  have hfin : x = Env.finish { e with winOver := fl } u g := by
    have hctx : g.ctx = e.g.ctx := by rw [← hg, Group.acquire_ctx, Group.await_ctx]
    have hnone : u.strikes g.ctx 0 ws = [] := by
      rw [hctx, State.strikes_congr (s := s') (by rw [← hu])]
      exact hstrike
    rw [hx, Env.send]
    simp only [hfold, hg, hw]
    rw [Env.finishWrites, hnone]
  have hfab : (({ e with winOver := fl } : Env).after u g fun _ => e.next).fabric = s'.fabric ++ sent := by
    rw [Env.after_fabric, ← hu]
  have hlen' : sent.length = rs.length := by rw [hlen, List.length_map]
  refine ⟨_, _, hfin, Env.after_group _ _ _ _, ?_, ?_, ?_, ?_, fun k r hr => ?_, ?_, ?_, ?_, fun r hr y hy => ⟨?_, fun hne => ?_⟩,
    fun l hl => ?_⟩
  · rw [Env.after_mem, ← hu]
  · rw [Env.after_teams, ← hu]
  · rw [hfab, List.take_left']; rfl
  · rw [hfab, List.length_append, hlen']
  · rw [hfab, List.drop_left' rfl]
    obtain ⟨n, c, h⟩ := hsent k { r with dests := r.dests.map e.g.into } (by rw [List.getElem?_map, hr]; rfl)
    exact ⟨n, c, h⟩
  · rw [Env.goneOn_v, ← hg, Group.acquire_v, Group.await_v]
  · rw [Env.goneOn_sreg, ← hg, Group.acquire_sreg, Group.await_sreg]
  · rw [Env.goneOn_astat, ← hg, Group.acquire_astat, Group.await_astat, ← hw]
    simp [List.isEmpty_iff]
  · rw [Env.goneOn_isEmpty, ← hg, Group.acquire_isEmpty]
    exact Group.isEmpty_await _ _ (List.mem_flatMap_of_mem hr hy) (hport r hr y hy)
  · rw [Env.goneOn_due, ← hg, Group.acquire_due]
    exact Group.mem_due_await _ (List.mem_flatMap_of_mem hr hy) hne
  · exact Env.goneOn_epc { e with winOver := fl } u g (fun _ => e.next) hd hl

end Sys2Proof.Machine
end

section
/-! Loads, stores, atomics, register lines, counted fills and releases that are sent (obligations O30 and O36). -/

namespace Sys2Proof.Machine

/-! ### Accesses of lanes (08 R214 to R220) -/

/-- A destination of lane `l`, when it is a place in an entry of a queue, is that lane's. -/
theorem lane_of_destReg {g : Group} {o : Ops} {z : Sz} {scl : Bool} {l q n k : Nat} {d : DReg} (hd : d ∈ destRegs o z scl l)
    (h : g.into d = .port q n k) : k = l := by
  rw [destRegs] at hd
  split at hd
  · rw [List.mem_singleton.1 hd] at h
    cases h
  · obtain ⟨j, -, rfl⟩ := List.mem_map.1 hd
    exact Group.lane_of_into h

/-- The request that lane accesses send for a checked access, the poison of its data apart. -/
structure RequestOf (e : Env) (m : ModM) (kind : ReqKind) (data cmp : Nat → Option Nat) (ds : Nat → List DReg) (p : Placed) (r : Req) :
    Prop where
  eq : ∃ tag dat old bad, r = { e.req p kind m.sz m.ord m.scope tag dat old (ds p.acc.lane) with bad := bad } ∧
    (∀ x, data p.acc.lane = some x → dat = x) ∧ ∀ x, cmp p.acc.lane = some x → old = x

theorem Env.accs_named (e : Env) (o : Ops) (scl : Bool) (n : Nat) (k : AccKind) :
    (e.accs o scl n k).map (fun a => (a.lane, a.va)) =
      (if scl then e.act.take 1 else e.act).map fun l => (l, Ops.globalEa o (e.a l)) := by
  cases scl
  · simp [Env.accs, Function.comp_def]
  · simp only [Env.accs, if_true]
    cases e.act <;> rfl

section
variable {i : Instr} {o : Ops} {m : ModM} {s s' : State} {e : Env} {ps : List Placed} {x : Out}

theorem lane_of_placed (hb : Begins i s e) {scl : Bool} {n : Nat} {k : AccKind} (h : ps.map (·.acc) = e.accs o scl n k) {p : Placed}
    (hp : p ∈ ps) : p.acc.lane < 32 := by
  have hmem : (p.acc.lane, p.acc.va) ∈ (e.accs o scl n k).map fun a => (a.lane, a.va) :=
    List.mem_map_of_mem (f := fun a : Acc => (a.lane, a.va)) (h ▸ List.mem_map_of_mem hp)
  rw [e.accs_named] at hmem
  obtain ⟨l, hl, heq⟩ := List.mem_map.1 hmem
  have hact : l ∈ e.act := by
    cases scl
    · exact hl
    · exact List.mem_of_mem_take hl
  rw [← (Prod.mk.inj heq).1]
  exact hb.lane_lt (hb.act_sub_lanes hact)

/-- The outcome that O30 states: one access for each lane, in lane order, and registers that wait. -/
def AccessesSent (x : Out) (o : Ops) (m : ModM) (s' : State) (e : Env) (ps : List Placed) (kind : ReqKind) (scl : Bool)
    (data cmp : Nat → Option Nat) (ds : Nat → List DReg) : Prop :=
  ∃ t g', x = .next t ∧ t.group? e.u.gid = some g' ∧ t.mem = s'.mem ∧
    t.fabric.take s'.fabric.length = s'.fabric ∧ t.fabric.length = s'.fabric.length + ps.length ∧
    (ps.map (fun p => (p.acc.lane, p.acc.va)) = (if scl then e.act.take 1 else e.act).map fun l => (l, Ops.globalEa o (e.a l))) ∧
    (∀ (k : Nat) (p : Placed), ps[k]? = some p → ∃ r : Req, (t.fabric.drop s'.fabric.length)[k]? = some r ∧ r.kind = kind ∧ r.pa = p.pa ∧
      r.va = p.acc.va ∧ r.size = p.acc.size ∧ r.lanes = p.acc.lanes ∧ r.gid = e.u.gid ∧ r.ctx = e.g.ctx ∧
      r.ord = m.ord ∧ r.scope = m.scope ∧ r.dests = (ds p.acc.lane).map e.g.into ∧ (∀ x, data p.acc.lane = some x → r.data = leBytes r.size x) ∧
      ∀ x, cmp p.acc.lane = some x → r.cmp = leBytes r.size x) ∧
    g'.v = e.g.v ∧ g'.sreg = e.g.sreg ∧
    g'.astat = (e.g.astat ||| if ∀ p ∈ ps, ds p.acc.lane = [] then e.winOver else 0) ∧
    (∀ p ∈ ps, ∀ d ∈ ds p.acc.lane, g'.isEmpty (e.g.into d) = true ∧ (e.winOver ≠ 0 → (e.g.into d, e.winOver) ∈ g'.due)) ∧
    ∀ l ∈ e.lanes, g'.epc l = e.next

/-- Where the checks have passed, an instruction that sends the requests of its lanes does what O30 states. -/
theorem accessesSent_of_send {scl : Bool} {k : AccKind} {kind : ReqKind} {data cmp : Nat → Option Nat} {ds : Nat → List DReg}
    {f : Placed → Req} {ws : List Write} (hb : Begins i s e)
    (hcheck : s.check e.asker (e.accs o scl m.sz.bytes k) (basesOf (e.accs o scl m.sz.bytes k)) m.sz.bytes = .ok s' ps)
    (hx : x = e.send s' m.ord m.scope (ps.map f) ws) (hstrike : s'.strikes e.g.ctx 0 ws = [])
    (hf : ∀ p, RequestOf e m kind data cmp ds p (f p)) (hds : ∀ l, ∀ d ∈ ds l, ∃ b, d ∈ destRegs o m.sz b l) :
    AccessesSent x o m s' e ps kind scl data cmp ds := by
  have haccs := (State.translated_of_check hcheck).accs
  have hdests : ∀ p, (f p).dests = ds p.acc.lane := fun p => by
    obtain ⟨_, _, _, _, hr, -⟩ := (hf p).eq
    rw [hr]
    rfl
  obtain ⟨t, g', h⟩ := Env.sends_of_send hx hstrike hb.lanes_nodup fun r hr d hd q n l hport => by
    obtain ⟨p, hp, rfl⟩ := List.mem_map.1 hr
    rw [hdests] at hd
    obtain ⟨b, hmem⟩ := hds _ d hd
    rw [lane_of_destReg hmem hport]
    exact lane_of_placed hb haccs hp
  refine ⟨t, g', h.next, h.group, h.mem, h.take, by rw [h.length, List.length_map], ?_, fun j p hp => ?_, h.v, h.sreg, ?_,
    fun p hp d hd => h.waits (f p) (List.mem_map_of_mem hp) d (by rwa [hdests]), h.epc⟩
  · rw [← e.accs_named o scl m.sz.bytes k, ← haccs, List.map_map]
    rfl
  · obtain ⟨n, c, hsent⟩ := h.sent j (f p) (by rw [List.getElem?_map, hp]; rfl)
    obtain ⟨tag, dat, old, bad, hr, hdat, hold⟩ := (hf p).eq
    rw [hr] at hsent
    exact ⟨_, hsent, rfl, rfl, rfl, rfl, rfl, rfl, rfl, rfl, rfl, rfl, fun x hx => by rw [← hdat x hx]; rfl,
      fun x hx => by rw [← hold x hx]; rfl⟩
  · rw [h.astat]
    refine congrArg _ (if_congr ?_ rfl rfl)
    simp [hdests]

/-! ### The instructions of O30 -/

theorem Env.access_eq {accs : List Acc} {bases : List (Nat × W64)} {n : Nat} (hs : e.s = s)
    (h : s.check e.asker accs bases n = .ok s' ps) (k : State → List Placed → Out) : e.access accs bases n k = k s' ps := by
  rw [Env.access, hs, h]

theorem Env.roomFor_of_room {n : Nat} (h : s'.mayWrite (coreDie e.g.core) n = true) (k : Out) : e.roomFor s' n k = k := by
  rw [Env.roomFor, h]
  rfl

theorem Env.loadGlobal_sends (hb : Begins i s e) {scl : Bool} {kind : ReqKind} (hx : x = e.loadGlobal o m scl kind)
    (hcheck : s.check e.asker (e.accs o scl m.sz.bytes .read) (basesOf (e.accs o scl m.sz.bytes .read)) m.sz.bytes = .ok s' ps) :
    AccessesSent x o m s' e ps kind scl (fun _ => none) (fun _ => none) (destRegs o m.sz scl) :=
  accessesSent_of_send hb hcheck (hx.trans (Env.access_eq hb.env_s hcheck _)) (s'.strikes_nil _ _)
    (fun _ => ⟨_, _, _, _, rfl, nofun, nofun⟩) fun _ _ hd => ⟨scl, hd⟩

/-- The die may send that many writes, and they strike no watchpoint. -/
def Env.Room (e : Env) (s' : State) (ps : List Placed) : Prop :=
  s'.mayWrite (coreDie e.g.core) ps.length = true ∧ s'.strikes e.g.ctx 0 (ps.map writeOf) = []

theorem Env.carry_eq (e : Env) (l : Nat) (ns : List (Nat × Nat)) (r : Req) : ∃ bad, e.carry l ns r = { r with bad := bad } := by
  rw [Env.carry]
  split
  · exact ⟨_, rfl⟩
  · exact ⟨r.bad, rfl⟩

theorem Env.storeGlobal_sends (hb : Begins i s e) (hx : x = e.storeGlobal o m) (hroom : e.Room s' ps)
    (hcheck : s.check e.asker (e.accs o m.scl m.sz.bytes .write) (basesOf (e.accs o m.scl m.sz.bytes .write)) m.sz.bytes = .ok s' ps) :
    AccessesSent x o m s' e ps .write m.scl (fun l => some (e.b l)) (fun _ => none) fun _ => [] := by
  refine accessesSent_of_send hb hcheck (hx.trans ((Env.access_eq hb.env_s hcheck _).trans (Env.roomFor_of_room hroom.1 _))) hroom.2
    (fun p => ?_) nofun
  obtain ⟨bad, h⟩ := e.carry_eq p.acc.lane (Ops.dataNames o (Instr.st o m).sig)
    (e.req p .write m.sz m.ord m.scope s'.nextId (e.b p.acc.lane) 0 [])
  exact ⟨_, _, _, bad, h, fun _ h => Option.some.inj h, nofun⟩

theorem Env.atomics_sends (hb : Begins i s e) {ret : Bool} (hx : x = e.atomics o m ret) (hroom : e.Room s' ps)
    (hcheck : s.check e.asker (e.accs o false m.sz.bytes .both) (basesOf (e.accs o false m.sz.bytes .both)) m.sz.bytes = .ok s' ps) :
    AccessesSent x o m s' e ps (.atom m.aop (m.aop == 9)) false (fun l => some (e.b l)) (fun _ => none)
      fun l => if ret then destRegs o m.sz false l else [] := by
  refine accessesSent_of_send hb hcheck (hx.trans ((Env.access_eq hb.env_s hcheck _).trans (Env.roomFor_of_room hroom.1 _))) hroom.2
    (fun p => ⟨_, _, _, _, rfl, fun _ h => Option.some.inj h, nofun⟩) fun l d hd => ?_
  cases ret
  · cases hd
  · exact ⟨false, hd⟩

theorem cas_sends (hb : Begins (.cas o m) s e) (hroom : e.Room s' ps)
    (hcheck : s.check e.asker (e.accs o false m.sz.bytes .both) (basesOf (e.accs o false m.sz.bytes .both)) m.sz.bytes = .ok s' ps) :
    AccessesSent (exec (.cas o m) s) o m s' e ps .cas false (fun l => some (e.c l)) (fun l => some (e.b l)) (destRegs o m.sz false) :=
  accessesSent_of_send hb hcheck ((exec_cas hb).trans ((Env.access_eq hb.env_s hcheck _).trans (Env.roomFor_of_room hroom.1 _))) hroom.2
    (fun _ => ⟨_, _, _, _, rfl, fun _ h => Option.some.inj h, fun _ h => Option.some.inj h⟩) fun _ _ hd => ⟨false, hd⟩

end

/-- Settles O30: past its checks each instruction sends the requests of its lanes. -/
theorem globalAccessesAreSent : Obligations.GlobalAccessesAreSent := by
  intro o m s s' e ps n checked sent room
  exact ⟨fun hb hc => Env.loadGlobal_sends hb (exec_ld hb) hc, fun hb hc => Env.loadGlobal_sends hb (exec_ldc hb) hc,
    fun hb hc hr => Env.storeGlobal_sends hb (exec_st hb) hr hc, fun hb hc hr => Env.atomics_sends hb (exec_atom hb) hr hc,
    fun hb hc hr => Env.atomics_sends hb (exec_atomr hb) hr hc, fun hb hc hr => cas_sends hb hr hc⟩

end Sys2Proof.Machine
end

section
/-! Register lines, counted fills and releases that are sent (obligation O36). -/

namespace Sys2Proof.Machine

/-! ### The line of a counted fill (08 R223) -/

theorem ofFields_reverse (fs : List (Nat × Nat × Nat)) : ofFields fs.reverse = ofFields fs := by
  have happ : ∀ as bs : List (Nat × Nat × Nat), ofFields (as ++ bs) = ofFields as + ofFields bs := fun as bs => by
    induction as with
    | nil => simp [ofFields]
    | cons a as ih => simp [ofFields, ih, Nat.add_assoc]
  induction fs with
  | nil => rfl
  | cons f fs ih =>
    rw [List.reverse_cons, happ, ih]
    simp [ofFields, Nat.add_comm]

/-- Bits that no field covers are zero. -/
theorem bitsOf_ofFields_outside {fs : List (Nat × Nat × Nat)} {lo n : Nat} (hd : Descending fs)
    (h : ∀ f ∈ fs, f.1 + f.2.1 ≤ lo ∨ lo + n ≤ f.1) : bitsOf (ofFields fs) lo n = 0 := by
  induction fs with
  | nil => simp [bitsOf, ofFields]
  | cons f fs ih =>
    obtain ⟨hbelow, hrest⟩ := List.pairwise_cons.1 hd
    obtain hlow | hhigh := h f List.mem_cons_self
    · have hall : ∀ x ∈ f :: fs, x.1 + x.2.1 ≤ lo := List.forall_mem_cons.2 ⟨hlow, fun x hx => by have := hbelow x hx; omega⟩
      rw [bitsOf, Nat.div_eq_of_lt (ofFields_lt hd hall), Nat.zero_mod]
    · obtain ⟨k, hk⟩ := Nat.exists_eq_add_of_le hhigh
      have hhead : ∀ a, a * 2 ^ f.1 = 2 ^ lo * (2 ^ n * (2 ^ k * a)) := fun a => by
        rw [hk, Nat.pow_add, Nat.pow_add]; ring
      rw [← ih hrest fun x hx => h x (List.mem_cons_of_mem _ hx), bitsOf, bitsOf, ofFields, hhead,
        Nat.mul_add_div (Nat.two_pow_pos lo), Nat.mul_add_mod]

/-- Lane `l`'s word of a counted fill: source B of an active lane, else zero. -/
def Env.fillWord (e : Env) (l : Nat) : W32 := if l ∈ e.act then BitVec.ofNat 32 (e.b l) else 0

theorem Env.bitsOf_fillData (e : Env) (hs : e.act.Pairwise (· < ·)) (l : Nat) :
    bitsOf e.fillData (32 * l) 32 = (e.fillWord l).toNat := by
  have hd : Descending (e.act.map fun l => (32 * l, 32, e.b l)).reverse := by
    rw [Descending, List.pairwise_reverse, List.pairwise_map]
    exact hs.imp fun h => by dsimp only; omega
  rw [Env.fillData, ← ofFields_reverse, Env.fillWord]
  split
  · rename_i hl
    rw [bitsOf_ofFields hd (List.mem_reverse.2 (List.mem_map_of_mem hl)), BitVec.toNat_ofNat]
  · rename_i hl
    rw [bitsOf_ofFields_outside hd]
    · rfl
    intro f hf
    obtain ⟨k, hk, rfl⟩ := List.mem_map.1 (List.mem_reverse.1 hf)
    have hne : k ≠ l := fun h => hl (h ▸ hk)
    dsimp only
    omega

theorem leBytes_getD {n i : Nat} (v : Nat) (h : i < n) : (leBytes n v).getD i 0 = BitVec.ofNat 8 (v / 256 ^ i) := by
  induction n generalizing v i with
  | zero => omega
  | succ n ih =>
    cases i with
    | zero => simp [leBytes]
    | succ i =>
      rw [leBytes, List.getD_cons_succ, ih _ (by omega), Nat.div_div_eq_div_mul, Nat.pow_succ, Nat.mul_comm]

/-- Byte `4l + k` of the line is byte `k` of lane `l`'s word. -/
theorem Env.fillData_byte (e : Env) (hs : e.act.Pairwise (· < ·)) {l k : Nat} (hl : l < 32) (hk : k < 4) :
    (leBytes 128 e.fillData).getD (4 * l + k) 0 = (e.fillWord l).extractLsb' (8 * k) 8 := by
  rw [leBytes_getD _ (by omega)]
  apply BitVec.eq_of_toNat_eq
  have hpow : (256 : Nat) ^ (4 * l + k) = 2 ^ (32 * l) * 2 ^ (8 * k) := by
    rw [show (256 : Nat) = 2 ^ 8 from rfl, ← Nat.pow_mul, ← Nat.pow_add]; congr 1; omega
  have hsplit : (2 : Nat) ^ 32 = 2 ^ (8 * k) * (2 ^ 8 * 2 ^ (24 - 8 * k)) := by
    rw [← Nat.pow_add, ← Nat.pow_add]; congr 1; omega
  rw [BitVec.extractLsb'_toNat, ← e.bitsOf_fillData hs, BitVec.toNat_ofNat, Nat.shiftRight_eq_div_pow, bitsOf, hpow,
    ← Nat.div_div_eq_div_mul, hsplit, Nat.mod_mul_right_div_self, Nat.mod_mul_right_mod]

/-! ### What has been sent, request by request -/

section
variable {x : Out} {e : Env} {s' t : State} {rs : List Req} {g' : Group}

/-- Every request in the fabric beside those before is one of those sent, its destinations where their values go. -/
theorem Sends.mem_sent (h : Sends x e s' rs t g') {q : Req} (hq : q ∈ t.fabric.drop s'.fabric.length) :
    ∃ r ∈ rs, q.dests = r.dests.map e.g.into := by
  obtain ⟨k, hk, hqk⟩ := List.mem_iff_getElem.1 hq
  have hlt : k < rs.length := by
    rw [List.length_drop, h.length] at hk
    omega
  obtain ⟨n, c, hs⟩ := h.sent k rs[k] (List.getElem?_eq_getElem hlt)
  rw [List.getElem?_eq_getElem hk, hqk] at hs
  exact ⟨rs[k], List.getElem_mem hlt, by rw [Option.some.inj hs]⟩

/-- No request in the fabric beside those before awaits a register exactly where none of those sent does. -/
theorem Sends.dests_nil_iff (h : Sends x e s' rs t g') :
    (∀ q ∈ t.fabric.drop s'.fabric.length, q.dests = []) ↔ ∀ r ∈ rs, r.dests = [] := by
  refine ⟨fun hall r hr => ?_, fun hall q hq => ?_⟩
  · obtain ⟨k, hk, rfl⟩ := List.mem_iff_getElem.1 hr
    obtain ⟨n, c, hs⟩ := h.sent k rs[k] (List.getElem?_eq_getElem hk)
    simpa using hall _ (List.mem_of_getElem? hs)
  · obtain ⟨r, hr, hq⟩ := h.mem_sent hq
    rw [hq, hall r hr, List.map_nil]

end

/-- The outcome that O36 states of every instruction: `n` requests join the fabric, registers to be loaded are empty, and nothing else
changes but WIN_OVR where no result is awaited. -/
def LinesRan (i : Instr) (s s' : State) (e : Env) (n : Nat) (t : State) : Prop :=
  ∃ g', exec i s = .next t ∧ t.group? e.u.gid = some g' ∧ g'.v = e.g.v ∧
    g'.sreg = e.g.sreg ∧ t.mem = s'.mem ∧ t.teams = s'.teams ∧
    g'.astat = (e.g.astat ||| if ∀ r ∈ t.fabric.drop s'.fabric.length, r.dests = [] then e.winOver else 0) ∧
    t.fabric.take s'.fabric.length = s'.fabric ∧ t.fabric.length = s'.fabric.length + n ∧
    ∀ r ∈ t.fabric.drop s'.fabric.length, ∀ d ∈ r.dests, g'.isEmpty d = true

theorem Sends.linesRan {i : Instr} {s s' t : State} {e : Env} {rs : List Req} {g' : Group} {n : Nat}
    (h : Sends (exec i s) e s' rs t g') (hn : rs.length = n) : LinesRan i s s' e n t := by
  refine ⟨g', h.next, h.group, h.v, h.sreg, h.mem, h.teams, ?_, h.take, hn ▸ h.length, fun q hq d hd => ?_⟩
  · rw [h.astat]
    exact congrArg _ (if_congr h.dests_nil_iff.symm rfl rfl)
  · obtain ⟨r, hr, hdests⟩ := h.mem_sent hq
    rw [hdests] at hd
    obtain ⟨y, hy, rfl⟩ := List.mem_map.1 hd
    exact (h.waits r hr y hy).1

/-! ### LDV and STV (08 R217) -/

section
variable {o : Ops} {m : ModM} {s s' : State} {e : Env} {ps : List Placed}

theorem Env.take_one_act {α : Type} (ha : e.act ≠ []) (f : Nat → α) : (e.act.take 1).map f = [f e.first] := by
  obtain ⟨l, ls, h⟩ := List.exists_cons_of_ne_nil ha
  simp [Env.first, h]

/-- What LDV sends for a checked access and its element. -/
def Env.lineReq (e : Env) (o : Ops) (m : ModM) (u : State) (p : Placed × Nat × Nat) : Req :=
  e.req p.1 .read m.sz m.ord m.scope u.nextId 0 0 (lineRegs o m p.2.1 p.2.2)

/-- What STV sends for a checked access and its element. -/
def Env.lineStore (e : Env) (o : Ops) (m : ModM) (u : State) (p : Placed × Nat × Nat) : Req :=
  e.carry p.2.1 (lineNames o m p.2.2) (e.req p.1 .write m.sz m.ord m.scope u.nextId (lineData m (e.b p.2.1) p.2.2) 0 [])

theorem exec_ldv (hb : BeginsActive (.ldv o m) s e)
    (hcheck : s.check e.asker (e.lineAccs o m .read) [(e.first, Ops.globalEa o (e.a e.first))] (lineAlign m) = .ok s' ps) :
    exec (.ldv o m) s = e.send s' m.ord m.scope ((ps.zip (e.elems m)).map (e.lineReq o m s')) [] := by
  rw [exec_of_issue1 (show exec (.ldv o m) s = execLdv o m s from rfl) rfl rfl rfl hb.1, Env.take_one_act hb.2]
  exact Env.access_eq hb.1.env_s hcheck _

theorem exec_stv (hb : BeginsActive (.stv o m) s e) (hroom : e.Room s' ps)
    (hcheck : s.check e.asker (e.lineAccs o m .write) [(e.first, Ops.globalEa o (e.a e.first))] (lineAlign m) = .ok s' ps) :
    exec (.stv o m) s = e.send s' m.ord m.scope ((ps.zip (e.elems m)).map (e.lineStore o m s')) (ps.map writeOf) := by
  rw [exec_of_issueStore (show exec (.stv o m) s = execStv o m s from rfl) rfl rfl rfl hb.1, Env.take_one_act hb.2]
  exact (Env.access_eq hb.1.env_s hcheck _).trans (Env.roomFor_of_room hroom.1 _)

theorem lane_of_elem (hb : Begins i s e) {x : Nat × Nat} (hx : x ∈ e.elems m) : x.1 < 32 := by
  obtain ⟨l, hl, hx⟩ := List.mem_flatMap.1 hx
  obtain ⟨j, -, rfl⟩ := List.mem_map.1 hx
  exact hb.lane_lt (hb.act_sub_lanes hl)

/-- Each element of a register line has its access, in order, at its offset from the base. -/
theorem placed_of_elem {k : AccKind} (h : ps.map (·.acc) = e.lineAccs o m k) {j : Nat} {p : Placed} {x : Nat × Nat} (hp : ps[j]? = some p)
    (hx : (e.elems m)[j]? = some x) : p.acc = ⟨x.1, bitMask x.1, Ops.globalEa o (e.a e.first) + BitVec.ofNat 64 (lineOffset m x.1 x.2),
      m.sz.bytes, k⟩ := by
  have hacc : (e.lineAccs o m k)[j]? = some p.acc := by rw [← h, List.getElem?_map, hp]; rfl
  rw [Env.lineAccs, List.getElem?_map, hx] at hacc
  exact (Option.some.inj hacc).symm

theorem length_placed_elems {k : AccKind} (h : ps.map (·.acc) = e.lineAccs o m k) : ps.length = (e.elems m).length := by
  have hl := congrArg List.length h
  rwa [List.length_map, Env.lineAccs, List.length_map] at hl

theorem ldv_sends (hb : BeginsActive (.ldv o m) s e)
    (hcheck : s.check e.asker (e.lineAccs o m .read) [(e.first, Ops.globalEa o (e.a e.first))] (lineAlign m) = .ok s' ps) :
    ∃ t, LinesRan (.ldv o m) s s' e ps.length t ∧ ∀ (k : Nat) (p : Placed) (x : Nat × Nat), ps[k]? = some p → (e.elems m)[k]? = some x →
      p.acc.lane = x.1 ∧ p.acc.va = Ops.globalEa o (e.a e.first) + BitVec.ofNat 64 (lineOffset m x.1 x.2) ∧
      ∃ r : Req, (t.fabric.drop s'.fabric.length)[k]? = some r ∧ r.kind = .read ∧ r.pa = p.pa ∧
        r.dests = (lineRegs o m x.1 x.2).map e.g.into := by
  have haccs := (State.translated_of_check hcheck).accs
  obtain ⟨t, g', h⟩ := Env.sends_of_send (exec_ldv hb hcheck) (s'.strikes_nil _ _) hb.1.lanes_nodup fun r hr d hd q n l hport => by
    obtain ⟨y, hy, rfl⟩ := List.mem_map.1 hr
    obtain ⟨j, -, rfl⟩ := List.mem_map.1 hd
    rw [Group.lane_of_into hport]
    exact lane_of_elem hb.1 (List.of_mem_zip hy).2
  refine ⟨t, h.linesRan (by simp [length_placed_elems haccs]), fun k p x hp hx => ?_⟩
  have hacc := placed_of_elem haccs hp hx
  obtain ⟨n, c, hs⟩ := h.sent k (e.lineReq o m s' (p, x)) (by
    rw [List.getElem?_map, (List.getElem?_zip_eq_some (z := (p, x))).2 ⟨hp, hx⟩]; rfl)
  exact ⟨by rw [hacc], by rw [hacc], _, hs, rfl, rfl, rfl⟩

theorem stv_sends (hb : BeginsActive (.stv o m) s e) (hroom : e.Room s' ps)
    (hcheck : s.check e.asker (e.lineAccs o m .write) [(e.first, Ops.globalEa o (e.a e.first))] (lineAlign m) = .ok s' ps) :
    ∃ t, LinesRan (.stv o m) s s' e ps.length t ∧ ∀ (k : Nat) (p : Placed) (x : Nat × Nat), ps[k]? = some p → (e.elems m)[k]? = some x →
      p.acc.lane = x.1 ∧ p.acc.va = Ops.globalEa o (e.a e.first) + BitVec.ofNat 64 (lineOffset m x.1 x.2) ∧
      ∃ r : Req, (t.fabric.drop s'.fabric.length)[k]? = some r ∧ r.kind = .write ∧ r.pa = p.pa ∧
        r.data = leBytes m.sz.bytes (lineData m (e.b x.1) x.2) := by
  have haccs := (State.translated_of_check hcheck).accs
  have hstore : ∀ y, ∃ bad, e.lineStore o m s' y =
      { e.req y.1 .write m.sz m.ord m.scope s'.nextId (lineData m (e.b y.2.1) y.2.2) 0 [] with bad := bad } := fun y => e.carry_eq _ _ _
  obtain ⟨t, g', h⟩ := Env.sends_of_send (exec_stv hb hroom hcheck) hroom.2 hb.1.lanes_nodup fun r hr d hd => by
    obtain ⟨y, -, rfl⟩ := List.mem_map.1 hr
    obtain ⟨bad, hy⟩ := hstore y
    rw [hy] at hd
    cases hd
  refine ⟨t, h.linesRan (by simp [length_placed_elems haccs]), fun k p x hp hx => ?_⟩
  have hacc := placed_of_elem haccs hp hx
  obtain ⟨n, c, hs⟩ := h.sent k (e.lineStore o m s' (p, x)) (by
    rw [List.getElem?_map, (List.getElem?_zip_eq_some (z := (p, x))).2 ⟨hp, hx⟩]; rfl)
  obtain ⟨bad, hy⟩ := hstore (p, x)
  rw [hy] at hs
  exact ⟨by rw [hacc], by rw [hacc], _, hs, rfl, rfl, congrArg (leBytes · _) (congrArg Acc.size hacc)⟩

end

/-! ### CFILL and CREL (08 R223, R224, R227) -/

section
variable {i : Instr} {o : Ops} {m : ModM} {s s' : State} {e : Env} {ps : List Placed}

/-- One request, which carries the bundle's line and leaves its status in a scalar register. -/
theorem fill_sends (hb : Begins i s e) {f : Placed → Req} {a : Acc} {ws : List Write} (haccs : ps.map (·.acc) = [a])
    (hx : exec i s = e.send s' .rlx .thread (ps.map f) ws) (hstrike : s'.strikes e.g.ctx 0 ws = [])
    {kind : ReqKind} (hf : ∀ p : Placed, p.acc = a → (f p).kind = kind ∧ (f p).pa = p.pa ∧ (f p).dests = [.scal o.dst.toNat] ∧
      (f p).data = leBytes 128 e.fillData) :
    ∃ (t : State) (r : Req), LinesRan i s s' e ps.length t ∧ (t.fabric.drop s'.fabric.length)[0]? = some r ∧ r.kind = kind ∧
      ps.map (·.pa) = [r.pa] ∧ r.dests = [.scal o.dst.toNat] ∧ r.data.length = 128 ∧
      ∀ l < 32, ∀ k < 4, r.data.getD (4 * l + k) 0 = (e.fillWord l).extractLsb' (8 * k) 8 := by
  obtain ⟨p, rfl⟩ : ∃ p, ps = [p] := List.length_eq_one_iff.1 (by simpa using congrArg List.length haccs)
  obtain ⟨hkind, hpa, hdests, hdata⟩ := hf p (by simpa using haccs)
  obtain ⟨t, g', h⟩ := Env.sends_of_send hx hstrike hb.lanes_nodup fun r hr d hd q n l hport => by
    rw [List.map_singleton, List.mem_singleton] at hr
    rw [hr, hdests, List.mem_singleton] at hd
    rw [hd] at hport
    cases hport
  obtain ⟨n, c, hs⟩ := h.sent 0 (f p) rfl
  refine ⟨t, _, h.linesRan rfl, hs, hkind, congrArg (fun a => [a]) hpa.symm, by rw [hdests]; rfl, ?_, fun l hl k hk => ?_⟩
  · show (f p).data.length = 128
    rw [hdata, leBytes_length]
  · show (f p).data.getD _ 0 = _
    rw [hdata, e.fillData_byte hb.act_sorted hl hk]

/-- The access that a counted fill makes for its bundle. -/
def Env.fillAcc (e : Env) (n : Nat) : Acc := ⟨e.first, e.mask, BitVec.ofNat 64 (e.a e.first), n, .write⟩

theorem cfill_sends (hb : BeginsActive (.cfill o m) s e) (hroom : e.Room s' ps)
    (hcheck : s.check e.asker [e.fillAcc 128] [((e.fillAcc 128).lane, (e.fillAcc 128).va)] 128 = .ok s' ps) :
    ∃ (t : State) (r : Req), LinesRan (.cfill o m) s s' e ps.length t ∧ (t.fabric.drop s'.fabric.length)[0]? = some r ∧
      r.kind = .fill (cfillCount o m) ∧ ps.map (·.pa) = [r.pa] ∧ r.dests = [.scal o.dst.toNat] ∧ r.data.length = 128 ∧
      ∀ l < 32, ∀ k < 4, r.data.getD (4 * l + k) 0 = (e.fillWord l).extractLsb' (8 * k) 8 := by
  have hx := exec_of_issueStore (show exec (.cfill o m) s = execCfill o m s from rfl) rfl rfl rfl hb.1
  simp only [Env.take_one_act hb.2] at hx
  refine fill_sends hb.1 (State.translated_of_check hcheck).accs
    (hx.trans ((Env.access_eq hb.1.env_s hcheck _).trans (Env.roomFor_of_room hroom.1 _))) hroom.2 fun p hp => ⟨rfl, rfl, rfl, ?_⟩
  exact congrArg (leBytes · e.fillData) (congrArg Acc.size hp)

theorem cfillRing_sends (hb : BeginsActive (.cfillRing o m) s e) (hroom : e.Room s' ps)
    (hcheck : s.check e.asker [e.fillAcc 32] [((e.fillAcc 32).lane, (e.fillAcc 32).va)] 32 = .ok s' ps) :
    ∃ (t : State) (r : Req), LinesRan (.cfillRing o m) s s' e ps.length t ∧ (t.fabric.drop s'.fabric.length)[0]? = some r ∧
      r.kind = .ringFill (cfillCount o m) ∧ ps.map (·.pa) = [r.pa] ∧ r.dests = [.scal o.dst.toNat] ∧ r.data.length = 128 ∧
      ∀ l < 32, ∀ k < 4, r.data.getD (4 * l + k) 0 = (e.fillWord l).extractLsb' (8 * k) 8 := by
  have hx := exec_of_issueStore (show exec (.cfillRing o m) s = execCfillRing o m s from rfl) rfl rfl rfl hb.1
  simp only [Env.take_one_act hb.2] at hx
  exact fill_sends hb.1 (State.translated_of_check hcheck).accs
    (hx.trans ((Env.access_eq hb.1.env_s hcheck _).trans (Env.roomFor_of_room hroom.1 _))) (s'.strikes_nil _ _)
    fun _ _ => ⟨rfl, rfl, rfl, rfl⟩

theorem crel_sends {p : Placed} (hb : Begins (.crel o m) s e) (hcheck : s.check e.asker (e.accs o false 1 .write) [] 1 = .ok s' [p])
    (hroom : s'.mayWrite (coreDie e.g.core) 1 = true) :
    ∃ (t : State) (r : Req), LinesRan (.crel o m) s s' e 1 t ∧ (t.fabric.drop s'.fabric.length)[0]? = some r ∧ r.kind = .release ∧
      r.pa = p.pa / 128 * 128 ∧ r.dests = [] := by
  have hx := exec_of_issue1 (show exec (.crel o m) s = execCrel o m s from rfl) rfl rfl rfl hb
  obtain ⟨t, g', h⟩ := Env.sends_of_send (hx.trans ((Env.access_eq hb.env_s hcheck _).trans (Env.roomFor_of_room hroom _)))
    (s'.strikes_nil _ _) hb.lanes_nodup fun r hr d hd => by
      rw [List.mem_singleton.1 hr] at hd
      cases hd
  obtain ⟨n, c, hs⟩ := h.sent 0 _ rfl
  exact ⟨t, _, h.linesRan rfl, hs, rfl, rfl, rfl⟩

end

/-- Settles O36: lines by element, fills with the words of all lanes, and one line released. -/
theorem linesAndCountedAccessesAreSent : Obligations.LinesAndCountedAccessesAreSent := by
  intro o m s s' e ps base room ran kth word fills
  refine ⟨ldv_sends, fun hb hc hr => stv_sends hb hr hc, fun _ _ => rfl, fun hb hc hr => cfill_sends hb hr hc,
    fun hb hc hr => cfillRing_sends hb hr hc, fun l p hb ha hps hc hr => ?_⟩
  subst hps
  exact crel_sends hb hc hr

end Sys2Proof.Machine
end

section
/-! Messages, mailboxes and byte counts (obligation O40). -/

namespace Sys2Proof.Machine

/-! ### Mailboxes (11 R310) -/

theorem State.boxOf_of_team {s : State} {t : Nat} {x : Team} (h : Tab.get? s.teams t = some x) (b : Nat) : s.boxOf t b = x.box b := by
  rw [State.boxOf, h]

theorem State.boxOf_eq (s : State) (t b : Nat) : s.boxOf t b = ((Tab.get? s.teams t).map (·.box b)).getD Mailbox.empty := by
  unfold State.boxOf
  cases Tab.get? s.teams t <;> rfl

@[simp] theorem Team.box_setBox_self (x : Team) (b : Nat) (y : Mailbox) : (x.setBox b y).box b = y :=
  Tab.read_write_self _ _ _ _

/-- What changes no mailbox of a team changes none that is found in the state. -/
theorem State.boxOf_modTeam (s : State) (t : Nat) {f : Team → Team} (hf : ∀ x, (f x).boxes = x.boxes) (k j : Nat) :
    (s.modTeam t f).boxOf k j = s.boxOf k j := by
  rw [State.boxOf_eq, State.boxOf_eq, State.modTeam, Tab.get?_modify]
  split
  · cases Tab.get? s.teams k with
    | none => rfl
    | some x => simp [Team.box, hf]
  · rfl

theorem State.boxOf_setBoxOf_self {s : State} {t : Nat} {x : Team} (h : Tab.get? s.teams t = some x) (b : Nat) (y : Mailbox) :
    (s.setBoxOf t b y).boxOf t b = y := by
  refine (State.boxOf_of_team (x := x.setBox b y) ?_ b).trans (Team.box_setBox_self _ _ _)
  rw [State.setBoxOf, State.modTeam, Tab.get?_modify, if_pos rfl, h]
  rfl

@[simp] theorem State.boxOf_answer (s : State) (p : Pending) (v : W64) (k j : Nat) : (s.answer p v).boxOf k j = s.boxOf k j :=
  State.boxOf_modTeam { s with pendings := s.pendings.filter fun q => q != p, results := s.results ++ [Result.mk p.gid [(.scal p.dst, v)] false] }
    p.team (f := fun x => { x with engineLate := x.engineLate.takeWhile fun l => !(l.cls == 3) }) (fun _ => rfl) k j

theorem State.answer_pendings {s : State} {p : Pending} (h : s.pendings = [p]) (v : W64) : (s.answer p v).pendings = [] := by
  simp [State.answer, State.seeEngine, State.modTeam, h]

@[simp] theorem State.answer_results (s : State) (p : Pending) (v : W64) :
    (s.answer p v).results = s.results ++ [⟨p.gid, [(.scal p.dst, v)], false⟩] := rfl

theorem State.reached_pendings {s : State} {p : Pending} (h : s.pendings = [p]) (b : Nat) (x : Mailbox) : (s.reached b x p).pendings = [] :=
  State.answer_pendings (s := s.setBoxOf p.team b { x with bcnt := x.bcnt - x.tgt, armed := false }) h _

/-- A wait that completes makes engine writes visible, and changes no byte. -/
theorem State.sameLocal_answer (s : State) (p : Pending) (v : W64) : SameLocal s (s.answer p v) := by
  refine sameLocal_of_lm fun k => ?_
  simp only [State.answer, State.seeEngine, State.modTeam, Tab.get?_modify]
  split
  · cases Tab.get? s.teams k <;> rfl
  · rfl

/-! ### Waits that complete (08 R240, 11 R312) -/

theorem State.servePendings_of_nil {s : State} (h : s.pendings = []) : s.servePendings = s := by
  rw [State.servePendings, h]; rfl

theorem State.servePendings_of_one {s : State} {p : Pending} (h : s.pendings = [p]) : s.servePendings = s.servePending p := by
  rw [State.servePendings, h]; rfl

/-- A wait that has no other beside it is the next to be served. -/
theorem State.isNext_of_one {s : State} {p : Pending} (h : s.pendings = [p]) : s.isNext p = true := by
  obtain ⟨kind, gid, team, dst, since⟩ := p
  cases kind <;> simp [State.isNext, h]

section
variable {s : State} {p : Pending} {b : Nat} (h : s.pendings = [p])
include h

theorem State.servePending_of_record (hk : p.kind = .mrecv b) {r : W64} {rs : List W64} (hr : (s.boxOf p.team b).recs = r :: rs) :
    s.servePending p = (s.setBoxOf p.team b { s.boxOf p.team b with recs := rs }).answer p r := by
  simp only [State.servePending, State.isNext_of_one h, if_true, hk, hr]

theorem State.servePending_of_noRecord (hk : p.kind = .mrecv b) (hr : (s.boxOf p.team b).recs = []) : s.servePending p = s := by
  simp only [State.servePending, State.isNext_of_one h, if_true, hk, hr]

theorem State.servePending_of_reached (hk : p.kind = .bcwait b) (hr : (s.boxOf p.team b).tgt.toNat ≤ (s.boxOf p.team b).bcnt.toNat) :
    s.servePending p = s.reached b (s.boxOf p.team b) p := by
  simp only [State.servePending, State.isNext_of_one h, if_true, hk, if_pos hr]

theorem State.servePending_of_short (hk : p.kind = .bcwait b) (hr : (s.boxOf p.team b).bcnt.toNat < (s.boxOf p.team b).tgt.toNat) :
    s.servePending p = s := by
  simp only [State.servePending, State.isNext_of_one h, if_true, hk, if_neg (Nat.not_le.2 hr)]

end

/-- Serving a wait changes what waits, the results and mailboxes. -/
theorem State.servePending_eq (s : State) (p : Pending) :
    ∃ ps rs ts, s.servePending p = { s with pendings := ps, results := rs, teams := ts } := by
  have same : ∃ ps rs ts, s = { s with pendings := ps, results := rs, teams := ts } := ⟨s.pendings, s.results, s.teams, rfl⟩
  rw [State.servePending]
  split
  · split
    · simp only
      split
      · exact ⟨_, _, _, rfl⟩
      · exact same
    · simp only
      split
      · exact ⟨_, _, _, rfl⟩
      · exact same
  · exact same

theorem State.servePendings_mem (s : State) : s.servePendings.mem = s.mem :=
  foldl_keeps (fun s => s.mem) State.servePending (fun s p => by obtain ⟨_, _, _, h⟩ := s.servePending_eq p; rw [h]) _ s

theorem State.servePending_mem (s : State) (p : Pending) : (s.servePending p).mem = s.mem := by
  obtain ⟨_, _, _, h⟩ := s.servePending_eq p; rw [h]

theorem State.group?_servePending (s : State) (p : Pending) (k : Nat) : (s.servePending p).group? k = s.group? k := by
  obtain ⟨_, _, _, h⟩ := s.servePending_eq p; rw [h]; rfl

/-! ### Long-latency scalar destinations -/

/-- The bundle goes on, and its scalar destination is empty. -/
def ScalarAwaited (e : Env) (o : Ops) (t : State) : Prop :=
  ∃ g', t.group? e.u.gid = some g' ∧ g'.isEmpty (.scal o.dst.toNat) = true ∧ g'.v = e.g.v ∧ g'.sreg = e.g.sreg

theorem Env.scalarAwaited_after (e : Env) (o : Ops) (s : State) (fl : W32) :
    ScalarAwaited e o (({ e with winOver := 0 } : Env).after s (e.g.await [.scal o.dst.toNat] fl) fun _ => e.next) := by
  refine ⟨_, Env.after_group _ _ _ _, ?_, ?_, ?_⟩
  · rw [Env.goneOn_isEmpty]
    exact Group.isEmpty_await e.g fl (d := .scal o.dst.toNat) (List.mem_singleton.2 rfl) nofun
  · rw [Env.goneOn_v, Group.await_v]
  · rw [Env.goneOn_sreg, Group.await_sreg]

/-- A wait begins: it is served at once where it can be. -/
theorem Env.await_next {e : Env} (h : e.s.pendings = []) (o : Ops) (k : PendKind) :
    ∃ u, e.await o k = .next (u.servePending ⟨k, e.u.gid, e.g.team, o.dst.toNat, e.s.cycle⟩) ∧
      u.pendings = [⟨k, e.u.gid, e.g.team, o.dst.toNat, e.s.cycle⟩] ∧ u.results = e.s.results ∧ u.teams = e.s.teams ∧
      u.mem = e.s.mem ∧ ScalarAwaited e o u := by
  have hone : (({ e with winOver := 0 } : Env).after
      { e.s with pendings := e.s.pendings ++ [⟨k, e.u.gid, e.g.team, o.dst.toNat, e.s.cycle⟩] }
      (e.g.await [.scal o.dst.toNat] e.winOver) fun _ => e.next).pendings = [⟨k, e.u.gid, e.g.team, o.dst.toNat, e.s.cycle⟩] := by
    rw [Env.after_pendings, h]; rfl
  refine ⟨_, ?_, hone, Env.after_results _ _ _ _, Env.after_teams _ _ _ _, Env.after_mem _ _ _ _, e.scalarAwaited_after o _ _⟩
  rw [← State.servePendings_of_one hone]
  rfl

theorem Env.localCheck_of_pass {e : Env} {as : List (Nat × Nat × Nat)} {bases : List (Nat × Nat)} {n : Nat}
    (hin : ∀ a ∈ as, a.2.1 + a.2.2 ≤ e.s.lmSize e.g.team) (hal : ∀ b ∈ bases, b.2 % n = 0) (k : Unit → Out) :
    e.localCheck as bases n k = k () := by
  have h1 : as.find? (fun a => decide (e.s.lmSize e.g.team < a.2.1 + a.2.2)) = none :=
    List.find?_eq_none.2 fun a ha => by simpa using hin a ha
  have h2 : bases.find? (fun b => b.2 % n != 0) = none := List.find?_eq_none.2 fun b hb => by simp [hal b hb]
  rw [Env.localCheck, h1, h2]

/-! ### The message engine (08 R238) -/

/-- A look leaves the team there. -/
theorem State.team_lmLook {s : State} {t k : Nat} {x : Team} (h : Tab.get? s.teams k = some x) :
    ∃ y, Tab.get? (s.lmLook false t).1.teams k = some y := by
  have hlm := s.lmLook_lm t k
  rw [h] at hlm
  obtain ⟨y, hy, -⟩ := Option.map_eq_some_iff.1 hlm
  exact ⟨y, hy⟩

@[simp] theorem State.lmLook_sends (s : State) (t : Nat) : (s.lmLook false t).1.sends = s.sends := by
  obtain ⟨n, ts, h⟩ := s.lmLook_eq t; rw [h]

/-- A send of a team joins its engine, last. -/
theorem State.queueSend_eq {s : State} {t : Nat} {x : Team} (h : Tab.get? s.teams t = some x) (dst box daddr : Nat) (data : List Byte)
    (node : Option (Nat × Nat)) : ∃ y : Send, s.queueSend t dst box daddr data node =
      { s with nextId := s.nextId + 1, sends := s.sends ++ [y] } ∧
      y.src = t ∧ y.dst = dst ∧ y.box = box ∧ y.daddr = daddr ∧ y.data = data ∧ y.node = node := by
  rw [State.queueSend, h]
  exact ⟨_, rfl, rfl, rfl, rfl, rfl, rfl, rfl⟩

/-! ### The instructions -/

section
variable {o : Ops} {m : BitVec 20} {s : State} {e : Env}

/-- A group-level instruction with an active lane. -/
theorem exec_of_once {i : Instr} {k : Env → Unit → Out} (he : exec i s = issue1 .all o i.sig s fun e => e.once (k e))
    (hn : needs i = .all) (hl : i.len = o.len) (hp : partsAt s i = [{ o := o, sg := i.sig }]) (hb : BeginsActive i s e) :
    exec i s = k e () := by
  rw [exec_of_issue1 he hn hl hp hb.1, Env.once, if_neg (by simpa using hb.2)]

/-- The instruction sends its value to its scalar destination as a result; memory is as before. -/
def GetsScalar (i : Instr) (o : Ops) (s : State) (e : Env) (v : W64) (t : State) : Prop :=
  exec i s = .next t ∧ t.results = s.results ++ [⟨e.u.gid, [(.scal o.dst.toNat, v)], false⟩] ∧ t.mem = s.mem ∧ ScalarAwaited e o t

/-- A result known at issue. -/
theorem getsScalar_of_result {i : Instr} {v : W64} (h : exec i s = e.result s e.g [(.scal o.dst.toNat, v)]) :
    ∃ t, GetsScalar i o s e v t ∧ t.teams = s.teams ∧ t.furrows = s.furrows :=
  ⟨_, ⟨h, Env.after_results _ _ _ _, Env.after_mem _ _ _ _, e.scalarAwaited_after o _ _⟩, Env.after_teams _ _ _ _,
    Env.after_furrows _ _ _ _⟩

/-- A wait that is answered at once. -/
theorem getsScalar_of_answer {i : Instr} {u w : State} {p : Pending} {v : W64} (h : exec i s = .next (u.servePending p))
    (hp : u.servePending p = w.answer p v) (hg : p.gid = e.u.gid) (hd : p.dst = o.dst.toNat) (hw : w.results = s.results)
    (hm : u.mem = s.mem) (ha : ScalarAwaited e o u) : GetsScalar i o s e v (w.answer p v) := by
  refine ⟨hp ▸ h, by rw [State.answer_results, hw, hg, hd], ?_, ?_⟩
  · rw [← hp, State.servePending_mem, hm]
  · obtain ⟨g', hg', h'⟩ := ha
    exact ⟨g', by rw [← hp, State.group?_servePending, hg'], h'⟩

/-- MSEND that may be queued (R238). -/
theorem exec_msend_queues {x : Team} (hx : Tab.get? s.teams e.g.team = some x) {dest n : Nat}
    (hn : n = ((m.extractLsb' 8 12).toNat + 1) * 16)
    (hb : BeginsActive (.msend o m) s e) (hdest : (s.clusterTeams e.g.cluster)[(m.extractLsb' 0 4).toNat]? = some dest)
    (hin : Ops.localBase o (e.a e.first) + n ≤ s.lmSize e.g.team) (hsrc : Ops.localBase o (e.a e.first) % 16 = 0)
    (hdst : (e.b e.first % 2 ^ 32) % 16 = 0) (hroom : s.sendsOf e.g.team < 16) (hfen : s.fenced e.g.team 3 = false)
    (hbad : s.lmBad e.g.team (Ops.localBase o (e.a e.first)) n = false) :
    ∃ t y, exec (.msend o m) s = .next t ∧ t.sends = s.sends ++ [y] ∧ y.dst = dest ∧ y.box = (m.extractLsb' 4 4).toNat ∧
      y.daddr = e.b e.first % 2 ^ 32 ∧
      y.data = Memory.bytes (s.lmLook false e.g.team).2 (Ops.localBase o (e.a e.first)) n ∧ y.src = e.g.team ∧
      t.teams = (s.lmLook false e.g.team).1.teams ∧ t.mem = s.mem := by
  have hs := hb.1.env_s
  obtain ⟨x', hx'⟩ := State.team_lmLook (t := e.g.team) hx
  have hexec := exec_of_once (show exec (.msend o m) s = execMsend o m s from rfl) rfl rfl rfl hb
  simp only [hs, hdest, ← hn] at hexec
  rw [Env.localCheck_of_pass (by simpa [hs] using hin) (by
    intro b hmem
    obtain rfl | rfl := List.mem_pair.1 hmem
    · exact hsrc
    · exact hdst)] at hexec
  simp only [hfen, Bool.false_eq_true, if_false, if_neg (Nat.not_le.2 hroom), hbad] at hexec
  obtain ⟨y, hy, hsend, hbox, hd, haddr, hdata, -⟩ := State.queueSend_eq hx' dest (m.extractLsb' 4 4).toNat (e.b e.first % 2 ^ 32)
    (Memory.bytes (s.lmLook false e.g.team).2 (Ops.localBase o (e.a e.first)) n) none
  rw [hy] at hexec
  refine ⟨_, y, hexec, ?_, hbox, hd, haddr, hdata, hsend, Env.after_teams _ _ _ _, ?_⟩
  · rw [Env.after_sends, State.lmLook_sends]
  · rw [Env.after_mem, State.lmLook_mem]

theorem mprobe_leaves (hb : BeginsActive (.mprobe o m) s e) : ∃ g', Leaves (.mprobe o m) s e g' ∧
    g'.sr o.dst.toNat = BitVec.ofNat 64 (s.boxOf e.g.team (m.extractLsb' 0 4).toNat).recs.length ∧ g'.v = e.g.v := by
  have hexec := exec_of_once (show exec (.mprobe o m) s = execMprobe o m s from rfl) rfl rfl rfl hb
  rw [hb.1.env_s] at hexec
  obtain ⟨t, ⟨h, -, -, g', hg, hv, hreg, -⟩, -, -⟩ := setsScalar_of_exec hexec rfl rfl
  exact ⟨g', ⟨t, h, hg⟩, hv, hreg⟩

section
variable {x : Team} (hx : Tab.get? s.teams e.g.team = some x)
include hx

theorem mrecv_gets (hb : BeginsActive (.mrecv o m) s e) (hp : s.pendings = []) {r : W64} {rs : List W64}
    (hr : (x.box (m.extractLsb' 0 4).toNat).recs = r :: rs) :
    ∃ t, GetsScalar (.mrecv o m) o s e r t ∧ (t.boxOf e.g.team (m.extractLsb' 0 4).toNat).recs = rs := by
  have hs := hb.1.env_s
  have hexec := exec_of_once (show exec (.mrecv o m) s = execMrecv o m s from rfl) rfl rfl rfl hb
  obtain ⟨u, hu, hone, hres, hteams, hmem, hwait⟩ := Env.await_next (e := e) (hs ▸ hp) o (.mrecv (m.extractLsb' 0 4).toNat)
  rw [hs] at hres hteams hmem
  have hbox : u.boxOf e.g.team (m.extractLsb' 0 4).toNat = x.box (m.extractLsb' 0 4).toNat :=
    State.boxOf_of_team (hteams ▸ hx) _
  refine ⟨_, getsScalar_of_answer (hexec.trans hu)
    (State.servePending_of_record hone rfl (by rw [hbox, hr])) rfl rfl hres hmem hwait, ?_⟩
  rw [State.boxOf_answer, State.boxOf_setBoxOf_self (hteams ▸ hx)]

theorem mrecv_waits (hb : BeginsActive (.mrecv o m) s e) (hp : s.pendings = [])
    (hr : (x.box (m.extractLsb' 0 4).toNat).recs = []) :
    ∃ t p, exec (.mrecv o m) s = .next t ∧ t.pendings = [p] ∧ p.kind = .mrecv (m.extractLsb' 0 4).toNat ∧
      p.since = s.cycle ∧ t.results = s.results ∧ ScalarAwaited e o t := by
  have hs := hb.1.env_s
  have hexec := exec_of_once (show exec (.mrecv o m) s = execMrecv o m s from rfl) rfl rfl rfl hb
  obtain ⟨u, hu, hone, hres, hteams, hmem, hwait⟩ := Env.await_next (e := e) (hs ▸ hp) o (.mrecv (m.extractLsb' 0 4).toNat)
  have hbox : u.boxOf e.g.team (m.extractLsb' 0 4).toNat = x.box (m.extractLsb' 0 4).toNat :=
    State.boxOf_of_team (by rw [hteams, hs, hx]) _
  rw [State.servePending_of_noRecord hone rfl (by rw [hbox, hr])] at hu
  exact ⟨u, _, hexec.trans hu, hone, rfl, by rw [hs], by rw [hres, hs], hwait⟩

/-- The mailbox as BCARM leaves it (R311). -/
def Env.armed (e : Env) (x : Team) (b : Nat) : Mailbox := { x.box b with armed := true, tgt := BitVec.ofNat 32 (e.a e.first) }

theorem exec_bcarm (hb : BeginsActive (.bcarm o m) s e) : exec (.bcarm o m) s =
    e.finish (s.setBoxOf e.g.team (m.extractLsb' 0 4).toNat (e.armed x (m.extractLsb' 0 4).toNat)).servePendings e.g := by
  have hexec := exec_of_once (show exec (.bcarm o m) s = execBcarm o m s from rfl) rfl rfl rfl hb
  rw [hb.1.env_s] at hexec
  simp only [State.boxOf_of_team hx] at hexec
  exact hexec

theorem bcarm_arms (hb : BeginsActive (.bcarm o m) s e) : ∃ t, exec (.bcarm o m) s = .next t ∧ t.mem = s.mem ∧
    (s.pendings = [] → t.boxOf e.g.team (m.extractLsb' 0 4).toNat = e.armed x (m.extractLsb' 0 4).toNat) ∧
    ∀ p, s.pendings = [p] → p.kind = .bcwait (m.extractLsb' 0 4).toNat → p.team = e.g.team →
      e.a e.first % 2 ^ 32 ≤ (x.box (m.extractLsb' 0 4).toNat).bcnt.toNat →
      t.pendings = [] ∧ t.results = s.results ++ [⟨p.gid, [(.scal p.dst, (x.box (m.extractLsb' 0 4).toNat).bcnt.setWidth 64)], false⟩] := by
  generalize hb' : (m.extractLsb' 0 4).toNat = b
  have hexec := exec_bcarm hx hb
  rw [hb'] at hexec
  have hself := State.boxOf_setBoxOf_self hx b (e.armed x b)
  have hpend : (s.setBoxOf e.g.team b (e.armed x b)).pendings = s.pendings := rfl
  refine ⟨_, hexec, ?_, fun hp => ?_, fun p hp hk ht ha => ?_⟩
  · rw [Env.after_mem, State.servePendings_mem]; rfl
  · rw [State.servePendings_of_nil (hpend.trans hp), State.boxOf_eq, Env.after_teams, ← State.boxOf_eq, hself]
  · have hserve : (s.setBoxOf e.g.team b (e.armed x b)).servePendings = (s.setBoxOf e.g.team b (e.armed x b)).reached b (e.armed x b) p := by
      rw [State.servePendings_of_one (hpend.trans hp), State.servePending_of_reached (hpend.trans hp) hk]
      · rw [ht, hself]
      · rw [ht, hself]
        simpa [Env.armed] using ha
    rw [hserve]
    exact ⟨(Env.after_pendings _ _ _ _).trans (State.reached_pendings (hpend.trans hp) _ _), Env.after_results _ _ _ _⟩

theorem bcwait_notArmed (hb : BeginsActive (.bcwait o m) s e) (hna : (x.box (m.extractLsb' 0 4).toNat).armed = false) :
    ∃ t, GetsScalar (.bcwait o m) o s e (BitVec.ofNat 64 (2 ^ 62 + (x.box (m.extractLsb' 0 4).toNat).bcnt.toNat)) t ∧
      t.teams = s.teams := by
  have hexec := exec_of_once (show exec (.bcwait o m) s = execBcwait o m s from rfl) rfl rfl rfl hb
  simp only [hb.1.env_s, State.boxOf_of_team hx, hna, Bool.false_eq_true, if_false] at hexec
  obtain ⟨t, ht, hteams, -⟩ := getsScalar_of_result hexec
  exact ⟨t, ht, hteams⟩

theorem exec_bcwait_armed (hb : BeginsActive (.bcwait o m) s e) (ha : (x.box (m.extractLsb' 0 4).toNat).armed = true) :
    exec (.bcwait o m) s = e.await o (.bcwait (m.extractLsb' 0 4).toNat) := by
  have hexec := exec_of_once (show exec (.bcwait o m) s = execBcwait o m s from rfl) rfl rfl rfl hb
  simpa only [hb.1.env_s, State.boxOf_of_team hx, ha, if_true] using hexec

theorem bcwait_reached (hb : BeginsActive (.bcwait o m) s e) (ha : (x.box (m.extractLsb' 0 4).toNat).armed = true) (hp : s.pendings = [])
    (hr : (x.box (m.extractLsb' 0 4).toNat).tgt.toNat ≤ (x.box (m.extractLsb' 0 4).toNat).bcnt.toNat) :
    ∃ t, GetsScalar (.bcwait o m) o s e ((x.box (m.extractLsb' 0 4).toNat).bcnt.setWidth 64) t ∧
      t.boxOf e.g.team (m.extractLsb' 0 4).toNat =
        { x.box (m.extractLsb' 0 4).toNat with
          armed := false, bcnt := (x.box (m.extractLsb' 0 4).toNat).bcnt - (x.box (m.extractLsb' 0 4).toNat).tgt } := by
  have hs := hb.1.env_s
  obtain ⟨u, hu, hone, hres, hteams, hmem, hwait⟩ := Env.await_next (e := e) (hs ▸ hp) o (.bcwait (m.extractLsb' 0 4).toNat)
  rw [hs] at hres hteams hmem
  have hbox : u.boxOf e.g.team (m.extractLsb' 0 4).toNat = x.box (m.extractLsb' 0 4).toNat :=
    State.boxOf_of_team (hteams ▸ hx) _
  have hserve := State.servePending_of_reached hone rfl (by rw [hbox]; exact hr)
  rw [hbox] at hserve
  refine ⟨_, getsScalar_of_answer ((exec_bcwait_armed hx hb ha).trans hu) hserve rfl rfl hres hmem hwait, ?_⟩
  rw [State.boxOf_answer, State.boxOf_setBoxOf_self (hteams ▸ hx)]

theorem bcwait_waits (hb : BeginsActive (.bcwait o m) s e) (ha : (x.box (m.extractLsb' 0 4).toNat).armed = true) (hp : s.pendings = [])
    (hr : (x.box (m.extractLsb' 0 4).toNat).bcnt.toNat < (x.box (m.extractLsb' 0 4).toNat).tgt.toNat) :
    ∃ t p, exec (.bcwait o m) s = .next t ∧ t.pendings = [p] ∧ p.kind = .bcwait (m.extractLsb' 0 4).toNat ∧
      t.results = s.results ∧ t.teams = s.teams := by
  have hs := hb.1.env_s
  obtain ⟨u, hu, hone, hres, hteams, hmem, hwait⟩ := Env.await_next (e := e) (hs ▸ hp) o (.bcwait (m.extractLsb' 0 4).toNat)
  rw [hs] at hres hteams
  have hbox : u.boxOf e.g.team (m.extractLsb' 0 4).toNat = x.box (m.extractLsb' 0 4).toNat :=
    State.boxOf_of_team (hteams ▸ hx) _
  rw [State.servePending_of_short hone rfl (by rw [hbox]; exact hr)] at hu
  exact ⟨u, _, (exec_bcwait_armed hx hb ha).trans hu, hone, rfl, hres, hteams⟩

end

end

/-! ### Delivery (08 R239, 11 R310) -/

theorem satAdd32_toNat (a : W32) (n : Nat) : (satAdd32 a n).toNat = min (2 ^ 32 - 1) (a.toNat + n) := by
  simp only [satAdd32, BitVec.toNat_ofNat]
  omega

/-- A message within local memory that its mailbox can take. -/
theorem Team.receive_of_fits {x : Team} {y : Send} (hin : y.daddr + y.data.length ≤ x.lmSize)
    (hroom : (x.box y.box).armed = true ∨ (x.box y.box).recs.length < 8) :
    ∃ x', x.receive y = some x' ∧ Memory.bytes x'.lm y.daddr y.data.length = y.data ∧
      (x'.box y.box).bcnt.toNat = min (2 ^ 32 - 1) ((x.box y.box).bcnt.toNat + y.data.length) ∧
      (x'.box y.box).recs.length = (x.box y.box).recs.length + if (x.box y.box).armed then 0 else 1 := by
  have herr : decide (x.lmSize < y.daddr + y.data.length) = false := by simpa using hin
  simp only [Team.receive, herr, Bool.not_false, Bool.true_and, Bool.false_eq_true, if_false]
  by_cases ha : (x.box y.box).armed = true
  · refine ⟨_, if_pos ha, Memory.bytes_setBytes _ _ _, ?_, ?_⟩
    · rw [Team.box_setBox_self]; exact satAdd32_toNat _ _
    · rw [Team.box_setBox_self, if_pos ha]; rfl
  · refine ⟨_, (if_neg ha).trans (if_neg (by simpa using hroom.resolve_left ha)), Memory.bytes_setBytes _ _ _, ?_, ?_⟩
    · rw [Team.box_setBox_self]; exact satAdd32_toNat _ _
    · rw [Team.box_setBox_self, if_neg ha]; exact List.length_append

/-- Settles O40: each instruction begins on its mailbox, and each wait is served in the one way that its condition allows. -/
theorem messagesAndByteCounts : Obligations.MessagesAndByteCounts := by
  refine ⟨fun o m s e x hx => ⟨fun dest hb hd hin hsrc hdst hroom hfen hbad => ?_, fun hl => ?_, fun hb => ?_,
    fun hb hp => ⟨fun r rs hr => mrecv_gets hx hb hp hr, fun hr => ?_⟩, bcarm_arms hx, bcwait_notArmed hx,
    fun hb ha hp => ⟨bcwait_reached hx hb ha hp, bcwait_waits hx hb ha hp⟩⟩,
    fun s n y x hy hbe hfr hx hend hsp hp hin hroom => ?_, fun s n p b hn hover => ⟨fun hk => ?_, fun hk hp hlt => ?_, fun hk hp hle => ?_⟩⟩
  · exact exec_msend_queues hx rfl hb hd hin hsrc hdst hroom hfen hbad
  · rw [State.lmLook_of_seen hx hl]
  · obtain ⟨g', hl, hv, hreg⟩ := mprobe_leaves hb
    exact ⟨g', hl, by rw [hv, State.boxOf_of_team hx], hreg⟩
  · obtain ⟨t, p, ht, hone, hk, hc, hres, g', hg, hempty, -⟩ := mrecv_waits hx hb hp hr
    exact ⟨t, p, g', ht, hone, hk, hc, hres, hg, hempty⟩
  · obtain ⟨x', hx', hbytes, hcount, hrecs⟩ := Team.receive_of_fits hin hroom
    have hd : s.deliverSend n = some { s with sends := s.sends.eraseIdx n, teams := Tab.set s.teams y.dst x' } := by
      simp [State.deliverSend, hy, hbe, hfr, hx, hend, hsp, hx']
    refine ⟨{ s with sends := s.sends.eraseIdx n, teams := Tab.set s.teams y.dst x' }, x', ?_, rfl, Tab.get?_set_self _ _ _, hbytes,
      hcount, hrecs⟩
    show execMessageDelivery n s = _
    rw [execMessageDelivery, hd]
    exact congrArg Host.Outcome.next (State.servePendings_of_nil (s := { s with sends := _, teams := _ }) hp)
  · refine ⟨_, ?_, ⟨s.sameLocal_answer p (BitVec.ofNat 64 (2 ^ 63)), s.boxOf_answer p _⟩, rfl⟩
    show execMrecvTimeout n s = _
    simp [execMrecvTimeout, hn, hk, hover]
  · refine ⟨_, ?_, ⟨s.sameLocal_answer p _, s.boxOf_answer p _⟩, rfl⟩
    show execBcwaitTimeout n s = _
    simp only [execBcwaitTimeout, hn, hk, hover, Bool.not_true, Bool.false_eq_true, if_false, if_neg (Nat.not_le.2 hlt)]
    rw [State.servePendings_of_nil (State.answer_pendings hp _)]
  · have hempty : (s.reached b (s.boxOf p.team b) p).pendings = [] := State.reached_pendings hp _ _
    refine ⟨_, ?_, hempty, rfl⟩
    show execBcwaitTimeout n s = _
    simp only [execBcwaitTimeout, hn, hk, hover, Bool.not_true, Bool.false_eq_true, if_false, if_pos hle]
    rw [State.servePendings_of_nil hempty]

end Sys2Proof.Machine
end

section
/-! The furrow instructions: FRGO, FRADV, FRWAIT and FRSTAT (obligation O43). -/

namespace Sys2Proof.Machine

/-! ### Slots (08 R242, R257) -/

@[simp] theorem State.get?_setFurrow_self (s : State) (k : Nat) (f : Furrow) : Tab.get? (s.setFurrow k f).furrows k = some f :=
  Tab.get?_set_self _ _ _

/-- A furrow that has stalled says so; any other is as it was. -/
def Furrow.settled (f : Furrow) : Furrow := if f.stalls then { f with state := 3, hidx := f.head % f.len } else f

theorem Furrow.settled_eq (f : Furrow) : f.settled = { f with state := f.settled.state, hidx := f.settled.hidx } := by
  rw [Furrow.settled]
  split <;> rfl

theorem Furrow.settled_of_not_stalls {f : Furrow} (h : f.stalls = false) : f.settled = f := by
  rw [Furrow.settled, h]; rfl

section
variable (f : Furrow)
@[simp] theorem Furrow.settled_opened : f.settled.opened = f.opened := by rw [Furrow.settled_eq]
@[simp] theorem Furrow.settled_team : f.settled.team = f.team := by rw [Furrow.settled_eq]
@[simp] theorem Furrow.settled_cur : f.settled.cur = f.cur := by rw [Furrow.settled_eq]
@[simp] theorem Furrow.settled_tail : f.settled.tail = f.tail := by rw [Furrow.settled_eq]
@[simp] theorem Furrow.settled_seq : f.settled.seq = f.seq := by rw [Furrow.settled_eq]
@[simp] theorem Furrow.settled_limit : f.settled.limit = f.limit := by rw [Furrow.settled_eq]
@[simp] theorem Furrow.settled_ending : f.settled.ending = f.ending := by rw [Furrow.settled_eq]
@[simp] theorem Furrow.settled_nodes : f.settled.nodes = f.nodes := by rw [Furrow.settled_eq]
@[simp] theorem Furrow.settled_heldDec : f.settled.heldDec = f.heldDec := by rw [Furrow.settled_eq]
end

section
variable {s : State} {k : Nat} {f : Furrow} (h : Tab.get? s.furrows k = some f)
include h

/-- A slot that is not closed changes by no more than that it stalls. -/
theorem State.settleFurrow_of_noLimit (hend : f.ending = false) (hlim : f.limit = none) :
    s.settleFurrow k = s.setFurrow k f.settled := by
  simp only [State.settleFurrow, h]
  rw [← Furrow.settled]
  simp only [Furrow.settled_opened, Furrow.settled_ending, Furrow.settled_limit, hend, hlim, Bool.false_eq_true, if_false, ite_self]

/-- A closed slot whose entries are not all admitted goes on. -/
theorem State.settleFurrow_of_ahead {l : Nat} (hend : f.ending = false) (hlim : f.limit = some l) (hst : f.state = 0)
    (hs : f.stalls = false) (hl : f.cur < l) : s.settleFurrow k = s.setFurrow k f := by
  have h1 : ¬ (f.state = 0 ∧ f.nodes = [] ∧ l ≤ f.cur) := fun hc => absurd hc.2.2 (Nat.not_le.2 hl)
  have h2 : ¬ ((f.state = 2 ∨ f.state = 3) ∧ f.busy = false) := by simp [hst]
  simp only [State.settleFurrow, h]
  rw [← Furrow.settled, Furrow.settled_of_not_stalls hs]
  simp only [hend, hlim, Bool.false_eq_true, if_false, if_neg h1, if_neg h2, ite_self]

/-- A closed slot whose entries have all finished is freed, its completion word written before. -/
theorem State.settleFurrow_of_done {l : Nat} (hopen : f.opened = true) (hend : f.ending = false) (hlim : f.limit = some l)
    (hst : f.state = 0) (hn : f.nodes = []) (hl : l ≤ f.cur) :
    s.settleFurrow k = ((s.setFurrow k f).writeCw f (f.seq % 2 ^ 63 + 2 ^ 63)).setFurrow k f.free := by
  have hs : f.stalls = false := by simp [Furrow.stalls, hn]
  simp only [State.settleFurrow, h]
  rw [← Furrow.settled, Furrow.settled_of_not_stalls hs]
  simp only [hopen, hend, hlim, Bool.not_true, Bool.false_eq_true, if_false, if_pos (And.intro hst (And.intro hn hl))]

end

/-! ### Completion words (08 R255) -/

theorem State.lmNum_congr {s t : State} (h : t.teams = s.teams) (k a n : Nat) : t.lmNum k a n = s.lmNum k a n := by
  rw [State.lmNum, State.lmNum, h]

theorem State.get?_lmEngine (s : State) (cls t a : Nat) (bs : List Byte) (k : Nat) :
    Tab.get? (s.lmEngine cls t a bs).teams k =
      if k = t then (Tab.get? s.teams k).map fun x => x.enginePut cls a bs else Tab.get? s.teams k :=
  Tab.get?_modify s.teams t k fun x => x.enginePut cls a bs

/-- What an engine has written to local memory is read there. -/
theorem State.lmNum_lmEngine_self {s : State} {t : Nat} (h : (Tab.get? s.teams t).isSome = true) (cls a n v : Nat) :
    (s.lmEngine cls t a (leBytes n v)).lmNum t a n = v % 256 ^ n := by
  obtain ⟨x, hx⟩ := Option.isSome_iff_exists.1 h
  rw [State.lmNum_eq, State.get?_lmEngine, if_pos rfl, hx]
  exact Memory.num_setBytes x.lm a n v

theorem State.lmNum_writeCw {s : State} {f : Furrow} (h : (Tab.get? s.teams f.team).isSome = true) (v : Nat) :
    (s.writeCw f v).lmNum f.team (8 * f.cw) 8 = v % 2 ^ 64 := by
  rw [Nat.mul_comm, State.writeCw]
  exact State.lmNum_lmEngine_self h 1 _ 8 v

theorem State.isSome_seeCore (s : State) (t k : Nat) : (Tab.get? (s.seeCore t).teams k).isSome = (Tab.get? s.teams k).isSome := by
  simp only [State.seeCore, State.modTeam, Tab.get?_modify]
  split <;> simp

/-- An edge to the engines changes no byte. -/
theorem State.sameLocal_seeCore (s : State) (t : Nat) : SameLocal s (s.seeCore t) := by
  refine sameLocal_of_lm fun k => ?_
  simp only [State.seeCore, State.modTeam, Tab.get?_modify]
  split
  · cases Tab.get? s.teams k <;> rfl
  · rfl

theorem State.sameLocal_seeEngine (s : State) (t : Nat) (p : Nat → Bool) : SameLocal s (s.seeEngine t p) := by
  refine sameLocal_of_lm fun k => ?_
  simp only [State.seeEngine, State.modTeam, Tab.get?_modify]
  split
  · cases Tab.get? s.teams k <;> rfl
  · rfl

/-! ### Instructions that leave registers as they were -/

/-- What of a lane neither an issue nor a completion touches. -/
def Lane.kept (x : Lane) := (x.p, x.meet, x.stat, x.park, x.exitMark)

/-- What neither a pop nor the blocking of a lane touches is in the group of the environment as before the issue. -/
theorem Begins.issue_keeps {β : Type} {f : Group → β} (hpop : ∀ g q, f (Group.pop g q) = f g)
    (hblock : ∀ g l b c, f (Group.modLane g l fun x => { x with block := b, since := c }) = f g) {i : Instr} {s : State} {e : Env}
    (h : Begins i s e) {g : Group} (hg : s.group? e.u.gid = some g) : f e.g = f g := by
  obtain ⟨-, g₀, hg₀, -, he, -⟩ := h
  obtain rfl : g₀ = g := Option.some.inj (hg₀.symm.trans hg)
  rw [he]
  exact (foldl_keeps f Group.pop hpop _ _).trans (foldl_keeps f _ (fun g (b : Nat × Block) => hblock g b.1 (some b.2) s.cycle) _ _)

theorem Env.goneOn_kept (e : Env) (s : State) (g : Group) (dest : Nat → W64) (h : e.lanes.Nodup) (k : Nat) :
    ((e.goneOn s g dest).lane k).kept = (g.lane k).kept := by
  rw [e.goneOn_lane s g dest h k]
  dsimp only
  split <;> (try split) <;> (try split) <;> rfl

theorem Group.kept_block (g : Group) (l : Nat) (b : Option Block) (c k : Nat) :
    ((g.modLane l fun x => { x with block := b, since := c }).lane k).kept = (g.lane k).kept := by
  rw [Group.lane_modLane]
  split <;> rfl

/-- An instruction that completes with the group as it issued, and with memory as it was, keeps registers, flags of registers and
predicates, and the other groups. -/
theorem Begins.keeps_of_finish {i : Instr} {s u : State} {e : Env} (h : Begins i s e) (hgroups : u.groups = s.groups)
    (hmem : u.mem = s.mem) :
    Keeps s (e.after u e.g fun _ => e.next) e (fun _ _ => False) (fun _ => False) (fun _ _ => False) (fun _ => False) := by
  obtain ⟨-, g, hg⟩ := h.group
  have hkept : ∀ l, ((e.goneOn u e.g fun _ => e.next).lane l).kept = (g.lane l).kept := fun l =>
    (e.goneOn_kept _ _ _ h.lanes_nodup l).trans
      (h.issue_keeps (f := fun g => (g.lane l).kept) (fun _ _ => rfl) (fun g m b c => g.kept_block m b c l) hg)
  have hfix : ∀ {β : Type} (f : Group → β), (∀ g q, f (Group.pop g q) = f g) →
      (∀ g l b c, f (Group.modLane g l fun x => { x with block := b, since := c }) = f g) → f e.g = f g :=
    fun f hp hb => h.issue_keeps hp hb hg
  refine ⟨⟨g, _, hg, e.after_group _ _ _, ⟨fun r l _ => ?_, fun r _ => ?_, fun l k _ => ?_⟩, ⟨?_, ?_, ?_, ?_, ?_, fun l => ?_⟩,
    fun x _ => ?_⟩, fun k hk => ?_, fun a => ?_⟩
  · rw [Group.vr, Group.vr, Env.goneOn_v, hfix (fun g => g.v) (fun _ _ => rfl) fun _ _ _ _ => rfl]
  · rw [Group.sr, Group.sr, Env.goneOn_sreg, hfix (fun g => g.sreg) (fun _ _ => rfl) fun _ _ _ _ => rfl]
  · have hp : ((e.goneOn u e.g fun _ => e.next).lane l).p = (g.lane l).p := congrArg Prod.fst (hkept l)
    rw [Lane.pred, Lane.pred, hp]
  · rw [Env.goneOn_seed]; exact hfix (fun g => g.seed) (fun _ _ => rfl) fun _ _ _ _ => rfl
  · rw [Env.goneOn_gang]; exact hfix (fun g => g.gang) (fun _ _ => rfl) fun _ _ _ _ => rfl
  · rw [Env.goneOn_hvec]; exact hfix (fun g => g.hvec) (fun _ _ => rfl) fun _ _ _ _ => rfl
  · rw [Env.goneOn_trap]; exact hfix (fun g => g.trap) (fun _ _ => rfl) fun _ _ _ _ => rfl
  · rw [Env.goneOn_inh]; exact hfix (fun g => g.inh) (fun _ _ => rfl) fun _ _ _ _ => rfl
  · have hl := hkept l
    simp only [Lane.kept, Prod.mk.injEq] at hl
    exact hl.2
  · rw [Env.goneOn_isEmpty]; exact hfix (fun g => g.isEmpty x) (fun g q => by cases x <;> rfl) fun g _ _ _ => by cases x <;> rfl
  · rw [Env.after_other _ _ _ _ _ hk, State.group?, State.group?, hgroups]
  · rw [Env.after_mem, hmem]

/-! ### The instructions -/

section
variable {o : Ops} {m : BitVec 20} {s : State} {e : Env}

/-- The instruction completes with a value in its scalar destination; memory and vector registers are as before. -/
def SetsReg (i : Instr) (o : Ops) (s : State) (e : Env) (v : W64) (t : State) : Prop :=
  exec i s = .next t ∧ t.mem = s.mem ∧ ∃ g', t.group? e.u.gid = some g' ∧ g'.sr o.dst.toNat = v ∧ g'.v = e.g.v

theorem setsReg_of_exec {i : Instr} {v : W64} {t : State} (h : exec i s = e.setScalar t o.dst.toNat v) (hm : t.mem = s.mem) :
    ∃ u, SetsReg i o s e v u ∧ u.furrows = t.furrows ∧ u.teams = t.teams := by
  refine ⟨_, ⟨h, by rw [Env.after_mem, hm], _, e.after_group _ _ _, ?_, Env.goneOn_v _ _ _ _⟩, Env.after_furrows _ _ _ _,
    Env.after_teams _ _ _ _⟩
  unfold Group.sr
  rw [Env.goneOn_sreg]
  exact Group.sr_setSr_self _ _ _

/-- Slot `i` of a core. -/
def State.slot (s : State) (core i : Nat) : Furrow := (Tab.get? s.furrows (16 * core + i)).getD Furrow.init

/-- The slot that FRGO opens. -/
def Env.opens (e : Env) (gen : Nat) : Furrow := Furrow.open_ gen e.g.team e.u.gid (e.a e.first % 2 ^ 64) (e.b e.first % 2 ^ 32)

/-- FRGO by what it finds (R243). -/
theorem exec_frgo (hb : BeginsActive (.frgo o m) s e) : exec (.frgo o m) s =
    match (List.range 16).find? fun i => !(s.slot e.g.core i).opened with
    | none => e.setScalar s o.dst.toNat (BitVec.ofNat 64 (2 ^ 63 + 1))
    | some i =>
      if frgoBad (e.a e.first % 2 ^ 64) (e.b e.first % 2 ^ 32) (s.lmSize e.g.team) then
        e.setScalar s o.dst.toNat (BitVec.ofNat 64 (2 ^ 63 + 2))
      else
        e.setScalar (((s.setFurrow (16 * e.g.core + i) (e.opens (s.slot e.g.core i).gen)).seeCore e.g.team).writeCw
          (e.opens (s.slot e.g.core i).gen) 0) o.dst.toNat (BitVec.ofNat 64 (16 * (s.slot e.g.core i).gen + i)) := by
  have hexec := exec_of_once (show exec (.frgo o m) s = execFrgo o m s from rfl) rfl rfl rfl hb
  rw [hb.1.env_s] at hexec
  exact hexec

theorem frgo_noSlot (hb : BeginsActive (.frgo o m) s e) (h : ∀ i < 16, (s.slot e.g.core i).opened = true) :
    ∃ t, SetsReg (.frgo o m) o s e 0x8000000000000001 t ∧ t.furrows = s.furrows := by
  have hexec := exec_frgo hb
  rw [List.find?_eq_none.2 fun i hi => by simp [h i (List.mem_range.1 hi)]] at hexec
  obtain ⟨t, ht, hf, -⟩ := setsReg_of_exec hexec rfl
  exact ⟨t, ht, hf⟩

section
variable {i : Nat} (hi : i < 16) (hfree : (s.slot e.g.core i).opened = false)
  (hlow : ∀ j < i, (s.slot e.g.core j).opened = true)
include hi hfree hlow

theorem find?_freeSlot : ((List.range 16).find? fun i => !(s.slot e.g.core i).opened) = some i :=
  find?_lowest List.pairwise_lt_range (List.mem_range.2 hi) (by simp [hfree]) fun j _ hj => by simp [hlow j hj]

variable (hb : BeginsActive (.frgo o m) s e)
include hb

theorem frgo_bad (hbad : frgoBad (e.a e.first % 2 ^ 64) (e.b e.first % 2 ^ 32) (s.lmSize e.g.team) = true) :
    ∃ t, SetsReg (.frgo o m) o s e 0x8000000000000002 t ∧ t.furrows = s.furrows := by
  have hexec := exec_frgo hb
  rw [find?_freeSlot hi hfree hlow] at hexec
  obtain ⟨t, ht, hf, -⟩ := setsReg_of_exec (hexec.trans (if_pos hbad)) rfl
  exact ⟨t, ht, hf⟩

theorem frgo_opens (hbad : frgoBad (e.a e.first % 2 ^ 64) (e.b e.first % 2 ^ 32) (s.lmSize e.g.team) = false)
    (hteam : (Tab.get? s.teams e.g.team).isSome = true) :
    ∃ t, SetsReg (.frgo o m) o s e (BitVec.ofNat 64 (16 * (s.slot e.g.core i).gen + i)) t ∧
      Tab.get? t.furrows (16 * e.g.core + i) = some (e.opens (s.slot e.g.core i).gen) ∧
      t.lmNum e.g.team (8 * bitsOf (e.a e.first % 2 ^ 64) 35 19) 8 = 0 := by
  have hexec := exec_frgo hb
  rw [find?_freeSlot hi hfree hlow] at hexec
  obtain ⟨t, ht, hf, hteams⟩ := setsReg_of_exec (hexec.trans (if_neg (by rw [hbad]; decide))) rfl
  refine ⟨t, ht, ?_, ?_⟩
  · rw [hf]
    exact State.get?_setFurrow_self _ _ _
  · rw [State.lmNum_congr hteams]
    exact State.lmNum_writeCw (f := e.opens (s.slot e.g.core i).gen) ((State.isSome_seeCore _ _ _).trans hteam) 0

end

/-! ### FRADV (R244) -/

/-- The slot with its TAIL moved on, and closed at it or not. -/
def Env.advanced (e : Env) (f : Furrow) (limit : Option Nat) : Furrow := { f with tail := f.tail + e.b e.first % 2 ^ 32, limit := limit }

/-- What FRADV leaves of a state before the slot settles. -/
def Env.advances (e : Env) (k : Nat) (f : Furrow) : State := (e.s.setFurrow k f).seeCore e.g.team

theorem Env.get?_advances (e : Env) (k : Nat) (f : Furrow) : Tab.get? (e.advances k f).furrows k = some f := Tab.get?_set_self _ _ _

theorem exec_fradv (hb : BeginsActive (.fradv o m) s e) : exec (.fradv o m) s = e.fradv false :=
  exec_of_issue1 (show exec (.fradv o m) s = execFradv o m s from rfl) rfl rfl rfl hb.1
theorem exec_fradvClose (hb : BeginsActive (.fradvClose o m) s e) : exec (.fradvClose o m) s = e.fradv true :=
  exec_of_issue1 (show exec (.fradvClose o m) s = execFradvClose o m s from rfl) rfl rfl rfl hb.1

/-- The lowest active lane takes a trap at the instruction, with no more than its cause. -/
def Traps (i : Instr) (s : State) (e : Env) (c n : Nat) (w : W64) : Prop :=
  exec i s = .next (s.raise e.u.gid ⟨c, n, e.first, e.u.pc, 0, w, e.bundle⟩)

section
variable {close : Bool} (ha : e.act ≠ []) (hs : e.s = s)
include ha hs

theorem Env.fradv_of_stale (h : s.furrowOf e.g.core e.g.team (e.a e.first % 2 ^ 64) = none) :
    e.fradv close = .next (s.raise e.u.gid ⟨0x1C, 1, e.first, e.u.pc, 0, 0, e.bundle⟩) := by
  rw [Env.fradv, Env.once, if_neg (by simpa using ha), hs, h, Env.trap, Env.trapAux, hs]

variable {k : Nat} {f : Furrow} (h : s.furrowOf e.g.core e.g.team (e.a e.first % 2 ^ 64) = some (k, f))
include h

theorem Env.fradv_of_beyond (hlen : f.len < f.tail + e.b e.first % 2 ^ 32 - f.head) :
    e.fradv close = .next (s.raise e.u.gid ⟨0x1C, 2, e.first, e.u.pc, 0, 0, e.bundle⟩) := by
  rw [Env.fradv, Env.once, if_neg (by simpa using ha), hs, h]
  simp only [if_pos hlen]
  rw [Env.trap, Env.trapAux, hs]

theorem Env.fradv_of_within (hlen : f.tail + e.b e.first % 2 ^ 32 - f.head ≤ f.len) (hlim : f.limit = none) :
    e.fradv close = e.finish ((e.advances k (e.advanced f (if close then some (f.tail + e.b e.first % 2 ^ 32) else none))).settleFurrow k)
      e.g := by
  rw [Env.fradv, Env.once, if_neg (by simpa using ha), hs, h]
  simp only [if_neg (Nat.not_lt.2 hlen), hlim]
  rw [Env.advances, hs]
  rfl

end

/-- A slot that a handle names is open. -/
theorem State.furrowOf_opened {core team h k : Nat} {f : Furrow} (hf : s.furrowOf core team h = some (k, f)) : f.opened = true := by
  rw [State.furrowOf] at hf
  split at hf
  · split at hf
    · rename_i hc
      cases hf
      simp only [Bool.and_eq_true] at hc
      exact hc.1.1
    · cases hf
  · cases hf

section
variable {k : Nat} {f : Furrow} (h : s.furrowOf e.g.core e.g.team (e.a e.first % 2 ^ 64) = some (k, f))
  (hlen : f.tail + e.b e.first % 2 ^ 32 - f.head ≤ f.len) (hend : f.ending = false) (hlim : f.limit = none)
include h hlen hend hlim

theorem fradv_advances (hb : BeginsActive (.fradv o m) s e) : ∃ t f', exec (.fradv o m) s = .next t ∧ Tab.get? t.furrows k = some f' ∧
    f'.tail = f.tail + e.b e.first % 2 ^ 32 ∧ f'.limit = none ∧ f'.seq = f.seq ∧ f'.nodes = f.nodes ∧ t.mem = s.mem ∧ SameLocal s t := by
  have hs := hb.1.env_s
  have hexec := (exec_fradv hb).trans (Env.fradv_of_within hb.2 hs h hlen hlim)
  rw [if_neg Bool.false_ne_true, State.settleFurrow_of_noLimit (e.get?_advances k (e.advanced f none)) hend rfl] at hexec
  refine ⟨_, (e.advanced f none).settled, hexec, ?_, ?_, ?_, ?_, ?_, ?_, ?_⟩
  · rw [Env.after_furrows, State.get?_setFurrow_self]
  · rw [Furrow.settled_tail]; rfl
  · rw [Furrow.settled_limit]; rfl
  · rw [Furrow.settled_seq]; rfl
  · rw [Furrow.settled_nodes]; rfl
  · rw [Env.after_mem, ← hs]; rfl
  · intro j a n
    rw [State.lmNum_congr (Env.after_teams _ _ _ _), ← hs]
    exact State.sameLocal_seeCore _ _ j a n

omit hlen hend hlim in
theorem Env.advanced_opened (limit : Option Nat) : (e.advanced f limit).opened = true :=
  (State.furrowOf_opened h : f.opened = true)

variable (hb : BeginsActive (.fradvClose o m) s e) (hst : f.state = 0)
include hb hst

theorem fradvClose_goesOn (hcur : f.cur < f.tail + e.b e.first % 2 ^ 32)
    (hstalls : (e.advanced f (some (f.tail + e.b e.first % 2 ^ 32))).stalls = false) :
    ∃ t f', exec (.fradvClose o m) s = .next t ∧ Tab.get? t.furrows k = some f' ∧ f'.tail = f.tail + e.b e.first % 2 ^ 32 ∧
      f'.limit = some (f.tail + e.b e.first % 2 ^ 32) ∧ f'.opened = true := by
  have hexec := (exec_fradvClose hb).trans (Env.fradv_of_within hb.2 hb.1.env_s h hlen hlim)
  rw [if_pos rfl, State.settleFurrow_of_ahead (e.get?_advances k (e.advanced f (some _))) hend rfl hst hstalls hcur] at hexec
  refine ⟨_, e.advanced f _, hexec, ?_, rfl, rfl, Env.advanced_opened h _⟩
  rw [Env.after_furrows, State.get?_setFurrow_self]

theorem fradvClose_frees (hn : f.nodes = []) (hcur : f.cur = f.tail + e.b e.first % 2 ^ 32)
    (hteam : (Tab.get? s.teams f.team).isSome = true) :
    ∃ t f', exec (.fradvClose o m) s = .next t ∧ Tab.get? t.furrows k = some f' ∧ f'.opened = false ∧
      t.lmNum f.team (8 * f.cw) 8 = f.seq % 2 ^ 63 + 2 ^ 63 := by
  have hs := hb.1.env_s
  have hexec := (exec_fradvClose hb).trans (Env.fradv_of_within hb.2 hs h hlen hlim)
  rw [if_pos rfl, State.settleFurrow_of_done (e.get?_advances k (e.advanced f (some _))) (Env.advanced_opened h _) hend rfl hst hn
    (Nat.le_of_eq hcur.symm)] at hexec
  refine ⟨_, (e.advanced f (some (f.tail + e.b e.first % 2 ^ 32))).free, hexec, ?_, rfl, ?_⟩
  · rw [Env.after_furrows, State.get?_setFurrow_self]
  · rw [State.lmNum_congr (Env.after_teams _ _ _ _)]
    refine (State.lmNum_writeCw (f := e.advanced f _) ?_ _).trans ?_
    · exact (State.isSome_seeCore _ _ _).trans (hs ▸ hteam)
    · show (f.seq % 2 ^ 63 + 2 ^ 63) % 2 ^ 64 = _
      omega

end

/-! ### FRWAIT and FRSTAT (R245, R246) -/

/-- What the bundle is held for, since when, and where it goes on. -/
def Env.holding (e : Env) (s : State) (k : HoldKind) : Hold :=
  ⟨k, if e.g.inh then s.cycle else e.g.retry.getD s.cycle, maskOf e.lanes, e.u.pc, e.next, e.winOver⟩

/-- The state in which the bundle's group is held. -/
def Env.held (e : Env) (s : State) (k : HoldKind) : State :=
  { s with cur := none }.modGroup e.u.gid fun g => { g with hold := some (e.holding s k), bundles := [] }

theorem Env.holdFor_eq (e : Env) (s : State) (k : HoldKind) : e.holdFor s k = .next (e.held s k) := rfl

theorem Env.holdFor_group {g : Group} (hg : s.group? e.u.gid = some g) (k : HoldKind) :
    ∃ g', (e.held s k).group? e.u.gid = some g' ∧ g'.hold = some (e.holding s k) := by
  refine ⟨{ g with hold := some (e.holding s k), bundles := [] }, ?_, rfl⟩
  rw [Env.held, State.group?_modGroup, if_pos rfl]
  exact congrArg (Option.map _) hg

section
variable (hb : BeginsActive (.frwait o m) s e)
include hb

/-- FRWAIT by what it finds. -/
theorem exec_frwait : exec (.frwait o m) s =
    match s.frwaits e.g.core e.g.team (e.a e.first % 2 ^ 64) (e.b e.first % 2 ^ 64) with
    | .go => e.finish (s.seeEngine e.g.team fun _ => true) e.g
    | .wait => e.holdFor s (.frwait (BitVec.ofNat 64 (e.a e.first % 2 ^ 64)) (BitVec.ofNat 64 (e.b e.first % 2 ^ 64)))
    | .trap st w => e.trapAux 0x1D st e.first 0 w := by
  have hexec := exec_of_once (show exec (.frwait o m) s = execFrwait o m s from rfl) rfl rfl rfl hb
  rw [hb.1.env_s] at hexec
  exact hexec

theorem frwait_traps {st : Nat} {w : W64}
    (h : s.frwaits e.g.core e.g.team (e.a e.first % 2 ^ 64) (e.b e.first % 2 ^ 64) = .trap st w) : Traps (.frwait o m) s e 0x1D st w := by
  have hexec := exec_frwait hb
  rw [h] at hexec
  simp only [Env.trapAux, hb.1.env_s] at hexec
  exact hexec

theorem frwait_goes (h : s.frwaits e.g.core e.g.team (e.a e.first % 2 ^ 64) (e.b e.first % 2 ^ 64) = .go) :
    ∃ t, exec (.frwait o m) s = .next t ∧ SameLocal s t ∧ t.furrows = s.furrows ∧ t.results = s.results ∧
      (∀ x, Tab.get? t.teams e.g.team = some x → x.engineLate = []) ∧
      Keeps s t e (fun _ _ => False) (fun _ => False) (fun _ _ => False) (fun _ => False) := by
  have hexec := exec_frwait hb
  rw [h] at hexec
  refine ⟨_, hexec, fun k a n => ?_, Env.after_furrows _ _ _ _, Env.after_results _ _ _ _, fun x hx => ?_,
    hb.1.keeps_of_finish rfl rfl⟩
  · rw [State.lmNum_congr (Env.after_teams _ _ _ _)]
    exact State.sameLocal_seeEngine _ _ _ k a n
  · rw [Env.after_teams, State.seeEngine, State.modTeam, Tab.get?_modify, if_pos rfl] at hx
    obtain ⟨y, -, rfl⟩ := Option.map_eq_some_iff.1 hx
    cases y.engineLate <;> rfl

theorem frwait_holds (h : s.frwaits e.g.core e.g.team (e.a e.first % 2 ^ 64) (e.b e.first % 2 ^ 64) = .wait) :
    ∃ t g' x, exec (.frwait o m) s = .next t ∧ t.group? e.u.gid = some g' ∧ g'.hold = some x ∧
      x.kind = .frwait (BitVec.ofNat 64 (e.a e.first % 2 ^ 64)) (BitVec.ofNat 64 (e.b e.first % 2 ^ 64)) ∧ t.furrows = s.furrows := by
  have hexec := exec_frwait hb
  rw [h] at hexec
  obtain ⟨-, g, hg⟩ := hb.1.group
  obtain ⟨g', hg', hhold⟩ := Env.holdFor_group hg (.frwait (BitVec.ofNat 64 (e.a e.first % 2 ^ 64)) (BitVec.ofNat 64 (e.b e.first % 2 ^ 64)))
  exact ⟨_, g', _, hexec, hg', hhold, rfl, rfl⟩

end

theorem frstat_gives (hb : BeginsActive (.frstat o m) s e) {v : W64}
    (hv : (match s.furrowOf e.g.core e.g.team (e.a e.first % 2 ^ 64) with | some (_, f) => s.frstat f | none => 0xFF) = v) :
    ∃ t, exec (.frstat o m) s = .next t ∧ t.furrows = s.furrows ∧
      t.results = s.results ++ [⟨e.u.gid, [(.scal o.dst.toNat, v)], false⟩] := by
  have hexec := exec_of_once (show exec (.frstat o m) s = execFrstat o m s from rfl) rfl rfl rfl hb
  rw [hb.1.env_s] at hexec
  obtain ⟨t, ⟨ht, hres, -, -⟩, -, hf⟩ := getsScalar_of_result (hexec.trans (congrArg (fun v => e.result s e.g [(.scal o.dst.toNat, v)]) hv))
  exact ⟨t, ht, hf, hres⟩

end

/-- Settles O43: each instruction by what it finds of its slot. -/
theorem furrowInstructionsComplete : Obligations.FurrowInstructionsComplete := by
  refine fun o m s e => ⟨fun hb h => frgo_noSlot hb h, fun i hi hb hfree hlow => ⟨frgo_bad hi hfree hlow hb, fun hbad hteam => ?_⟩,
    fun i hi hb => ?_, fun k f h hlen hend hlim => ⟨fun hb => fradv_advances h hlen hend hlim hb,
      fun hb hcur hst hs => fradvClose_goesOn h hlen hend hlim hb hst hcur hs,
      fun hb hn hst hcur hteam => fradvClose_frees h hlen hend hlim hb hst hn hcur hteam⟩,
    fun hb => ⟨fun h => ?_, fun k f h => ⟨fun hv => ?_, fun hv hst => ?_, fun hv h2 h4 => ?_⟩⟩, fun hb => frstat_gives hb rfl⟩
  · obtain ⟨t, ht, hf, hcw⟩ := frgo_opens hi hfree hlow hb hbad hteam
    exact ⟨t, _, ht, hf, rfl, rfl, rfl, rfl, rfl, rfl, rfl, rfl, rfl, rfl, hcw⟩
  · have hx : ∃ close, exec i s = e.fradv close := by
      simp only [List.mem_cons, List.not_mem_nil, or_false] at hi
      obtain rfl | rfl := hi
      · exact ⟨false, exec_fradv hb⟩
      · exact ⟨true, exec_fradvClose hb⟩
    obtain ⟨close, hx⟩ := hx
    exact ⟨fun h => hx.trans (Env.fradv_of_stale hb.2 hb.1.env_s h), fun k f h hlen => hx.trans (Env.fradv_of_beyond hb.2 hb.1.env_s h hlen)⟩
  · exact frwait_traps hb (by rw [State.frwaits, h])
  · exact frwait_goes hb (by rw [State.frwaits, h]; exact if_pos hv)
  · exact frwait_traps hb (by rw [State.frwaits, h]; exact (if_neg (Nat.not_le.2 hv)).trans (if_pos hst))
  · exact frwait_holds hb (by rw [State.frwaits, h]; exact (if_neg (Nat.not_le.2 hv)).trans (if_neg (not_or.2 ⟨h2, h4⟩)))

end Sys2Proof.Machine
end

section
/-! The drill admits entries, nodes finish, and sends that wait too long are dropped (obligation O44). -/

namespace Sys2Proof.Machine

section
variable (s : State) (k : Nat) (f : Furrow)
@[simp] theorem State.setFurrow_mem : (s.setFurrow k f).mem = s.mem := rfl
@[simp] theorem State.setFurrow_teams : (s.setFurrow k f).teams = s.teams := rfl
@[simp] theorem State.writeCw_mem (v : Nat) : (s.writeCw f v).mem = s.mem := rfl
@[simp] theorem State.lmNum_setFurrow (t a n : Nat) : (s.setFurrow k f).lmNum t a n = s.lmNum t a n := rfl
end

/-- A team that is changed is the changed one. -/
theorem State.get?_modTeam_self {s : State} {t : Nat} {x : Team} (h : Tab.get? s.teams t = some x) (g : Team → Team) :
    Tab.get? (s.modTeam t g).teams t = some (g x) := by
  rw [State.modTeam, Tab.get?_modify, if_pos rfl, h]
  rfl

/-! ### What is read after an engine's write -/

/-- The first of the bytes that are written. -/
theorem Memory.num_setBytes_head (m : Memory) (a : Nat) (b : Byte) (bs : List Byte) :
    Memory.num (Memory.setBytes m a (b :: bs)) a 1 = b.toNat := by
  have h : Memory.byte (Memory.setBytes m a (b :: bs)) a = b := Memory.byte_setBytes_in m a (b :: bs) 0 (by simp)
  simp [Memory.num, Memory.bytes, leNat, h]

/-- The STATUS byte of an entry's header is the one that is set there (08 R248). -/
theorem State.lmNum_setStatus {s : State} {f : Furrow} {x : Team} (h : Tab.get? s.teams f.team = some x) (ix status cause detail : Nat) :
    (s.modTeam f.team fun t => t.setStatus f ix status cause detail).lmNum f.team (f.base + ix % f.len * 32 + 4) 1 = status % 256 := by
  rw [State.lmNum_eq, State.modTeam, Tab.get?_modify, if_pos rfl, h]
  exact (Memory.num_setBytes_head _ _ _ _).trans (by simp)

/-- A look changes no byte of local memory. -/
theorem State.sameLocal_lmLook (s : State) (t : Nat) : SameLocal s (s.lmLook false t).1 := sameLocal_of_lm (s.lmLook_lm t)

/-! ### Admission (08 R250, R251) -/

/-- A team with its local memory as its engines see it at one look. -/
def Team.seenIn (x : Team) (s : State) (t : Nat) : Team := { x with lm := (s.lmLook false t).2 }

/-- The node that an entry becomes. -/
def Furrow.admittedNode (f : Furrow) (en : Words4) : Node :=
  { ix := f.cur, num := f.admitted, live := bitsOf en.w0.toNat 8 8 - Tab.read 0 f.heldDec f.cur, phase := .waiting,
    kind := Words4.kind en, ent := en, sent := false, res := 0, buf := [], fin := ⟨0, none, true⟩ }

/-- The slot once the entry at CUR has become a node. -/
def Furrow.admitting (f : Furrow) (en : Words4) : Furrow :=
  { f.tell f.cur (some f.admitted) with
    cur := f.cur + 1
    admitted := f.admitted + 1
    nodes := (f.tell f.cur (some f.admitted)).nodes ++ [f.admittedNode en]
    heldDec := Tab.erase f.heldDec f.cur }

theorem State.admitEntry_of_ok {f : Furrow} {y : Team} (h : y.entryOk f (y.entry f f.cur) f.cur = true) (s : State) (k : Nat) :
    s.admitEntry k f y = s.setFurrow k (f.admitting (y.entry f f.cur)) := if_pos h

theorem State.admitEntry_of_illegal {f : Furrow} {y : Team} (h : y.entryOk f (y.entry f f.cur) f.cur = false) (s : State) (k : Nat) :
    s.admitEntry k f y =
      (s.modTeam f.team fun t => t.setStatus f f.cur 1 0 0).setFurrow k { f with state := 2, hidx := f.cur % f.len } :=
  if_neg (by rw [h]; decide)

/-- A node hears once what became of a successor of it. -/
theorem Furrow.mem_tell {f : Furrow} {m : Node} (hm : m ∈ f.nodes) {p : Nat} (heard : Option Nat) (hlt : m.ix < p)
    (hsucc : p - m.ix = Words4.succ0 m.ent ∨ p - m.ix = Words4.succ1 m.ent) (hnew : ∀ q ∈ m.succAt, q.1 ≠ p - m.ix) :
    { m with succAt := (p - m.ix, heard) :: m.succAt } ∈ (f.tell p heard).nodes := by
  refine List.mem_map.2 ⟨m, hm, if_pos ⟨hlt, hsucc, ?_⟩⟩
  simpa using hnew

/-- A slot that is put in place and not closed settles to itself, or stalls. -/
theorem State.settleFurrow_setFurrow (s : State) (k : Nat) (f : Furrow) (hend : f.ending = false) (hlim : f.limit = none) :
    (s.setFurrow k f).settleFurrow k = (s.setFurrow k f).setFurrow k f.settled :=
  State.settleFurrow_of_noLimit (State.get?_setFurrow_self _ _ _) hend hlim

theorem Furrow.ending_of_admits {f : Furrow} (h : f.admits = true) : f.ending = false := by
  simp only [Furrow.admits, Bool.and_eq_true, Bool.not_eq_true'] at h
  tauto

section
variable {s : State} {core i : Nat} {f : Furrow} {x : Team} (hf : Tab.get? s.furrows (16 * core + i) = some f)
  (hx : Tab.get? s.teams f.team = some x) (hadm : f.admits = true) (hfr : s.frozen x.ctx = false)
include hf hx hadm hfr

theorem exec_drillAdmit : exec (.drillAdmit core i) s =
    .next (((s.lmLook false f.team).1.admitEntry (16 * core + i) f (x.seenIn s f.team)).settleFurrow
      (16 * core + i)) := by
  show execDrillAdmit core i s = _
  simp only [execDrillAdmit, hf, hx, hadm, hfr, Bool.not_false, Bool.and_self, if_true]
  rfl

variable (hlim : f.limit = none)
include hlim

theorem drillAdmit_admits (hok : (x.seenIn s f.team).entryOk f ((x.seenIn s f.team).entry f f.cur) f.cur = true) :
    ∃ t f', exec (.drillAdmit core i) s = .next t ∧ Tab.get? t.furrows (16 * core + i) = some f' ∧ t.mem = s.mem ∧ SameLocal s t ∧
      f'.cur = f.cur + 1 ∧ f'.nodes = (f.tell f.cur (some f.admitted)).nodes ++ [f.admittedNode ((x.seenIn s f.team).entry f f.cur)] := by
  have hend := Furrow.ending_of_admits hadm
  have hexec := exec_drillAdmit hf hx hadm hfr
  rw [State.admitEntry_of_ok hok, State.settleFurrow_setFurrow _ _ (f.admitting _) hend hlim] at hexec
  exact ⟨_, _, hexec, State.get?_setFurrow_self _ _ _, s.lmLook_mem f.team, s.sameLocal_lmLook f.team, Furrow.settled_cur _,
    Furrow.settled_nodes _⟩

theorem drillAdmit_halts (hno : (x.seenIn s f.team).entryOk f ((x.seenIn s f.team).entry f f.cur) f.cur = false) :
    ∃ t f', exec (.drillAdmit core i) s = .next t ∧ Tab.get? t.furrows (16 * core + i) = some f' ∧ t.mem = s.mem ∧
      f'.state = 2 ∧ f'.hidx = f.cur % f.len ∧ f'.cur = f.cur ∧ f'.nodes = f.nodes ∧
      t.lmNum f.team (f.base + f.cur % f.len * 32 + 4) 1 = 1 := by
  obtain ⟨y, hy⟩ := State.team_lmLook (t := f.team) hx
  have hs : ({ f with state := 2, hidx := f.cur % f.len } : Furrow).stalls = false := by simp [Furrow.stalls]
  have hend := Furrow.ending_of_admits hadm
  have hexec := exec_drillAdmit hf hx hadm hfr
  rw [State.admitEntry_of_illegal hno, State.settleFurrow_setFurrow _ _ { f with state := 2, hidx := _ } hend hlim,
    Furrow.settled_of_not_stalls hs] at hexec
  refine ⟨_, _, hexec, State.get?_setFurrow_self _ _ _, ?_, rfl, rfl, rfl, rfl, ?_⟩
  · rw [State.setFurrow_mem, State.setFurrow_mem, State.modTeam_mem, State.lmLook_mem]
  · rw [State.lmNum_setFurrow, State.lmNum_setFurrow, State.lmNum_setStatus hy]

end

/-! ### Finishing (08 R251, R255) -/

/-- A decrement changes live counts and what is held. -/
theorem Furrow.decrement_eq (f : Furrow) (n : Node) (off : Nat) :
    f.decrement n off = { f with nodes := (f.decrement n off).nodes, heldDec := (f.decrement n off).heldDec } := by
  rw [Furrow.decrement]
  split
  · rfl
  · split <;> rfl

@[simp] theorem Furrow.decrement_zero (f : Furrow) (n : Node) : f.decrement n 0 = f := if_pos rfl

/-- No decrement puts a node at a place where none was. -/
theorem Furrow.ix_decrement {f : Furrow} {n m : Node} {off : Nat} (h : m ∈ (f.decrement n off).nodes) : ∃ p ∈ f.nodes, p.ix = m.ix := by
  rw [Furrow.decrement] at h
  split at h
  · exact ⟨m, h, rfl⟩
  · split at h
    · obtain ⟨p, hp, rfl⟩ := List.mem_map.1 h
      refine ⟨p, hp, ?_⟩
      split <;> rfl
    · exact ⟨m, h, rfl⟩
    · exact ⟨m, h, rfl⟩

/-- The successor that has been admitted loses one of its live count. -/
theorem Furrow.mem_decrement {f : Furrow} {n m : Node} {d j : Nat} (hd : d ≠ 0)
    (hfind : n.succAt.find? (fun q => q.1 == d) = some (d, some j)) (hm : m ∈ f.nodes) (hj : m.num = j) :
    { m with live := m.live - 1 } ∈ (f.decrement n d).nodes := by
  rw [Furrow.decrement, if_neg hd, hfind]
  exact List.mem_map.2 ⟨m, hm, if_pos hj⟩

/-- The decrement of a successor not admitted yet is held. -/
theorem Furrow.heldDec_decrement {f : Furrow} {n : Node} {d : Nat} (hd : d ≠ 0) (hfind : n.succAt.find? (fun q => q.1 == d) = none) :
    Tab.read 0 (f.decrement n d).heldDec (n.ix + d) = Tab.read 0 f.heldDec (n.ix + d) + 1 := by
  rw [Furrow.decrement, if_neg hd, hfind, Tab.read, Tab.get?_set_self]
  rfl

/-- The slot without the node, its SEQ one more. -/
def Furrow.without (f : Furrow) (n : Node) : Furrow :=
  { f with seq := (f.seq + 1) % 2 ^ 64, nodes := f.nodes.filter fun m => m.ix != n.ix }

/-- The slot once the node has finished. -/
def Furrow.finished (f : Furrow) (n : Node) : Furrow :=
  if n.fin.go then ((f.without n).decrement n (Words4.succ0 n.ent)).decrement n (Words4.succ1 n.ent) else f.without n

theorem Furrow.finished_eq (f : Furrow) (n : Node) :
    f.finished n = { f.without n with nodes := (f.finished n).nodes, heldDec := (f.finished n).heldDec } := by
  rw [Furrow.finished]
  split
  · rw [Furrow.decrement_eq, Furrow.decrement_eq]
  · rfl

theorem Furrow.finished_of_one {f : Furrow} {n : Node} (hgo : n.fin.go = true) (h1 : Words4.succ1 n.ent = 0) :
    f.finished n = (f.without n).decrement n (Words4.succ0 n.ent) := by
  rw [Furrow.finished, if_pos hgo, h1, Furrow.decrement_zero]

/-- The node itself is in the slot no more. -/
theorem Furrow.ix_finished {f : Furrow} {n m : Node} (h : m ∈ (f.finished n).nodes) : m.ix ≠ n.ix := by
  have hbase : ∀ p ∈ (f.without n).nodes, p.ix ≠ n.ix := fun p hp => by simpa using (List.mem_filter.1 hp).2
  rw [Furrow.finished] at h
  split at h
  · obtain ⟨p, hp, hpm⟩ := Furrow.ix_decrement h
    obtain ⟨q, hq, hqp⟩ := Furrow.ix_decrement hp
    exact hpm ▸ hqp ▸ hbase q hq
  · exact hbase m h

theorem Furrow.mem_without {f : Furrow} {n m : Node} (hm : m ∈ f.nodes) (hne : m.ix ≠ n.ix) : m ∈ (f.without n).nodes :=
  List.mem_filter.2 ⟨hm, by simpa using hne⟩

section
variable {s : State} {k : Nat} {f : Furrow} {n : Node}

/-- The entry of a finished node, as it is written back (08 R248). -/
def Team.writeBack (t : Team) (f : Furrow) (n : Node) : Team :=
  match n.fin.w3 with
  | some w => (t.setStatus f n.ix n.fin.status 0 0).enginePut 1 (f.at n.ix + 24) (leBytes (backBytes n.kind) w.toNat)
  | none => t.setStatus f n.ix n.fin.status 0 0

/-- Entry, slot and completion word of a node that finishes. -/
theorem State.finishNode_eq (hend : f.ending = false) (hlim : f.limit = none) :
    s.finishNode k f n = ((((s.modTeam f.team fun t => t.writeBack f n).setFurrow k (f.finished n)).writeCw f (f.finished n).seq).setFurrow k
      (f.finished n).settled) := by
  refine State.settleFurrow_of_noLimit (f := f.finished n) (Tab.get?_set_self _ _ _) ?_ ?_
  · rw [Furrow.finished_eq]; exact hend
  · rw [Furrow.finished_eq]; exact hlim

end

theorem nodeFinish_finishes {s : State} {core i ix : Nat} {f : Furrow} {x : Team} {n : Node}
    (hf : Tab.get? s.furrows (16 * core + i) = some f) (hx : Tab.get? s.teams f.team = some x)
    (hn : f.nodes.find? (fun m => m.ix == ix) = some n) (hph : n.phase = .running) (hbuf : n.buf = []) (hun : n.unread = 0)
    (hout : s.nodeOut (16 * core + i) ix = false) (hlim : f.limit = none) (hend : f.ending = false) :
    ∃ t, exec (.nodeFinish core i ix) s = .next t ∧ Tab.get? t.furrows (16 * core + i) = some (f.finished n).settled ∧
      t.lmNum f.team (8 * f.cw) 8 = (f.seq + 1) % 2 ^ 64 ∧ t.mem = s.mem := by
  have hexec : exec (.nodeFinish core i ix) s = .next (s.finishNode (16 * core + i) f n) := by
    show execNodeFinish core i ix s = _
    simp only [execNodeFinish, hf, hn, hx, hph, hun, hout, hbuf, bne_self_eq_false, Bool.or_self, Bool.false_eq_true, if_false,
      List.isEmpty_nil, if_true]
  rw [State.finishNode_eq hend hlim] at hexec
  generalize hu : (s.modTeam f.team fun t => t.writeBack f n).setFurrow (16 * core + i) (f.finished n) = u at hexec
  have hteam : (Tab.get? u.teams f.team).isSome = true := by
    rw [← hu, State.setFurrow_teams, State.get?_modTeam_self hx]
    rfl
  refine ⟨_, hexec, State.get?_setFurrow_self _ _ _, ?_, ?_⟩
  · rw [State.lmNum_setFurrow, State.lmNum_writeCw hteam, Furrow.finished_eq]
    exact Nat.mod_mod _ _
  · rw [State.setFurrow_mem, State.writeCw_mem, ← hu, State.setFurrow_mem, State.modTeam_mem]

/-- Settles O44: an entry by whether it is legal, a node by the slot that it leaves, a send by its sender. -/
theorem drillAdmitsAndNodesFinish : Obligations.DrillAdmitsAndNodesFinish := by
  refine ⟨fun s core i f x hf hx hadm hfr hlim => ?_, fun s core i ix f x n hf hx hn hph hbuf hun hout hopen hlim hend => ?_,
    fun s n y x d hy hnode hdel hbe hd hres hsince hx => ?_⟩
  · cases hok : (x.seenIn s f.team).entryOk f ((x.seenIn s f.team).entry f f.cur) f.cur with
    | true =>
      obtain ⟨t, f', ht, hf', hmem, hloc, hcur, hnodes⟩ := drillAdmit_admits hf hx hadm hfr hlim hok
      refine ⟨t, f', ht, hf', hmem, fun m hm _ hlt hsucc hnew => ?_, fun _ => ⟨hcur, hloc, _, hnodes, rfl, rfl, rfl, rfl, rfl, rfl⟩,
        fun hno => absurd (hok.symm.trans hno) (by decide)⟩
      rw [hnodes]
      exact List.mem_append_left _ (Furrow.mem_tell hm _ hlt hsucc hnew)
    | false =>
      obtain ⟨t, f', ht, hf', hmem, hst, hh, hcur, hnodes, hnum⟩ := drillAdmit_halts hf hx hadm hfr hlim hok
      exact ⟨t, f', ht, hf', hmem, fun m _ h => absurd (hok.symm.trans h) (by decide), fun h => absurd (hok.symm.trans h) (by decide),
        fun _ => ⟨hst, hh, hcur, hnodes, hnum⟩⟩
  · obtain ⟨t, ht, hf', hcw, hmem⟩ := nodeFinish_finishes hf hx hn hph hbuf hun hout hlim hend
    have hix : n.ix = ix := by simpa using List.find?_some hn
    have hseq : (f.finished n).settled.seq = (f.seq + 1) % 2 ^ 64 := by
      rw [Furrow.settled_seq, Furrow.finished_eq]; rfl
    refine ⟨t, _, ht, hf', hseq, fun m hm => hix ▸ Furrow.ix_finished (by rwa [Furrow.settled_nodes] at hm), hcw.trans hseq.symm, hmem,
      fun hgo h1 h0 => ⟨fun j hfind m hm hne hj => ?_, fun hfind => ?_⟩⟩
    · rw [Furrow.settled_nodes, Furrow.finished_of_one hgo h1]
      exact Furrow.mem_decrement h0 hfind (Furrow.mem_without hm (hix ▸ hne)) hj
    · rw [Furrow.settled_heldDec, Furrow.finished_of_one hgo h1]
      exact Furrow.heldDec_decrement h0 hfind
  · have hexec : exec (.messageDropTimeout n) s = .next
        ({ s with sends := s.sends.eraseIdx n }.modTeam y.src fun t => { t with msgLost := min 255 (t.msgLost + 1) }) := by
      show execMessageDropTimeout n s = _
      simp only [execMessageDropTimeout, hy, hdel, hd, hbe, hsince, hnode, Option.isNone_none, Option.any_some, hres, Bool.not_false,
        Bool.and_self, decide_true, if_true]
    refine ⟨_, { x with msgLost := min 255 (x.msgLost + 1) }, hexec, State.modTeam_sends _ _ _, ?_, rfl, rfl⟩
    exact State.get?_modTeam_self (s := { s with sends := _ }) hx _

end Sys2Proof.Machine
end

section
/-! What translating accesses leaves of furrows and teams, and how the drill starts a node (obligation O45). -/

namespace Sys2Proof.Machine

/-! ### Furrows and teams through the checks (13 R338 to R340) -/

/-- The furrow slots and the teams are the same. -/
structure SameSlots (s t : State) : Prop where
  furrows : t.furrows = s.furrows
  teams : t.teams = s.teams

theorem SameSlots.refl (s : State) : SameSlots s s := ⟨rfl, rfl⟩

theorem SameSlots.trans {s t u : State} (h : SameSlots s t) (k : SameSlots t u) : SameSlots s u :=
  ⟨k.furrows.trans h.furrows, k.teams.trans h.teams⟩

theorem SameSlots.ite {s t u : State} {p : Prop} [Decidable p] (h : SameSlots s t) (k : SameSlots s u) :
    SameSlots s (if p then t else u) := by
  split
  · exact h
  · exact k

theorem SameSlots.foldl {γ : Type} {f : State → γ → State} (h : ∀ s x, SameSlots s (f s x)) (l : List γ) (s : State) :
    SameSlots s (l.foldl f s) := by
  induction l generalizing s with
  | nil => exact .refl s
  | cons x l ih => exact (h s x).trans (ih _)

theorem OnlyBooks.sameSlots {s t : State} (h : OnlyBooks s t) : SameSlots s t := by
  obtain ⟨b, rfl⟩ := h
  exact ⟨rfl, rfl⟩

theorem sameSlots_learn (s : State) (d : Nat) (c : List Nat) : SameSlots s (s.learn d c) := by
  unfold State.learn
  exact ⟨rfl, rfl⟩
theorem sameSlots_cxlLines (s : State) (l : Tab HostSt) : SameSlots s { s with cxlLines := l } := ⟨rfl, rfl⟩
theorem sameSlots_mem (s : State) (m : Memory) : SameSlots s { s with mem := m } := ⟨rfl, rfl⟩
theorem sameSlots_aliasBits (s : State) (b : Tab (BitVec 3)) : SameSlots s { s with aliasBits := b } := ⟨rfl, rfl⟩

theorem sameSlots_readEntry (s : State) (sharer epa : Nat) : SameSlots s (s.readEntry sharer epa) := by
  have hreg : SameSlots s (s.register sharer epa) := .ite (.refl s) ⟨rfl, rfl⟩
  have hlearn := hreg.trans (sameSlots_learn (s.register sharer epa) (min sharer 8) ((s.register sharer epa).clockAt epa 8))
  exact .ite hlearn (hlearn.trans (sameSlots_cxlLines _ _))

theorem sameSlots_setEntry (s : State) (epa e : Nat) : SameSlots s (s.setEntry epa e) := by
  rw [State.setEntry, State.poke]
  exact ((SameSlots.ite (.refl s) (sameSlots_cxlLines s _)).trans (sameSlots_mem _ _)).trans (onlyBooks_markDirty _ epa).sameSlots

theorem sameSlots_alias1 (s : State) (c : Nat) (va : W64) (untrk : Bool) (f : Nat) : SameSlots s (s.alias1 c va untrk f) :=
  .ite (.refl s) (.ite ((sameSlots_aliasBits s _).trans (onlyBooks_postSys _ _).sameSlots) (sameSlots_aliasBits s _))

theorem sameSlots_addTlb (s : State) (t : Tlb) : SameSlots s (s.addTlb t) := by
  rw [State.addTlb]
  split
  · exact ⟨rfl, rfl⟩
  · split <;> exact ⟨rfl, rfl⟩

theorem sameSlots_cacheLeaf (s : State) (die c : Nat) (va : W64) (lvl e epa : Nat) (ents : List Nat) :
    SameSlots s (s.cacheLeaf die c va lvl e epa ents).1 :=
  ((SameSlots.ite (.refl s) (sameSlots_setEntry s _ _)).trans (.foldl (fun s f => sameSlots_alias1 s _ _ _ f) _ _)).trans
    (sameSlots_addTlb _ _)

/-- A translation that does not stop the context changes no slot and no team. -/
theorem sameSlots_translate (s : State) (q : Asker) (va : W64) (k : AccKind) (h : (s.translate q va k).2 ≠ .stop) :
    SameSlots s (s.translate q va k).1 := by
  rw [State.translate] at h ⊢
  split
  · exact .refl s
  split
  · split <;> exact .refl s
  split
  · exact .refl s
  rename_i hroot _ hmiss hbusy
  simp only [if_neg hroot, hmiss, if_neg hbusy] at h ⊢
  have hread : SameSlots s ((s.walk q.die q.ctx va true).reads.foldl (fun s r => s.readEntry q.die r.2.1) s) :=
    .foldl (fun s r => sameSlots_readEntry s _ _) _ _
  cases hfin : (s.walk q.die q.ctx va true).fin with
  | leaf lvl e epa =>
    simp only [hfin] at h ⊢
    split
    · rename_i f hf
      simp only [hf, ne_eq, not_true_eq_false] at h
    · split
      · exact hread.trans ⟨rfl, rfl⟩
      · exact hread.trans (sameSlots_cacheLeaf _ _ _ _ _ _ _ _)
  | miss lvl e epa => exact hread
  | prot d => exact hread
  | foreign epa => simp only [hfin, ne_eq, not_true_eq_false] at h
  | poison epa => simp only [hfin, ne_eq, not_true_eq_false] at h
  | held epa => exact hread.trans ⟨rfl, rfl⟩

theorem sameSlots_translateAll (s : State) (q : Asker) (accs : List Acc) (h : ∀ t ∈ (s.translateAll q accs).2, t.2 ≠ .stop) :
    SameSlots s (s.translateAll q accs).1 := by
  induction accs generalizing s with
  | nil => exact .refl s
  | cons a as ih =>
    exact (sameSlots_translate s q a.va a.kind (h _ List.mem_cons_self)).trans
      (ih _ fun t ht => h t (List.mem_cons_of_mem _ ht))

theorem sameSlots_setDirtyBit {s t : State} {q : Asker} {va : W64} (h : s.setDirtyBit q va = some t) : SameSlots s t := by
  rw [State.setDirtyBit] at h
  split at h
  · cases h
  split at h
  · cases h; exact .refl s
  simp only at h
  split at h
  · cases h
  split at h
  · cases h
    exact (sameSlots_setEntry s _ _).trans ⟨rfl, rfl⟩
  · cases h

theorem sameSlots_setDirtyBits {s t : State} {q : Asker} {accs : List Acc} (h : s.setDirtyBits q accs = some t) : SameSlots s t := by
  induction accs generalizing s with
  | nil => cases h; exact .refl t
  | cons a as ih =>
    rw [State.setDirtyBits] at h
    have step : ∀ u, s.setDirtyBit q a.va = some u → u.setDirtyBits q as = some t → SameSlots s t := fun u hu hut =>
      (sameSlots_setDirtyBit hu).trans (ih hut)
    split at h
    · split at h
      · rename_i u hu
        exact step u hu h
      · cases h
    · split at h
      · rename_i u hu
        exact step u hu h
      · cases h
    · exact ih h

/-- Checks that pass change no slot and no team. -/
theorem Translated.sameSlots {s s' : State} {q : Asker} {accs : List Acc} {ps : List Placed} (h : Translated s q accs s' ps) :
    SameSlots s s' := by
  refine (sameSlots_translateAll s q accs fun t ht => ?_).trans (sameSlots_setDirtyBits h.dirty)
  obtain ⟨pa, leaf, en, hok⟩ := h.ok t ht
  rw [hok]
  nofun

/-! ### What the drill finds, and one look at local memory (08 R242; 07 R172) -/

theorem State.lmLook_sameFurrows (s : State) (t : Nat) : (s.lmLook false t).1.furrows = s.furrows := by
  obtain ⟨n, ts, h⟩ := s.lmLook_eq t; rw [h]
theorem State.clusterTeams_lmLook (s : State) (t c : Nat) : (s.lmLook false t).1.clusterTeams c = s.clusterTeams c := by
  obtain ⟨n, ts, h⟩ := s.lmLook_eq t; rw [h]; rfl
theorem State.sendsOf_lmLook (s : State) (t k : Nat) : (s.lmLook false t).1.sendsOf k = s.sendsOf k := by
  rw [State.sendsOf, State.lmLook_sends]; rfl
theorem State.bufUsed_lmLook (s : State) (t c : Nat) : (s.lmLook false t).1.bufUsed c = s.bufUsed c := by
  rw [State.bufUsed, State.lmLook_sameFurrows]; rfl

theorem State.lmBad_eq (s : State) (t a n : Nat) : s.lmBad t a n =
    ((Tab.get? s.teams t).map fun x => x.bad.any fun w => decide (a < 4 * w + 4) && decide (4 * w < a + n)).getD false := by
  unfold State.lmBad
  cases Tab.get? s.teams t <;> rfl

/-- A look finds the poison that is there. -/
theorem State.lmBad_lmLook (s : State) (t k a n : Nat) : (s.lmLook false t).1.lmBad k a n = s.lmBad k a n := by
  cases h : Tab.get? s.teams t with
  | none => rw [State.lmLook_of_noTeam h]
  | some x =>
    by_cases hl : x.coreLate = []
    · rw [State.lmLook_of_seen h hl]
    · rw [State.lmLook_of_late h hl, State.lmBad_eq, State.lmBad_eq, State.modTeam, Tab.get?_modify]
      split
      · cases Tab.get? s.teams k <;> rfl
      · rfl

/-- What `State.nd?` finds: an unfinished node of an open slot, of a kind, and the slot's team. -/
structure Found (s : State) (core i ix kind : Nat) (x : Nd) : Prop where
  state : x.s = s
  key : x.k = 16 * core + i
  core : x.core = core
  slot : Tab.get? s.furrows x.k = some x.f
  node : x.n ∈ x.f.nodes
  ix : x.n.ix = ix
  kind : x.n.kind = kind
  team : Tab.get? s.teams x.f.team = some x.t

theorem State.found_of_nd? {s : State} {core i ix kind : Nat} {x : Nd} (h : s.nd? core i ix kind = some x) : Found s core i ix kind x := by
  rw [State.nd?] at h
  split at h
  · cases h
  rename_i f hf
  split at h
  · rename_i n t hn ht
    split at h
    · rename_i hc
      cases h
      simp only [Bool.and_eq_true, beq_iff_eq] at hc
      exact ⟨rfl, rfl, rfl, hf, List.mem_of_find?_eq_some hn, by simpa using List.find?_some hn, hc.2, ht⟩
    · cases h
  · cases h

/-- A node that may start does not run. -/
theorem Nd.phase_of_startable {x : Nd} (h : x.startable = true) : (x.n.phase == .running) = false := by
  simp only [Nd.startable, Bool.and_eq_true, Bool.or_eq_true] at h
  cases hp : x.n.phase with
  | running => simp [hp] at h
  | _ => rfl

section
variable {s : State} {core i ix kind : Nat} {x : Nd} (hx : s.nd? core i ix kind = some x) (hst : x.startable = true)
include hx hst

theorem State.startNode_of_startable (K : Nd → Out) : s.startNode core i ix kind K = K x.look := by
  rw [State.startNode, hx]
  exact if_pos hst

theorem State.stepNode_of_startable (K : Nd → Out) : s.stepNode core i ix kind K = K x.look := by
  rw [State.stepNode, hx]
  exact if_pos (by rw [hst]; rfl)

end

section
variable {s : State} {core i ix kind : Nat} {x : Nd} (hx : Found s core i ix kind x)
include hx

theorem Found.look_furrows : x.look.s.furrows = s.furrows := by
  rw [← hx.state]; exact x.s.lmLook_sameFurrows _
theorem Found.look_mem : x.look.s.mem = s.mem := by
  rw [← hx.state]; exact x.s.lmLook_mem _
theorem Found.look_sends : x.look.s.sends = s.sends := by
  rw [← hx.state]; exact x.s.lmLook_sends _
theorem Found.look_shadow : x.look.s.shadow = s.shadow := by
  rw [← hx.state]; exact x.s.lmLook_shadow _
theorem Found.look_bufUsed : x.look.s.bufUsed x.look.core = s.bufUsed core := by
  rw [← hx.state, ← hx.core]; exact x.s.bufUsed_lmLook _ _
theorem Found.look_sendsOf (t : Nat) : x.look.s.sendsOf t = s.sendsOf t := by
  rw [← hx.state]; exact x.s.sendsOf_lmLook _ _
theorem Found.look_clusterTeams (c : Nat) : x.look.s.clusterTeams c = s.clusterTeams c := by
  rw [← hx.state]; exact x.s.clusterTeams_lmLook _ _
theorem Found.look_lmBad (t a n : Nat) : x.look.s.lmBad t a n = s.lmBad t a n := by
  rw [← hx.state]; exact x.s.lmBad_lmLook _ _ _ _
theorem Found.look_slot : Tab.get? x.look.s.furrows x.look.k = some x.look.f := by
  rw [hx.look_furrows]; exact hx.slot
theorem Found.look_team : ∃ y, Tab.get? x.look.s.teams x.look.f.team = some y := by
  have h := hx.team
  rw [← hx.state] at h
  exact State.team_lmLook h

end

/-! ### A node that runs -/

/-- In `t` node `ix` of slot `k` runs, and holds what `p` says. -/
def NodeRuns (t : State) (k ix : Nat) (p : Node → Prop) : Prop :=
  ∃ f n, Tab.get? t.furrows k = some f ∧ n ∈ f.nodes ∧ n.ix = ix ∧ n.phase = .running ∧ p n

theorem NodeRuns.congr {s t : State} {k ix : Nat} {p : Node → Prop} (h : NodeRuns s k ix p) (hf : t.furrows = s.furrows) :
    NodeRuns t k ix p := by
  rw [NodeRuns, hf]; exact h

theorem NodeRuns.imp {t : State} {k ix : Nat} {p q : Node → Prop} (h : NodeRuns t k ix p) (hpq : ∀ n, p n → q n) : NodeRuns t k ix q := by
  obtain ⟨f, n, hf, hn, hix, hph, hp⟩ := h
  exact ⟨f, n, hf, hn, hix, hph, hpq n hp⟩

/-- The node as it begins to run. -/
def Nd.started (x : Nd) : Node := { x.n with phase := .running }

/-- A change of a slot's node that leaves its place. -/
theorem nodeRuns_modNode {u : State} {k : Nat} {f : Furrow} {n : Node} (hf : Tab.get? u.furrows k = some f) (hn : n ∈ f.nodes)
    {g : Node → Node} (hix : (g n).ix = n.ix) (hph : (g n).phase = .running) : NodeRuns (u.modNode k n.ix g) k n.ix (· = g n) := by
  refine ⟨f.modNode n.ix g, g n, ?_, List.mem_map.2 ⟨n, hn, if_pos rfl⟩, hix, hph, rfl⟩
  rw [State.modNode, Tab.get?_modify, if_pos rfl, hf]
  rfl

/-- A started node of a slot that is there runs, with what it has been given. -/
theorem Nd.run_runs {x : Nd} {u : State} {f : Furrow} (hf : Tab.get? u.furrows x.k = some f) (hn : x.n ∈ f.nodes) {g : Node → Node}
    (hix : (g x.started).ix = x.n.ix) (hph : (g x.started).phase = .running) : NodeRuns (x.run u g) x.k x.n.ix (· = g x.started) :=
  nodeRuns_modNode (g := fun n => g { n with phase := .running }) hf hn hix hph

@[simp] theorem State.lmEngine_mem (s : State) (cls t a : Nat) (bs : List Byte) : (s.lmEngine cls t a bs).mem = s.mem := rfl
@[simp] theorem State.lmEngine_furrows (s : State) (cls t a : Nat) (bs : List Byte) : (s.lmEngine cls t a bs).furrows = s.furrows := rfl
@[simp] theorem Nd.run_mem (x : Nd) (u : State) (g : Node → Node) : (x.run u g).mem = u.mem := rfl
@[simp] theorem Nd.run_teams (x : Nd) (u : State) (g : Node → Node) : (x.run u g).teams = u.teams := rfl
@[simp] theorem Nd.run_sends (x : Nd) (u : State) (g : Node → Node) : (x.run u g).sends = u.sends := rfl
@[simp] theorem Nd.run_desc (x : Nd) (u : State) (g : Node → Node) : (x.run u g).desc = u.desc := rfl
@[simp] theorem Nd.run_acc (x : Nd) (u : State) (g : Node → Node) : (x.run u g).acc = u.acc := rfl

/-! ### Pages that all translate (08 R256) -/

/-- The pages of accesses translate with nothing to wait for. -/
structure Passes (x : Nd) (accs : List Acc) (s' : State) (ps : List Placed) : Prop where
  check : x.s.check x.asker accs [] 1 = .ok s' ps
  ready : ∀ p ∈ ps, s'.waitsAt x.die (AccKind.isWrite p.acc.kind) p = false

theorem Passes.access {x : Nd} {accs : List Acc} {s' : State} {ps : List Placed} (h : Passes x accs s' ps) (K : State → List Placed → Out) :
    x.access accs K = K s' ps := by
  rw [Nd.access, h.check]
  exact if_neg (by simpa using h.ready)

theorem Passes.accs {x : Nd} {accs : List Acc} {s' : State} {ps : List Placed} (h : Passes x accs s' ps) : ps.map (·.acc) = accs :=
  (State.translated_of_check h.check).accs

theorem Passes.sameSlots {x : Nd} {accs : List Acc} {s' : State} {ps : List Placed} (h : Passes x accs s' ps) : SameSlots x.s s' :=
  (State.translated_of_check h.check).sameSlots

end Sys2Proof.Machine
end

section
/-! What nodes read at their start: pages of ranges, pieces of placed ranges, and bytes with their marks (obligation O45). -/

namespace Sys2Proof.Machine

/-! ### Pages of ranges (08 R256) -/

/-- Bytes of the `i`-th page of a range of `n` bytes that begins `off` into its first page. -/
def pageBytes (off n i : Nat) : Nat := if i = 0 then min n (4096 - off) else min 4096 (n - (4096 * i - off))

theorem sum_pageBytes (off n k : Nat) (hoff : off < 4096) :
    ((List.range k).map (pageBytes off n)).sum = min n (4096 * k - off) := by
  induction k with
  | zero => simp
  | succ k ih =>
    rw [List.range_succ, List.map_append, List.sum_append, ih, List.map_singleton, List.sum_singleton, pageBytes]
    split <;> omega

/-- The pages of a range hold its bytes. -/
theorem sum_splitPages (va : W64) (n : Nat) : ((splitPages va n).map (·.2)).sum = n := by
  rw [splitPages]
  split
  · rename_i h; simp [h]
  · rename_i h
    have hmap : (fun i => (if i = 0 then (va, min n (4096 - va.toNat % 4096))
        else (va + BitVec.ofNat 64 (4096 * i - va.toNat % 4096), min 4096 (n - (4096 * i - va.toNat % 4096)))).2) =
        pageBytes (va.toNat % 4096) n := by
      funext i
      rw [pageBytes]
      split <;> rfl
    rw [List.map_map]
    refine (congrArg (fun f => ((List.range _).map f).sum) hmap).trans ?_
    rw [sum_pageBytes _ _ _ (by omega)]
    omega

/-- Bytes of placed ranges. -/
def placedBytes (ps : List Placed) : Nat := (ps.map fun p => p.acc.size).sum

theorem placedBytes_cons (p : Placed) (ps : List Placed) : placedBytes (p :: ps) = p.acc.size + placedBytes ps := List.sum_cons

/-- The pages of the first range hold its bytes, and more follow. -/
theorem le_placedBytes {ps : List Placed} {k : AccKind} {r : W64 × Nat} {rs : List (W64 × Nat)}
    (h : ps.map (·.acc) = nodeAccs k (r :: rs)) : r.2 ≤ placedBytes ps := by
  have hsize : placedBytes ps = ((nodeAccs k (r :: rs)).map (·.size)).sum := by
    rw [← h, List.map_map]; rfl
  have hfirst : ((splitPages r.1 r.2).map ((·.size) ∘ fun p => (⟨0, 0, p.1, p.2, k⟩ : Acc))).sum = r.2 := sum_splitPages r.1 r.2
  rw [hsize, nodeAccs, rangeAccs, List.flatMap_cons, List.map_append, List.sum_append, List.map_map, hfirst]
  exact Nat.le_add_right _ _

/-! ### Pieces of placed ranges -/

theorem takePlaced_cons (p : Placed) (ps : List Placed) {n : Nat} (h : n ≠ 0) : takePlaced (p :: ps) n =
    { p with acc := { p.acc with size := min n p.acc.size } } :: takePlaced ps (n - p.acc.size) := if_neg h

/-- A piece of placed ranges is of them, each cut short or whole. -/
theorem mem_takePlaced {ps : List Placed} {n : Nat} {q : Placed} (h : q ∈ takePlaced ps n) :
    ∃ p ∈ ps, q.pa = p.pa ∧ q.acc.size ≤ p.acc.size := by
  induction ps generalizing n with
  | nil => cases h
  | cons p ps ih =>
    by_cases hn : n = 0
    · rw [takePlaced, if_pos hn] at h
      cases h
    · rw [takePlaced_cons p ps hn] at h
      obtain rfl | h := List.mem_cons.1 h
      · exact ⟨p, List.mem_cons_self, rfl, Nat.min_le_right _ _⟩
      · obtain ⟨r, hr, hq⟩ := ih h
        exact ⟨r, List.mem_cons_of_mem _ hr, hq⟩

/-- A piece has the bytes that it was cut to. -/
theorem placedBytes_takePlaced {ps : List Placed} {n : Nat} (h : n ≤ placedBytes ps) : placedBytes (takePlaced ps n) = n := by
  induction ps generalizing n with
  | nil => exact (Nat.le_zero.1 h).symm
  | cons p ps ih =>
    by_cases hn : n = 0
    · rw [takePlaced, if_pos hn, hn]; rfl
    · rw [placedBytes_cons] at h
      rw [takePlaced_cons p ps hn, placedBytes_cons, ih (by omega)]
      dsimp only
      omega

theorem State.pull_length (s : State) (ps : List Placed) : (s.pull ps).length = placedBytes ps := by
  simp [State.pull, placedBytes, List.length_flatMap]

/-! ### Poison (17 R431) -/

/-- A byte of a range that is not poisoned is not. -/
theorem State.poisonedAt_of_not_poisoned {s : State} {pa n i : Nat} (h : s.poisoned pa n = false) (hi : i < n) :
    s.poisonedAt (pa + i) = false := by
  have hat := List.any_eq_false.1 h ((pa % 32 + i) / 32) (List.mem_range.2 (by omega))
  rw [s.poisonedAt_congr (b := pa / 32 * 32 + 32 * ((pa % 32 + i) / 32)) (by omega)]
  simpa using hat

theorem State.poisoned_of_le {s : State} {pa m n : Nat} (h : s.poisoned pa n = false) (hm : m ≤ n) : s.poisoned pa m = false := by
  refine List.any_eq_false.2 fun i hi => ?_
  exact List.any_eq_false.1 h i (List.mem_range.2 (by have := List.mem_range.1 hi; omega))

/-- A piece of ranges that find no poison finds none. -/
theorem State.badPlace_takePlaced {s : State} {ps : List Placed} (h : s.badPlace ps = none) (n : Nat) :
    s.badPlace (takePlaced ps n) = none := by
  refine List.find?_eq_none.2 fun q hq => ?_
  obtain ⟨p, hp, hpa, hsize⟩ := mem_takePlaced hq
  have hclean : s.poisoned p.pa p.acc.size = false := by simpa using List.find?_eq_none.1 h p hp
  rw [hpa, State.poisoned_of_le hclean hsize]
  decide

/-- Bytes that are read with their marks are those that are read. -/
theorem State.map_fst_pullMarked (s : State) (ps : List Placed) : (s.pullMarked ps).map (·.1) = s.pull ps := by
  simp only [State.pullMarked, State.pull, List.map_flatMap, List.map_map]
  refine List.flatMap_congr fun p _ => ?_
  exact List.zipIdx_map_fst 0 _

theorem Team.map_fst_pullMarked (t : Team) (a n : Nat) : (t.pullMarked a n).map (·.1) = Memory.bytes t.lm a n := by
  rw [Team.pullMarked, List.map_map]
  exact List.zipIdx_map_fst 0 _

/-- A range that finds no poison brings no mark. -/
theorem State.pullMarked_clean {s : State} {p : Placed} (h : s.poisoned p.pa p.acc.size = false) :
    ((s.pullMarked [p]).any (·.2)) = false := by
  refine List.any_eq_false.2 fun b hb => ?_
  simp only [State.pullMarked, List.flatMap_singleton] at hb
  obtain ⟨x, hx, rfl⟩ := List.mem_map.1 hb
  have hlt := List.snd_lt_of_mem_zipIdx hx
  rw [State.homeRead_length, Nat.add_zero] at hlt
  simp [State.poisonedAt_of_not_poisoned h hlt]

/-! ### What a read of placed ranges leaves (07 R181, 14 R388, 17 R433) -/

theorem OnlyBooks.mem {s t : State} (h : OnlyBooks s t) : t.mem = s.mem := by
  obtain ⟨b, rfl⟩ := h; rfl

/-- A die's clock takes in entry `e` of another. -/
def learnStep (d : Nat) (c : List Nat) (t : Tab Nat) (e : Nat) : Tab Nat :=
  Tab.write 0 t (9 * d + e) (max (Tab.read 0 t (9 * d + e)) (c.getD e 0))

theorem State.learn_eq (s : State) (d : Nat) (c : List Nat) :
    s.learn d c = { s with dieClock := (List.range 9).foldl (learnStep d c) s.dieClock } := rfl

theorem onlyBooks_learn (s : State) (d : Nat) (c : List Nat) : OnlyBooks s (s.learn d c) := by
  rw [State.learn_eq]
  generalize (List.range 9).foldl (learnStep d c) s.dieClock = x
  exact ⟨{ s.books with dieClock := x }, rfl⟩

theorem onlyBooks_countPlaced (s : State) (p : Placed) : OnlyBooks s (s.countAccess p.pa p.acc.size) :=
  onlyBooks_countAccess s p.pa p.acc.size

theorem onlyBooks_touch (s : State) (ps : List Placed) : OnlyBooks s (s.touch ps) := OnlyBooks.foldl onlyBooks_countPlaced ps s

theorem onlyBooks_touchRead (s : State) (d : Nat) (ps : List Placed) : OnlyBooks s (s.touchRead d ps) := by
  rw [State.touchRead, State.learnFrom]
  exact (onlyBooks_touch s ps).trans (onlyBooks_learn _ _ _)

theorem onlyBooks_reportRange (s : State) (pa n : Nat) : OnlyBooks s (s.reportRange pa n) :=
  .foldl (fun s _ => .ite (onlyBooks_reportBad s _ _) (.refl s)) _ s

theorem State.homeByte_touchRead (s : State) (d : Nat) (ps : List Placed) (a : Nat) : (s.touchRead d ps).homeByte a = s.homeByte a :=
  State.touchRead_keeps (f := fun s => s.homeByte a) (fun _ _ _ => rfl) (fun _ _ => rfl) (fun _ _ => rfl) (fun _ _ => rfl) s d ps

theorem State.homeRead_congr {s t : State} (h : ∀ a, t.homeByte a = s.homeByte a) (pa n : Nat) : t.homeRead pa n = s.homeRead pa n := by
  induction n generalizing pa with
  | zero => rfl
  | succ n ih => rw [State.homeRead, State.homeRead, h, ih]

theorem State.pull_touchRead (s : State) (d : Nat) (ps qs : List Placed) : (s.touchRead d ps).pull qs = s.pull qs :=
  List.flatMap_congr fun p _ => State.homeRead_congr (s.homeByte_touchRead d ps) p.pa p.acc.size

theorem State.poisoned_touchRead (s : State) (d : Nat) (ps : List Placed) (pa n : Nat) :
    (s.touchRead d ps).poisoned pa n = s.poisoned pa n :=
  State.touchRead_keeps (f := fun s => s.poisoned pa n) (fun _ _ _ => rfl) (fun _ _ => rfl) (fun _ _ => rfl) (fun _ _ => rfl) s d ps

/-- Nothing read teaches a die nothing. -/
theorem read_learnStep_nil (d : Nat) (t : Tab Nat) (e k : Nat) : Tab.read 0 (learnStep d [] t e) k = Tab.read 0 t k := by
  rw [learnStep, Tab.read_write]
  split
  · rename_i h; simp [h]
  · rfl

theorem State.clockOf_learn_nil (s : State) (d e : Nat) : (s.learn d []).clockOf e = s.clockOf e := by
  have hread := fun k => foldl_keeps (fun t => Tab.read 0 t k) (learnStep d []) (fun t i => read_learnStep_nil d t i k) (List.range 9) s.dieClock
  rw [State.learn_eq]
  generalize (List.range 9).foldl (learnStep d []) s.dieClock = x at hread
  exact List.map_congr_left fun i _ => hread _

theorem State.clockOf_touchRead_nil (s : State) (d e : Nat) : (s.touchRead d []).clockOf e = s.clockOf e := by
  rw [State.touchRead, State.learnFrom]
  exact s.clockOf_learn_nil d e

/-! ### What a local copy carries (08 R249) -/

/-- A copy whose destination does not meet its source carries the source's bytes. -/
theorem Team.copied_of_apart (t : Team) {src dst n : Nat} (h : src + n ≤ dst ∨ dst + n ≤ src) : t.copied src dst n = t.pullMarked src n :=
  if_neg (by omega)

/-- Bytes that an engine writes with their marks stand where they were written. -/
theorem Team.bytes_writeMarked (t : Team) (cls a : Nat) (m : Marked) :
    Memory.bytes (t.writeMarked cls a m).lm a m.length = m.map (·.1) := by
  have h := Memory.bytes_setBytes t.lm a (m.map (·.1))
  rwa [List.length_map] at h

/-! ### Rows that are not skipped -/

/-- The rows of an index list, each with its place, are those of the list. -/
theorem map_fst_filter_zipIdx {β : Type} (l : List Nat) (p : Nat → Bool) (f : Nat → β) :
    ((l.zipIdx.filter fun i => p i.1).map fun i => f i.1) = (l.filter p).map f := by
  have h : (l.zipIdx.filter (p ∘ Prod.fst)).map Prod.fst = l.filter p := by
    rw [← List.filter_map, List.zipIdx_map_fst]
  rw [← h, List.map_map]
  rfl

end Sys2Proof.Machine
end

section
/-! Each kind of node starts with its own effect (obligation O45). -/

namespace Sys2Proof.Machine

/-! ### Address words and room (08 R248, R256) -/

theorem Nd.global_of_local {w : W64} (h : isL w = true) (x : Nd) (K : Option W64 → Out) : x.global w K = K none := if_pos h

theorem Nd.global_of_addr {w a : W64} (h : isL w = false) (ha : gAddr? w = some a) (x : Nd) (K : Option W64 → Out) :
    x.global w K = K (some a) := by
  rw [Nd.global, if_neg (by rw [h]; decide), ha]

theorem Nd.based_of_canonical {x : Nd} (h : canonical x.n.ent.w1 = true) (K : Unit → Out) : x.based K = K () := if_pos h

theorem Nd.room_of_le {x : Nd} {n : Nat} (h : x.s.bufUsed x.core + n ≤ 65536) (K : Unit → Out) : x.room n K = K () := if_pos h

/-- A node that is found and may start, with what the engine sees. -/
structure Starts (s : State) (core i ix kind : Nat) (x₀ x : Nd) : Prop where
  found : Found s core i ix kind x₀
  look : x = x₀.look
  idle : (x.n.phase == .running) = false

section
variable {s : State} {core i ix kind : Nat} {x₀ x : Nd} (hx : Starts s core i ix kind x₀ x)
include hx

theorem Starts.ix_eq : x.n.ix = ix := by rw [hx.look]; exact hx.found.ix
theorem Starts.core_eq : x.core = core := by rw [hx.look]; exact hx.found.core
theorem Starts.kind_eq : x.n.kind = kind := by rw [hx.look]; exact hx.found.kind
theorem Starts.slot : Tab.get? x.s.furrows x.k = some x.f := by rw [hx.look]; exact hx.found.look_slot
theorem Starts.node : x.n ∈ x.f.nodes := by rw [hx.look]; exact hx.found.node
theorem Starts.mem : x.s.mem = s.mem := by rw [hx.look]; exact hx.found.look_mem
theorem Starts.sends : x.s.sends = s.sends := by rw [hx.look]; exact hx.found.look_sends
theorem Starts.shadow : x.s.shadow = s.shadow := by rw [hx.look]; exact hx.found.look_shadow
theorem Starts.team : ∃ y, Tab.get? x.s.teams x.f.team = some y := by rw [hx.look]; exact hx.found.look_team
theorem Starts.lmBad (t a n : Nat) : x.s.lmBad t a n = s.lmBad t a n := by rw [hx.look]; exact hx.found.look_lmBad t a n
theorem Starts.sendsOf (t : Nat) : x.s.sendsOf t = s.sendsOf t := by rw [hx.look]; exact hx.found.look_sendsOf t
theorem Starts.clusterTeams (c : Nat) : x.s.clusterTeams c = s.clusterTeams c := by rw [hx.look]; exact hx.found.look_clusterTeams c
theorem Starts.bufUsed : x.s.bufUsed x.core = s.bufUsed core := by rw [hx.look]; exact hx.found.look_bufUsed

/-- The started node runs in a state whose slots are those that the drill found. -/
theorem Starts.runs {u : State} {g : Node → Node} {p : Node → Prop} (hu : u.furrows = x.s.furrows) (hix : (g x.started).ix = x.n.ix)
    (hph : (g x.started).phase = .running) (hp : p (g x.started)) : NodeRuns (x.run u g) x.k ix p := by
  rw [← hx.ix_eq]
  refine (Nd.run_runs (by rw [hu]; exact hx.slot) hx.node hix hph).imp ?_
  rintro n rfl
  exact hp

end

/-! ### COPY_NODE (08 R249) -/

section
variable {x : Nd}

theorem Nd.copy_local (h1 : isL x.n.ent.w1 = true) (h2 : isL x.n.ent.w2 = true) : x.copy =
    .next (x.run (x.s.modTeam x.f.team fun t => t.writeMarked 1 (lAddr x.n.ent.w2)
      (x.t.copied (lAddr x.n.ent.w1) (lAddr x.n.ent.w2) (copyLen x.n.ent))) fun n => { n with res := copyLen x.n.ent }) := by
  rw [Nd.copy, Nd.global_of_local h1, Nd.global_of_local h2]
  rfl

/-- The bytes of a copy that are not moved yet, and the first piece of them. -/
def Nd.left (x : Nd) : Nat := copyLen x.n.ent - x.n.res
def Nd.piece (x : Nd) : Nat := min 4096 x.left

/-- The pages of all that is left of a copy's global range. -/
def Nd.restAccs (x : Nd) (k : AccKind) (a : W64) : List Acc := nodeAccs k [(a + BitVec.ofNat 64 x.n.res, x.left)]

/-- What reading a piece leaves. -/
def Nd.readsPiece (x : Nd) (s : State) (ps : List Placed) : State :=
  (ps.foldl (fun s p => s.reportRange p.pa p.acc.size) s).touchRead x.die ps

theorem onlyBooks_reportPlaced (s : State) (p : Placed) : OnlyBooks s (s.reportRange p.pa p.acc.size) := onlyBooks_reportRange s _ _

theorem onlyBooks_readsPiece (x : Nd) (s : State) (ps : List Placed) : OnlyBooks s (x.readsPiece s ps) :=
  (OnlyBooks.foldl onlyBooks_reportPlaced ps s).trans (onlyBooks_touchRead _ _ _)

theorem Nd.copyPiece_reads {a : W64} {s' : State} {ps : List Placed} (h : Passes x (x.restAccs .read a) s' ps) :
    ∃ qs data c, x.copyPiece (some a) none =
      .next (x.run ((x.readsPiece s' qs).modTeam x.f.team fun t => t.writeMarked 1 (lAddr x.n.ent.w2 + x.n.res) data) fun n =>
        { n with sent := true, res := x.n.res + x.piece, buf := n.buf ++ c }) := by
  have hacc : ∃ K, x.copyPiece (some a) none = x.access (x.restAccs .read a ++ []) K ∧ ∃ qs data c, K s' ps =
      .next (x.run ((x.readsPiece s' qs).modTeam x.f.team fun t => t.writeMarked 1 (lAddr x.n.ent.w2 + x.n.res) data) fun n =>
        { n with sent := true, res := x.n.res + x.piece, buf := n.buf ++ c }) := ⟨_, rfl, _, _, _, rfl⟩
  obtain ⟨K, hK, hrun⟩ := hacc
  rw [hK, List.append_nil, h.access]
  exact hrun

theorem Nd.copyPiece_writes {a : W64} {s' : State} {ps : List Placed} (h : Passes x (x.restAccs .write a) s' ps) :
    x.copyPiece none (some a) = .next (x.run (s'.touchRead x.die []) fun n =>
      { n with
        sent := true
        res := x.n.res + x.piece
        buf := n.buf ++ chunksOf (s'.clockOf x.die) (takePlaced ps x.piece) (x.t.pullMarked (lAddr x.n.ent.w1 + x.n.res) x.piece) }) := by
  have hacc : ∃ K, x.copyPiece none (some a) = x.access (x.restAccs .write a) K ∧ K s' ps =
      .next (x.run (s'.touchRead x.die []) fun n =>
        { n with
          sent := true
          res := x.n.res + x.piece
          buf := n.buf ++ chunksOf ((s'.touchRead x.die []).clockOf x.die) (takePlaced ps x.piece)
            (x.t.pullMarked (lAddr x.n.ent.w1 + x.n.res) x.piece) }) := ⟨_, rfl, rfl⟩
  obtain ⟨K, hK, hrun⟩ := hacc
  rw [hK, h.access, hrun, State.clockOf_touchRead_nil]

end

section
variable {s s' : State} {core i ix kind : Nat} {x₀ x : Nd} {ps : List Placed} (hx : Starts s core i ix kind x₀ x)
include hx

theorem Starts.copy_local (h1 : isL x.n.ent.w1 = true) (h2 : isL x.n.ent.w2 = true) (hkind : kind = 0)
    (h : lAddr x.n.ent.w1 + copyLen x.n.ent ≤ lAddr x.n.ent.w2 ∨ lAddr x.n.ent.w2 + copyLen x.n.ent ≤ lAddr x.n.ent.w1) :
    ∃ t y, x.copy = .next t ∧ NodeRuns t x.k ix (fun n => n.buf = x.n.buf ∧ n.unread = 0) ∧ Tab.get? t.teams x.f.team = some y ∧
      Memory.bytes y.lm (lAddr x.n.ent.w2) (copyLen x.n.ent) = Memory.bytes x.t.lm (lAddr x.n.ent.w1) (copyLen x.n.ent) ∧
      t.mem = s.mem := by
  obtain ⟨y, hy⟩ := hx.team
  have hcopied := x.t.copied_of_apart h
  have hlen : (x.t.pullMarked (lAddr x.n.ent.w1) (copyLen x.n.ent)).length = copyLen x.n.ent := by
    rw [← List.length_map (·.1), Team.map_fst_pullMarked, Memory.bytes_length]
  have hbytes := y.bytes_writeMarked 1 (lAddr x.n.ent.w2) (x.t.pullMarked (lAddr x.n.ent.w1) (copyLen x.n.ent))
  rw [hlen, Team.map_fst_pullMarked] at hbytes
  have hcopy := Nd.copy_local h1 h2
  rw [hcopied] at hcopy
  refine ⟨_, y.writeMarked 1 (lAddr x.n.ent.w2) (x.t.pullMarked (lAddr x.n.ent.w1) (copyLen x.n.ent)), hcopy,
    hx.runs ?_ ?_ ?_ ⟨?_, ?_⟩, ?_, hbytes, ?_⟩
  · rfl
  · rfl
  · rfl
  · rfl
  · simp [Nd.started, Node.unread, hx.kind_eq, hkind]
  · rw [Nd.run_teams, State.get?_modTeam_self hy]
  · rw [Nd.run_mem, State.modTeam_mem, hx.mem]

theorem Starts.copy_reads (h1 : isL x.n.ent.w1 = false) {a : W64} (ha : gAddr? x.n.ent.w1 = some a) (h2 : isL x.n.ent.w2 = true)
    (hroom : s.bufUsed core ≤ 65536) : x.copy = x.copyPiece (some a) none := by
  rw [Nd.copy, Nd.global_of_addr h1 ha, Nd.global_of_local h2]
  simp only [Option.isNone_some, Bool.false_and, Bool.false_eq_true, if_false, hx.idle, Option.isSome_none]
  exact Nd.room_of_le (by rw [hx.bufUsed]; exact hroom) _

theorem Starts.copy_writes (h1 : isL x.n.ent.w1 = true) (h2 : isL x.n.ent.w2 = false) {a : W64} (ha : gAddr? x.n.ent.w2 = some a)
    (hroom : s.bufUsed core + copyLen x.n.ent ≤ 65536) : x.copy = x.copyPiece none (some a) := by
  rw [Nd.copy, Nd.global_of_local h1, Nd.global_of_addr h2 ha]
  simp only [Option.isNone_some, Option.isNone_none, Bool.and_false, Bool.false_eq_true, if_false, hx.idle, Option.isSome_some, if_true]
  exact Nd.room_of_le (by rw [hx.bufUsed]; exact hroom) _

/-- A copy from global memory has moved its first piece. -/
theorem Starts.copyPiece_reads {a : W64} (h : Passes x (x.restAccs .read a) s' ps) :
    ∃ t, x.copyPiece (some a) none = .next t ∧ NodeRuns t x.k ix (fun n => n.sent = true ∧ n.res = x.n.res + x.piece) ∧ t.mem = s'.mem := by
  obtain ⟨qs, data, c, hcopy⟩ := Nd.copyPiece_reads h
  have hbooks := onlyBooks_readsPiece x s' qs
  refine ⟨_, hcopy, hx.runs ?_ ?_ ?_ ⟨?_, ?_⟩, ?_⟩
  · rw [State.modTeam_furrows, hbooks.sameSlots.furrows, h.sameSlots.furrows]
  · rfl
  · rfl
  · rfl
  · rfl
  · rw [Nd.run_mem, State.modTeam_mem, hbooks.mem]

/-- A copy to global memory holds its first piece back. -/
theorem Starts.copyPiece_writes {a : W64} (h : Passes x (x.restAccs .write a) s' ps) :
    ∃ t, x.copyPiece none (some a) = .next t ∧ NodeRuns t x.k ix (fun n => n.res = x.n.res + x.piece ∧
      n.buf = x.n.buf ++ chunksOf (s'.clockOf x.die) (takePlaced ps x.piece) (x.t.pullMarked (lAddr x.n.ent.w1 + x.n.res) x.piece)) ∧
      t.mem = s'.mem := by
  have hbooks := onlyBooks_touchRead s' x.die []
  refine ⟨_, Nd.copyPiece_writes h, hx.runs ?_ ?_ ?_ ⟨?_, ?_⟩, ?_⟩
  · rw [hbooks.sameSlots.furrows, h.sameSlots.furrows]
  · rfl
  · rfl
  · rfl
  · rfl
  · rw [Nd.run_mem, hbooks.mem]

/-! ### Gathers, scatters and top-k (08 R249) -/

theorem Starts.based_indices (hc : canonical x.n.ent.w1 = true) (hbad : s.lmBad x.f.team (gList x.n.ent) (4 * gRows x.n.ent) = false) :
    x.gather = x.gatherRow x.indices 0 := by
  rw [Nd.gather, if_neg (by rw [hx.idle]; decide), Nd.based_of_canonical hc, if_neg (by rw [hx.lmBad, hbad]; decide)]

end

/-- The global rows of a gather or scatter, skipped ones apart. -/
def Nd.rows (x : Nd) : List (W64 × Nat) :=
  (x.indices.zipIdx.filter fun i => !skips x.n.ent i.1).map fun i => (x.rowVa i.1, gRowb x.n.ent)

theorem Nd.rows_eq (x : Nd) : x.rows = (x.indices.filter fun i => !skips x.n.ent i).map fun i => (x.rowVa i, gRowb x.n.ent) :=
  map_fst_filter_zipIdx x.indices (fun i => !skips x.n.ent i) fun i => (x.rowVa i, gRowb x.n.ent)

section
variable {x : Nd} {s' : State} {ps : List Placed} (h : Passes x (nodeAccs .read x.rows) s' ps)
include h

/-- A gather whose first row is skipped writes zeros for it. -/
theorem Nd.gatherRow_skips (hs : skips x.n.ent (x.indices.getD 0 0) = true) : x.gatherRow x.indices 0 =
    .next (x.run (s'.lmEngine 2 x.f.team (gLocal x.n.ent + 0 * gRowb x.n.ent) (leBytes (gRowb x.n.ent) 0)) fun n =>
      { n with res := 1, index := x.indices }) := by
  rw [Nd.rows_eq] at h
  have hacc := h.access
  simp only [Nd.gatherRow, List.drop_zero, hacc, hs, if_true]

/-- Else the row arrives in local memory. -/
theorem Nd.gatherRow_reads (hs : skips x.n.ent (x.indices.getD 0 0) = false) (hflag : Words4.flag x.n.ent 4 = false)
    (hclean : s'.badPlace ps = none) : x.gatherRow x.indices 0 =
    .next (x.run ((s'.touchRead x.die (takePlaced ps (gRowb x.n.ent))).lmEngine 2 x.f.team (gLocal x.n.ent + 0 * gRowb x.n.ent)
      (s'.pull (takePlaced ps (gRowb x.n.ent)))) fun n =>
        { n with sent := true, res := 1, index := x.indices, taken := x.n.taken }) := by
  rw [Nd.rows_eq] at h
  have hacc := h.access
  generalize hu : s'.touchRead x.die (takePlaced ps (gRowb x.n.ent)) = u
  have hpull : ((takePlaced ps (gRowb x.n.ent)).map fun p => (p, u.pullMarked [p])).flatMap (fun g => g.2.map (·.1)) =
      s'.pull (takePlaced ps (gRowb x.n.ent)) := by
    rw [List.flatMap_map, ← State.pull_touchRead s' x.die (takePlaced ps (gRowb x.n.ent)), hu]
    refine List.flatMap_congr fun p _ => ?_
    rw [State.map_fst_pullMarked, State.pull, List.flatMap_singleton]
  have hnone : ((takePlaced ps (gRowb x.n.ent)).map fun p => (p, u.pullMarked [p])).find? (fun g => g.2.any (·.2)) = none := by
    refine List.find?_eq_none.2 fun g hg => ?_
    obtain ⟨p, hp, rfl⟩ := List.mem_map.1 hg
    have hbad : s'.poisoned p.pa p.acc.size = false := by
      simpa using List.find?_eq_none.1 (State.badPlace_takePlaced hclean (gRowb x.n.ent)) p hp
    rw [State.pullMarked_clean (by rw [← hu, State.poisoned_touchRead, hbad])]
    decide
  simp only [Nd.gatherRow, List.drop_zero, hacc, hs, hflag, Bool.false_eq_true, if_false, State.rowData, hu, hnone, hpull]

end

section
variable {s s' : State} {core i ix kind : Nat} {x₀ x : Nd} {ps : List Placed} (hx : Starts s core i ix kind x₀ x)
include hx

/-- What an engine puts into local memory of the node's team stands there. -/
theorem Starts.bytes_lmEngine {u : State} (hu : u.teams = x.s.teams) (cls a : Nat) (bs : List Byte) :
    ∃ y, Tab.get? (u.lmEngine cls x.f.team a bs).teams x.f.team = some y ∧ Memory.bytes y.lm a bs.length = bs := by
  obtain ⟨y, hy⟩ := hx.team
  rw [← hu] at hy
  exact ⟨_, State.get?_modTeam_self hy _, Memory.bytes_setBytes y.lm a bs⟩

/-- INDIRECT_GATHER_NODE. -/
theorem Starts.gather (hflag : Words4.flag x.n.ent 4 = false) (hclean : s'.badPlace ps = none)
    (h : Passes x (nodeAccs .read x.rows) s' ps) :
    ∃ t, x.gatherRow x.indices 0 = .next t ∧ NodeRuns t x.k ix (fun n => n.res = 1 ∧ n.index = x.indices) ∧ t.mem = s'.mem ∧
      (1 ≤ gRows x.n.ent → skips x.n.ent (x.indices.getD 0 0) = false → ∃ y, Tab.get? t.teams x.f.team = some y ∧
        Memory.bytes y.lm (gLocal x.n.ent) (gRowb x.n.ent) = s'.pull (takePlaced ps (gRowb x.n.ent))) := by
  cases hs : skips x.n.ent (x.indices.getD 0 0) with
  | true =>
    refine ⟨_, Nd.gatherRow_skips h hs, hx.runs ?_ ?_ ?_ ⟨?_, ?_⟩, ?_, fun _ hno => absurd hno (by decide)⟩
    · rw [State.lmEngine_furrows, h.sameSlots.furrows]
    · rfl
    · rfl
    · rfl
    · rfl
    · rw [Nd.run_mem, State.lmEngine_mem]
  | false =>
    have hbooks := onlyBooks_touchRead s' x.die (takePlaced ps (gRowb x.n.ent))
    refine ⟨_, Nd.gatherRow_reads h hs hflag hclean, hx.runs ?_ ?_ ?_ ⟨?_, ?_⟩, ?_, fun hrows _ => ?_⟩
    · rw [State.lmEngine_furrows, hbooks.sameSlots.furrows, h.sameSlots.furrows]
    · rfl
    · rfl
    · rfl
    · rfl
    · rw [Nd.run_mem, State.lmEngine_mem, hbooks.mem]
    · have hlen : (s'.pull (takePlaced ps (gRowb x.n.ent))).length = gRowb x.n.ent := by
        rw [State.pull_length]
        refine placedBytes_takePlaced ?_
        obtain ⟨j, js, hj⟩ : ∃ j js, x.indices = j :: js := by
          refine List.exists_cons_of_ne_nil fun hnil => ?_
          have hl := congrArg List.length hnil
          rw [Nd.indices, List.length_map, List.length_range] at hl
          simp at hl
          omega
        have haccs := h.accs
        rw [hj, List.getD_cons_zero] at hs
        rw [Nd.rows_eq, hj, List.filter_cons_of_pos (by rw [hs]; rfl), List.map_cons] at haccs
        exact le_placedBytes haccs
      obtain ⟨y, hy, hbytes⟩ := hx.bytes_lmEngine (u := s'.touchRead x.die (takePlaced ps (gRowb x.n.ent)))
        (hbooks.sameSlots.teams.trans h.sameSlots.teams) 2 (gLocal x.n.ent + 0 * gRowb x.n.ent)
        (s'.pull (takePlaced ps (gRowb x.n.ent)))
      refine ⟨y, by rw [Nd.run_teams]; exact hy, ?_⟩
      rwa [hlen, Nat.zero_mul, Nat.add_zero] at hbytes

/-- SCATTER_NODE. -/
theorem Starts.scatter (hc : canonical x.n.ent.w1 = true) (hbad : s.lmBad x.f.team (gList x.n.ent) (4 * gRows x.n.ent) = false)
    (hroom : s.bufUsed core + gRows x.n.ent * gRowb x.n.ent ≤ 65536) (h : Passes x (nodeAccs .write x.rows) s' ps) :
    ∃ t, x.scatter = .next t ∧ NodeRuns t x.k ix (fun n => n.buf = chunksOf (s'.clockOf x.die) ps
      ((x.indices.zipIdx.filter fun i => !skips x.n.ent i.1).flatMap fun i =>
        x.t.pullMarked (gLocal x.n.ent + i.2 * gRowb x.n.ent) (gRowb x.n.ent))) ∧ t.mem = s'.mem := by
  have hacc : ∃ K, x.scatter = (x.based fun _ => x.room (gRows x.n.ent * gRowb x.n.ent) fun _ =>
      if x.s.lmBad x.f.team (gList x.n.ent) (4 * gRows x.n.ent) then x.loseLocal else x.access (nodeAccs .write x.rows) K) ∧
      K s' ps = .next (x.run s' fun m =>
        { m with
          buf := chunksOf (s'.clockOf x.die) ps ((x.indices.zipIdx.filter fun i => !skips x.n.ent i.1).flatMap fun i =>
            x.t.pullMarked (gLocal x.n.ent + i.2 * gRowb x.n.ent) (gRowb x.n.ent)) }) := ⟨_, rfl, rfl⟩
  obtain ⟨K, hK, hrun⟩ := hacc
  rw [Nd.based_of_canonical hc, Nd.room_of_le (by rw [hx.bufUsed]; exact hroom), if_neg (by rw [hx.lmBad, hbad]; decide), h.access,
    hrun] at hK
  refine ⟨_, hK, hx.runs ?_ ?_ ?_ ?_, ?_⟩
  · exact h.sameSlots.furrows
  · rfl
  · rfl
  · rfl
  · rfl

/-- NEAR_MEMORY_TOPK_NODE. -/
theorem Starts.topk (hc : canonical x.n.ent.w1 = true)
    (h : Passes x (nodeAccs .read ((List.range (nRows x.n.ent)).map fun m => (nRow x.n.ent m, 4 * nCols x.n.ent))) s' ps)
    (hhbm : ∀ p ∈ ps, isHbm p.pa = true) (hclean : s'.badPlace ps = none) :
    ∃ t, x.topk = .next t ∧ NodeRuns t x.k ix (fun n => n.sent = true ∧ n.res = 1) ∧ t.mem = s'.mem := by
  have hbooks := onlyBooks_touchRead s' x.die (takePlaced ps (4 * nCols x.n.ent))
  have hany : ps.any (fun p => !isHbm p.pa) = false := by simpa using hhbm
  have htop : ∃ bs, x.topk = .next (x.run ((s'.touchRead x.die (takePlaced ps (4 * nCols x.n.ent))).lmEngine 5 x.f.team
      (lAddr x.n.ent.w2 + 0 * nBytes x.n.ent) bs) fun n => { n with sent := true, res := 1 }) := by
    have hacc := h.access
    rw [Nd.topk, if_neg (by rw [hx.idle]; decide), Nd.based_of_canonical hc]
    simp only [Nd.topkRow, List.drop_zero, hacc, hany, State.badPlace_takePlaced hclean, Bool.false_eq_true, if_false]
    exact ⟨_, rfl⟩
  obtain ⟨bs, htop⟩ := htop
  refine ⟨_, htop, hx.runs ?_ ?_ ?_ ⟨?_, ?_⟩, ?_⟩
  · rw [State.lmEngine_furrows, hbooks.sameSlots.furrows, h.sameSlots.furrows]
  · rfl
  · rfl
  · rfl
  · rfl
  · rw [Nd.run_mem, State.lmEngine_mem, hbooks.mem]

end

end Sys2Proof.Machine
end

section
/-! Sends, fills, releases, products, loops, conditions and signals of the drill, and all kinds of node together (obligation O45). -/

namespace Sys2Proof.Machine

/-! ### SEND_NODE, COUNTED_FILL_NODE, RELEASE_NODE (08 R249) -/

/-- The addresses of a counted fill's accesses, and of a release's. -/
def Nd.fillVas (x : Nd) : List W64 := (List.range (fillLines x.n.ent)).map fun j =>
  if Words4.flag x.n.ent 4 then x.n.ent.w1 else x.n.ent.w1 + BitVec.ofNat 64 (128 * j)
def Nd.relVas (x : Nd) : List W64 := (List.range (relLines x.n.ent)).map fun j => x.n.ent.w1 + BitVec.ofNat 64 (128 * j)

section
variable {s s' : State} {core i ix kind : Nat} {x₀ x : Nd} {ps : List Placed} (hx : Starts s core i ix kind x₀ x)
include hx

theorem Starts.send {dest : Nat} (hdest : (s.clusterTeams x.t.cluster)[bitsOf x.n.ent.w1.toNat 44 4]? = some dest)
    (hroom : s.sendsOf x.f.team < 16) (hbad : s.lmBad x.f.team (lAddr x.n.ent.w1) (sendBytes x.n.ent) = false) :
    ∃ t y, x.send = .next t ∧ t.sends = s.sends ++ [y] ∧ y.dst = dest ∧ y.node = some (x.k, ix) ∧
      y.data = Memory.bytes x.t.lm (lAddr x.n.ent.w1) (sendBytes x.n.ent) ∧ NodeRuns t x.k ix fun n => n.sent = true := by
  obtain ⟨z, hz⟩ := hx.team
  obtain ⟨y, hy, -, hdst, -, -, hdata, hnode⟩ := State.queueSend_eq hz dest (bitsOf x.n.ent.w1.toNat 48 4) (bitsOf x.n.ent.w1.toNat 22 22)
    (Memory.bytes x.t.lm (lAddr x.n.ent.w1) (sendBytes x.n.ent)) (some (x.k, x.n.ix))
  have hsend : x.send = .next (x.run { x.s with nextId := x.s.nextId + 1, sends := x.s.sends ++ [y] } fun m => { m with sent := true }) := by
    rw [Nd.send, ← hy]
    simp only [hx.clusterTeams, hdest, hx.sendsOf, if_neg (Nat.not_le.2 hroom), hx.lmBad, hbad, Bool.false_eq_true, if_false]
  refine ⟨_, y, hsend, ?_, hdst, by rw [hnode, hx.ix_eq], hdata, hx.runs ?_ ?_ ?_ ?_⟩
  · rw [Nd.run_sends, ← hx.sends]
  · rfl
  · rfl
  · rfl
  · rfl

theorem Starts.fill (h : Passes x (x.fillVas.map fun a => ⟨0, 0, a, (fillKind x.n.ent).2, .write⟩) s' ps) :
    ∃ t, x.fill = .next t ∧ NodeRuns t x.k ix fun n => n.buf.length = fillLines x.n.ent := by
  have hfill := h.access fun s _ => .next (x.run s fun m =>
    { m with buf := x.fillVas.zipIdx.map fun v => x.lineChunk v.1 v.2, fin := { m.fin with w3 := some 0 } })
  refine ⟨_, hfill, hx.runs h.sameSlots.furrows ?_ ?_ ?_⟩
  · rfl
  · rfl
  · rw [List.length_map, List.length_zipIdx, Nd.fillVas, List.length_map, List.length_range]

theorem Starts.release (h : Passes x (x.relVas.map fun a => ⟨0, 0, a, 128, .write⟩) s' ps) :
    ∃ t, x.release = .next t ∧ NodeRuns t x.k ix fun n => n.buf.length = relLines x.n.ent := by
  have hrel := h.access fun s _ => .next (x.run s fun m =>
    { m with buf := x.relVas.map fun a => ⟨a, 0, [], [], [], []⟩, fin := { m.fin with w3 := some 0 } })
  refine ⟨_, hrel, hx.runs h.sameSlots.furrows ?_ ?_ ?_⟩
  · rfl
  · rfl
  · rw [List.length_map, Nd.relVas, List.length_map, List.length_range]

end

/-! ### MATRIX_DISPATCH_NODE (06 R141, R144) -/

/-- Writing a product changes elements of accumulator tiles, and their poison. -/
theorem State.writeProduct_keeps {β : Type} {f : State → β} (h : ∀ s a b, f { s with acc := a, accBad := b } = f s) (s : State) (core : Nat)
    (p : Product) (c : Cells) : f (s.writeProduct core p c) = f s := by
  have hcells : ∀ (s : State) (tile : Nat) (c : Cells), f (s.setCells core tile c) = f s := fun s tile c => by
    obtain ⟨b, hb⟩ := s.setCells_eq core tile c
    rw [hb, h]
  rw [State.writeProduct]
  split
  · rw [hcells, hcells]
  · exact hcells s _ c

theorem sameSlots_passed (s : State) (core : Nat) : SameSlots s (s.passed core) := .ite (.refl s) ⟨rfl, rfl⟩

theorem State.passed_mem (s : State) (core : Nat) : (s.passed core).mem = s.mem := by
  rw [State.passed]
  split <;> rfl

/-- The state in which a node's product has been written and its claims taken. -/
def State.dispatched (s : State) (core : Nat) (p : Product) (c : Cells) : State :=
  ((s.passed core).writeProduct core p c).claim core p.uses

section
variable (s : State) (core : Nat) (p : Product) (c : Cells)

theorem State.dispatched_mem : (s.dispatched core p c).mem = s.mem :=
  (State.claim_keeps (f := fun s => s.mem) (fun _ _ => rfl) _ _ _).trans
    ((State.writeProduct_keeps (f := fun s => s.mem) (fun _ _ _ => rfl) _ _ _ _).trans (s.passed_mem core))

theorem State.dispatched_furrows : (s.dispatched core p c).furrows = s.furrows :=
  (State.claim_keeps (f := fun s => s.furrows) (fun _ _ => rfl) _ _ _).trans
    ((State.writeProduct_keeps (f := fun s => s.furrows) (fun _ _ _ => rfl) _ _ _ _).trans (sameSlots_passed s core).furrows)

theorem State.dispatched_acc : (s.dispatched core p c).acc = ((s.passed core).writeProduct core p c).acc :=
  State.claim_keeps (f := fun s => s.acc) (fun _ _ => rfl) _ _ _

end

/-! ### Slots that loops and conditions change (08 R252, R253) -/

theorem State.get?_modFurrow_self {s : State} {k : Nat} {f : Furrow} (h : Tab.get? s.furrows k = some f) (g : Furrow → Furrow) :
    Tab.get? (s.modFurrow k g).furrows k = some (g f) := by
  rw [State.modFurrow, Tab.get?_modify, if_pos rfl, h]
  rfl

theorem Nd.get?_run {x : Nd} {u : State} {f : Furrow} (h : Tab.get? u.furrows x.k = some f) (g : Node → Node) :
    Tab.get? (x.run u g).furrows x.k = some (f.modNode x.n.ix fun n => g { n with phase := .running }) := by
  rw [Nd.run, State.modNode, Tab.get?_modify, if_pos rfl, h]
  rfl

/-- Iterations that a loop has left (08 R252). -/
def Nd.loopLeft (x : Nd) : Nat :=
  if x.n.ent.w3.getLsbD 16 then bitsOf x.n.ent.w3.toNat 0 16 else bitsOf x.n.ent.w1.toNat 0 16 - 1

/-- A loop goes back while iterations remain, and else goes on. -/
theorem Nd.loop_eq (x : Nd) : x.loop =
    .next (x.run (x.s.modFurrow x.k fun f =>
      { f with cur := if x.loopLeft = 0 then x.n.ix + 1 else x.n.ix - bitsOf x.n.ent.w1.toNat 16 6 }) fun m =>
      { m with
        fin := ⟨0, some (BitVec.ofNat 64 (if x.loopLeft = 0 then 0 else x.loopLeft - 1 + 2 ^ 16)), decide (x.loopLeft = 0)⟩ }) := by
  have hloop : x.loop = .next (x.run (x.s.modFurrow x.k fun f =>
      { f with cur := if x.loopLeft != 0 then x.n.ix - bitsOf x.n.ent.w1.toNat 16 6 else x.n.ix + 1 }) fun m =>
      { m with
        fin := ⟨0, some (BitVec.ofNat 64 (if x.loopLeft != 0 then x.loopLeft - 1 + 2 ^ 16 else 0)), !(x.loopLeft != 0)⟩ }) := rfl
  rw [hloop]
  by_cases h : x.loopLeft = 0
  · simp only [h, bne_self_eq_false, Bool.false_eq_true, if_false, if_true, Bool.not_false, decide_true]
  · have hne : (x.loopLeft != 0) = true := bne_iff_ne.2 h
    simp only [hne, if_neg h, if_true, Bool.not_true, decide_eq_false h]

/-- Nodes stay at their places as they hear of their successors. -/
theorem Furrow.ix_tell {f : Furrow} {ix : Nat} (h : ∃ m ∈ f.nodes, m.ix = ix) (p : Nat) (heard : Option Nat) :
    ∃ m ∈ (f.tell p heard).nodes, m.ix = ix := by
  obtain ⟨m, hm, hix⟩ := h
  refine ⟨_, List.mem_map.2 ⟨m, hm, rfl⟩, ?_⟩
  rw [← hix]
  dsimp only
  split <;> rfl

theorem Furrow.ix_foldl_tell {f : Furrow} {ix : Nat} (h : ∃ m ∈ f.nodes, m.ix = ix) (a : Nat) (l : List Nat) :
    ∃ m ∈ (l.foldl (fun f i => f.tell (a + i) none) f).nodes, m.ix = ix := by
  induction l generalizing f with
  | nil => exact h
  | cons i l ih => exact ih (Furrow.ix_tell h _ _)

/-- The slot of a condition that skips `n` entries (08 R253). -/
def Furrow.skip (f : Furrow) (ix n : Nat) : Furrow :=
  let f := (List.range n).foldl (fun f i => f.tell (ix + 1 + i) none) f
  { f with cur := ix + 1 + n, heldDec := Tab.keep f.heldDec fun i _ => !(decide (ix < i) && decide (i ≤ ix + n)) }

/-- Entries that a condition skips. -/
def Nd.skipped (x : Nd) : Nat :=
  if condHolds (bitsOf x.n.ent.w1.toNat 22 4) (Memory.num x.t.lm (lAddr x.n.ent.w1) 8) x.n.ent.w2.toNat then 0
  else bitsOf x.n.ent.w1.toNat 26 6

theorem Nd.condition_of_clean {x : Nd} (h : x.s.lmBad x.f.team (lAddr x.n.ent.w1) 8 = false) :
    x.condition = .next (x.run (x.s.modFurrow x.k fun f => f.skip x.n.ix x.skipped) id) := by
  rw [Nd.condition, if_neg (by rw [h]; decide)]
  rfl

/-! ### SIGNAL_NODE (08 R254) -/

theorem Nd.signal_local {x : Nd} (h : isL x.n.ent.w1 = true) (hadd : Words4.flag x.n.ent 4 = false) :
    x.signal = .next (x.run (x.s.lmEngine 1 x.f.team (lAddr x.n.ent.w1) (leBytes 8 x.n.ent.w2.toNat)) id) := by
  rw [Nd.signal, Nd.global_of_local h]
  simp only [hadd, Bool.false_and, Bool.false_eq_true, if_false, Nat.add_zero]

/-- An access of a node joins the fabric; slots, memory and descriptors are as they were. -/
theorem State.nodeReq_eq (s : State) (k ix ctx : Nat) (kind : ReqKind) (va : W64) (pa size : Nat) (ents : List Nat) (data : List Byte)
    (bad clock : List Nat) : ∃ n l d, s.nodeReq k ix ctx kind va pa size ents data bad clock =
      { s with nextId := n, fabric := l, dieClock := d } := by
  rw [State.nodeReq]
  obtain ⟨d, m, c, h⟩ := State.sendReq_eq { s with nextId := s.nextId + 1 }
    { kind := kind, pa := pa, va := va, size := size, data := data, cmp := [], dests := [], sz := .b64, gid := noGroup,
      lanes := 0, ctx := ctx, core := k / 16, pc := 0, ord := .rlx, scope := .thread, num := 0, clock := clock, ents := ents,
      tag := s.nextId, bad := bad, node := some (k, ix) }
  exact ⟨_, _, _, h⟩

/-- What the access of a signal node leaves: with ADD an atomic has been sent, else its store is held back. -/
def Nd.signalled (x : Nd) (s : State) (a : W64) (p : Placed) : State :=
  if Words4.flag x.n.ent 4 then
    x.strike ((x.run s fun m => { m with sent := true }).nodeReq x.k x.n.ix x.t.ctx (.atom 0 false) a p.pa 8 p.ents
      (leBytes 8 x.n.ent.w2.toNat) [] []) (writesAt [p])
  else x.run s fun m => { m with buf := chunksOf (s.clockOf x.die) [p] ((leBytes 8 x.n.ent.w2.toNat).map fun b => (b, false)) }

section
variable {s s' : State} {core i ix kind : Nat} {x₀ x : Nd} (hx : Starts s core i ix kind x₀ x)
include hx

theorem Starts.dispatch {p : Product} (hp : p = dispatchOf x.n.ent) (hbad : x.s.productBad core x.f.team p = none)
    (hclaims : p.uses.any (x.s.exhausted core p.uses) = false) (hpoison : x.s.productPoison core p = false) (hshadow : s.shadow ≤ 1) :
    ∃ t, x.dispatch = .next t ∧ NodeRuns t x.k ix (fun n => n.sent = true) ∧ t.mem = s.mem ∧
      t.acc = ((x.s.passed core).writeProduct core p (x.s.product core x.t.lm p)).acc := by
  have hdis : ∃ F, x.dispatch = .next (x.run ((x.s.dispatched core p (x.s.product core x.t.lm p)).modGroup x.f.gid F) fun m =>
      { m with sent := true }) := by
    have h2 : ¬ 2 ≤ x.s.shadow := by rw [hx.shadow]; omega
    rw [Nd.dispatch]
    simp only [← hp, hx.core_eq, hbad, hclaims, hpoison, Bool.false_eq_true, if_false, if_neg h2]
    exact ⟨_, rfl⟩
  obtain ⟨F, hdis⟩ := hdis
  refine ⟨_, hdis, hx.runs ?_ ?_ ?_ ?_, ?_, ?_⟩
  · rw [State.modGroup_furrows, State.dispatched_furrows]
  · rfl
  · rfl
  · rfl
  · rw [Nd.run_mem, State.modGroup_mem, State.dispatched_mem, hx.mem]
  · rw [Nd.run_acc, State.modGroup_acc, State.dispatched_acc]

theorem Starts.loop : ∃ t f, x.loop = .next t ∧ Tab.get? t.furrows x.k = some f ∧
    f.cur = (if x.loopLeft = 0 then ix + 1 else ix - bitsOf x.n.ent.w1.toNat 16 6) ∧
    NodeRuns t x.k ix fun n => n.fin.go = decide (x.loopLeft = 0) ∧
      n.fin.w3 = some (BitVec.ofNat 64 (if x.loopLeft = 0 then 0 else x.loopLeft - 1 + 2 ^ 16)) := by
  have hslot := State.get?_modFurrow_self hx.slot fun f =>
    { f with cur := if x.loopLeft = 0 then x.n.ix + 1 else x.n.ix - bitsOf x.n.ent.w1.toNat 16 6 }
  refine ⟨_, _, x.loop_eq, Nd.get?_run hslot _, ?_, ?_⟩
  · rw [← hx.ix_eq]; rfl
  · rw [← hx.ix_eq]
    refine (Nd.run_runs hslot ?_ ?_ ?_).imp ?_
    · exact hx.node
    · rfl
    · rfl
    · rintro n rfl
      exact ⟨rfl, rfl⟩

theorem Starts.condition (hbad : s.lmBad x.f.team (lAddr x.n.ent.w1) 8 = false) : ∃ t f, x.condition = .next t ∧
    Tab.get? t.furrows x.k = some f ∧ f.cur = ix + 1 + x.skipped ∧ NodeRuns t x.k ix fun _ => True := by
  have hslot := State.get?_modFurrow_self hx.slot fun f => f.skip x.n.ix x.skipped
  obtain ⟨m, hm, hix⟩ : ∃ m ∈ (x.f.skip x.n.ix x.skipped).nodes, m.ix = x.n.ix := Furrow.ix_foldl_tell ⟨x.n, hx.node, rfl⟩ _ _
  refine ⟨_, _, Nd.condition_of_clean (by rw [hx.lmBad, hbad]), Nd.get?_run hslot _, ?_, ?_⟩
  · rw [← hx.ix_eq]; rfl
  · generalize x.s.modFurrow x.k (fun f => f.skip x.n.ix x.skipped) = u at hslot ⊢
    rw [← hx.ix_eq, Nd.run, ← hix]
    refine (nodeRuns_modNode hslot hm ?_ ?_).imp fun _ _ => trivial
    · rfl
    · rfl

theorem Starts.signal_local (h : isL x.n.ent.w1 = true) (hadd : Words4.flag x.n.ent 4 = false) : ∃ t, x.signal = .next t ∧
    NodeRuns t x.k ix (fun _ => True) ∧ t.lmNum x.f.team (lAddr x.n.ent.w1) 8 = x.n.ent.w2.toNat ∧ t.mem = s.mem := by
  obtain ⟨y, hy⟩ := hx.team
  refine ⟨_, Nd.signal_local h hadd, hx.runs ?_ ?_ ?_ trivial, ?_, ?_⟩
  · rw [State.lmEngine_furrows]
  · rfl
  · rfl
  · rw [State.lmNum_congr (Nd.run_teams _ _ _), State.lmNum_lmEngine_self (by rw [hy]; rfl)]
    exact Nat.mod_eq_of_lt x.n.ent.w2.isLt
  · rw [Nd.run_mem, State.lmEngine_mem, hx.mem]

theorem Starts.signal_eq {a : W64} (h : isL x.n.ent.w1 = false) (ha : gAddr? x.n.ent.w1 = some a) (hroom : s.bufUsed core + 8 ≤ 65536)
    {p : Placed} (hp : Passes x [⟨0, 0, a, 8, if Words4.flag x.n.ent 4 then .both else .write⟩] s' [p]) :
    x.signal = .next (x.signalled s' a p) := by
  have hle : x.s.bufUsed x.core + (if Words4.flag x.n.ent 4 then 0 else 8) ≤ 65536 := by
    rw [hx.bufUsed]
    split <;> omega
  rw [Nd.signal, Nd.global_of_addr h ha]
  simp only
  rw [Nd.room_of_le hle, hp.access]
  rfl

theorem Starts.signal_global {a : W64} {p : Placed}
    (hp : Passes x [⟨0, 0, a, 8, if Words4.flag x.n.ent 4 then .both else .write⟩] s' [p])
    (hquiet : Words4.flag x.n.ent 4 = true → s'.strikes x.t.ctx 1 (writesAt [p]) = []) :
    NodeRuns (x.signalled s' a p) x.k ix (fun _ => True) ∧ (x.signalled s' a p).mem = s'.mem := by
  rw [Nd.signalled]
  split
  · rename_i hadd
    have hrun : NodeRuns (x.run s' fun m => { m with sent := true }) x.k ix fun _ => True := by
      refine hx.runs hp.sameSlots.furrows ?_ ?_ trivial
      · rfl
      · rfl
    have hmem := x.run_mem s' fun m => { m with sent := true }
    have hdesc := x.run_desc s' fun m => { m with sent := true }
    generalize (x.run s' fun m => { m with sent := true }) = u at hrun hmem hdesc ⊢
    obtain ⟨n, l, d, hreq⟩ := u.nodeReq_eq x.k x.n.ix x.t.ctx (.atom 0 false) a p.pa 8 p.ents (leBytes 8 x.n.ent.w2.toNat) [] []
    rw [hreq, Nd.strike, State.engineStrike_of_none]
    · exact ⟨hrun.congr rfl, hmem⟩
    · refine (State.strikes_congr (s := s') ?_ _ _ _).trans (hquiet hadd)
      exact hdesc
  · refine ⟨hx.runs hp.sameSlots.furrows ?_ ?_ trivial, ?_⟩
    · rfl
    · rfl
    · rfl

end

/-! ### Faults of pages (08 R256) -/

theorem Nd.access_of_trap {x : Nd} {accs : List Acc} {s' : State} {c d l : Nat} {ad ax : W64}
    (h : x.s.check x.asker accs [] 1 = .trap s' c d l ad ax) (K : State → List Placed → Out) :
    x.access accs K = .next (s'.haltNode x.k x.n.ix (statusOf c) c d) := by
  rw [Nd.access, h]

theorem Nd.copyPiece_of_trap {x : Nd} {a : W64} {s' : State} {c d l : Nat} {ad ax : W64}
    (h : x.s.check x.asker (x.restAccs .read a) [] 1 = .trap s' c d l ad ax) :
    x.copyPiece (some a) none = .next (s'.haltNode x.k x.n.ix (statusOf c) c d) := by
  have hacc : ∃ K, x.copyPiece (some a) none = x.access (x.restAccs .read a ++ []) K := ⟨_, rfl⟩
  obtain ⟨K, hK⟩ := hacc
  rw [hK, List.append_nil, Nd.access_of_trap h]

theorem State.starts_of_nd? {s : State} {core i ix kind : Nat} {x₀ : Nd} (h : s.nd? core i ix kind = some x₀)
    (hst : x₀.startable = true) : Starts s core i ix kind x₀ x₀.look :=
  ⟨State.found_of_nd? h, rfl, (Nd.phase_of_startable hst : (x₀.n.phase == .running) = false)⟩

/-! ### The events of the drill -/

section
variable {s : State} {core i ix : Nat} {x : Nd} (hst : x.startable = true)
include hst

theorem exec_copyNode (h : s.nd? core i ix 0 = some x) : exec (.copyNode core i ix) s = x.look.copy :=
  (show exec (.copyNode core i ix) s = execCopyNode core i ix s from rfl).trans (State.stepNode_of_startable h hst _)
theorem exec_indirectGatherNode (h : s.nd? core i ix 1 = some x) : exec (.indirectGatherNode core i ix) s = x.look.gather :=
  (show exec (.indirectGatherNode core i ix) s = execIndirectGatherNode core i ix s from rfl).trans (State.stepNode_of_startable h hst _)
theorem exec_scatterNode (h : s.nd? core i ix 2 = some x) : exec (.scatterNode core i ix) s = x.look.scatter :=
  (show exec (.scatterNode core i ix) s = execScatterNode core i ix s from rfl).trans (State.startNode_of_startable h hst _)
theorem exec_sendNode (h : s.nd? core i ix 3 = some x) : exec (.sendNode core i ix) s = x.look.send :=
  (show exec (.sendNode core i ix) s = execSendNode core i ix s from rfl).trans (State.startNode_of_startable h hst _)
theorem exec_nearMemoryTopkNode (h : s.nd? core i ix 6 = some x) : exec (.nearMemoryTopkNode core i ix) s = x.look.topk :=
  (show exec (.nearMemoryTopkNode core i ix) s = execNearMemoryTopkNode core i ix s from rfl).trans (State.stepNode_of_startable h hst _)
theorem exec_matrixDispatchNode (h : s.nd? core i ix 7 = some x) : exec (.matrixDispatchNode core i ix) s = x.look.dispatch :=
  (show exec (.matrixDispatchNode core i ix) s = execMatrixDispatchNode core i ix s from rfl).trans (State.startNode_of_startable h hst _)
theorem exec_loopNode (h : s.nd? core i ix 8 = some x) : exec (.loopNode core i ix) s = x.look.loop :=
  (show exec (.loopNode core i ix) s = execLoopNode core i ix s from rfl).trans (State.startNode_of_startable h hst _)
theorem exec_conditionNode (h : s.nd? core i ix 9 = some x) : exec (.conditionNode core i ix) s = x.look.condition :=
  (show exec (.conditionNode core i ix) s = execConditionNode core i ix s from rfl).trans (State.startNode_of_startable h hst _)
theorem exec_signalNode (h : s.nd? core i ix 10 = some x) : exec (.signalNode core i ix) s = x.look.signal :=
  (show exec (.signalNode core i ix) s = execSignalNode core i ix s from rfl).trans (State.startNode_of_startable h hst _)

theorem exec_countedFillNode (h : s.nd? core i ix 4 = some x) : exec (.countedFillNode core i ix) s = x.look.fill := by
  show execCountedFillNode core i ix s = _
  rw [execCountedFillNode, h]
  exact if_pos hst

theorem exec_releaseNode (h : s.nd? core i ix 5 = some x) : exec (.releaseNode core i ix) s = x.look.release := by
  show execReleaseNode core i ix s = _
  rw [execReleaseNode, h]
  exact if_pos hst

end

/-- Settles O45: each kind of node by what its start does once its pages have translated. -/
theorem nodesStart : Obligations.NodesStart := by
  refine fun s core i ix x₀ hst => ⟨fun h h1 h2 hap => ?_, fun a s' ps h h1 ha h2 hroom hp => ?_,
    fun a s' ps h h1 h2 ha hroom hp => ?_, fun s' ps h hc hflag hbad hp hclean => ?_, fun s' ps h hc hbad hroom hp => ?_,
    fun dest h hdest hroom hbad => ?_, fun s' ps h hp => ?_, fun s' ps h hp => ?_, fun s' ps h hc hp hhbm hclean => ?_,
    fun h hbad hclaims hpoison hshadow => ?_, fun h => ?_, fun h hbad => ?_, fun h h1 hadd => ?_,
    fun a s' p h h1 ha hroom hp hquiet => ?_, fun a s' c d l ad ax h h1 ha h2 hroom hcheck => ?_⟩
  · rw [exec_copyNode hst h]
    exact (State.starts_of_nd? h hst).copy_local h1 h2 rfl hap
  · have hx := State.starts_of_nd? h hst
    rw [exec_copyNode hst h, hx.copy_reads h1 ha h2 hroom]
    exact hx.copyPiece_reads ⟨hp.1, hp.2⟩
  · have hx := State.starts_of_nd? h hst
    rw [exec_copyNode hst h, hx.copy_writes h1 h2 ha hroom]
    exact hx.copyPiece_writes ⟨hp.1, hp.2⟩
  · have hx := State.starts_of_nd? h hst
    rw [exec_indirectGatherNode hst h, hx.based_indices hc hbad]
    exact hx.gather hflag hclean ⟨hp.1, hp.2⟩
  · rw [exec_scatterNode hst h]
    exact (State.starts_of_nd? h hst).scatter hc hbad hroom ⟨hp.1, hp.2⟩
  · rw [exec_sendNode hst h]
    exact (State.starts_of_nd? h hst).send hdest hroom hbad
  · rw [exec_countedFillNode hst h]
    refine (State.starts_of_nd? h hst).fill (s' := s') (ps := ps) ?_
    rw [Nd.fillVas, List.map_map]
    exact ⟨hp.1, hp.2⟩
  · rw [exec_releaseNode hst h]
    refine (State.starts_of_nd? h hst).release (s' := s') (ps := ps) ?_
    rw [Nd.relVas, List.map_map]
    exact ⟨hp.1, hp.2⟩
  · rw [exec_nearMemoryTopkNode hst h]
    exact (State.starts_of_nd? h hst).topk hc ⟨hp.1, hp.2⟩ hhbm hclean
  · rw [exec_matrixDispatchNode hst h]
    exact (State.starts_of_nd? h hst).dispatch rfl hbad hclaims hpoison hshadow
  · rw [exec_loopNode hst h]
    exact (State.starts_of_nd? h hst).loop
  · rw [exec_conditionNode hst h]
    exact (State.starts_of_nd? h hst).condition hbad
  · rw [exec_signalNode hst h]
    exact (State.starts_of_nd? h hst).signal_local h1 hadd
  · have hx := State.starts_of_nd? h hst
    rw [exec_signalNode hst h]
    exact ⟨_, hx.signal_eq h1 ha hroom ⟨hp.1, hp.2⟩, hx.signal_global ⟨hp.1, hp.2⟩ hquiet⟩
  · have hx := State.starts_of_nd? h hst
    rw [exec_copyNode hst h, hx.copy_reads h1 ha h2 hroom, Nd.copyPiece_of_trap hcheck, hx.ix_eq]

end Sys2Proof.Machine
end

section
/-! The end of a group and of its team, and EXIT of the last live lanes (obligation O22). -/

namespace Sys2Proof.Machine

/-! ### Ends (10 R264, 11 R298) -/

theorem Group.ended_iff (g : Group) : g.ended = true ↔ ∀ l < 32, g.live l = false := by
  simp [Group.ended, Group.liveLanes, allLanes]

/-- What a group that ends gives up: bundles, waits, traps and the handler. -/
def Group.stopped (g : Group) : Group := { g with bundles := [], hold := none, retry := none, pend := none, inh := false, deferred := [] }

/-- The state once a group has ended, its team left as it is. -/
def State.groupEnded (s : State) (gid : Nat) : State :=
  ({ s.modGroup gid Group.stopped with accReqs := s.accReqs.filter fun r => r.gid != gid }).resumeFurrows gid

theorem State.group?_groupEnded {s : State} {gid : Nat} {g : Group} (h : s.group? gid = some g) :
    (s.groupEnded gid).group? gid = some g.stopped := by
  have hmod := s.group?_modGroup gid gid Group.stopped
  rw [if_pos rfl, h] at hmod
  exact hmod

/-- A group without a live lane ends, and its team with it where no other group of the team is open. -/
theorem State.groupOver_of_ended {s : State} {gid : Nat} {g : Group} (h : s.group? gid = some g) (he : g.ended = true) :
    s.groupOver gid =
      if ((s.groupEnded gid).openGroups g.team).isEmpty then (s.groupEnded gid).endTeam g.team else s.groupEnded gid := by
  rw [State.groupOver, h]
  exact if_pos he

/-- What a team holds is free, and the team has ended. -/
def State.teamFreed (s : State) (t : Nat) : State :=
  { s with
    banks := Tab.keep s.banks fun _ o => o != t
    ob := s.freeRecords (· == t)
    accReqs := s.accReqs.filter fun r => (s.group? r.gid).any fun g => g.team != t
    furrows := s.furrows.map fun e => if e.2.opened && e.2.team == t then (e.1, e.2.endSlot) else e
    pendings := s.pendings.filter fun p => p.team != t
    teams := Tab.modify s.teams t fun x => { x with ended := true, boxes := [] } }

/-- The launches with whether each has completed. -/
def Tab.completions (gs : Tab Grid) : List (Nat × Bool) := gs.map fun y => (y.1, y.2.completed)

theorem Tab.completions_modify {gs : Tab Grid} {k : Nat} {f : Grid → Grid} (h : ∀ g, (f g).completed = g.completed) :
    Tab.completions (Tab.modify gs k f) = Tab.completions gs := by
  simp only [Tab.completions, Tab.modify, List.map_map]
  refine List.map_congr_left fun y _ => ?_
  simp only [Function.comp_apply]
  split
  · rw [h]
  · rfl

/-- Beside what the team held, its end changes the phase of its cluster and the count of clusters that a launch has finished. -/
theorem State.endTeam_eq (s : State) (t : Nat) :
    ∃ cs gs, s.endTeam t = { s.teamFreed t with clusters := cs, grids := gs } ∧ Tab.completions gs = Tab.completions s.grids := by
  rw [State.endTeam]
  simp only
  split
  · exact ⟨s.clusters, s.grids, rfl, rfl⟩
  · split
    · exact ⟨_, _, rfl, Tab.completions_modify fun _ => rfl⟩
    · exact ⟨s.clusters, s.grids, rfl, rfl⟩

theorem State.group?_endTeam (s : State) (t k : Nat) : (s.endTeam t).group? k = s.group? k := by
  obtain ⟨cs, gs, h, -⟩ := s.endTeam_eq t
  rw [h]
  rfl

/-- Nothing of the machine is the team's any more. -/
structure TeamGone (t : State) (k : Nat) : Prop where
  banks : ∀ x ∈ t.banks, x.2 ≠ k
  records : ∀ x ∈ t.ob, x.2.live = true → x.2.team ≠ k
  pendings : ∀ p ∈ t.pendings, p.team ≠ k
  team : ∀ x, Tab.get? t.teams k = some x → x.ended = true ∧ x.boxes = []

theorem State.teamFreed_ob (s : State) (t : Nat) : ∀ x ∈ (s.teamFreed t).ob, x.2.live = true → x.2.team ≠ t := by
  intro x hx hlive
  obtain ⟨y, -, rfl⟩ := List.mem_map.1 hx
  by_cases hown : (y.2.live && y.2.team == t) = true
  · simp [hown, ObRec.free] at hlive
  · rw [if_neg hown] at hlive ⊢
    simpa [hlive] using hown

theorem State.teamGone_endTeam (s : State) (t : Nat) : TeamGone (s.endTeam t) t := by
  obtain ⟨cs, gs, h, -⟩ := s.endTeam_eq t
  rw [h]
  refine ⟨fun x hx => ?_, s.teamFreed_ob t, fun p hp => ?_, fun x hx => ?_⟩
  · simpa using (List.mem_filter.1 hx).2
  · simpa using (List.mem_filter.1 hp).2
  · have hmod : (Tab.get? s.teams t).map (fun x => { x with ended := true, boxes := [] }) = some x :=
      ((Tab.get?_modify s.teams t t _).trans (if_pos rfl)).symm.trans hx
    obtain ⟨y, -, rfl⟩ := Option.map_eq_some_iff.1 hmod
    exact ⟨rfl, rfl⟩

/-- A group without a live lane ends; memory is as before, and the team is gone where none of its groups is open. -/
theorem State.groupOver_ends {s : State} {gid : Nat} {g : Group} (h : s.group? gid = some g) (he : g.ended = true) :
    (s.groupOver gid).group? gid = some g.stopped ∧ (s.groupOver gid).mem = s.mem ∧
      ((s.groupOver gid).openGroups g.team = [] → TeamGone (s.groupOver gid) g.team) := by
  rw [State.groupOver_of_ended h he]
  have hg := State.group?_groupEnded h
  split
  · obtain ⟨cs, gs, hend, -⟩ := (s.groupEnded gid).endTeam_eq g.team
    exact ⟨by rw [State.group?_endTeam, hg], by rw [hend]; rfl, fun _ => State.teamGone_endTeam _ _⟩
  · rename_i hopen
    exact ⟨hg, rfl, fun hnil => absurd (List.isEmpty_iff.2 hnil) hopen⟩

/-! ### EXIT (11 R298) -/

section
variable {o : Ops} {m : BitVec 20} {s : State} {e : Env}

theorem Group.exit_eq (g : Group) (ls : List Nat) : g.exit ls = { g with lanes := (g.exit ls).lanes } := Group.modLanes_eq _ _ _

/-- The lanes of a list are live no more. -/
theorem Group.live_exit (g : Group) {ls : List Nat} (h : ls.Nodup) (l : Nat) :
    (g.exit ls).live l = (g.live l && decide (l ∉ ls)) := by
  rw [Group.exit, Group.live, Group.lane_modLanes _ _ _ (h.filter _)]
  split
  · rename_i hl
    simp [(List.mem_filter.1 hl).1, Lane.isLive]
  · rename_i hl
    rw [List.mem_filter] at hl
    cases hlive : g.live l with
    | false => exact hlive
    | true => exact hlive.trans (by simpa using fun hmem => hl ⟨hmem, hlive⟩)

theorem Group.live_restart (g : Group) (c : Nat) (ls : List Nat) (l : Nat) : (g.restart c ls).live l = g.live l := by
  rw [Group.restart_eq]
  rfl

/-- A bundle that goes on changes no lane's LSTAT. -/
theorem Env.live_goneOn (e : Env) (s : State) (g : Group) (dest : Nat → W64) (h : e.lanes.Nodup) (l : Nat) :
    (e.goneOn s g dest).live l = g.live l := by
  have hstat : ((e.goneOn s g dest).lane l).stat = (g.lane l).stat := congrArg (fun k => k.2.2.1) (e.goneOn_kept s g dest h l)
  rw [Group.live, Group.live, Lane.isLive, Lane.isLive, hstat]

/-- The lanes of the bundle that EXIT leaves in it. -/
def Env.left (e : Env) : Env := { e with lanes := e.lanes.filter fun l => !e.act.contains l }

/-- The group with its active lanes exited. -/
def Env.exited (e : Env) (s : State) : Group := (e.g.restart s.cycle e.act).exit e.act

theorem exec_exit (hb : Begins (.exit o m) s e) :
    exec (.exit o m) s = .next ((e.left.after s (e.exited s) fun _ => e.next).groupOver e.u.gid) := by
  have hexec := exec_of_issue1 (show exec (.exit o m) s = execExit o m s from rfl) rfl rfl rfl hb
  rw [hb.env_s] at hexec
  exact hexec

theorem Env.exited_team (e : Env) (s : State) : (e.exited s).team = e.g.team := by
  rw [Env.exited, Group.exit_eq, Group.restart_eq]

/-- EXIT of every live lane leaves no lane live. -/
theorem Env.ended_goneOn_exited (hb : Begins (.exit o m) s e) (hall : ∀ l < 32, e.g.live l = true → l ∈ e.act) :
    (e.left.goneOn s (e.exited s) fun _ => e.next).ended = true := by
  refine (Group.ended_iff _).2 fun l hl => ?_
  rw [Env.live_goneOn _ _ _ _ (hb.lanes_nodup.filter _), Env.exited, Group.live_exit _ hb.act_nodup, Group.live_restart]
  cases hlive : e.g.live l with
  | false => rfl
  | true => simpa using hall l hl hlive

end

/-- Settles O22: the bundle goes on without its exited lanes, and the group, none of whose lanes is live, is over. -/
theorem lastExitEndsTheGroup : Obligations.LastExitEndsTheGroup := by
  intro o m s e hb hall
  have hended := Env.ended_goneOn_exited hb hall
  have hteam : (e.left.goneOn s (e.exited s) fun _ => e.next).team = e.g.team := by rw [Env.goneOn_team, Env.exited_team]
  have hgroup : (e.left.after s (e.exited s) fun _ => e.next).group? e.u.gid = _ := e.left.after_group s (e.exited s) fun _ => e.next
  obtain ⟨hg, hmem, hgone⟩ := State.groupOver_ends hgroup hended
  rw [hteam] at hgone
  refine ⟨_, _, exec_exit hb, hg, hended, rfl, rfl, rfl, ?_, fun hopen => ?_⟩
  · rw [hmem, Env.after_mem]
  · have h := hgone hopen
    exact ⟨h.banks, h.records, h.pendings, h.team⟩

end Sys2Proof.Machine
end

section
/-! What traps, records, freezes and completions leave of time and of the launches (obligation O54). -/

namespace Sys2Proof.Machine

/-! ### Time and completed launches -/

/-- The clocks, the issues since the last tick, and the launches with whether each has completed. -/
def State.pace (s : State) : Nat × Nat × Tab Nat × List (Nat × Bool) := (s.cycle, s.gtime, s.slots, Tab.completions s.grids)

/-- No time passes, no bundle issues and no launch completes between `s` and `t`. -/
def SamePace (s t : State) : Prop := t.pace = s.pace

theorem samePace_of {s t : State} (hcycle : t.cycle = s.cycle) (hgtime : t.gtime = s.gtime) (hslots : t.slots = s.slots)
    (hgrids : t.grids = s.grids) : SamePace s t := by
  rw [SamePace, State.pace, State.pace, hcycle, hgtime, hslots, hgrids]

theorem SamePace.refl (s : State) : SamePace s s := Eq.refl s.pace

theorem SamePace.trans {s t u : State} (h : SamePace s t) (k : SamePace t u) : SamePace s u := Eq.trans k h

theorem SamePace.ite {s t u : State} {p : Prop} [Decidable p] (h : SamePace s t) (k : SamePace s u) :
    SamePace s (if p then t else u) := by
  split
  · exact h
  · exact k

theorem SamePace.foldl {γ : Type} {f : State → γ → State} (h : ∀ s x, SamePace s (f s x)) (l : List γ) (s : State) :
    SamePace s (l.foldl f s) := foldl_keeps State.pace f h l s

theorem SamePace.grids {s t : State} (h : SamePace s t) : Tab.completions t.grids = Tab.completions s.grids :=
  congrArg (fun p => p.2.2.2) h

theorem OnlyBooks.samePace {s t : State} (h : OnlyBooks s t) : SamePace s t := by
  obtain ⟨b, rfl⟩ := h
  exact .refl s

/-- Changing launches without completing one. -/
theorem samePace_grids (s : State) {gs : Tab Grid} (h : Tab.completions gs = Tab.completions s.grids) :
    SamePace s { s with grids := gs } :=
  congrArg (fun c => (s.cycle, s.gtime, s.slots, c)) h

/-! ### Records and freezes (07 R200, 14 R373) -/

theorem samePace_setField (s : State) (c blk lo n v : Nat) : SamePace s (s.setField c blk lo n v) := by
  obtain ⟨d, hd⟩ := s.setField_eq c blk lo n v
  rw [hd]
  exact .refl s

theorem samePace_signal (s : State) (c : Nat) : SamePace s (s.signal c) := .ite (.refl s) (.ite (.refl s) (.refl s))

theorem samePace_advanceRing (s : State) (c k : Nat) : SamePace s (s.advanceRing c k) := by
  unfold State.advanceRing
  split
  · exact (samePace_setField s _ _ _ _ _).trans (.ite (samePace_signal _ _) (.refl _))
  · exact (samePace_setField s _ _ _ _ _).trans (.ite (samePace_signal _ _) (.refl _))
  · exact samePace_setField s _ _ _ _ _

theorem samePace_mergeAtom (s : State) (pa : Nat) (bs : List Byte) : SamePace s (s.mergeAtom pa bs) := by
  have hpoison : OnlyBooks s (if bs.length = 32 then s.setPoison pa false else if s.poisonedAt pa then s.reportBad pa 0 else s) :=
    .ite (onlyBooks_setPoison s _ _) (.ite (onlyBooks_reportBad s _ _) (.refl s))
  have hpoke : ∀ u : State, SamePace u (u.poke pa bs) := fun u =>
    (onlyBooks_markDirty { u with mem := Memory.setBytes u.mem pa bs } pa).samePace
  exact hpoison.samePace.trans (.ite rfl (hpoke _))

theorem samePace_hold (s : State) (bs : List (Nat × Byte)) (pa : Nat) (w : WriteBy) (d : Nat) (c : List Nat) :
    SamePace s (s.hold bs pa w d c) := .refl s

theorem samePace_writeRecord (s : State) (d c k pa : Nat) (bs : List Byte) : SamePace s (s.writeRecord d c k pa bs) := by
  have hcount : SamePace s (s.countWrite d) := .refl s
  have hstamp : ∀ (u : State) (n : Nat) (x : List Nat), SamePace u (u.leaveStamp pa n x) := fun u _ _ => .ite (.refl u) rfl
  have hnote : ∀ (u : State) (n m : Nat), SamePace u (u.noteOver pa n d m) := fun u _ _ => .refl u
  exact hcount.trans (.ite (samePace_hold _ _ _ _ _ _) (.trans (.foldl (fun u _ => samePace_mergeAtom u _ _) _ _)
    (.trans (hstamp _ _ _) (.trans (hnote _ _ _) (samePace_advanceRing _ _ _)))))

theorem samePace_eqAppend (s : State) (c : Nat) (r : BitVec 256) : SamePace s (s.eqAppend c r) :=
  .ite (.trans (.ite (.refl s) (samePace_setField s _ _ _ _ _)) (samePace_setField _ _ _ _ _ _)) (samePace_writeRecord s _ _ _ _ _)

theorem samePace_stopCtx (s : State) (c : Nat) : SamePace s (s.stopCtx c) := by
  have hfurrow : ∀ (u : State) (k : Nat) (f : Furrow), SamePace u (u.freezeFurrow k f) := fun u _ _ => .refl u
  refine .foldl (fun u kf => ?_) s.furrows s
  exact .ite (hfurrow u kf.1 kf.2) (.refl u)

theorem samePace_setFrozen (s : State) (c cause : Nat) : SamePace s (s.setFrozen c cause) :=
  .trans (.trans (samePace_setField s _ _ _ _ _) (samePace_setField _ _ _ _ _ _)) (.ite (samePace_setField _ _ _ _ _ _) (.refl _))

theorem samePace_freeze (s : State) (c cause src core : Nat) (va : W64) (pa : Nat) (pc : W64) (toEq : Bool) :
    SamePace s (s.freeze c cause src core va pa pc toEq) := by
  unfold State.freeze
  refine .ite (.refl s) ?_
  extract_lets u r ok v w
  have hu : SamePace s u := (samePace_stopCtx s c).trans (samePace_setFrozen _ c cause)
  have hv : SamePace u v := .ite (samePace_eqAppend u c r) (.refl u)
  have hw : SamePace v w := (onlyBooks_postSys v r).samePace
  clear_value w v ok r u
  exact hu.trans (.ite (.refl u) (hv.trans (hw.trans (.ite (samePace_signal w c) (.refl w)))))

/-- Posting with `post` takes no time; of the function, as in `PostKeepsLines`. -/
structure PostKeepsPace (post : State → Nat → BitVec 256 → State) : Prop where
  same : ∀ s c r, SamePace s (post s c r)

theorem postEq_keepsPace : PostKeepsPace State.postEq := by
  delta State.postEq
  refine ⟨fun s c r => ?_⟩
  generalize s.eqSlot c = slot
  cases slot with
  | none => exact samePace_eqAppend s c r
  | some a => exact .ite (samePace_eqAppend s c r) (samePace_freeze s _ _ _ _ _ _ _ _)

theorem samePace_postCall (s : State) (c : Call) : SamePace s (s.postCall c) := by
  rw [State.postCall]
  refine .ite (.refl s) ?_
  simp only
  refine .ite (.ite (.refl s) (.refl s)) (.ite ?_ (samePace_freeze s _ _ _ _ _ _ _ _))
  split
  · exact .trans (t := { s with calls := _ }) (.refl s) (samePace_writeRecord _ _ _ _ _ _)
  · exact .refl s

/-! ### Groups that end, trap and go on (10 R264; 16 R400, R407) -/

theorem samePace_setGroup (s : State) (gid : Nat) (g : Group) : SamePace s (s.setGroup gid g) := .refl s

theorem samePace_charge (s : State) (g : Group) : SamePace s (s.charge g) :=
  samePace_grids s (Tab.completions_modify fun _ => rfl)

theorem samePace_endTeam (s : State) (t : Nat) : SamePace s (s.endTeam t) := by
  obtain ⟨cs, gs, h, hgs⟩ := s.endTeam_eq t
  rw [h]
  exact .trans (t := { s.teamFreed t with clusters := cs }) (.refl s) (samePace_grids _ hgs)

theorem samePace_groupOver (s : State) (gid : Nat) : SamePace s (s.groupOver gid) := by
  have hover : SamePace s (s.groupEnded gid) := .refl s
  rw [State.groupOver]
  split
  · exact .refl s
  · exact .ite (.ite (hover.trans (samePace_endTeam (s.groupEnded gid) _)) hover) (.refl s)

theorem samePace_unhandled (s : State) (gid : Nat) (g : Group) (r : TrapRec) : SamePace s (s.unhandled gid g r) :=
  ((samePace_setGroup s gid _).trans (samePace_groupOver _ gid)).trans (postEq_keepsPace.same _ _ _)

theorem samePace_enterTrap (s : State) (gid : Nat) : SamePace s (s.enterTrap gid) := by
  rw [State.enterTrap]
  split
  · exact .refl s
  split
  · exact .refl s
  · exact .ite (samePace_unhandled s _ _ _) (samePace_setGroup s _ _)

theorem samePace_settle (s : State) (gid : Nat) : SamePace s (s.settle gid) := by
  rw [State.settle]
  split
  · exact .refl s
  · exact .ite (samePace_enterTrap s gid) (.refl s)

theorem samePace_raise (s : State) (gid : Nat) (r : TrapRec) : SamePace s (s.raise gid r) := by
  rw [State.raise]
  split
  · exact .refl s
  · refine .ite (.refl s) (.trans ?_ (samePace_settle _ gid))
    exact .refl s

theorem samePace_takeDeferred (s : State) (gid : Nat) : SamePace s (s.takeDeferred gid) := by
  rw [State.takeDeferred]
  split
  · exact .refl s
  split
  · exact .refl s
  · exact (samePace_setGroup s gid _).trans (samePace_raise _ _ _)

theorem samePace_takeWatch (s : State) (gid : Nat) : SamePace s (s.takeWatch gid) := by
  rw [State.takeWatch]
  split
  · exact .refl s
  split
  · exact .refl s
  · exact .ite (.refl s) ((samePace_setGroup s gid _).trans (samePace_raise _ _ _))

theorem samePace_leaveTrap (s : State) (gid : Nat) : SamePace s (s.leaveTrap gid) := by
  rw [State.leaveTrap]
  split
  · exact .refl s
  · refine .trans (.trans (.trans ?_ (samePace_groupOver _ gid)) (samePace_takeDeferred _ gid)) (samePace_takeWatch _ gid)
    exact .ite (.refl s) (.refl s)

theorem samePace_releaseGroup (s : State) (gid : Nat) : SamePace s (s.releaseGroup gid) := by
  rw [State.releaseGroup]
  split
  · exact .refl s
  · exact (samePace_setGroup s gid _).trans (samePace_charge _ _)

theorem samePace_stallAt (s : State) (gid cause detail : Nat) (addr aux : W64) : SamePace s (s.stallAt gid cause detail addr aux) := by
  rw [State.stallAt]
  split
  · exact .refl s
  split
  · exact .refl s
  · exact (samePace_setGroup s gid _).trans (samePace_raise _ _ _)

theorem samePace_rehold (s : State) (gid : Nat) : SamePace s (s.rehold gid) := by
  have hset : ∀ g, SamePace s (s.setGroup gid g) := samePace_setGroup s gid
  rw [State.rehold]
  split
  · exact .refl s
  split
  · exact .refl s
  refine .ite (.refl s) ?_
  split
  case h_6 => exact .ite (hset _) (.refl s)
  case h_7 => exact .ite (hset _) (.refl s)
  case h_8 => exact .ite ((samePace_releaseGroup s gid).trans (samePace_leaveTrap _ gid)) (.refl s)
  case h_9 => exact .ite (.refl s) (samePace_releaseGroup s gid)
  case h_11 => exact hset _
  case h_12 => exact hset _
  case h_13 => exact hset _
  all_goals exact .refl s

/-! ### What a tick does to waits of groups (10 R277; 11 R308, R319; 14 R387) -/

theorem samePace_arm (s : State) (c n : Nat) : SamePace s (s.arm c n) := by
  rw [State.arm]
  simp only
  split <;> exact samePace_of rfl rfl rfl rfl

theorem samePace_settleRoots (s : State) : SamePace s s.settleRoots := by
  unfold State.settleRoots
  refine .foldl (fun s e => ?_) _ s
  exact .ite (samePace_arm s _ _) (.ite (samePace_of rfl rfl rfl rfl) (.refl s))

theorem samePace_answerGroup (s : State) (e : Nat × Group) : SamePace s (s.answerGroup e) := by
  rw [State.answerGroup]
  split
  · split
    · exact .ite ((SamePace.refl s).trans (samePace_releaseGroup _ _)) (.refl s)
    · exact .refl s
  · exact .refl s

theorem samePace_answerResets (s : State) : SamePace s s.answerResets :=
  (samePace_settleRoots s).trans (.foldl samePace_answerGroup _ _)

theorem samePace_releaseBarriers (s : State) : SamePace s s.releaseBarriers := by
  unfold State.releaseBarriers
  refine .foldl (fun s e => ?_) _ s
  exact (samePace_releaseGroup s e.1).trans (samePace_of rfl rfl rfl rfl)

theorem samePace_breakDeadlock (s : State) (core : Nat) : SamePace s (s.breakDeadlock core) := by
  rw [State.breakDeadlock]
  split
  · exact .refl s
  · exact .ite (samePace_stallAt s _ _ _ _ _) (.refl s)

theorem samePace_breakDeadlocks (s : State) : SamePace s s.breakDeadlocks := .foldl samePace_breakDeadlock _ s

theorem samePace_postCalls (s : State) : SamePace s s.postCalls := .foldl samePace_postCall _ s

theorem samePace_standStill (s : State) (dt : Nat) : SamePace s (s.standStill dt) := .ite (.refl s) (.refl s)

theorem samePace_catchUp (s : State) (was now : List (Nat × Nat)) : SamePace s (s.catchUp was now) := by
  refine .foldl (fun s x => ?_) _ s
  simp only
  split
  · exact .refl s
  · exact samePace_grids s (Tab.completions_modify fun _ => rfl)

end Sys2Proof.Machine
end

section
/-! FORMATION_TICK: time passes and the ready lanes form bundles (obligation O54). -/

namespace Sys2Proof.Machine

/-! ### Lanes of a mask -/

theorem testBit_foldl_or (ls : List Nat) (a k : Nat) :
    (ls.foldl (fun a l => a ||| 2 ^ l) a).testBit k = (a.testBit k || decide (k ∈ ls)) := by
  induction ls generalizing a with
  | nil => simp
  | cons l ls ih =>
    rw [List.foldl_cons, ih, Nat.testBit_or, Nat.testBit_two_pow]
    by_cases hk : k = l
    · simp [hk]
    · simp [hk, Ne.symm hk]

theorem hasLane_maskOf {l : Nat} (h : l < 32) (ls : List Nat) : hasLane (maskOf ls) l = true ↔ l ∈ ls := by
  rw [hasLane, maskOf, BitVec.getLsbD_ofNat, testBit_foldl_or]
  simp [h]

theorem mem_lanesOf_maskOf {ls : List Nat} {l : Nat} (h : l ∈ lanesOf (maskOf ls)) : l ∈ ls := by
  obtain ⟨hlt, hbit⟩ := mem_lanesOf.1 h
  exact (hasLane_maskOf hlt ls).1 hbit

/-! ### Bundles (10 R277) -/

/-- The lanes of a bundle share its PC. -/
theorem bundlesOf_share {pc : Nat → W64} {n : Nat} {ls : List Nat} {b : Bundle} (h : b ∈ bundlesOf pc n ls) :
    ∃ here, b.lanes = maskOf here ∧ ∀ l ∈ here, l ∈ ls ∧ pc l = b.pc := by
  induction n generalizing ls with
  | zero => cases h
  | succ n ih =>
    cases ls with
    | nil => cases h
    | cons k ls =>
      rcases List.mem_cons.1 h with rfl | h
      · refine ⟨_, rfl, fun l hl => ?_⟩
        rcases List.mem_cons.1 hl with rfl | hl
        · exact ⟨List.mem_cons_self, rfl⟩
        · obtain ⟨hmem, hpc⟩ := List.mem_filter.1 hl
          exact ⟨List.mem_cons_of_mem _ hmem, eq_of_beq hpc⟩
      · obtain ⟨here, hb, hhere⟩ := ih h
        exact ⟨here, hb, fun l hl => ⟨List.mem_cons_of_mem _ (List.mem_of_mem_filter (hhere l hl).1), (hhere l hl).2⟩⟩

/-- Every lane is in a bundle. -/
theorem bundlesOf_cover {pc : Nat → W64} {n : Nat} {ls : List Nat} (hn : ls.length ≤ n) {l : Nat} (h : l ∈ ls) :
    ∃ b ∈ bundlesOf pc n ls, ∃ here, b.lanes = maskOf here ∧ l ∈ here := by
  induction n generalizing ls with
  | zero => rw [List.length_eq_zero_iff.1 (Nat.le_zero.1 hn)] at h; cases h
  | succ n ih =>
    cases ls with
    | nil => cases h
    | cons k ls =>
      by_cases hpc : pc l = pc k
      · refine ⟨_, List.mem_cons_self, _, rfl, ?_⟩
        exact (List.mem_cons.1 h).elim (fun hl => hl ▸ List.mem_cons_self)
          fun hl => List.mem_cons_of_mem _ (List.mem_filter.2 ⟨hl, beq_iff_eq.2 hpc⟩)
      · have hl : l ∈ ls := (List.mem_cons.1 h).resolve_left fun hl => hpc (hl ▸ rfl)
        have hlen : (ls.filter fun k' => pc k' != pc k).length ≤ n :=
          (List.length_filter_le _ _).trans (Nat.le_of_succ_le_succ hn)
        obtain ⟨b, hb, hhere⟩ := ih hlen (List.mem_filter.2 ⟨hl, bne_iff_ne.2 hpc⟩)
        exact ⟨b, List.mem_cons_of_mem _ hb, hhere⟩

/-- Forming bundles changes of a lane only the cycle since which it is ready. -/
theorem State.form_lane (s : State) (g : Group) (l : Nat) : ∃ c, (s.form g).lane l = { g.lane l with ready := c } := by
  have h := Group.lane_modLanes g ((allLanes.filter (s.formable g)).filter fun l => !g.ready l)
    (fun x => { x with ready := s.cycle }) ((allLanes_nodup.filter _).filter _) l
  by_cases hl : l ∈ (allLanes.filter (s.formable g)).filter fun l => !g.ready l
  · exact ⟨s.cycle, h.trans (if_pos hl)⟩
  · exact ⟨(g.lane l).ready, h.trans (if_neg hl)⟩

theorem State.form_eq (s : State) (g : Group) :
    s.form g = { g with lanes := (s.form g).lanes, bundles := bundlesOf g.epc 32 (allLanes.filter (s.formable g)) } := by
  rw [State.form]
  simp only
  rw [Group.modLanes_eq]

theorem State.form_ready (s : State) (g : Group) (l : Nat) : (s.form g).ready l = g.ready l := by
  obtain ⟨c, hl⟩ := s.form_lane g l
  rw [Group.ready, Group.ready, hl, State.form_eq]
  rfl

theorem State.form_waitsAt (s : State) (g : Group) (l : Nat) : (s.form g).waitsAt l = g.waitsAt l := by
  obtain ⟨c, hl⟩ := s.form_lane g l
  rw [Group.waitsAt, Group.waitsAt, Group.live, Group.live, hl, State.form_eq]
  rfl

theorem State.form_epc (s : State) (g : Group) (l : Nat) : (s.form g).epc l = g.epc l := by
  obtain ⟨c, hl⟩ := s.form_lane g l
  rw [Group.epc, Group.epc, hl, State.form_eq]

theorem State.form_bundles (s : State) (g : Group) : (s.form g).bundles = bundlesOf g.epc 32 (allLanes.filter (s.formable g)) := by
  rw [State.form_eq]

/-- A lane that a bundle may hold is ready, or stands at a cross-lane instruction. -/
theorem State.ready_or_waits_of_formable {s : State} {g : Group} {l : Nat} (h : s.formable g l = true) :
    g.ready l = true ∨ (g.waitsAt l).isSome = true := by
  rw [State.formable, Bool.or_eq_true] at h
  refine h.imp_right fun h => ?_
  rw [State.complete?] at h
  cases hw : g.waitsAt l with
  | none => simp [hw] at h
  | some i => rfl

/-- The lanes of a bundle that has been formed are ready, or stand at a cross-lane instruction, and share its PC. -/
theorem State.form_share (s : State) (g : Group) {b : Bundle} (hb : b ∈ (s.form g).bundles) {l : Nat} (hl : l ∈ lanesOf b.lanes) :
    ((s.form g).ready l = true ∨ ((s.form g).waitsAt l).isSome = true) ∧ (s.form g).epc l = b.pc := by
  rw [s.form_bundles] at hb
  obtain ⟨here, hlanes, hhere⟩ := bundlesOf_share hb
  rw [hlanes] at hl
  obtain ⟨hmem, hpc⟩ := hhere l (mem_lanesOf_maskOf hl)
  rw [s.form_ready, s.form_waitsAt, s.form_epc]
  exact ⟨State.ready_or_waits_of_formable (List.mem_filter.1 hmem).2, hpc⟩

/-- Every ready lane is in a bundle. -/
theorem State.form_cover (s : State) (g : Group) {l : Nat} (hl : l < 32) (hr : (s.form g).ready l = true) :
    ∃ b ∈ (s.form g).bundles, hasLane b.lanes l = true := by
  rw [s.form_ready] at hr
  have hmem : l ∈ allLanes.filter (s.formable g) :=
    List.mem_filter.2 ⟨List.mem_range.2 hl, by rw [State.formable, hr, Bool.true_or]⟩
  have hlen : (allLanes.filter (s.formable g)).length ≤ 32 := (List.length_filter_le _ _).trans (List.length_range ▸ le_rfl)
  obtain ⟨b, hb, here, hlanes, hhere⟩ := bundlesOf_cover (pc := g.epc) hlen hmem
  exact ⟨b, s.form_bundles g ▸ hb, by rw [hlanes]; exact (hasLane_maskOf hl here).2 hhere⟩

/-! ### The tick (10 R277 to R281) -/

/-- Four cycles on, with nothing issued since. -/
def State.fourOn (s : State) : State := { s.advance with slots := [] }

/-- Waits of threads and meetings that are over have ended. -/
def State.waitsEnded (s : State) : State := { s with groups := s.groups.map s.tickGroup }

/-- What groups are held for has been looked at again. -/
def State.reheld (s : State) : State :=
  ((s.groups.map (·.1)).foldl State.rehold s.answerResets).releaseBarriers.breakDeadlocks.postCalls

/-- The state in which a tick forms bundles. -/
def State.beforeForming (s : State) : State := (s.fourOn.standStill (s.fourOn.gtime - s.gtime)).waitsEnded.reheld

/-- Bundles are formed in every group. -/
def State.formed (s : State) : State := { s with groups := s.groups.map s.formGroup }

/-- The state after the tick but for what is over. -/
def State.caughtUp (s : State) : State :=
  s.beforeForming.formed.catchUp s.readyKernels s.beforeForming.formed.readyKernels

theorem State.tick_of_on {s : State} (h : s.power = .on) : s.tick = s.caughtUp.sweep := by
  unfold State.tick
  rw [if_neg (by rw [h]; decide)]
  rfl

theorem samePace_reheld (s : State) : SamePace s s.reheld :=
  (((samePace_answerResets s).trans (.foldl samePace_rehold _ _)).trans (samePace_releaseBarriers _)).trans
    ((samePace_breakDeadlocks _).trans (samePace_postCalls _))

theorem State.samePace_beforeForming (s : State) : SamePace s.fourOn s.beforeForming := by
  have htick : ∀ u : State, SamePace u u.waitsEnded := fun u => samePace_of rfl rfl rfl rfl
  exact ((samePace_standStill _ _).trans (htick _)).trans (samePace_reheld _)

theorem State.samePace_caughtUp (s : State) : SamePace s.fourOn s.caughtUp := by
  have hform : ∀ u : State, SamePace u u.formed := fun u => samePace_of rfl rfl rfl rfl
  exact (s.samePace_beforeForming.trans (hform _)).trans (samePace_catchUp _ _ _)

/-- Steps that change launches alone change launches alone together. -/
theorem foldl_onlyGrids {γ : Type} {f : State → γ → State} (h : ∀ s x, ∃ gs, f s x = { s with grids := gs }) (l : List γ) (s : State) :
    ∃ gs, l.foldl f s = { s with grids := gs } := by
  induction l generalizing s with
  | nil => exact ⟨s.grids, rfl⟩
  | cons x l ih =>
    obtain ⟨gs, hx⟩ := h s x
    obtain ⟨gs', hl⟩ := ih (f s x)
    exact ⟨gs', by rw [List.foldl_cons, hl, hx]⟩

/-- A pass that catches up is of a launch. -/
theorem State.catchUp_eq (s : State) (was now : List (Nat × Nat)) : ∃ gs, s.catchUp was now = { s with grids := gs } := by
  refine foldl_onlyGrids (fun s x => ?_) _ s
  simp only
  split
  · exact ⟨s.grids, rfl⟩
  · exact ⟨_, rfl⟩

section
variable (s : State) (was now : List (Nat × Nat)) (g : Group)
@[simp] theorem State.catchUp_groups : (s.catchUp was now).groups = s.groups := by
  obtain ⟨gs, h⟩ := s.catchUp_eq was now; rw [h]
@[simp] theorem State.onCore_catchUp : (s.catchUp was now).onCore g = s.onCore g := by
  obtain ⟨gs, h⟩ := s.catchUp_eq was now; rw [h]; rfl
@[simp] theorem State.coreRuns_catchUp (core : Nat) : (s.catchUp was now).coreRuns core = s.coreRuns core := by
  obtain ⟨gs, h⟩ := s.catchUp_eq was now; rw [h]; rfl
@[simp] theorem State.onCore_formed : s.formed.onCore g = s.onCore g := rfl
@[simp] theorem State.coreRuns_formed (core : Nat) : s.formed.coreRuns core = s.coreRuns core := rfl
end

/-- What is over leaves the tables of the work; nothing else changes. -/
theorem State.sweep_eq (s : State) : ∃ p : Group → Bool, ∃ ts cs gs,
    s.sweep = { s with groups := Tab.keep s.groups fun _ g => p g, teams := ts, clusters := cs, grids := gs } := by
  rw [State.sweep]
  split
  · refine ⟨fun _ => true, s.teams, s.clusters, s.grids, ?_⟩
    have hkeep : Tab.keep s.groups (fun _ _ => true) = s.groups := List.filter_eq_self.2 fun _ _ => rfl
    rw [hkeep]
  · exact ⟨_, _, _, _, rfl⟩

theorem State.mem_sweep {s : State} {x : Nat × Group} (h : x ∈ s.sweep.groups) : x ∈ s.groups := by
  obtain ⟨p, ts, cs, gs, hsweep⟩ := s.sweep_eq
  rw [hsweep] at h
  exact List.mem_of_mem_filter h

theorem State.sweep_pace (s : State) : s.sweep.cycle = s.cycle ∧ s.sweep.slots = s.slots ∧ s.sweep.gtime = s.gtime := by
  obtain ⟨p, ts, cs, gs, hsweep⟩ := s.sweep_eq
  rw [hsweep]
  exact ⟨rfl, rfl, rfl⟩

theorem State.sweep_of_open {s : State} (h : ∀ y ∈ s.grids, y.2.completed = false) : s.sweep = s := by
  have hpast : (s.grids.filter fun e => e.2.completed && (s.gridGroups e.1).all fun g => s.groupQuiet g.1) = [] :=
    List.filter_eq_nil_iff.2 fun y hy => by simp [h y hy]
  rw [State.sweep]
  simp only [hpast, List.map_nil]

theorem Tab.open_iff (gs : Tab Grid) : (∀ y ∈ gs, y.2.completed = false) ↔ ∀ c ∈ Tab.completions gs, c.2 = false := by
  simp only [Tab.completions, List.forall_mem_map]

/-- The groups after a tick are groups with bundles formed. -/
theorem State.mem_tick_groups {s : State} (h : s.power = .on) {x : Nat × Group} (hx : x ∈ s.tick.groups) :
    ∃ y, x = s.beforeForming.formGroup y := by
  rw [State.tick_of_on h] at hx
  have hmem := State.mem_sweep hx
  rw [State.caughtUp, State.catchUp_groups, State.formed, List.mem_map] at hmem
  obtain ⟨y, -, hy⟩ := hmem
  exact ⟨y, hy.symm⟩

/-- The lanes of a bundle of a group are ready, or stand at a cross-lane instruction, and share its PC. -/
theorem State.formGroup_share (s : State) (y : Nat × Group) {b : Bundle} (hb : b ∈ (s.formGroup y).2.bundles) {l : Nat}
    (hl : l ∈ lanesOf b.lanes) :
    ((s.formGroup y).2.ready l = true ∨ ((s.formGroup y).2.waitsAt l).isSome = true) ∧ (s.formGroup y).2.epc l = b.pc := by
  rw [State.formGroup] at hb ⊢
  by_cases hc : (s.onCore y.2 && s.coreRuns y.2.core) = true
  · rw [if_pos hc] at hb ⊢
    exact s.form_share y.2 hb hl
  · rw [if_neg hc] at hb
    cases hb

/-- On a running core every ready lane of a group is in a bundle. -/
theorem State.formGroup_cover (s : State) (y : Nat × Group) (hon : s.onCore (s.formGroup y).2 = true)
    (hruns : s.coreRuns (s.formGroup y).2.core = true) {l : Nat} (hl : l < 32) (hr : (s.formGroup y).2.ready l = true) :
    ∃ b ∈ (s.formGroup y).2.bundles, hasLane b.lanes l = true := by
  rw [State.formGroup] at hon hruns hr ⊢
  by_cases hc : (s.onCore y.2 && s.coreRuns y.2.core) = true
  · rw [if_pos hc] at hr ⊢
    exact s.form_cover y.2 hl hr
  · rw [if_neg hc] at hon hruns
    exact absurd (Bool.and_eq_true_iff.2 ⟨hon, hruns⟩) hc

/-- The lanes of a bundle after a tick are ready, or stand at a cross-lane instruction, and share its PC. -/
theorem State.tick_share {s : State} (h : s.power = .on) : ∀ x ∈ s.tick.groups, ∀ b ∈ x.2.bundles, ∀ l ∈ lanesOf b.lanes,
    (x.2.ready l = true ∨ (x.2.waitsAt l).isSome = true) ∧ x.2.epc l = b.pc := by
  intro x hx b hb l hl
  obtain ⟨y, rfl⟩ := State.mem_tick_groups h hx
  exact s.beforeForming.formGroup_share y hb hl

theorem State.fourOn_gtime (s : State) : s.fourOn.gtime = s.gtime + (nsAt s.stretch (s.cycle + 4) - nsAt s.stretch s.cycle) := rfl

theorem SamePace.clocks {s t : State} (h : SamePace s t) : t.cycle = s.cycle ∧ t.gtime = s.gtime ∧ t.slots = s.slots :=
  ⟨congrArg (fun p => p.1) h, congrArg (fun p => p.2.1) h, congrArg (fun p => p.2.2.1) h⟩

/-- What a tick leaves of the clocks. -/
theorem State.tick_clocks {s : State} (h : s.power = .on) : s.tick.cycle = s.cycle + 4 ∧ s.tick.slots = [] ∧
    s.tick.gtime = s.gtime + (nsAt s.stretch (s.cycle + 4) - nsAt s.stretch s.cycle) := by
  obtain ⟨hcycle, hgtime, hslots⟩ := s.samePace_caughtUp.clocks
  obtain ⟨hcycle', hslots', hgtime'⟩ := s.caughtUp.sweep_pace
  rw [State.tick_of_on h]
  exact ⟨hcycle'.trans hcycle, hslots'.trans hslots, hgtime'.trans (hgtime.trans s.fourOn_gtime)⟩

/-- With no launch completed every ready lane of a running core is in a bundle after a tick. -/
theorem State.tick_cover {s : State} (h : s.power = .on) (hopen : ∀ y ∈ s.grids, y.2.completed = false) :
    ∀ x ∈ s.tick.groups, s.tick.onCore x.2 = true → s.tick.coreRuns x.2.core = true → ∀ l < 32, x.2.ready l = true →
      ∃ b ∈ x.2.bundles, hasLane b.lanes l = true := by
  intro x hx hon hruns l hl hr
  obtain ⟨y, rfl⟩ := State.mem_tick_groups h hx
  have hgrids : Tab.completions s.caughtUp.grids = Tab.completions s.grids := s.samePace_caughtUp.grids
  have hopen' : ∀ y ∈ s.caughtUp.grids, y.2.completed = false := by
    rw [Tab.open_iff, hgrids, ← Tab.open_iff]
    exact hopen
  rw [State.tick_of_on h, State.sweep_of_open hopen', State.caughtUp] at hon hruns
  rw [State.onCore_catchUp, State.onCore_formed] at hon
  rw [State.coreRuns_catchUp, State.coreRuns_formed] at hruns
  exact s.beforeForming.formGroup_cover y hon hruns hl hr

end Sys2Proof.Machine
end

section
/-! ISSUE_SELECT takes a first bundle (obligation O54). -/

namespace Sys2Proof.Machine

/-! ### The order of bundles (10 R282) -/

/-- The age by which a bundle comes before those that are not aged. -/
def Cand.aged (x : Cand) : Nat := if 4096 ≤ x.age then x.age else 0

/-- R282's order, key after key. -/
theorem Cand.before_iff (x y : Cand) : x.before y = true ↔
    y.aged < x.aged ∨ y.aged = x.aged ∧ (y.cls < x.cls ∨ y.cls = x.cls ∧ (x.pass < y.pass ∨ x.pass = y.pass ∧
      (x.took < y.took ∨ x.took = y.took ∧ (y.age < x.age ∨ y.age = x.age ∧ x.slot < y.slot)))) := by
  unfold Cand.before Cand.aged
  split_ifs <;> rw [decide_eq_true_iff] <;> constructor <;> intro h <;> omega

theorem Cand.before_irrefl (x : Cand) : x.before x = false := by
  rw [Bool.eq_false_iff, ne_eq, Cand.before_iff]
  omega

theorem Cand.before_trans {x y z : Cand} (h : x.before y = true) (k : y.before z = true) : x.before z = true := by
  rw [Cand.before_iff] at h k ⊢
  omega

/-- A bundle of a list that no other comes before. -/
def earliest : List Cand → Option Cand
  | [] => none
  | c :: cs => some (cs.foldl (fun m x => if x.before m then x else m) c)

theorem foldl_before (cs : List Cand) (c : Cand) (seen : List Cand) (hc : c ∈ seen) (h : ∀ x ∈ seen, x.before c = false) :
    let m := cs.foldl (fun m x => if x.before m then x else m) c
    m ∈ seen ++ cs ∧ ∀ x ∈ seen ++ cs, x.before m = false := by
  induction cs generalizing c seen with
  | nil => simpa using ⟨hc, h⟩
  | cons y cs ih =>
    rw [List.foldl_cons, List.append_cons]
    refine ih _ (seen ++ [y]) ?_ fun x hx => ?_
    · split
      · simp
      · simp [hc]
    · split
      · rename_i hy
        rcases List.mem_append.1 hx with hx | hx
        · exact Bool.eq_false_iff.2 fun hxy => Bool.eq_false_iff.1 (h x hx) (Cand.before_trans hxy hy)
        · rw [List.mem_singleton.1 hx]
          exact Cand.before_irrefl y
      · rename_i hy
        rcases List.mem_append.1 hx with hx | hx
        · exact h x hx
        · rw [List.mem_singleton.1 hx]
          exact Bool.eq_false_iff.2 hy

theorem earliest_first {cs : List Cand} {c : Cand} (h : earliest cs = some c) : c ∈ cs ∧ ∀ x ∈ cs, x.before c = false := by
  cases cs with
  | nil => cases h
  | cons y cs =>
    cases h
    exact foldl_before cs y [y] List.mem_cons_self fun x hx => by rw [List.mem_singleton.1 hx]; exact Cand.before_irrefl y

theorem State.select_eq (s : State) (core : Nat) : s.select core =
    let n := Tab.read 0 s.slots core
    match earliest (s.cands core (n / 4)) with
    | some c => some (c, n + 1)
    | none => if n % 4 = 0 ∨ 12 ≤ n then none else (earliest (s.cands core (n / 4 + 1))).map fun c => (c, n / 4 * 4 + 5) := rfl

/-- The bundle selected is one of a cycle's that no other of the cycle comes before. -/
theorem State.select_first {s : State} {core n : Nat} {c : Cand} (hslots : Tab.read 0 s.slots core < 16)
    (h : s.select core = some (c, n)) : ∃ k < 4, c ∈ s.cands core k ∧ ∀ x ∈ s.cands core k, x.before c = false := by
  rw [State.select_eq] at h
  generalize Tab.read 0 s.slots core = i at h hslots
  simp only at h
  split at h
  · rename_i c' hc
    cases h
    exact ⟨i / 4, by omega, earliest_first hc⟩
  · split at h
    · cases h
    · rename_i hi
      obtain ⟨c', hc, hcc⟩ := Option.map_eq_some_iff.1 h
      cases hcc
      exact ⟨i / 4 + 1, by omega, earliest_first hc⟩

/-- ISSUE_SELECT with a bundle to issue. -/
theorem execIssueSelect_of_select {s : State} {core n : Nat} {c : Cand} (hcur : s.cur = none) (hruns : s.coreRuns core = true)
    (hslots : Tab.read 0 s.slots core < 16) (h : s.select core = some (c, n)) : ∃ t, exec (.issueSelect core) s = .next t ∧
      t.cur = some ⟨c.gid, c.b.lanes, c.b.pc, c.b.fresh⟩ ∧ t.mem = s.mem ∧ t.teams = s.teams := by
  have hgo : (s.cur.isNone && s.coreRuns core && decide (Tab.read 0 s.slots core < 16)) = true := by simp [hcur, hruns, hslots]
  have hexec : exec (.issueSelect core) s = execIssueSelect core s := rfl
  rw [hexec, execIssueSelect, if_pos hgo, h]
  exact ⟨_, rfl, rfl, rfl, rfl⟩

end Sys2Proof.Machine
end

section
/-! CLUSTER_PLACEMENT starts the teams and groups of a cluster (obligation O54). -/

namespace Sys2Proof.Machine

/-! ### Tables filled from a list -/

theorem Tab.get?_foldl_set {α : Type} (f : Nat → α) (a n : Nat) (t : Tab α) (k : Nat) :
    Tab.get? ((List.range n).foldl (fun t i => Tab.set t (a + i) (f i)) t) k = if a ≤ k ∧ k < a + n then some (f (k - a)) else Tab.get? t k := by
  induction n with
  | zero => rw [if_neg (by omega)]; rfl
  | succ n ih =>
    rw [List.range_succ, List.foldl_append, List.foldl_cons, List.foldl_nil, Tab.get?_set, ih]
    by_cases hk : a + n = k
    · subst hk
      simp
    · rw [if_neg (by omega)]
      simp only [show (k < a + (n + 1)) = (k < a + n) from propext ⟨fun h => by omega, fun h => by omega⟩]

theorem Tab.get?_map_self {α : Type} (f : Nat → α) (ls : List Nat) (k : Nat) :
    Tab.get? (ls.map fun l => (l, f l)) k = if k ∈ ls then some (f k) else none := by
  induction ls with
  | nil => rfl
  | cons l ls ih =>
    rw [List.map_cons, Tab.get?_cons, ih]
    by_cases hl : l = k
    · simp [hl]
    · simp [hl, Ne.symm hl]

/-! ### Groups and teams at launch (10 R263, R264) -/

theorem lane_newGroup (g : Grid) (k c t core slot j n cycle : Nat) {l : Nat} (hl : l < 32) :
    let y := g.newGroup k c t core slot j n cycle
    (y.lane l).pc = g.entry ∧ ((y.lane l).stat = .live ↔ l < if j + 1 = g.tg then g.llm1 + 1 else 32) := by
  have hlane : (g.newGroup k c t core slot j n cycle).lane l =
      { Lane.off with pc := g.entry, stat := if l < (if j + 1 = g.tg then g.llm1 + 1 else 32) then .live else .never,
                      since := cycle, ready := cycle } := by
    simp only [Group.lane, Grid.newGroup, launchLanes, Tab.read]
    rw [Tab.get?_map_self, if_pos (List.mem_range.2 hl), Option.getD_some]
  generalize (if j + 1 = g.tg then g.llm1 + 1 else 32) = m at hlane ⊢
  refine ⟨by rw [hlane], ?_⟩
  rw [hlane]
  by_cases h : l < m <;> simp [h]

/-- Team `id` as a launch leaves it: TEAMIX `ix` of cluster `started` of its grid, with its image and all its groups. -/
def TeamStarted (t : State) (g : Grid) (started ix core id : Nat) : Prop :=
  ∃ x, Tab.get? t.teams id = some x ∧ x.lm = g.image ∧ x.teamix = ix ∧ x.core = core ∧
    ∀ j < g.tg, ∃ k c slot cycle, t.group? (id + 1 + j) =
      some (g.newGroup k c id core slot j ((started * (g.w * g.h) + ix) * g.tg + j) cycle)

/-- `t` has the teams and groups of `s` below a number, and its memory, grids and clusters. -/
structure KeepsBelow (n : Nat) (s t : State) : Prop where
  teams : ∀ k < n, Tab.get? t.teams k = Tab.get? s.teams k
  groups : ∀ k < n, t.group? k = s.group? k
  mem : t.mem = s.mem
  grids : t.grids = s.grids
  clusters : t.clusters = s.clusters

theorem KeepsBelow.refl (n : Nat) (s : State) : KeepsBelow n s s := ⟨fun _ _ => rfl, fun _ _ => rfl, rfl, rfl, rfl⟩

theorem KeepsBelow.trans {n m : Nat} {s t u : State} (h : KeepsBelow n s t) (k : KeepsBelow m t u) (hnm : n ≤ m) : KeepsBelow n s u where
  teams j hj := (k.teams j (Nat.lt_of_lt_of_le hj hnm)).trans (h.teams j hj)
  groups j hj := (k.groups j (Nat.lt_of_lt_of_le hj hnm)).trans (h.groups j hj)
  mem := k.mem.trans h.mem
  grids := k.grids.trans h.grids
  clusters := k.clusters.trans h.clusters

theorem TeamStarted.keep {n : Nat} {s t : State} {g : Grid} {started ix core id : Nat} (h : TeamStarted s g started ix core id)
    (k : KeepsBelow n s t) (hn : id + 1 + g.tg ≤ n) : TeamStarted t g started ix core id := by
  obtain ⟨x, hx, hlm, hix, hcore, hgroups⟩ := h
  refine ⟨x, (k.teams _ (by omega)).trans hx, hlm, hix, hcore, fun j hj => ?_⟩
  obtain ⟨k', c, slot, cycle, hg⟩ := hgroups j hj
  exact ⟨k', c, slot, cycle, (k.groups _ (by omega)).trans hg⟩

theorem State.keepsBelow_startTeam (s : State) (k : Nat) (g : Grid) (c started ix core : Nat) :
    KeepsBelow s.nextId s (s.startTeam k g c started ix core) where
  teams j hj := by rw [State.startTeam, Tab.get?_set, if_neg (by omega)]
  groups j hj := by rw [State.startTeam, State.group?, Tab.get?_foldl_set, if_neg (by omega)]; rfl
  mem := rfl
  grids := rfl
  clusters := rfl

theorem State.nextId_startTeam (s : State) (k : Nat) (g : Grid) (c started ix core : Nat) :
    (s.startTeam k g c started ix core).nextId = s.nextId + (g.tg + 1) := by
  rw [State.startTeam]
  exact (Nat.add_assoc _ _ _).trans (congrArg _ (Nat.add_comm _ _))

theorem State.teamStarted_startTeam (s : State) (k : Nat) (g : Grid) (c started ix core : Nat) :
    TeamStarted (s.startTeam k g c started ix core) g started ix core s.nextId := by
  refine ⟨_, Tab.get?_set_self _ _ _, rfl, rfl, rfl, fun j hj => ⟨k, c, (s.freeSlots core).getD j 0, s.cycle, ?_⟩⟩
  rw [State.startTeam, State.group?, Tab.get?_foldl_set, if_pos (by omega), Nat.add_sub_cancel_left]

/-- The teams of a cluster, core after core. -/
def State.startTeams (s : State) (k : Nat) (g : Grid) (c started : Nat) (l : List (Nat × Nat)) : State :=
  l.foldl (fun s x => s.startTeam k g c started x.2 x.1) s

theorem State.keepsBelow_startTeams (s : State) (k : Nat) (g : Grid) (c started : Nat) (l : List (Nat × Nat)) :
    KeepsBelow s.nextId s (s.startTeams k g c started l) := by
  induction l generalizing s with
  | nil => exact .refl _ s
  | cons x l ih =>
    exact (s.keepsBelow_startTeam k g c started x.2 x.1).trans (ih _) (by rw [State.nextId_startTeam]; omega)

theorem State.teamStarted_startTeams (k : Nat) (g : Grid) (c started : Nat) (cores : List Nat) (n : Nat) (s : State) {i core : Nat}
    (hi : cores[i]? = some core) :
    TeamStarted (s.startTeams k g c started (cores.zipIdx n)) g started (n + i) core (s.nextId + i * (g.tg + 1)) := by
  induction cores generalizing n s i with
  | nil => simp at hi
  | cons x cores ih =>
    rw [List.zipIdx_cons]
    cases i with
    | zero =>
      have hx : x = core := by simpa using hi
      subst hx
      have h := s.teamStarted_startTeam k g c started n x
      rw [Nat.zero_mul]
      exact h.keep (State.keepsBelow_startTeams _ k g c started _) (by rw [State.nextId_startTeam]; omega)
    | succ i =>
      have h := ih (n + 1) (s.startTeam k g c started n x) (i := i) (by simpa using hi)
      rw [State.nextId_startTeam] at h
      rw [show n + (i + 1) = n + 1 + i by omega,
        show s.nextId + (i + 1) * (g.tg + 1) = s.nextId + (g.tg + 1) + i * (g.tg + 1) by rw [Nat.succ_mul]; omega]
      exact h

theorem length_rectCores (die x0 y0 w h : Nat) : (rectCores die x0 y0 w h).length = w * h := by
  simp [rectCores, List.length_flatMap, Nat.mul_comm]

/-- The end of a drain leaves teams, groups, memory, grids and clusters. -/
theorem State.keepsBelow_endDrain (s : State) (n : Nat) : KeepsBelow n s s.endDrain := by
  rw [State.endDrain]
  split
  · rename_i r _
    obtain ⟨b, hb⟩ := onlyBooks_postSys ({ s with drained := false, draining := none } : State) r
    rw [hb]
    exact ⟨fun _ _ => rfl, fun _ _ => rfl, rfl, rfl, rfl⟩
  · exact ⟨fun _ _ => rfl, fun _ _ => rfl, rfl, rfl, rfl⟩

/-- A state in which the next numbers start at `n`. -/
def State.numbered (s : State) (n : Nat) : State := { s with nextId := n }

/-- Cluster `c` stands, and its grid counts it. -/
def State.joined (s : State) (k c : Nat) (x : Cluster) : State :=
  { s with clusters := Tab.set s.clusters c x
           grids := Tab.modify s.grids k fun g => { g with started := g.started + 1 } }

theorem State.get?_joined_grids {s : State} {k : Nat} {g : Grid} (h : Tab.get? s.grids k = some g) (c : Nat) (x : Cluster) :
    Tab.get? (s.joined k c x).grids k = some { g with started := g.started + 1 } := by
  rw [State.joined, Tab.get?_modify, if_pos rfl, h, Option.map_some]

/-- The record of a cluster at its start. -/
def Grid.cluster (g : Grid) (k c : Nat) (r : Nat × Nat × Nat) : Cluster :=
  ⟨k, g.started, .resident, r.1, r.2.1, r.2.2, (List.range (g.w * g.h)).map fun i => c + 1 + i * (g.tg + 1)⟩

theorem State.startCluster_eq (s : State) (k : Nat) (g : Grid) (r : Nat × Nat × Nat) :
    s.startCluster k g r = ((s.endDrain.numbered (s.nextId + 1)).startTeams k g s.nextId g.started (g.cores r).zipIdx).joined k s.nextId
      (g.cluster k s.nextId r) := rfl

theorem execClusterPlacement_of_fit {s : State} {k : Nat} {g : Grid} {r : Nat × Nat × Nat} (hg : Tab.get? s.grids k = some g)
    (hw : s.waitingGrid g = true) (hres : ∀ x ∈ s.resumable, x.2.2.cls < g.cls) (hr : s.firstFit Suppose.none k g = some r) :
    exec (.clusterPlacement k) s = .next (s.startCluster k g r) := by
  have hfirst : (s.waitingGrid g && !(s.resumable.any fun e => decide (g.cls ≤ e.2.2.cls))) = true := by
    rw [hw, Bool.true_and, Bool.not_eq_true', Bool.eq_false_iff, ne_eq, List.any_eq_true]
    rintro ⟨x, hx, hle⟩
    have hlt := hres x hx
    have := of_decide_eq_true hle
    omega
  have hexec : exec (.clusterPlacement k) s = execClusterPlacement k s := rfl
  rw [hexec, execClusterPlacement, hg]
  simp only
  rw [if_pos hfirst, hr]

/-- CLUSTER_PLACEMENT on the first fitting rectangle. -/
theorem clusterPlacement_starts {s : State} {k : Nat} {g : Grid} {r : Nat × Nat × Nat} (hg : Tab.get? s.grids k = some g)
    (hw : s.waitingGrid g = true) (hres : ∀ x ∈ s.resumable, x.2.2.cls < g.cls) (hr : s.firstFit Suppose.none k g = some r) :
    ∃ t c g', exec (.clusterPlacement k) s = .next t ∧ t.mem = s.mem ∧ Tab.get? t.clusters s.nextId = some c ∧ c.grid = k ∧
      c.ix = g.started ∧ c.phase = .resident ∧ (c.die, c.x0, c.y0) = r ∧ c.teams.length = g.w * g.h ∧
      Tab.get? t.grids k = some g' ∧ g'.started = g.started + 1 ∧
      ∀ i < g.w * g.h, ∃ x, c.teams[i]? = some (s.nextId + 1 + i * (g.tg + 1)) ∧
        Tab.get? t.teams (s.nextId + 1 + i * (g.tg + 1)) = some x ∧ x.lm = g.image ∧ x.teamix = i ∧
        (g.cores r)[i]? = some x.core ∧ ∀ j < g.tg, ∃ y, t.group? (s.nextId + 1 + i * (g.tg + 1) + 1 + j) = some y ∧
          y.gix = j ∧ y.seed = g.seed ^^^ (BitVec.ofNat 64 ((g.started * (g.w * g.h) + i) * g.tg + j) * 0x9E3779B97F4A7C15) ∧
          ∀ l < 32, (y.lane l).pc = g.entry ∧ ((y.lane l).stat = .live ↔ l < if j + 1 = g.tg then g.llm1 + 1 else 32) := by
  have hkeep := (s.keepsBelow_endDrain (s.nextId + 1)).trans (m := s.nextId + 1)
    (⟨fun _ _ => rfl, fun _ _ => rfl, rfl, rfl, rfl⟩ : KeepsBelow _ s.endDrain (s.endDrain.numbered (s.nextId + 1))) (Nat.le_refl _)
  have hall := hkeep.trans ((s.endDrain.numbered (s.nextId + 1)).keepsBelow_startTeams k g s.nextId g.started (g.cores r).zipIdx) (Nat.le_refl _)
  have hteams := fun {i core : Nat} (hi : (g.cores r)[i]? = some core) =>
    State.teamStarted_startTeams k g s.nextId g.started (g.cores r) 0 (s.endDrain.numbered (s.nextId + 1)) hi
  rw [execClusterPlacement_of_fit hg hw hres hr, State.startCluster_eq]
  generalize (s.endDrain.numbered (s.nextId + 1)).startTeams k g s.nextId g.started (g.cores r).zipIdx = u at hall hteams ⊢
  refine ⟨_, _, _, rfl, hall.mem, Tab.get?_set_self _ _ _, rfl, rfl, rfl, rfl, by simp [Grid.cluster],
    State.get?_joined_grids (hall.grids ▸ hg) _ _, rfl, fun i hi => ?_⟩
  obtain ⟨core, hcore⟩ : ∃ core, (g.cores r)[i]? = some core :=
    ⟨_, List.getElem?_eq_getElem (by rw [Grid.cores, length_rectCores]; exact hi)⟩
  obtain ⟨x, hx, hlm, hix, rfl, hgroups⟩ := hteams hcore
  refine ⟨x, by simp [Grid.cluster, hi], hx, hlm, hix.trans (Nat.zero_add i), hcore, fun j hj => ?_⟩
  obtain ⟨k', c, slot, cycle, hy⟩ := hgroups j hj
  refine ⟨_, hy, rfl, ?_, fun l hl => lane_newGroup g k' c _ _ slot j _ cycle hl⟩
  rw [Grid.newGroup, Nat.zero_add]

end Sys2Proof.Machine
end

section
/-! PREEMPTION takes its victims off their cores, RESUME brings a pre-empted cluster back (obligation O54). -/

namespace Sys2Proof.Machine

/-! ### Victims (10 R288) -/

theorem mem_insertBy {α : Type} {le : α → α → Bool} {x y : α} {l : List α} (h : y ∈ insertBy le x l) : y = x ∨ y ∈ l := by
  induction l with
  | nil => exact .inl (List.mem_singleton.1 h)
  | cons z l ih =>
    rw [insertBy] at h
    split at h
    · exact List.mem_cons.1 h
    · rcases List.mem_cons.1 h with rfl | h
      · exact .inr List.mem_cons_self
      · exact (ih h).imp_right (List.mem_cons_of_mem z)

theorem sortBy_subset {α : Type} (le : α → α → Bool) (l : List α) : sortBy le l ⊆ l := by
  induction l with
  | nil => exact List.Subset.refl _
  | cons x l ih =>
    intro y hy
    rcases mem_insertBy hy with rfl | hy
    · exact List.mem_cons_self
    · exact List.mem_cons_of_mem x (ih hy)

theorem pick_sublist {α : Type} {n : Nat} {l v : List α} (h : v ∈ pick n l) : v.Sublist l := by
  induction l generalizing n v with
  | nil =>
    cases n with
    | zero => rw [List.mem_singleton.1 h]
    | succ n => cases h
  | cons x l ih =>
    cases n with
    | zero => rw [List.mem_singleton.1 h]; exact List.nil_sublist _
    | succ n =>
      rcases List.mem_append.1 h with h | h
      · obtain ⟨w, hw, rfl⟩ := List.mem_map.1 h
        exact (ih hw).cons_cons x
      · exact (ih h).cons x

theorem State.fewest_subset {s : State} {k : Nat} {g : Grid} {r : Nat × Nat × Nat} {cands vs : List (Nat × Cluster × Grid)}
    (h : s.fewest k g r cands = some vs) : vs ⊆ cands := by
  obtain ⟨n, -, hn⟩ := List.exists_of_findSome?_eq_some h
  exact List.Subset.trans (pick_sublist (List.mem_of_find?_eq_some hn)).subset List.filter_sublist.subset

/-- The better of a choice so far and another. -/
def keepBetter {α : Type} (better : α → α → Bool) (best : Option α) (t : α) : Option α :=
  match best with
  | none => some t
  | some b => if better t b then some t else some b

/-- A choice kept while choices are compared is one of them. -/
theorem mem_of_foldl_keepBetter {α : Type} {better : α → α → Bool} {l : List α} {a : Option α} {b : α}
    (h : l.foldl (keepBetter better) a = some b) : b ∈ l ∨ a = some b := by
  induction l generalizing a with
  | nil => exact .inr h
  | cons x l ih =>
    rcases ih h with h | h
    · exact .inl (List.mem_cons_of_mem x h)
    · cases a with
      | none => cases h; exact .inl List.mem_cons_self
      | some c =>
        rw [keepBetter] at h
        split at h
        · cases h; exact .inl List.mem_cons_self
        · exact .inr h

/-- Is a choice better, its candidates counted by their place in a list? -/
def betterAmong (cands t b : List (Nat × Cluster × Grid)) : Bool :=
  betterChoice (t.map fun v => (cands.map (·.1)).idxOf v.1) (b.map fun v => (cands.map (·.1)).idxOf v.1)

theorem State.bestOf_eq (s : State) (k : Nat) (g : Grid) (cands : List (Nat × Cluster × Grid)) :
    s.bestOf k g cands = (g.rects.filterMap fun r => s.fewest k g r cands).foldl (keepBetter (betterAmong cands)) none := by
  rw [State.bestOf]
  congr 1
  funext best t
  cases best <;> rfl

theorem State.bestOf_subset {s : State} {k : Nat} {g : Grid} {cands vs : List (Nat × Cluster × Grid)}
    (h : s.bestOf k g cands = some vs) : vs ⊆ cands := by
  rw [State.bestOf_eq] at h
  obtain ⟨r, -, hr⟩ := List.mem_filterMap.1 ((mem_of_foldl_keepBetter h).resolve_right nofun)
  exact State.fewest_subset hr

theorem State.ownVictims_subset (s : State) (g : Grid) : s.ownVictims g ⊆ s.victims :=
  List.Subset.trans (sortBy_subset _ _) List.filter_sublist.subset

theorem State.foreignVictims_subset (s : State) (g : Grid) : s.foreignVictims g ⊆ s.victims := by
  unfold State.foreignVictims
  simp only
  split
  · exact List.Subset.trans (sortBy_subset _ _) List.filter_sublist.subset
  · exact List.nil_subset _

theorem State.chooseVictims_subset (s : State) (k : Nat) (g : Grid) : s.chooseVictims k g ⊆ s.victims := by
  unfold State.chooseVictims
  simp only
  cases hown : (List.range 4).findSome? fun c => s.bestOf k g ((s.ownVictims g).filter fun v => decide (v.2.2.cls ≤ c)) with
  | some vs =>
    obtain ⟨c, -, hc⟩ := List.exists_of_findSome?_eq_some hown
    exact List.Subset.trans (State.bestOf_subset hc) (List.Subset.trans List.filter_sublist.subset (s.ownVictims_subset g))
  | none =>
    cases hall : s.bestOf k g (s.ownVictims g ++ s.foreignVictims g) with
    | some vs => exact List.Subset.trans (State.bestOf_subset hall) (List.append_subset.2 ⟨s.ownVictims_subset g, s.foreignVictims_subset g⟩)
    | none => exact List.nil_subset _

theorem State.isSome_cluster_of_victim {s : State} {v : Nat × Cluster × Grid} (h : v ∈ s.victims) : (Tab.get? s.clusters v.1).isSome = true := by
  obtain ⟨c, hc, hv⟩ := List.mem_filterMap.1 h
  split at hv
  · split at hv
    · split at hv
      · cases hv
      · cases hv; exact Tab.isSome_get?_of_mem hc
    · cases hv
  · cases hv

/-! ### Pre-emption (10 R288, R289) -/

/-- The victims leave their cores. -/
def State.preemptAll (s : State) (vs : List (Nat × Cluster × Grid)) : State := vs.foldl (fun s v => s.preempt v.1) s

theorem State.preemptAll_keeps (s : State) (vs : List (Nat × Cluster × Grid)) : (s.preemptAll vs).mem = s.mem ∧ (s.preemptAll vs).teams = s.teams :=
  ⟨foldl_keeps (·.mem) (fun s v => s.preempt v.1) (fun _ _ => rfl) vs s,
   foldl_keeps (·.teams) (fun s v => s.preempt v.1) (fun _ _ => rfl) vs s⟩

/-- Cluster `c` stands and is pre-empted. -/
def State.isPreempted (s : State) (c : Nat) : Prop := ∃ x, Tab.get? s.clusters c = some x ∧ x.phase = .preempted

theorem State.phaseOf_of_isPreempted {s : State} {c : Nat} (h : s.isPreempted c) : s.phaseOf c = .preempted := by
  obtain ⟨x, hx, hp⟩ := h
  rw [State.phaseOf, hx]
  exact hp

theorem State.get?_preempt (s : State) (c j : Nat) : Tab.get? (s.preempt c).clusters j =
    if j = c then (Tab.get? s.clusters j).map fun x => { x with phase := .preempted } else Tab.get? s.clusters j := by
  rw [State.preempt, Tab.get?_modify]

theorem State.isPreempted_preempt_self {s : State} {c : Nat} (h : (Tab.get? s.clusters c).isSome = true) : (s.preempt c).isPreempted c := by
  obtain ⟨x, hx⟩ := Option.isSome_iff_exists.1 h
  exact ⟨_, by rw [State.get?_preempt, if_pos rfl, hx]; rfl, rfl⟩

theorem State.isPreempted_preempt {s : State} {j : Nat} (h : s.isPreempted j) (c : Nat) : (s.preempt c).isPreempted j := by
  obtain ⟨x, hx, hp⟩ := h
  rw [State.isPreempted, State.get?_preempt, hx]
  split
  · exact ⟨_, rfl, rfl⟩
  · exact ⟨x, rfl, hp⟩

theorem State.isSome_preempt {s : State} {j : Nat} (h : (Tab.get? s.clusters j).isSome = true) (c : Nat) :
    (Tab.get? (s.preempt c).clusters j).isSome = true := by
  rw [State.get?_preempt]
  split
  · rw [Option.isSome_map, h]
  · exact h

theorem State.isPreempted_preemptAll (vs : List (Nat × Cluster × Grid)) (s : State) {c : Nat}
    (h : s.isPreempted c ∨ (Tab.get? s.clusters c).isSome = true ∧ c ∈ vs.map (·.1)) : (s.preemptAll vs).isPreempted c := by
  induction vs generalizing s with
  | nil => exact h.resolve_right fun h => nomatch h.2
  | cons v vs ih =>
    refine ih (s.preempt v.1) ?_
    rcases h with h | ⟨hsome, hmem⟩
    · exact .inl (State.isPreempted_preempt h _)
    · rcases List.mem_cons.1 hmem with rfl | hmem
      · exact .inl (State.isPreempted_preempt_self hsome)
      · exact .inr ⟨State.isSome_preempt hsome _, hmem⟩

/-- PREEMPTION for a grid that fits nowhere. -/
theorem preemption_takes {s : State} {k : Nat} {g : Grid} (hg : Tab.get? s.grids k = some g) (hw : s.waitingGrid g = true)
    (hfit : s.firstFit ⟨[], s.spillTeams⟩ k g = none) : ∃ t, exec (.preemption k) s = .next t ∧ t.mem = s.mem ∧ t.teams = s.teams ∧
      ∀ v ∈ s.chooseVictims k g, t.phaseOf v.1 = .preempted := by
  have hexec : exec (.preemption k) s = .next (s.preemptAll (s.chooseVictims k g)) := by
    have hev : exec (.preemption k) s = execPreemption k s := rfl
    rw [hev, execPreemption, hg]
    simp only
    rw [if_pos (by rw [hw, hfit]; rfl), State.preemptAll]
  obtain ⟨hmem, hteams⟩ := s.preemptAll_keeps (s.chooseVictims k g)
  refine ⟨_, hexec, hmem, hteams, fun v hv => State.phaseOf_of_isPreempted (State.isPreempted_preemptAll _ s (.inr ⟨?_, ?_⟩))⟩
  · exact State.isSome_cluster_of_victim (s.chooseVictims_subset k g hv)
  · exact List.mem_map_of_mem hv

/-! ### Resumption (10 R291) -/

/-- No group has a trap that it has yet to enter. -/
def State.noPend (s : State) : Prop := ∀ y ∈ s.groups, y.2.pend = none

theorem State.settle_of_noPend {s : State} (h : s.noPend) (gid : Nat) : s.settle gid = s := by
  unfold State.settle
  split
  · rfl
  · rename_i g hg
    simp only
    split
    · rw [State.enterTrap, hg]
      simp only
      rw [h _ (Tab.mem_of_get? hg)]
    · rfl

theorem State.foldl_settle_of_noPend {s : State} (h : s.noPend) (ls : List Nat) : ls.foldl State.settle s = s := by
  induction ls with
  | nil => rfl
  | cons l ls ih => rw [List.foldl_cons, State.settle_of_noPend h, ih]

theorem Group.pend_back (g : Group) (cycle : Nat) : (g.back cycle).pend = g.pend := by
  unfold Group.back
  simp only
  rw [Group.modLanes_eq]
  split <;> rfl

/-- `t` has the memory and clusters of `s`, and no pending trap where `s` has none. -/
structure Seats (s t : State) : Prop where
  mem : t.mem = s.mem
  clusters : t.clusters = s.clusters
  pend : s.noPend → t.noPend

theorem Seats.refl (s : State) : Seats s s := ⟨rfl, rfl, id⟩

theorem Seats.trans {s t u : State} (h : Seats s t) (k : Seats t u) : Seats s u :=
  ⟨k.mem.trans h.mem, k.clusters.trans h.clusters, fun hs => k.pend (h.pend hs)⟩

theorem OnlyBooks.seats {s t : State} (h : OnlyBooks s t) : Seats s t := by
  obtain ⟨b, rfl⟩ := h
  exact ⟨rfl, rfl, id⟩

theorem State.noPend_modGroup {s : State} (h : s.noPend) (gid : Nat) {f : Group → Group} (hf : ∀ g, (f g).pend = g.pend) :
    (s.modGroup gid f).noPend := by
  intro y hy
  obtain ⟨x, hx, rfl⟩ := List.mem_map.1 hy
  split
  · exact (hf _).trans (h x hx)
  · exact h x hx

theorem State.seats_seat (s : State) (core gid : Nat) (given : List Nat) : Seats s (s.seat core gid given).1 :=
  ⟨rfl, rfl, fun h => State.noPend_modGroup (s := { s with accReqs := _ }) h gid fun g => Group.pend_back g _⟩

theorem State.seats_seatTeam (s : State) (t core : Nat) : Seats s (s.seatTeam t core) := by
  have hfold : ∀ (gids : List Nat) (v : State × List Nat),
      Seats v.1 (gids.foldl (fun (v : State × List Nat) i => v.1.seat core i v.2) v).1 := by
    intro gids
    induction gids with
    | nil => exact fun v => .refl v.1
    | cons i gids ih => exact fun v => (v.1.seats_seat core i v.2).trans (ih _)
  obtain ⟨hmem, hclusters, hpend⟩ := hfold (((Tab.get? s.teams t).map (·.groups)).getD []) (s, [])
  exact ⟨hmem, hclusters, hpend⟩

/-- The teams of a cluster take slots, core after core. -/
def State.seatTeams (s : State) (tcs : List (Nat × Nat)) : State := tcs.foldl (fun s tc => s.seatTeam tc.1 tc.2) s

theorem State.seats_seatTeams (s : State) (tcs : List (Nat × Nat)) : Seats s (s.seatTeams tcs) := by
  induction tcs generalizing s with
  | nil => exact .refl s
  | cons tc tcs ih => exact (s.seats_seatTeam tc.1 tc.2).trans (ih _)

/-- Cluster `c` is resident. -/
def State.setResident (s : State) (c : Nat) : State :=
  { s with clusters := Tab.modify s.clusters c fun y => { y with phase := .resident } }

theorem State.phaseOf_setResident {s : State} {c : Nat} {x : Cluster} (h : Tab.get? s.clusters c = some x) :
    (s.setResident c).phaseOf c = .resident := by
  rw [State.phaseOf, State.setResident, Tab.get?_modify, if_pos rfl, h]
  rfl

/-- The cycle since which a cluster has been off its cores. -/
def State.offSince (s : State) (x : Cluster) : Nat :=
  match x.teams with
  | t :: _ => ((s.teamGroups t).map fun e => e.2.stopAt).headD s.cycle
  | [] => s.cycle

theorem State.seatCluster_eq (s : State) (c : Nat) (x : Cluster) (cores : List Nat) :
    let u := ((s.shiftWaits x.teams.contains (s.offSince x)).seatTeams (x.teams.zip cores)).setResident c
    s.seatCluster c x cores = (x.teams.flatMap fun t => ((Tab.get? u.teams t).map (·.groups)).getD []).foldl State.settle u := rfl

theorem State.seatCluster_resident {s : State} (hpend : s.noPend) {c : Nat} {y : Cluster} (h : Tab.get? s.clusters c = some y)
    (x : Cluster) (cores : List Nat) : (s.seatCluster c x cores).phaseOf c = .resident ∧ (s.seatCluster c x cores).mem = s.mem := by
  have hshift : Seats s (s.shiftWaits x.teams.contains (s.offSince x)) := ⟨rfl, rfl, id⟩
  obtain ⟨hmem, hclusters, hnone⟩ := hshift.trans (State.seats_seatTeams _ (x.teams.zip cores))
  have heq := s.seatCluster_eq c x cores
  simp only at heq
  rw [heq]
  generalize (s.shiftWaits x.teams.contains (s.offSince x)).seatTeams (x.teams.zip cores) = u at hmem hclusters hnone ⊢
  have hu : (u.setResident c).noPend := hnone hpend
  rw [State.foldl_settle_of_noPend hu]
  exact ⟨State.phaseOf_setResident (hclusters ▸ h), hmem⟩

/-- A state with other clusters. -/
def State.withClusters (s : State) (cs : Tab Cluster) : State := { s with clusters := cs }

theorem State.noPend_withClusters {s : State} (h : s.noPend) (cs : Tab Cluster) : (s.withClusters cs).noPend := h

/-- A cluster is put on the cores of a rectangle: what its teams knew on the die that they left they know on the new one. -/
def State.putOn (s : State) (c : Nat) (x : Cluster) (cores : List Nat) (r : Nat × Nat × Nat) : State :=
  ((s.learn r.1 (s.clockOf x.die)).withClusters
    (Tab.modify s.clusters c fun y => { y with die := r.1, x0 := r.2.1, y0 := r.2.2 })).seatCluster c x cores

theorem State.putOn_resident {s : State} (hpend : s.noPend) {c : Nat} {x : Cluster} (h : Tab.get? s.clusters c = some x)
    (cores : List Nat) (r : Nat × Nat × Nat) : (s.putOn c x cores r).phaseOf c = .resident ∧ (s.putOn c x cores r).mem = s.mem := by
  have hlearn := (onlyBooks_learn s r.1 (s.clockOf x.die)).seats
  rw [State.putOn]
  generalize s.learn r.1 (s.clockOf x.die) = u at hlearn ⊢
  have hmoved : Tab.get? (Tab.modify s.clusters c fun y => { y with die := r.1, x0 := r.2.1, y0 := r.2.2 }) c =
      some { x with die := r.1, x0 := r.2.1, y0 := r.2.2 } := by
    rw [Tab.get?_modify, if_pos rfl, h, Option.map_some]
  generalize (Tab.modify s.clusters c fun y => { y with die := r.1, x0 := r.2.1, y0 := r.2.2 }) = cs at hmoved ⊢
  obtain ⟨hphase, hmem⟩ := State.seatCluster_resident (State.noPend_withClusters (hlearn.pend hpend) cs) hmoved x cores
  exact ⟨hphase, hmem.trans hlearn.mem⟩

/-- RESUME of a cluster that none comes before. -/
theorem exec_resumeC_of_first {s : State} {c : Nat} {x : Cluster} {g : Grid} {cores : List Nat} {r : Nat × Nat × Nat}
    (hx : Tab.get? s.clusters c = some x) (hg : Tab.get? s.grids x.grid = some g)
    (hfirst : ∀ y ∈ s.resumable, y.2.2.cls < g.cls ∨ y.2.2.cls = g.cls ∧ (x.grid < y.2.1 ∨ x.grid = y.2.1 ∧ c ≤ y.1))
    (hhigh : s.higherWaits g.cls = false) (hon : s.resumeOn x g = some (cores, r)) :
    exec (.resumeC c) s =
      if x.phase == .spilled then .next (s.unspillAll x.ix (fun u => u.putOn c x cores r) x.teams) else .next (s.putOn c x cores r) := by
  have hnone : (s.resumable.any fun e => decide (g.cls < e.2.2.cls) ||
      (e.2.2.cls == g.cls && (decide (e.2.1 < x.grid) || (e.2.1 == x.grid && decide (e.1 < c))))) = false := by
    rw [List.any_eq_false]
    intro y hy hbefore
    have h := hfirst y hy
    simp only [Bool.or_eq_true, Bool.and_eq_true, decide_eq_true_eq, beq_iff_eq] at hbefore
    omega
  have hexec : exec (.resumeC c) s = execResumeC c s := rfl
  rw [hexec, execResumeC, hx]
  simp only
  rw [hg]
  simp only
  have hgo : (!false && !false) = true := rfl
  rw [hnone, hhigh, if_pos hgo, hon]
  rfl

/-- RESUME of a pre-empted cluster. -/
theorem resume_of_preempted {s : State} {c : Nat} {x : Cluster} {cores : List Nat} {r : Nat × Nat × Nat}
    (hx : Tab.get? s.clusters c = some x) (hpend : s.noPend) (hphase : x.phase = .preempted)
    (hexec : exec (.resumeC c) s =
      if x.phase == .spilled then .next (s.unspillAll x.ix (fun u => u.putOn c x cores r) x.teams) else .next (s.putOn c x cores r)) :
    ∃ t, exec (.resumeC c) s = .next t ∧ t.phaseOf c = .resident ∧ t.mem = s.mem := by
  obtain ⟨hres, hmem⟩ := State.putOn_resident hpend hx cores r
  exact ⟨_, by rw [hexec, hphase]; rfl, hres, hmem⟩

end Sys2Proof.Machine
end

section
/-! SPILL writes the images of a cluster's teams, and the strikes of watchpoints become one trap (obligation O54). -/

namespace Sys2Proof.Machine

/-! ### Spilling (10 R290) -/

theorem State.mem_markWritten (s : State) (pa : Nat) : (s.markWritten pa).mem = s.mem := by
  unfold State.markWritten
  split
  · rfl
  · exact (onlyBooks_setPoison s pa true).mem

theorem State.mem_markBytes (s : State) (ps : List Placed) (offs : List Nat) : (s.markBytes ps offs).mem = s.mem :=
  foldl_keeps (·.mem) (fun s o => s.markWritten (placedAt ps o)) (fun s o => s.mem_markWritten (placedAt ps o)) offs s

/-- A team whose state lies in its save area. -/
def Team.away (t : Team) : Team := { t with spilled := true, lm := [], bad := [], coreLate := [], engineLate := [] }

/-- An entry changed at least once has what every change gives. -/
theorem Tab.get?_foldl_modify {α : Type} {f : α → α} {P : α → Prop} (hf : ∀ x, P (f x)) (ks : List Nat) (t : Tab α) {k : Nat} {z : α}
    (h : k ∈ ks ∨ ∀ z, Tab.get? t k = some z → P z) (hz : Tab.get? (ks.foldl (fun t k => Tab.modify t k f) t) k = some z) : P z := by
  induction ks generalizing t with
  | nil => exact h.resolve_left List.not_mem_nil z hz
  | cons j ks ih =>
    refine ih (Tab.modify t j f) ?_ hz
    by_cases hj : k = j
    · refine .inr fun z hz => ?_
      rw [Tab.get?_modify, if_pos hj] at hz
      obtain ⟨x, -, rfl⟩ := Option.map_eq_some_iff.1 hz
      exact hf x
    · refine h.imp (fun h => (List.mem_cons.1 h).resolve_left hj) fun h z hz => ?_
      rw [Tab.get?_modify, if_neg hj] at hz
      exact h z hz

/-- The teams of cluster `c` are spilled, and so is the cluster. -/
def State.sentAway (s : State) (c : Nat) (ts : List Nat) : State :=
  { s with
    teams := ts.foldl (fun t k => Tab.modify t k Team.away) s.teams
    clusters := Tab.modify s.clusters c fun y => { y with phase := .spilled } }

theorem State.team_sentAway {s : State} {c : Nat} {ts : List Nat} {y : Nat} {z : Team} (hy : y ∈ ts)
    (hz : Tab.get? (s.sentAway c ts).teams y = some z) : z.spilled = true ∧ z.lm = [] :=
  Tab.get?_foldl_modify (f := Team.away) (P := fun z => z.spilled = true ∧ z.lm = []) (fun _ => ⟨rfl, rfl⟩) ts s.teams (.inl hy) hz

/-- What the teams of a cluster save, each with its team. -/
def State.savedOf (s : State) (c : Cluster) : List (Team × List Byte) :=
  let ts := c.teams.filterMap fun y => Tab.get? s.teams y
  ts.zip (ts.map fun y => y.saved ((s.groupsOf y).map (·.2)))

/-- The check of the writes to the save area. -/
def State.spillCheck (s : State) (c : Cluster) (g : Grid) : Checked :=
  s.check ⟨c.die, g.ctx, 3, 0x3FF, 0, false⟩ (rangeAccs 0 0 .write ((s.savedOf c).map fun y => (g.saveAt c.ix y.1.teamix, y.2.length))) [] 1

/-- A spill whose writes can all be made. -/
theorem State.spillCluster_of_ok {s s' : State} {k : Nat} {c : Cluster} {g : Grid} {ps : List Placed}
    (hc : Tab.get? s.clusters k = some c) (hg : Tab.get? s.grids c.grid = some g) (hok : s.spillCheck c g = .ok s' ps)
    (hps : ∀ p ∈ ps, s'.structOk g.ctx p.pa = true ∧ s'.waitsAt c.die true p = false) :
    ∃ bad, s.spillCluster k = ((s'.push c.die g.ctx ps (((c.teams.filterMap fun y => Tab.get? s.teams y).map fun y =>
      y.saved ((s.groupsOf y).map (·.2))).flatten)).markBytes ps bad).sentAway k c.teams := by
  have hstruct : (ps.find? fun p => !s'.structOk g.ctx p.pa) = none :=
    List.find?_eq_none.2 fun p hp => by simp [(hps p hp).1]
  have hwaits : ps.any (s'.waitsAt c.die true) = false := List.any_eq_false.2 fun p hp => by simp [(hps p hp).2]
  rw [State.spillCheck, State.savedOf] at hok
  rw [State.spillCluster, hc]
  simp only
  rw [hg]
  simp only
  rw [hok]
  simp only
  rw [hstruct]
  simp only
  rw [hwaits]
  exact ⟨_, rfl⟩

/-- SPILL of a pre-empted cluster that a waiting grid needs away. -/
theorem exec_spill_of_wanted {s : State} {u : Nat} {x : Team} {c : Cluster} (hx : Tab.get? s.teams u = some x)
    (hc : Tab.get? s.clusters x.cluster = some c) (hphase : c.phase = .preempted) (hspilled : x.spilled = false)
    (hfrozen : s.frozen x.ctx = false) (hable : s.spillable x.cluster = true) (hquiet : s.clusterQuiet x.cluster = true)
    (hwanted : s.spillWanted x.cluster = true) : exec (.spill u) s = .next (s.spillCluster x.cluster) := by
  have hp : s.phaseOf x.cluster = .preempted := by rw [State.phaseOf, hc]; exact hphase
  have hexec : exec (.spill u) s = execSpill u s := rfl
  rw [hexec, execSpill, hx]
  simp only
  rw [if_neg (by rw [hp]; simp), if_pos (by simp [hp, hspilled, hfrozen, hable, hquiet, hwanted])]

/-! ### Strikes of watchpoints (17 R454) -/

/-- The strike of the lower watchpoint, the earlier where they are of one. -/
def TrapRec.lower (t x : TrapRec) : TrapRec := if x.detail < t.detail then x else t

theorem lower_eq : (fun t x : TrapRec => if x.detail < t.detail then x else t) = TrapRec.lower := rfl

theorem TrapRec.detail_lower (t x : TrapRec) : (t.lower x).detail = min t.detail x.detail := by
  unfold TrapRec.lower
  split <;> omega

theorem foldl_lower (ws : List TrapRec) (w : TrapRec) :
    ws.foldl TrapRec.lower w ∈ w :: ws ∧ ∀ y ∈ w :: ws, (ws.foldl TrapRec.lower w).detail ≤ y.detail := by
  induction ws generalizing w with
  | nil => exact ⟨List.mem_cons_self, fun y hy => by rw [List.mem_singleton.1 hy]; exact Nat.le_refl _⟩
  | cons x ws ih =>
    obtain ⟨hmem, hle⟩ := ih (w.lower x)
    rw [List.foldl_cons]
    have hfirst := hle _ List.mem_cons_self
    rw [TrapRec.detail_lower] at hfirst
    constructor
    · rcases List.mem_cons.1 hmem with h | h
      · rw [h, TrapRec.lower]
        split <;> simp
      · exact List.mem_cons_of_mem w (List.mem_cons_of_mem x h)
    · intro y hy
      rcases List.mem_cons.1 hy with rfl | hy
      · omega
      · rcases List.mem_cons.1 hy with rfl | hy
        · omega
        · exact hle y (List.mem_cons_of_mem _ hy)

theorem exec_watchEngineTrap (gid : Nat) (s : State) : exec (.watchEngineTrap gid) s = execWatchEngineTrap gid s := rfl

/-- The trap of a group whose strikes are taken, `w` that of the lowest watchpoint. -/
def Group.strike (g : Group) (w : TrapRec) : TrapRec :=
  { w with tlane := g.liveLanes.headD 0, pc := (g.lane (g.liveLanes.headD 0)).pc, mask := g.liveMask, aux := (g.watch.headD w).aux }

theorem State.takeWatch_eq {s : State} {gid : Nat} {g : Group} {w : TrapRec} {ws : List TrapRec} (hg : s.group? gid = some g)
    (hws : g.watch = w :: ws) (hfree : (g.inh || g.pend.isSome || g.ended) = false) :
    s.takeWatch gid = (s.setGroup gid { g with watch := [] }).raise gid (g.strike (ws.foldl TrapRec.lower w)) := by
  have haux : ∀ t : TrapRec, g.watch.headD t = w := fun t => by rw [hws, List.headD_cons]
  rw [Group.strike, haux, State.takeWatch, hg]
  simp only
  rw [hws]
  simp only
  rw [if_neg (by rw [hfree]; exact Bool.false_ne_true)]
  generalize s.setGroup gid _ = u
  rw [lower_eq]

/-- A group that is on its core and in no handler takes its strikes. -/
theorem exec_watchEngineTrap_of_strikes {s : State} {gid : Nat} {g : Group} {w : TrapRec} {ws : List TrapRec} (hg : s.group? gid = some g)
    (hws : g.watch = w :: ws) (hfree : (g.inh || g.pend.isSome || g.ended) = false) (hon : s.onCore g = true) :
    exec (.watchEngineTrap gid) s = .next ((s.setGroup gid { g with watch := [] }).raise gid (g.strike (ws.foldl TrapRec.lower w))) := by
  have hcore : (s.group? gid).any s.onCore = true := by rw [hg, Option.any_some, hon]
  rw [exec_watchEngineTrap, execWatchEngineTrap, if_pos hcore, State.takeWatch_eq hg hws hfree]

/-- The trap is of the lowest watchpoint. -/
theorem watchEngineTrap_takes {s : State} {gid : Nat} {g : Group} (hg : s.group? gid = some g) (hwatch : g.watch ≠ []) (hinh : g.inh = false)
    (hpend : g.pend = none) (hended : g.ended = false) (hon : s.onCore g = true) : ∃ w ∈ g.watch, (∀ y ∈ g.watch, w.detail ≤ y.detail) ∧
      exec (.watchEngineTrap gid) s = .next ((s.setGroup gid { g with watch := [] }).raise gid (g.strike w)) := by
  obtain ⟨w, ws, hws⟩ := List.exists_cons_of_ne_nil hwatch
  obtain ⟨hmem, hle⟩ := foldl_lower ws w
  have hfree : (g.inh || g.pend.isSome || g.ended) = false := by rw [hinh, hpend, hended]; rfl
  have hexec := exec_watchEngineTrap_of_strikes hg hws hfree hon
  rw [← hws] at hmem hle
  exact ⟨_, hmem, hle, hexec⟩

/-! ### QNOTIFY (10 R270) -/

/-- The larger of two values of QNOTIFY. -/
theorem State.notify_max {s : State} {q : Nat} {x : QueueState} (h : Tab.get? s.queue q = some x) (v : W64) :
    ∃ y, Tab.get? (s.notify q v).queue q = some y ∧ y.notify.toNat = max x.notify.toNat v.toNat := by
  rw [State.notify, Tab.get?_modify, if_pos rfl, h]
  refine ⟨_, rfl, ?_⟩
  simp only
  split <;> omega

end Sys2Proof.Machine
end

section
/-! GRID_COMPLETE marks a finished grid completed (obligation O54). -/

namespace Sys2Proof.Machine

/-! ### Writes of the packet processor (10 R271) -/

theorem samePace_notify (s : State) (q : Nat) (v : W64) : SamePace s (s.notify q v) := .refl s

theorem samePace_homeWrite (s : State) (pa : Nat) (bs : List Byte) : SamePace s (s.homeWrite pa bs) := by
  unfold State.homeWrite
  split
  · exact .ite (samePace_notify s _ _) (.refl s)
  · exact .ite (.refl s) (samePace_mergeAtom s pa bs)

theorem samePace_homeWrites (fuel : Nat) (s : State) (pa : Nat) (bs : List Byte) : SamePace s (s.homeWrites pa bs fuel) := by
  induction fuel generalizing s pa bs with
  | zero => exact .refl s
  | succ fuel ih =>
    unfold State.homeWrites
    split
    · exact .refl s
    · exact (samePace_homeWrite s pa _).trans (ih _ _ _)

theorem samePace_land (s : State) (pa n d num : Nat) (c : List Nat) : SamePace s (s.land pa n d num c) := by
  obtain ⟨b, hb⟩ := s.land_eq pa n d num c
  rw [hb]
  exact .refl s

theorem samePace_countWrite (s : State) (d : Nat) : SamePace s (s.countWrite d) := .refl s

theorem samePace_markWrite (s : State) (d pa n : Nat) : SamePace s (s.markWrite d pa n) :=
  (samePace_countWrite s d).trans (samePace_land _ _ _ _ _ _)

theorem samePace_writeLine (s : State) (d pa : Nat) (bs : List Byte) (who : WriteBy) : SamePace s (s.writeLine d pa bs who) :=
  .ite ((samePace_countWrite s d).trans (samePace_hold _ _ _ _ _ _)) ((samePace_homeWrites 5 s pa bs).trans (samePace_markWrite _ _ _ _))

theorem samePace_writeAll (d : Nat) (who : WriteBy) (fuel : Nat) (s : State) (pa : Nat) (bs : List Byte) :
    SamePace s (s.writeAll d pa bs who fuel) := by
  induction fuel generalizing s pa bs with
  | zero => exact .refl s
  | succ fuel ih =>
    unfold State.writeAll
    split
    · exact .refl s
    · exact (samePace_writeLine s d pa _ who).trans (ih _ _ _)

theorem samePace_queueWrite (s : State) (k : Asker) (va : W64) (pa : Nat) (bs : List Byte) : SamePace s (s.queueWrite k va pa bs) := by
  unfold State.queueWrite
  split
  · exact .ite (samePace_writeAll _ _ _ s pa bs) (.refl s)
  · exact .refl s

theorem samePace_complete (s : State) (k : Asker) (p : Probed) (donea : W64) (status : Nat) : SamePace s (s.complete k p donea status) := by
  unfold State.complete
  split
  · exact .ite (.refl s) (((onlyBooks_learn s _ _).samePace.trans (samePace_queueWrite _ _ _ _ _)).trans (samePace_queueWrite _ _ _ _ _))
  · exact .refl s

/-! ### Completion (10 R271) -/

theorem Tab.get?_completions (gs : Tab Grid) (k : Nat) : Tab.get? (Tab.completions gs) k = (Tab.get? gs k).map (·.completed) := by
  induction gs with
  | nil => rfl
  | cons y gs ih =>
    rw [Tab.completions, List.map_cons, Tab.get?_cons, Tab.get?_cons]
    split
    · rfl
    · exact ih

/-- Grid `n` has completed. -/
def State.marked (s : State) (n : Nat) : State := { s with grids := Tab.modify s.grids n fun g => { g with completed := true } }

theorem State.completed_marked {s : State} {n : Nat} (h : (Tab.get? s.grids n).isSome = true) :
    ∃ g, Tab.get? (s.marked n).grids n = some g ∧ g.completed = true := by
  obtain ⟨g, hg⟩ := Option.isSome_iff_exists.1 h
  exact ⟨{ g with completed := true }, by rw [State.marked, Tab.get?_modify, if_pos rfl, hg]; rfl, rfl⟩

theorem SamePace.isSome_grid {s t : State} (h : SamePace s t) {n : Nat} (hs : (Tab.get? s.grids n).isSome = true) :
    (Tab.get? t.grids n).isSome = true := by
  have hc : (Tab.get? t.grids n).map (·.completed) = (Tab.get? s.grids n).map (·.completed) := by
    rw [← Tab.get?_completions, ← Tab.get?_completions, h.grids]
  rw [← Option.isSome_map (f := (·.completed)), hc, Option.isSome_map, hs]

/-- What holds of a grid that GRID_COMPLETE may mark. -/
structure Finished (s : State) (n : Nat) (g : Grid) : Prop where
  grid : Tab.get? s.grids n = some g
  isOpen : g.completed = false
  ended : g.ncl ≤ g.finished
  frozen : s.frozen g.ctx = false
  held : s.scopeHeld g.ctx = false
  performed : g.rel = true → s.gridPerformed n = true

/-- The walker that writes a grid's completion block. -/
def Grid.asker (g : Grid) : Asker := ⟨g.die, g.ctx, 2, 0x3FF, 0, false⟩

/-- The translation of a grid's completion block. -/
def State.probeDone (s : State) (g : Grid) : Probed := s.probe g.asker [⟨0, 0, g.donea, 16, .write⟩]

section
variable {s : State} {n : Nat} {g : Grid}

theorem Finished.goes (h : Finished s n g) :
    (g.completed || decide (g.finished < g.ncl) || s.frozen g.ctx || s.scopeHeld g.ctx || (g.rel && !s.gridPerformed n)) = false := by
  have hperf : (g.rel && !s.gridPerformed n) = false := by
    cases hr : g.rel with
    | false => rfl
    | true => rw [h.performed hr]; rfl
  rw [h.isOpen, h.frozen, h.held, hperf, decide_eq_false (Nat.not_lt.2 h.ended)]
  rfl

theorem Finished.exec_unasked (h : Finished s n g) (h0 : g.donea = 0) : exec (.gridComplete n) s = .next (s.marked n) := by
  have hexec : exec (.gridComplete n) s = execGridComplete n s := rfl
  rw [hexec, execGridComplete, h.grid]
  simp only
  rw [h.goes, if_neg Bool.false_ne_true, if_pos h0, State.marked]

theorem Finished.exec_asked (h : Finished s n g) (h0 : g.donea ≠ 0)
    (hparked : (Tab.read QueueState.init s.queue g.queue).parked = false) (hstop : (s.probeDone g).stop = false)
    (hwait : (s.probeDone g).wait = false) (hmiss : (s.probeDone g).misses = []) {u : State}
    (hready : (s.probeDone g).s.readyWrites g.asker (if (s.probeDone g).fault.isSome then [] else (s.probeDone g).places) = some u) :
    exec (.gridComplete n) s = .next ((u.complete g.asker (s.probeDone g) g.donea 0).marked n) := by
  have hexec : exec (.gridComplete n) s = execGridComplete n s := rfl
  have hgo : ((s.probeDone g).stop || (s.probeDone g).wait) = false := by rw [hstop, hwait]; rfl
  rw [hexec, execGridComplete, h.grid]
  simp only
  rw [h.goes, if_neg Bool.false_ne_true, if_neg h0, hparked, if_neg Bool.false_ne_true]
  rw [State.probeDone, Grid.asker] at hmiss hready hgo ⊢
  rw [hgo, if_neg Bool.false_ne_true, hmiss]
  simp only
  rw [hready, State.marked]

/-- GRID_COMPLETE of a grid that tells nobody. -/
theorem Finished.completes (h : Finished s n g) (h0 : g.donea = 0) : ∃ t, exec (.gridComplete n) s = .next t ∧
    (∃ g', Tab.get? t.grids n = some g' ∧ g'.completed = true) ∧ t.mem = s.mem :=
  ⟨_, h.exec_unasked h0, State.completed_marked (by rw [h.grid]; rfl), rfl⟩

end

theorem State.complete_marked {u : State} {n : Nat} {g : Grid} (hu : Tab.get? u.grids n = some g) (k : Asker) (p : Probed) :
    ∃ g', Tab.get? ((u.complete k p g.donea 0).marked n).grids n = some g' ∧ g'.completed = true :=
  State.completed_marked ((samePace_complete u k p g.donea 0).isSome_grid (by rw [hu]; rfl))

end Sys2Proof.Machine
end

section
/-! What translations that neither stop nor wait leave, and QUEUE_POLL, which reads the packet at RIDX and starts its grid
(obligation O54). -/

namespace Sys2Proof.Machine

/-! ### What a walk of the tables leaves (13 R338 to R340) -/

/-- The parts of a state that a walk of the tables changes beside the books. -/
structure WalkPart where
  books : Books
  mem : Memory
  dir : Tab (List Nat)
  cxlLines : Tab HostSt
  aliasBits : Tab (BitVec 3)
  tlb : List Tlb
  recalls : Tab Nat

def State.walkPart (s : State) : WalkPart := ⟨s.books, s.mem, s.dir, s.cxlLines, s.aliasBits, s.tlb, s.recalls⟩

def State.withWalk (s : State) (w : WalkPart) : State :=
  { s.withBooks w.books with
    mem := w.mem, dir := w.dir, cxlLines := w.cxlLines, aliasBits := w.aliasBits, tlb := w.tlb, recalls := w.recalls }

/-- `t` is `s` but for what a walk changes. -/
def OnlyWalk (s t : State) : Prop := ∃ w, t = s.withWalk w

theorem OnlyWalk.refl (s : State) : OnlyWalk s s := ⟨s.walkPart, rfl⟩

theorem OnlyWalk.trans {s t u : State} (h : OnlyWalk s t) (k : OnlyWalk t u) : OnlyWalk s u := by
  obtain ⟨w, rfl⟩ := h
  obtain ⟨x, rfl⟩ := k
  exact ⟨x, rfl⟩

theorem OnlyWalk.ite {s t u : State} {p : Prop} [Decidable p] (h : OnlyWalk s t) (k : OnlyWalk s u) : OnlyWalk s (if p then t else u) := by
  split
  · exact h
  · exact k

theorem OnlyWalk.foldl {γ : Type} {f : State → γ → State} (h : ∀ s x, OnlyWalk s (f s x)) (l : List γ) (s : State) :
    OnlyWalk s (l.foldl f s) := by
  induction l generalizing s with
  | nil => exact .refl s
  | cons x l ih => exact (h s x).trans (ih _)

theorem OnlyBooks.onlyWalk {s t : State} (h : OnlyBooks s t) : OnlyWalk s t := by
  obtain ⟨b, rfl⟩ := h
  exact ⟨{ s.walkPart with books := b }, rfl⟩

theorem onlyWalk_mem (s : State) (m : Memory) : OnlyWalk s { s with mem := m } := ⟨{ s.walkPart with mem := m }, rfl⟩
theorem onlyWalk_dir (s : State) (d : Tab (List Nat)) : OnlyWalk s { s with dir := d } := ⟨{ s.walkPart with dir := d }, rfl⟩
theorem onlyWalk_cxlLines (s : State) (l : Tab HostSt) : OnlyWalk s { s with cxlLines := l } := ⟨{ s.walkPart with cxlLines := l }, rfl⟩
theorem onlyWalk_aliasBits (s : State) (b : Tab (BitVec 3)) : OnlyWalk s { s with aliasBits := b } := ⟨{ s.walkPart with aliasBits := b }, rfl⟩
theorem onlyWalk_tlb (s : State) (t : List Tlb) : OnlyWalk s { s with tlb := t } := ⟨{ s.walkPart with tlb := t }, rfl⟩
theorem onlyWalk_ask (s : State) (write : Bool) (pa n : Nat) : OnlyWalk s (s.ask write pa n) := ⟨{ s.walkPart with recalls := _ }, rfl⟩

theorem onlyWalk_register (s : State) (sharer epa : Nat) : OnlyWalk s (s.register sharer epa) := .ite (.refl s) (onlyWalk_dir s _)

theorem onlyWalk_readEntry (s : State) (sharer epa : Nat) : OnlyWalk s (s.readEntry sharer epa) := by
  have hlearn := (onlyWalk_register s sharer epa).trans
    (onlyBooks_learn (s.register sharer epa) (min sharer 8) ((s.register sharer epa).clockAt epa 8)).onlyWalk
  exact .ite hlearn (hlearn.trans (onlyWalk_cxlLines _ _))

theorem onlyWalk_setEntry (s : State) (epa e : Nat) : OnlyWalk s (s.setEntry epa e) := by
  rw [State.setEntry, State.poke]
  exact ((OnlyWalk.ite (.refl s) (onlyWalk_cxlLines s _)).trans (onlyWalk_mem _ _)).trans (onlyBooks_markDirty _ epa).onlyWalk

theorem onlyWalk_alias1 (s : State) (c : Nat) (va : W64) (untrk : Bool) (f : Nat) : OnlyWalk s (s.alias1 c va untrk f) :=
  .ite (.refl s) (.ite ((onlyWalk_aliasBits s _).trans (onlyBooks_postSys _ _).onlyWalk) (onlyWalk_aliasBits s _))

theorem onlyWalk_addTlb (s : State) (t : Tlb) : OnlyWalk s (s.addTlb t) := by
  rw [State.addTlb]
  split
  · exact onlyWalk_tlb s _
  · split <;> exact onlyWalk_tlb s _

theorem onlyWalk_cacheLeaf (s : State) (die c : Nat) (va : W64) (lvl e epa : Nat) (ents : List Nat) :
    OnlyWalk s (s.cacheLeaf die c va lvl e epa ents).1 :=
  ((OnlyWalk.ite (.refl s) (onlyWalk_setEntry s _ _)).trans (.foldl (fun s f => onlyWalk_alias1 s _ _ _ f) _ _)).trans
    (onlyWalk_addTlb _ _)

/-- A translation that does not stop the context changes what a walk changes. -/
theorem onlyWalk_translate (s : State) (q : Asker) (va : W64) (k : AccKind) (h : (s.translate q va k).2 ≠ .stop) :
    OnlyWalk s (s.translate q va k).1 := by
  rw [State.translate] at h ⊢
  split
  · exact .refl s
  split
  · split <;> exact .refl s
  split
  · exact .refl s
  rename_i hroot _ hmiss hbusy
  simp only [if_neg hroot, hmiss, if_neg hbusy] at h ⊢
  have hread : OnlyWalk s ((s.walk q.die q.ctx va true).reads.foldl (fun s r => s.readEntry q.die r.2.1) s) :=
    .foldl (fun s r => onlyWalk_readEntry s _ _) _ _
  cases hfin : (s.walk q.die q.ctx va true).fin with
  | leaf lvl e epa =>
    simp only [hfin] at h ⊢
    split
    · rename_i f hf
      simp only [hf, ne_eq, not_true_eq_false] at h
    · split
      · exact hread.trans (onlyWalk_ask _ _ _ _)
      · exact hread.trans (onlyWalk_cacheLeaf _ _ _ _ _ _ _ _)
  | miss lvl e epa => exact hread
  | prot d => exact hread
  | foreign epa => simp only [hfin, ne_eq, not_true_eq_false] at h
  | poison epa => simp only [hfin, ne_eq, not_true_eq_false] at h
  | held epa => exact hread.trans (onlyWalk_ask _ _ _ _)

theorem onlyWalk_translateAll (s : State) (q : Asker) (accs : List Acc) (h : ∀ t ∈ (s.translateAll q accs).2, t.2 ≠ .stop) :
    OnlyWalk s (s.translateAll q accs).1 := by
  induction accs generalizing s with
  | nil => exact .refl s
  | cons a as ih =>
    exact (onlyWalk_translate s q a.va a.kind (h _ List.mem_cons_self)).trans (ih _ fun t ht => h t (List.mem_cons_of_mem _ ht))

/-- So do translations that neither stop nor wait. -/
theorem onlyWalk_probe {s : State} {q : Asker} {accs : List Acc} (hstop : (s.probe q accs).stop = false)
    (hwait : (s.probe q accs).wait = false) : OnlyWalk s (s.probe q accs).s := by
  unfold State.probe at hstop hwait ⊢
  split
  · exact .refl s
  · rename_i hcanon
    simp only [hcanon] at hstop hwait ⊢
    rw [if_neg (Bool.eq_false_iff.1 (Bool.or_eq_false_iff.1 hwait).2)]
    refine onlyWalk_translateAll s q accs fun t ht htr => ?_
    have := List.any_eq_false.1 hstop t ht
    simp [htr] at this

theorem State.probe_nil (s : State) (q : Asker) : s.probe q [] = ⟨s, none, [], false, false, []⟩ := rfl

/-! ### The slot at RIDX (10 R271) -/

theorem OnlyWalk.queue {s t : State} (h : OnlyWalk s t) : t.queue = s.queue := by
  obtain ⟨w, rfl⟩ := h
  rfl

theorem State.retryRidx_of_not_owed {s : State} {q : Nat} (h : (Tab.read QueueState.init s.queue q).owed = false) : s.retryRidx q = s := by
  unfold State.retryRidx
  simp only [h, Bool.false_and, Bool.false_eq_true, if_false]

theorem exec_queuePoll_of_none {s : State} {q : Nat} (h : (Tab.read QueueState.init s.queue q).poll = none) :
    exec (.queuePoll q) s = .next (s.serveQueue q) := by
  have hexec : exec (.queuePoll q) s = execQueuePoll q s := rfl
  rw [hexec, execQueuePoll, h]

/-- The read of the slot at RIDX. -/
def State.slotAcc (s : State) (q : Nat) : Acc :=
  ⟨0, 0, s.queueW q 2 + BitVec.ofNat 64 ((Tab.read QueueState.init s.queue q).ridx.toNat % 2 ^ ((s.queueW q 0).toNat % 32) * 64), 64, .read⟩

/-- An examination that reaches its slot serves it. -/
theorem State.serveQueue_of_place {s : State} {q : Nat} {slot : Placed} (howed : (Tab.read QueueState.init s.queue q).owed = false)
    (hex : s.examines q = true) (hstop : (s.probe (s.queueAsker q) [s.slotAcc q]).stop = false)
    (hwait : (s.probe (s.queueAsker q) [s.slotAcc q]).wait = false) (hfault : (s.probe (s.queueAsker q) [s.slotAcc q]).fault = none)
    (hmiss : (s.probe (s.queueAsker q) [s.slotAcc q]).misses = []) (hplace : (s.probe (s.queueAsker q) [s.slotAcc q]).places = [slot]) :
    s.serveQueue q = (s.probe (s.queueAsker q) [s.slotAcc q]).s.serveSlot q slot := by
  have hgo : ((s.probe (s.queueAsker q) [s.slotAcc q]).stop || (s.probe (s.queueAsker q) [s.slotAcc q]).wait) = false := by
    rw [hstop, hwait]; rfl
  unfold State.serveQueue
  simp only
  rw [State.retryRidx_of_not_owed howed, if_pos hex]
  rw [State.slotAcc] at hgo hfault hmiss hplace ⊢
  rw [hgo, if_neg Bool.false_ne_true, hfault, hmiss, hplace]

section
variable {s : State} {q : Nat} {slot : Placed}

/-- A slot of which nothing has been read and whose word 0 is not VALID is read again after 1 µs. -/
theorem State.serveSlot_invalid (hpacket : (Tab.read QueueState.init s.queue q).packet = []) (hclean : s.poisoned slot.pa 64 = false)
    (hvalid : pkW (s.homeRead slot.pa 8) 0 0 1 = 0) : s.serveSlot q slot =
      (s.learnFrom (s.queueAsker q).die [slot]).modQueue q fun x => { x with slotFail := false, poll := some (s.gtime + 1000) } := by
  unfold State.serveSlot
  simp only
  rw [hpacket, if_neg (by decide), hclean, if_neg Bool.false_ne_true, if_neg (by decide), if_pos hvalid]

/-- A packet of which nothing has been read is read whole. -/
theorem State.serveSlot_valid (hpacket : (Tab.read QueueState.init s.queue q).packet = []) (hclean : s.poisoned slot.pa 64 = false)
    (hvalid : pkW (s.homeRead slot.pa 8) 0 0 1 = 1) : s.serveSlot q slot =
      (s.keepPacket q slot (s.homeRead slot.pa 8) (s.clockAt slot.pa 8)).readPacket q slot (s.homeRead slot.pa 8) := by
  unfold State.serveSlot
  simp only
  rw [hpacket, if_neg (by decide), hclean, if_neg Bool.false_ne_true, if_neg (by decide), if_neg (by rw [hvalid]; decide)]

/-- Keeping a packet leaves the queues' registers. -/
theorem State.queueAsker_keepPacket (s : State) (q : Nat) (slot : Placed) (b : List Byte) (head : List Nat) (k : Nat) :
    (s.keepPacket q slot b head).queueAsker k = s.queueAsker k := by
  obtain ⟨x, hx⟩ := onlyBooks_learn s (s.queueAsker q).die ([slot].foldl (fun c p => joinClock c (s.clockAt p.pa p.acc.size)) [])
  rw [State.keepPacket, State.learnFrom, hx]
  rfl

theorem State.readPacket_of_ready {h : List Byte} (hwait : s.waitsAt (s.queueAsker q).die false slot = false) :
    s.readPacket q slot h = (s.keepPacket q slot (h ++ (s.homeRead slot.pa 64).drop 8)
      (Tab.read QueueState.init s.queue q).headClock).servePacket q slot (h ++ (s.homeRead slot.pa 64).drop 8) := by
  unfold State.readPacket
  simp only
  rw [hwait, if_neg Bool.false_ne_true]

/-- The grid of a consumed packet that passed its checks. -/
theorem State.consumePacket_starts (s : State) (q : Nat) (slot : Placed) (b : List Byte) (l : Loaded) (pr pd : Probed) :
    ∃ k g, Tab.get? (s.consumePacket q slot b l 0 pr pd).grids k = some g ∧ ∃ a image win quota acq,
      g = packetGrid a q b l.kernel l.table image win quota acq :=
  ⟨_, _, Tab.get?_set_self _ _ _, _, _, _, _, _, rfl⟩

/-- What consuming a legal packet will write. -/
def State.storeRidxProbe (s : State) (q : Nat) (b : List Byte) : Probed :=
  (s.launchChecks q b).s.probe (s.queueAsker q) [⟨0, 0, s.queueW q 3, 8, .write⟩]

/-- A legal packet whose writes are ready is consumed. -/
theorem State.servePacket_of_legal {b : List Byte} (hlast : pkW b 0 3 1 = 0 ∨ s.openGrids q = [])
    (hstatus : (s.launchChecks q b).v = .status 0) (hstop : (s.storeRidxProbe q b).stop = false) (hwait : (s.storeRidxProbe q b).wait = false)
    (hmiss : (s.storeRidxProbe q b).misses = []) {u : State}
    (hready : (s.storeRidxProbe q b).s.readyWrites (s.queueAsker q)
      (slot :: if (s.storeRidxProbe q b).fault.isSome then [] else (s.storeRidxProbe q b).places) = some u) :
    ∃ pd, s.servePacket q slot b = u.consumePacket q slot b (s.launchChecks q b) 0 (s.storeRidxProbe q b) pd := by
  have hfirst : ¬ (pkW b 0 3 1 = 1 ∧ (s.openGrids q).isEmpty = false) := by
    rintro ⟨h1, h2⟩
    rcases hlast with h | h
    · omega
    · rw [h] at h2; cases h2
  have hgo : ((s.storeRidxProbe q b).stop || false || (s.storeRidxProbe q b).wait || false) = false := by rw [hstop, hwait]; rfl
  refine ⟨(s.storeRidxProbe q b).s.probe (s.queueAsker q) [], ?_⟩
  unfold State.servePacket
  simp only
  rw [if_neg hfirst, hstatus]
  rw [State.storeRidxProbe] at hgo hmiss hready ⊢
  simp only [true_or, if_true, State.probe_nil]
  rw [hgo, if_neg Bool.false_ne_true, hmiss]
  simp only [State.openMiss, List.append_nil, List.find?_nil, Option.isSome_none]
  simp only [Bool.false_eq_true, if_false, List.append_nil]
  rw [hready]

end

end Sys2Proof.Machine
end

section
/-! What the scheduler's events do (obligation O54). -/

namespace Sys2Proof.Machine

/-- QUEUE_POLL that reaches a slot of which nothing has been read. -/
theorem exec_queuePoll_of_place {s : State} {q : Nat} {slot : Placed} (hpoll : (Tab.read QueueState.init s.queue q).poll = none)
    (howed : (Tab.read QueueState.init s.queue q).owed = false) (hex : s.examines q = true)
    (hstop : (s.probe (s.queueAsker q) [s.slotAcc q]).stop = false) (hwait : (s.probe (s.queueAsker q) [s.slotAcc q]).wait = false)
    (hfault : (s.probe (s.queueAsker q) [s.slotAcc q]).fault = none) (hmiss : (s.probe (s.queueAsker q) [s.slotAcc q]).misses = [])
    (hplace : (s.probe (s.queueAsker q) [s.slotAcc q]).places = [slot]) :
    exec (.queuePoll q) s = .next ((s.probe (s.queueAsker q) [s.slotAcc q]).s.serveSlot q slot) ∧
      (s.probe (s.queueAsker q) [s.slotAcc q]).s.queue = s.queue := by
  rw [exec_queuePoll_of_none hpoll, State.serveQueue_of_place howed hex hstop hwait hfault hmiss hplace]
  exact ⟨rfl, (onlyWalk_probe hstop hwait).queue⟩

/-- A legal packet read from its slot starts its grid. -/
theorem State.serveSlot_starts {u : State} {q : Nat} {slot : Placed} (hpacket : (Tab.read QueueState.init u.queue q).packet = [])
    (hclean : u.poisoned slot.pa 64 = false) (hvalid : pkW (u.homeRead slot.pa 8) 0 0 1 = 1)
    (hready : (u.keepPacket q slot (u.homeRead slot.pa 8) (u.clockAt slot.pa 8)).waitsAt (u.queueAsker q).die false slot = false)
    {v y : State} {b : List Byte} (hv : v = u.keepPacket q slot (u.homeRead slot.pa 8) (u.clockAt slot.pa 8))
    (hb : b = u.homeRead slot.pa 8 ++ (v.homeRead slot.pa 64).drop 8)
    (hy : y = v.keepPacket q slot b (Tab.read QueueState.init v.queue q).headClock)
    (hlast : pkW b 0 3 1 = 0 ∨ y.openGrids q = []) (hstatus : (y.launchChecks q b).v = .status 0)
    (hstop : (y.storeRidxProbe q b).stop = false) (hwait : (y.storeRidxProbe q b).wait = false)
    (hmiss : (y.storeRidxProbe q b).misses = [])
    (hwrites : ((y.storeRidxProbe q b).s.readyWrites (y.queueAsker q)
      (slot :: if (y.storeRidxProbe q b).fault.isSome then [] else (y.storeRidxProbe q b).places)).isSome = true) :
    ∃ k g, Tab.get? (u.serveSlot q slot).grids k = some g ∧ ∃ a image win quota acq,
      g = packetGrid a q b (y.launchChecks q b).kernel (y.launchChecks q b).table image win quota acq := by
  obtain ⟨w, hw⟩ := Option.isSome_iff_exists.1 hwrites
  obtain ⟨pd, hpd⟩ := State.servePacket_of_legal hlast hstatus hstop hwait hmiss hw
  rw [← hv] at hready
  have hread : u.serveSlot q slot = y.servePacket q slot b := by
    rw [State.serveSlot_valid hpacket hclean hvalid, ← hv, State.readPacket_of_ready, ← hb, ← hy]
    rw [hv, State.queueAsker_keepPacket, ← hv]
    exact hready
  rw [hread, hpd]
  exact State.consumePacket_starts _ _ _ _ _ _ _

/-- Settles O54: each event by what it does to the state that it finds. -/
theorem schedulingEventsComplete : Obligations.SchedulingEventsComplete := by
  unfold Obligations.SchedulingEventsComplete
  refine ⟨fun s h => ?_, fun s core n c hcur hruns hslots h => ?_, fun s k g r hg hw hres hr => clusterPlacement_starts hg hw hres hr,
    fun s k g hg hw hfit => preemption_takes hg hw hfit, ?_, ?_, ?_, ?_, ?_, ?_, fun _ _ _ => rfl⟩
  · obtain ⟨hcycle, hslots, hgtime⟩ := State.tick_clocks h
    exact ⟨s.tick, rfl, hcycle, hslots, hgtime, State.tick_share h, State.tick_cover h⟩
  · exact ⟨State.select_first hslots h, execIssueSelect_of_select hcur hruns hslots h⟩
  · intro s s' u x c g ps hx hc hg hphase hspilled hfrozen hable hquiet hwanted ts saved hok hps
    obtain ⟨bad, hspill⟩ := State.spillCluster_of_ok hc hg hok hps
    refine ⟨_, exec_spill_of_wanted hx hc hphase hspilled hfrozen hable hquiet hwanted, ?_, fun y hy z hz => ?_⟩
    · rw [hspill]
      exact State.mem_markBytes _ _ _
    · rw [hspill] at hz
      exact State.team_sentAway hy hz
  · intro s c x g cores r hx hg hfirst hhigh hon put
    have hexec := exec_resumeC_of_first hx hg hfirst hhigh hon
    refine ⟨fun hphase => ?_, fun hphase hpend => resume_of_preempted hx hpend hphase hexec⟩
    rw [hexec, hphase]
    rfl
  · exact fun s q v => ⟨rfl, fun x hx => State.notify_max hx v⟩
  · intro s q slot hpoll howed hex x p hstop hwait hfault hmiss hplace u d h hpacket hclean
    obtain ⟨(hexec : exec (.queuePoll q) s = .next (u.serveSlot q slot)), (hqueue : u.queue = s.queue)⟩ :=
      exec_queuePoll_of_place hpoll howed hex hstop hwait hfault hmiss hplace
    have hfresh : (Tab.read QueueState.init u.queue q).packet = [] := by rw [hqueue]; exact hpacket
    refine ⟨fun hvalid => ?_, fun hvalid => ?_⟩
    · rw [hexec, State.serveSlot_invalid hfresh hclean hvalid]
    · intro v hready b y hlast l pr hstatus hstop' hwait' hmiss' hwrites
      obtain ⟨k, g, hg, a, image, win, quota, acq, rfl⟩ := State.serveSlot_starts hfresh hclean hvalid hready rfl rfl rfl hlast hstatus
        hstop' hwait' hmiss' hwrites
      exact ⟨_, k, _, hexec, hg, rfl, rfl, rfl, rfl, rfl, rfl, rfl⟩
  · intro s n g hg hopen hended hfrozen hheld hperf done
    have hfin : Finished s n g := ⟨hg, hopen, hended, hfrozen, hheld, hperf⟩
    refine ⟨fun h0 => hfin.completes h0, fun h0 hparked => ?_⟩
    intro k p hstop hwait hmiss u hready hu
    exact ⟨_, hfin.exec_asked h0 hparked hstop hwait hmiss hready, State.complete_marked hu _ _, rfl⟩
  · intro s gid g hg hwatch hinh hpend hended hon
    exact watchEngineTrap_takes hg hwatch hinh hpend hended hon

end Sys2Proof.Machine
end
